-- ==== Sys2Proof/Word.lean ====
section
/-!
DEFINITION. The word types of the Cyrek 9400 manual: a byte, and the widths its registers and fields name.
-/
namespace Sys2Proof

/-- One byte of device, host or stake memory (R12). -/
abbrev Byte := BitVec 8
/-- A 16-bit field. -/
abbrev B16 := BitVec 16
/-- A 32-bit register or field. -/
abbrev B32 := BitVec 32
/-- A 64-bit register or field. -/
abbrev B64 := BitVec 64
/-- A 128-bit descriptor, echo or digest. -/
abbrev B128 := BitVec 128
/-- A 256-bit entry, hallmark or key. -/
abbrev B256 := BitVec 256
/-- A 56-bit device virtual address (R345). -/
abbrev Addr := BitVec 56
/-- An FP32 value, as its 32 bits (R149). -/
abbrev F32 := BitVec 32

/-- A partition, which is also the number of its PCIe function (R596). -/
abbrev Part := Fin 4
/-- A stream of a partition: 0 FWD, 1 BWD, 2 UPD, 3 SVC (R194). -/
abbrev Strm := Fin 4
/-- A quarter, Q0 to Q3 (R87). -/
abbrev Qtr := Fin 4
/-- A Vesin port, V0 to V7 (R487). -/
abbrev Port := Fin 8

end Sys2Proof
end

