-- ==== Sys2Proof/Syntax.lean ====
section
/-!
DEFINITION. The commands of the block: one constructor of `Instr` for each row of spec/opcode_table.json.
A docstring begins with the row's mnemonic and the rule the table names.
An operand is a field of the command packet, bench word, plate instruction, message or record that the row stands
for, or what the environment supplies with the event (a sensor's reading, the bytes a host buffer holds).
-/
namespace Sys2Proof

/-- What every host command carries besides its parameters (R622): the function it was written to, and its header
fields. `rsvd` says that some reserved parameter bit, or a byte beyond the parameter string, is not zero (R623, R631). -/
structure CmdHdr where
  fn        : Part
  partition : BitVec 8 := 0
  tag       : B16 := 0
  seq       : B32 := 0
  flags     : B16 := 0
  rsvd      : Bool := false
  deriving DecidableEq, Repr

/-- What every bench operation carries besides its operand (R201): the stream whose head it is, and the common fields.
`rsvd` says that a reserved bit of the operand is not zero (R203). -/
structure BenchHdr where
  p      : Part
  st     : Strm
  prio   : BitVec 2 := 0
  outTag : BitVec 6 := 0
  in0    : BitVec 6 := 0
  in1    : BitVec 6 := 0
  in2    : BitVec 6 := 0
  rsvd   : Bool := false
  deriving DecidableEq, Repr

/-- What every plate instruction carries besides its fields (R243): the partition and plate whose running instance
executes it. `rsvd` says that a reserved bit is not zero (R245). -/
structure PlateHdr where
  p     : Part
  plate : Fin 256
  rsvd  : Bool := false
  deriving DecidableEq, Repr

/-- The header of a received message (R507): the port it arrived on, its source, destination and number. -/
structure MsgHdr where
  port : Port
  src  : BitVec 6
  dst  : BitVec 6
  seq  : B64
  deriving DecidableEq, Repr

/-- A request raised at an arbiter, or dropped while it waits: source, master id and port cycle (R463, R467, R471). -/
structure ArbEvent where
  drop   : Bool := false
  source : BitVec 4
  master : Byte
  cycle  : Nat
  deriving DecidableEq, Repr

/-- What has happened at an arbiter since the last decision (R467, R469): requests raised and dropped, in order, the granules
that the owner has moved since, and whether it has work left. -/
structure ArbPast where
  events : List ArbEvent := []
  moved  : Nat := 0
  work   : Bool := false
  deriving DecidableEq, Repr

/-- A request of a guest die at the firewall (R697). -/
inductive GuestReq where
  | read (addr : Addr) (bytes : Nat)
  | write (addr : Addr) (data : List Byte)
  | fxAdd (addr : Addr) (value : B64)
  | signal (stitch : B16) (value : B32)
  | wait (stitch : B16) (threshold : B32)
  | lock (stitch : B16)
  | unlock (stitch : B16) (epoch : Byte)
  | stitchRead (stitch : B16)
  | malformed
  deriving DecidableEq, Repr

/-- Why a spine-quarter link retrains (R672). -/
inductive D2dCause where
  | laneLock (group : Fin 8)
  | replays (group : Fin 8)
  | controllerReset
  | service
  deriving DecidableEq, Repr

/-- What the hardware found when the main rails came up and start stage 3 ran (R709, R727, R728). -/
structure StartReport where
  badRail  : Option (Fin 24) := none
  hbmOk    : Bool := true
  bulkOk   : Bool := true
  flashOk  : Bool := true
  quarters : BitVec 4 := 0xF
  guests   : BitVec 2 := 0x3
  deriving DecidableEq, Repr

/-- The readings that PLDM sensors take (R751): temperatures in 0.0625 °C. -/
structure SensorReadings where
  pinW   : B16
  vinMv  : B16
  hbm    : B16
  spine  : B16
  optics : B16
  deriving DecidableEq, Repr

/-- What a medium met in a read (R384, R385, R396): nothing, an error that read-retry corrected, or an uncorrectable error. -/
inductive Media where
  | good | retried | uncorrectable
  deriving DecidableEq, Repr

/-- The commands of the block, one constructor for each row of the table. -/
inductive Instr where
  /-- DEV_INFO (R640) -/
  | devInfo (h : CmdHdr)
  /-- PART_OPEN (R606) -/
  | partOpen (h : CmdHdr) (ring : B64) (n : Byte) (options : Byte)
  /-- PART_CLOSE (R640) -/
  | partClose (h : CmdHdr)
  /-- PART_RESET (R612) -/
  | partReset (h : CmdHdr)
  /-- DEV_RESET (R613) -/
  | devReset (h : CmdHdr)
  /-- SET_QUOTA (R640) -/
  | setQuota (h : CmdHdr) (part : Byte) (hbm bulk : B32) (stakeBase stakeLimit stitchBase stitchCount : Byte)
  /-- TIMESHARE (R615) -/
  | timeshare (h : CmdHdr) (enable owner : Byte) (q0 q1 q2 q3 : B32)
  /-- QUARTER_SERVICE (R686) -/
  | quarterService (h : CmdHdr) (quarter : Byte)
  /-- TIMER_FEATURE (R651) -/
  | timerFeature (h : CmdHdr) (feature enable action : Byte) (period : B32) (addr : B64)
  /-- OBJ_CREATE (R355) -/
  | objCreate (h : CmdHdr) (sheets : B64) (policy : B128) (option : Byte) (block : B256)
  /-- OBJ_DESTROY (R641) -/
  | objDestroy (h : CmdHdr) (handle : B32)
  /-- SET_POLICY (R360) -/
  | setPolicy (h : CmdHdr) (handle : B32) (policy : B128)
  /-- SHEET_QUERY (R398) -/
  | sheetQuery (h : CmdHdr) (handle count : B32) (first addr : B64)
  /-- REGION_FORMAT (R379) -/
  | regionFormat (h : CmdHdr) (region mode owner refresh start count : Byte)
  /-- REGION_QUERY (R641) -/
  | regionQuery (h : CmdHdr) (region : Byte) (addr : B64)
  /-- BUF_RESET (R266) -/
  | bufReset (h : CmdHdr) (handle : B32) (step expect : B64)
  /-- EXPORT_SET (R581) -/
  | exportSet (h : CmdHdr) (ident : B16) (handle : B32)
  /-- HOST_DMA (R641); `data` is what the host buffer holds, for direction 1 -/
  | hostDma (h : CmdHdr) (dir : Byte) (dev host bytes : B64) (data : List Byte)
  /-- OBJ_LIST (R641) -/
  | objList (h : CmdHdr) (addr : B64) (max : B32)
  /-- STREAM_START (R644) -/
  | streamStart (h : CmdHdr) (stream : Byte) (addr : B64)
  /-- STREAM_RESUME (R644) -/
  | streamResume (h : CmdHdr) (stream skip : Byte)
  /-- STREAM_RESET (R644) -/
  | streamReset (h : CmdHdr) (stream : Byte)
  /-- PROG_LOAD (R240) -/
  | progLoad (h : CmdHdr) (first count : B16) (addr : B64)
  /-- SEED_SET (R644) -/
  | seedSet (h : CmdHdr) (first count : Byte) (seeds : List B64)
  /-- CTX_BASE (R621) -/
  | ctxBase (h : CmdHdr) (addr : B64)
  /-- ST_SET (R644) -/
  | stSet (h : CmdHdr) (idx : B16) (remote : Byte) (count : B32)
  /-- ST_REPAIR (R454) -/
  | stRepair (h : CmdHdr) (idx : B16)
  /-- ST_LOCK_CMD (R447) -/
  | stLockCmd (h : CmdHdr) (idx : B16)
  /-- ST_UNLOCK_CMD (R448) -/
  | stUnlockCmd (h : CmdHdr) (idx : B16) (epoch : Byte)
  /-- ST_SIGNAL_CMD (R444) -/
  | stSignalCmd (h : CmdHdr) (idx : B16) (value : B32)
  /-- ST_READ_CMD (R444) -/
  | stReadCmd (h : CmdHdr) (idx : B16)
  /-- ST_EXPORT (R442) -/
  | stExport (h : CmdHdr) (importer window : Byte) (first count : B16) (ops : Byte)
  /-- CAD_ADVANCE (R62) -/
  | cadAdvance (h : CmdHdr) (pos : B64)
  /-- EVT_WRITE (R71) -/
  | evtWrite (h : CmdHdr) (idx : B16) (entry : B256)
  /-- EVT_CLEAR (R71) -/
  | evtClear (h : CmdHdr) (idx : B16)
  /-- EVT_READ (R645) -/
  | evtRead (h : CmdHdr) (first count : B16) (addr : B64)
  /-- TIME_SET (R81) -/
  | timeSet (h : CmdHdr) (mode : Byte) (time : B64)
  /-- CAD_IO_CFG (R84) -/
  | cadIoCfg (h : CmdHdr) (func part : Byte)
  /-- CKPT_RESTORE (R555); the object list is read from device memory at `list` -/
  | ckptRestore (h : CmdHdr) (set : B32) (slot : Byte) (list : B64) (count : B16)
  /-- FILL (R582) -/
  | fill (h : CmdHdr) (dest : B32) (ident : B16) (source : Byte)
  /-- FILL_DONE (R586) -/
  | fillDone (h : CmdHdr)
  /-- FILL_CANCEL (R577) -/
  | fillCancel (h : CmdHdr)
  /-- RES_CFG (R646) -/
  | resCfg (h : CmdHdr) (armEn autoRollback snapClaim : Byte) (wait : B16)
  /-- RB_SET (R646) -/
  | rbSet (h : CmdHdr) (set : B32) (list : B64)
  /-- ROLLBACK (R576) -/
  | rollback (h : CmdHdr)
  /-- REMOVE (R571) -/
  | remove (h : CmdHdr) (pos : Byte)
  /-- HOLD (R574) -/
  | hold (h : CmdHdr) (set : Byte)
  /-- GROUP_SET (R648) -/
  | groupSet (h : CmdHdr) (folio : B32) (pos : Byte) (masks : List Byte)
  /-- GROUP_LEAVE (R571) -/
  | groupLeave (h : CmdHdr)
  /-- MAP_SET (R522) -/
  | mapSet (h : CmdHdr) (first count : Byte) (masks : List Byte)
  /-- PORT_CFG (R647) -/
  | portCfg (h : CmdHdr) (enable : Byte) (linkHold : B16)
  /-- PORT_RETRAIN (R532) -/
  | portRetrain (h : CmdHdr) (mask : Byte)
  /-- KEY_SWITCH (R506) -/
  | keySwitch (h : CmdHdr)
  /-- KEY_INSTALL (R747); `blob` is what the host buffer holds -/
  | keyInstall (h : CmdHdr) (kind ident : Byte) (addr : B64) (length : B32) (blob : List Byte)
  /-- ACL_SET (R483) -/
  | aclSet (h : CmdHdr) (first last master row : Byte)
  /-- FW_STAGE (R737); `data` is what the host buffer holds -/
  | fwStage (h : CmdHdr) (offset length : B32) (addr : B64) (data : List Byte)
  /-- FW_ACTIVATE (R738) -/
  | fwActivate (h : CmdHdr)
  /-- CONFIG_RECORD (R726); `data` is what the host buffer holds -/
  | configRecord (h : CmdHdr) (addr : B64) (length : B32) (data : List Byte)
  /-- PUNCH_LOAD (R425); `image` is what the host buffer holds -/
  | punchLoad (h : CmdHdr) (slot gen : Byte) (addr : B64) (image : List Byte)
  /-- PUNCH_RETIRE (R427) -/
  | punchRetire (h : CmdHdr) (slot : Byte)
  /-- PACK (R413) -/
  | pack (h : CmdHdr) (src dst : B32) (mask stitch : B16)
  /-- UNPACK (R416) -/
  | unpack (h : CmdHdr) (src dst : B32) (stitch : B16)
  /-- PING (R649) -/
  | ping (h : CmdHdr) (echo : B128)
  /-- REG_SNAPSHOT (R649) -/
  | regSnapshot (h : CmdHdr) (addr : B64)
  /-- JOURNAL_MARK (R649) -/
  | journalMark (h : CmdHdr) (text : B128)
  /-- CRASH_CLEAR (R649) -/
  | crashClear (h : CmdHdr)
  /-- LONG_COMMAND_DONE (R630): long command `i` of partition `p`; `ok` says that the hardware steps it needs succeeded -/
  | longCommandDone (p : Part) (i : Fin 16) (ok : Bool)
  /-- COMMAND_SEAL (R626): the packet in a slot, seal word included; `data` is what the buffer it names holds -/
  | commandSeal (fn : Part) (slot : Fin 64) (packet : List Byte) (data : List Byte)
  /-- HST_REPLY_HEAD (R635) -/
  | hstReplyHead (p : Part) (value : B32)
  /-- HST_RESET_PARTITION (R661) -/
  | hstResetPartition (p : Part)
  /-- HST_RESET_DEVICE (R661) -/
  | hstResetDevice (p : Part)
  /-- HST_RESET_POWER_DOWN (R661) -/
  | hstResetPowerDown (p : Part)
  /-- HST_HEARTBEAT (R654) -/
  | hstHeartbeat (p : Part)
  /-- ARB_MAP (R472): a write of `size` bytes to the map or, with `shadow`, to the shadow offset of arbiter `a` -/
  | arbMap (fn : Part) (a : Fin 60) (shadow : Bool) (size : Nat) (value : B64)
  /-- ARB_CTRL (R475) -/
  | arbCtrl (fn : Part) (a : Fin 60) (value : B32)
  /-- ARB_COMMIT (R474) -/
  | arbCommit (fn : Part) (value : B32)
  /-- REGISTER_WRITE (R15): a BAR0 write of `size` bytes at `offset` -/
  | registerWrite (fn : Part) (offset : BitVec 26) (size : Nat) (value : B64)
  /-- REGISTER_READ_CLEAR (R15): a BAR0 read of `size` bytes at `offset` -/
  | registerReadClear (fn : Part) (offset : BitVec 26) (size : Nat)
  /-- CAD_POS_HALF_READ (R86): a 4-byte read of the low or high half of CAD_POS or, with `time`, CAD_TIME -/
  | cadPosHalfRead (fn : Part) (time high : Bool)
  /-- BAR2_READ (R603); `media` is what the medium met -/
  | bar2Read (fn : Part) (offset : BitVec 39) (bytes : Nat) (media : Media)
  /-- BAR2_WRITE (R603); `blockFailed` says that a flash block failed to program or erase on the way -/
  | bar2Write (fn : Part) (offset : BitVec 39) (data : List Byte) (blockFailed : Bool)
  /-- CONFIG_REQUEST (R661): a configuration read or, with `bar2Log`, a write that sets BAR2 to 2^bar2Log bytes -/
  | configRequest (fn : Part) (bar2Log : Option (BitVec 6))
  /-- PCIE_LINK_UP (R594): `partner64` says that the link partner supports 64 GT/s -/
  | pcieLinkUp (link : Fin 4) (partner64 : Bool) (lanes : BitVec 5)
  /-- FUNCTION_LEVEL_RESET (R608) -/
  | functionLevelReset (fn : Part)
  /-- LINK_LOSS (R608): a fundamental reset of the link, or its loss -/
  | linkLoss (link : Fin 4) (fundamental : Bool)
  /-- NOP (R202) -/
  | nop (b : BenchHdr)
  /-- END (R195) -/
  | endOp (b : BenchHdr)
  /-- JUMP (R208) -/
  | jump (b : BenchHdr) (count : BitVec 14) (target : Addr)
  /-- FENCE (R198) -/
  | fence (b : BenchHdr)
  /-- ARRAY (R218) -/
  | array (b : BenchHdr) (desc : Addr)
  /-- ARRAY_QUEUE_HEAD (R109) -/
  | arrayQueueHead
  /-- TILE_DRAIN (R112) -/
  | tileDrain (q : Qtr)
  /-- ARRAY_COMPLETE (R130): `stall` is the cycles the operation lost beyond its padding -/
  | arrayComplete (stall : B32)
  /-- ARRAY_QUANTUM_EXPIRY (R618) -/
  | arrayQuantumExpiry
  /-- CONTEXT_SWITCH (R132): `step` is the reduction step of the switch point; 0 is an operation or tile boundary -/
  | contextSwitch (step : BitVec 24)
  /-- CONTEXT_COPY (R138) -/
  | contextCopy (p : Part) (inbound : Bool)
  /-- VRUN (R241) -/
  | vrun (b : BenchHdr) (first last : Byte) (entry : BitVec 11) (seed : BitVec 6) (launch : Addr)
  /-- COPY (R228) -/
  | copy (b : BenchHdr) (src dst : BitVec 40) (pos : BitVec 6) (countM1 : Byte)
  /-- COPY_ROUTED (R229) -/
  | copyRouted (b : BenchHdr) (role : BitVec 2) (desc : Addr)
  /-- COPY_ADD (R228) -/
  | copyAdd (b : BenchHdr) (src dst : BitVec 40) (pos : BitVec 6) (countM1 : Byte)
  /-- LADLE_START (R231) -/
  | ladleStart
  /-- COPY_COMPLETE (R202): the copy of partition `p` with number `ident` -/
  | copyComplete (p : Part) (ident : Nat)
  /-- ST_SIGNAL (R444) -/
  | stSignal (b : BenchHdr) (pos : BitVec 6) (stitch : B16) (epoch : Byte) (arg : Addr)
  /-- ST_WAIT (R234) -/
  | stWait (b : BenchHdr) (pos : BitVec 6) (stitch : B16) (epoch : Byte) (arg : Addr)
  /-- ST_LOCK (R446) -/
  | stLock (b : BenchHdr) (pos : BitVec 6) (stitch : B16) (epoch : Byte) (arg : Addr)
  /-- ST_UNLOCK (R448) -/
  | stUnlock (b : BenchHdr) (pos : BitVec 6) (stitch : B16) (epoch : Byte) (arg : Addr)
  /-- ST_READ (R444) -/
  | stRead (b : BenchHdr) (pos : BitVec 6) (stitch : B16) (epoch : Byte) (arg : Addr)
  /-- STITCH_WAIT_REGISTER (R445): a wait for `threshold`, or a lock, that has become its stream's head -/
  | stitchWaitRegister (b : BenchHdr) (lock : Bool) (stitch : B16) (threshold : B32)
  /-- CAD_MARK (R235) -/
  | cadMark (b : BenchHdr) (pos : B64)
  /-- POS_DRAW (R236) -/
  | posDraw (b : BenchHdr) (pos : B64)
  /-- VETO (R282) -/
  | veto (b : BenchHdr) (record : Addr)
  /-- BUFFER_CLOSE (R283) -/
  | bufferClose (p : Part) (handle : B32)
  /-- PLANISH (R313) -/
  | planish (b : BenchHdr) (record : Addr)
  /-- APPLY (R319) -/
  | apply (p : Part)
  /-- BUF_RESET_JOB (R312) -/
  | bufResetJob (p : Part)
  /-- DERIVE (R302) -/
  | derive (p : Part)
  /-- PLANISHER_UNIT (R315) -/
  | planisherUnit (p : Part)
  /-- PLANISHER_UNIT_WRITTEN (R331) -/
  | planisherUnitWritten (p : Part)
  /-- DELIVERY_RERUN (R338) -/
  | deliveryRerun (p : Part)
  /-- CONTRIBUTION_ADMISSION (R271): the waiting contribution at place `i` reaches its sheet -/
  | contributionAdmission (i : Nat)
  /-- PLATE_NOP (R244) -/
  | plateNop (h : PlateHdr)
  /-- HALT (R244) -/
  | halt (h : PlateHdr)
  /-- LOOPC (R244) -/
  | loopc (h : PlateHdr) (target : BitVec 5) (imm : B32)
  /-- SETC (R244) -/
  | setc (h : PlateHdr) (target : BitVec 5) (imm : B32)
  /-- SETP (R244) -/
  | setp (h : PlateHdr) (target : BitVec 5) (imm : B32)
  /-- ADDP (R244) -/
  | addp (h : PlateHdr) (target : BitVec 5) (imm : B32)
  /-- MOVI (R244) -/
  | movi (h : PlateHdr) (target : BitVec 5) (imm : B32)
  /-- LD (R244) -/
  | ld (h : PlateHdr) (v : BitVec 5) (pr : BitVec 3) (fmt : BitVec 5) (rnd : BitVec 2) (off : BitVec 24)
  /-- ST (R244) -/
  | st (h : PlateHdr) (v : BitVec 5) (pr : BitVec 3) (fmt : BitVec 5) (rnd : BitVec 2) (off : BitVec 24)
  /-- LDB (R244) -/
  | ldb (h : PlateHdr) (v : BitVec 5) (pr : BitVec 3) (fmt : BitVec 5) (rnd : BitVec 2) (off : BitVec 24)
  /-- LDBIT (R244) -/
  | ldbit (h : PlateHdr) (v : BitVec 5) (pr : BitVec 3) (fmt : BitVec 5) (rnd : BitVec 2) (off : BitVec 24)
  /-- STBIT (R259) -/
  | stbit (h : PlateHdr) (v : BitVec 5) (pr : BitVec 3) (fmt : BitVec 5) (rnd : BitVec 2) (off : BitVec 24)
  /-- FXADD (R244) -/
  | fxadd (h : PlateHdr) (v : BitVec 5) (pr : BitVec 3) (fmt : BitVec 5) (rnd : BitVec 2) (off : BitVec 24)
  /-- LDX (R244) -/
  | ldx (h : PlateHdr) (v : BitVec 5) (pr : BitVec 3) (fmt : BitVec 5) (rnd : BitVec 2) (off : BitVec 24)
  /-- FADD (R244) -/
  | fadd (h : PlateHdr) (d s1 s2 s3 : BitVec 5) (rnd : BitVec 2)
  /-- FSUB (R244) -/
  | fsub (h : PlateHdr) (d s1 s2 s3 : BitVec 5) (rnd : BitVec 2)
  /-- FMUL (R244) -/
  | fmul (h : PlateHdr) (d s1 s2 s3 : BitVec 5) (rnd : BitVec 2)
  /-- FFMA (R244) -/
  | ffma (h : PlateHdr) (d s1 s2 s3 : BitVec 5) (rnd : BitVec 2)
  /-- FDIV (R244) -/
  | fdiv (h : PlateHdr) (d s1 s2 s3 : BitVec 5) (rnd : BitVec 2)
  /-- FSQRT (R244) -/
  | fsqrt (h : PlateHdr) (d s1 s2 s3 : BitVec 5) (rnd : BitVec 2)
  /-- FMAX (R244) -/
  | fmax (h : PlateHdr) (d s1 s2 s3 : BitVec 5) (rnd : BitVec 2)
  /-- FMIN (R244) -/
  | fmin (h : PlateHdr) (d s1 s2 s3 : BitVec 5) (rnd : BitVec 2)
  /-- FNEG (R244) -/
  | fneg (h : PlateHdr) (d s1 s2 s3 : BitVec 5) (rnd : BitVec 2)
  /-- FABS (R244) -/
  | fabs (h : PlateHdr) (d s1 s2 s3 : BitVec 5) (rnd : BitVec 2)
  /-- FCMPLT (R244) -/
  | fcmplt (h : PlateHdr) (d s1 s2 s3 : BitVec 5) (rnd : BitVec 2)
  /-- FSEL (R244) -/
  | fsel (h : PlateHdr) (d s1 s2 s3 : BitVec 5) (rnd : BitVec 2)
  /-- LANEID (R244) -/
  | laneid (h : PlateHdr) (d s1 s2 s3 : BitVec 5) (rnd : BitVec 2)
  /-- EXP (R188) -/
  | exp (h : PlateHdr) (d s1 s2 s3 : BitVec 5) (rnd : BitVec 2)
  /-- EXP2 (R188) -/
  | exp2 (h : PlateHdr) (d s1 s2 s3 : BitVec 5) (rnd : BitVec 2)
  /-- LOG (R188) -/
  | log (h : PlateHdr) (d s1 s2 s3 : BitVec 5) (rnd : BitVec 2)
  /-- LOG2 (R188) -/
  | log2 (h : PlateHdr) (d s1 s2 s3 : BitVec 5) (rnd : BitVec 2)
  /-- RCP (R188) -/
  | rcp (h : PlateHdr) (d s1 s2 s3 : BitVec 5) (rnd : BitVec 2)
  /-- RSQRT (R188) -/
  | rsqrt (h : PlateHdr) (d s1 s2 s3 : BitVec 5) (rnd : BitVec 2)
  /-- TANH (R188) -/
  | tanh (h : PlateHdr) (d s1 s2 s3 : BitVec 5) (rnd : BitVec 2)
  /-- SIGM (R188) -/
  | sigm (h : PlateHdr) (d s1 s2 s3 : BitVec 5) (rnd : BitVec 2)
  /-- ERF (R188) -/
  | erf (h : PlateHdr) (d s1 s2 s3 : BitVec 5) (rnd : BitVec 2)
  /-- RMAX (R244) -/
  | rmax (h : PlateHdr) (d s1 s2 s3 : BitVec 5) (rnd : BitVec 2)
  /-- RSUM (R244) -/
  | rsum (h : PlateHdr) (d s1 s2 s3 : BitVec 5) (rnd : BitVec 2)
  /-- DRAW (R172) -/
  | draw (h : PlateHdr) (v : BitVec 5) (pr : BitVec 3) (fmt : BitVec 5) (rnd : BitVec 2) (off : BitVec 24)
  /-- CHECKPOINT_SLICE (R542): the checkpoint engine takes the next firing of partition `p` -/
  | checkpointSlice (p : Part)
  /-- IMAGE_SEAL (R543): every slice of the final image of checkpoint set `set` is in flash -/
  | imageSeal (p : Part) (set : B32)
  /-- STANDBY_COMMIT (R554) -/
  | standbyCommit (p : Part)
  /-- MIRROR_COMMIT_TIMEOUT (R554) -/
  | mirrorCommitTimeout (p : Part) (set : B32)
  /-- ASSAY_COMPARISON (R563) -/
  | assayComparison (p : Part)
  /-- LATE_UPDATE_DELIVERY (R337) -/
  | lateUpdateDelivery (p : Part)
  /-- ASSAY_WAIT_EXPIRY (R564) -/
  | assayWaitExpiry (ident : B16) (step : BitVec 40)
  /-- REPLICA_ASSAY_TIMEOUT (R569) -/
  | replicaAssayTimeout (ident : B16) (step : BitVec 40)
  /-- PPS_EDGE (R81): a rising edge on CAD_PPS or, with `onIo`, on CAD_IO -/
  | ppsEdge (onIo : Bool)
  /-- PPS_LOST (R82) -/
  | ppsLost
  /-- MOVE_START (R375) -/
  | moveStart
  /-- MOVE_SWITCH (R373): the copy of move `ident` has ended; `media` is what the medium met -/
  | moveSwitch (ident : Nat) (media : Media)
  /-- OVERLAY_AGE_EXPIRY (R392) -/
  | overlayAgeExpiry (region : Fin 16) (stripe : Nat)
  /-- FOLD (R391) -/
  | fold
  /-- STRIPE_REFRESH (R395) -/
  | stripeRefresh (region : Fin 16) (stripe : Nat)
  /-- ARBITER_GRANT (R465): what has happened since the last one; then, in port cycle `cycle`, a decision follows where the
  owner's grant is over; `withdrawn` says the winner drops its request before its first transfer -/
  | arbiterGrant (a : Fin 60) (past : ArbPast) (cycle : Nat) (withdrawn : Bool)
  /-- SEND (R510) -/
  | send (m : MsgHdr) (addr : Addr) (sheet : List Byte)
  /-- ADD (R275) -/
  | add (m : MsgHdr) (addr : Addr) (mask : B64) (step : BitVec 40) (torn : Bool) (sheet : List Byte)
  /-- ACK (R511) -/
  | ack (m : MsgHdr) (answered : B64) (status : B16)
  /-- SIGNAL (R457) -/
  | signal (m : MsgHdr) (stitch : B16) (value : B32)
  /-- SIG_REPLY (R512) -/
  | sigReply (m : MsgHdr) (answered : B64) (status : B16)
  /-- MARK (R63) -/
  | mark (m : MsgHdr) (pos : B64)
  /-- VERDICT (R288) -/
  | verdict (m : MsgHdr) (step : BitVec 40) (verdict reason : Byte)
  /-- RESULT (R291) -/
  | result (m : MsgHdr) (step : BitVec 40) (verdict reason firstPos : Byte) (reported : BitVec 40)
  /-- DIGEST_ROOT (R564) -/
  | digestRoot (m : MsgHdr) (ident : B16) (step : BitVec 40) (root : B128)
  /-- DIGEST_QUERY (R566) -/
  | digestQuery (m : MsgHdr) (ident : B16) (step : BitVec 40) (level : BitVec 4) (node : Nat)
  /-- DIGEST_REPLY (R566) -/
  | digestReply (m : MsgHdr) (ident : B16) (step : BitVec 40) (level : BitVec 4) (node : Nat) (digests : List B128)
  /-- DIGEST_RESULT (R569); `node` is the first differing block of the object -/
  | digestResult (m : MsgHdr) (ident : B16) (step : BitVec 40) (code : B16) (node : Nat)
  /-- DIGEST_REPAIR (R567) -/
  | digestRepair (m : MsgHdr) (ident : B16) (step : BitVec 40) (sheet : Nat) (source : BitVec 6)
  /-- FILL_MIRROR (R552) -/
  | fillMirror (m : MsgHdr) (slice : B16) (img : B32) (sheet : Nat) (data : List Byte) (hallmark : B256)
  /-- FILL_SHEET (R585) -/
  | fillSheet (m : MsgHdr) (ident : B16) (sheet : Nat) (data : List Byte) (hallmark : B256)
  /-- FILL_REPAIR (R567) -/
  | fillRepair (m : MsgHdr) (ident : B16) (sheet : Nat) (data : List Byte) (hallmark : B256)
  /-- FILL_RECORD (R552): `part` is 0 the header, 1 the directory, 2 the partition record -/
  | fillRecord (m : MsgHdr) (img : B32) (part : Fin 3) (data : List Byte)
  /-- ARMED (R579) -/
  | armed (m : MsgHdr) (cover : B32)
  /-- ASSIGN (R580) -/
  | assign (m : MsgHdr) (d : BitVec 6)
  /-- PULL (R583) -/
  | pull (m : MsgHdr) (count : BitVec 40) (ident : B16) (first : Nat)
  /-- FILL_ROOT (R586) -/
  | fillRoot (m : MsgHdr) (ident : B16) (root : B256)
  /-- READY (R586) -/
  | ready (m : MsgHdr) (d : BitVec 6)
  /-- COMMIT_POS (R587) -/
  | commitPos (m : MsgHdr) (sb d : BitVec 6)
  /-- REMOVE_MSG (R572) -/
  | removeMsg (m : MsgHdr) (d : BitVec 6)
  /-- LEAVE (R571) -/
  | leave (m : MsgHdr) (reason : BitVec 40)
  /-- COMMIT_IMG (R554) -/
  | commitImg (m : MsgHdr) (step : BitVec 40) (img : BitVec 40)
  /-- QUERY_CKPT (R576) -/
  | queryCkpt (m : MsgHdr)
  /-- ROLLBACK_MSG (R576) -/
  | rollbackMsg (m : MsgHdr) (step : BitVec 40)
  /-- STATUS (R583) -/
  | status (m : MsgHdr) (step : BitVec 40) (code : B16) (words : List B64)
  /-- STANDBY_ARM (R578) -/
  | standbyArm
  /-- ARMED_REPORT_TIMER (R579) -/
  | armedReportTimer
  /-- STANDBY_SILENCE (R579): the standby at position 32 + b -/
  | standbySilence (b : Fin 8)
  /-- MESSAGE_TIMEOUT (R516): the message with number `seq` to position `dst` -/
  | messageTimeout (dst : BitVec 6) (seq : B64)
  /-- LINK_HOLD_EXPIRY (R534) -/
  | linkHoldExpiry (pos : BitVec 6)
  /-- LANE_LOCK (R526): the lanes that hold lock -/
  | laneLock (port : Port) (lanes : Byte)
  /-- FULL_TRAINING (R527): the lanes each end judges good -/
  | fullTraining (port : Port) (good peerGood : Byte)
  /-- HELLO (R504) -/
  | hello (port : Port) (serial : B64) (folio : B32) (pos : BitVec 6) (peerPort : Byte) (keyId : Byte) (nonce : B128)
  /-- REPLAY (R495) -/
  | replay (port : Port) (seq : B16)
  /-- RETRAIN (R530) -/
  | retrain (port : Port) (mask : Byte)
  /-- REKEY (R506) -/
  | rekey (port : Port) (keyId : Byte) (nonce : B128)
  /-- LINK_FLIT_REPEAT (R500) -/
  | linkFlitRepeat (port : Port)
  /-- RETRY_LIMIT (R496) -/
  | retryLimit (port : Port)
  /-- LANE_DROP (R529) -/
  | laneDrop (port : Port) (lane : Fin 8)
  /-- FAST_RETRAIN_DONE (R530) -/
  | fastRetrainDone (port : Port)
  /-- DOWN_RETRY (R526) -/
  | downRetry (port : Port)
  /-- LASER_SOURCE_FAIL (R669) -/
  | laserSourceFail (port : Port)
  /-- D2D_RETRAIN (R672) -/
  | d2dRetrain (q : Qtr) (cause : D2dCause)
  /-- PROPOSE (R676) -/
  | propose (q : Qtr) (token : B32)
  /-- CONFIRM (R676) -/
  | confirm (q : Qtr) (token : B32)
  /-- QUARTER_CLOCK_LOSS (R680) -/
  | quarterClockLoss (q : Qtr)
  /-- QUARTER_FATAL_ERROR (R680) -/
  | quarterFatalError (q : Qtr)
  /-- STAKE_SENSOR_SAMPLE (R689): the stake's sixteen readings in 0.0625 °C, sensor 0 first -/
  | stakeSensorSample (q : Qtr) (readings : List B16)
  /-- HEAT_EVALUATION (R692) -/
  | heatEvaluation
  /-- GUEST_REQUEST (R697): at time `t` in ns -/
  | guestRequest (site : Fin 2) (ident : Byte) (req : GuestReq) (t : Nat)
  /-- GUEST_RATE_RELEASE (R698): at time `t` in ns -/
  | guestRateRelease (site : Fin 2) (t : Nat)
  /-- GUEST_LINK_LOSS (R700) -/
  | guestLinkLoss (site : Fin 2)
  /-- GUEST_POWER_CHECK (R718): the site's mean draw over 10 ms, in mW -/
  | guestPowerCheck (site : Fin 2) (meanMw : Nat)
  /-- HOUSEKEEPING_POWER_UP (R707): the straps as sampled -/
  | housekeepingPowerUp (pcieSplit i3cAddr : BitVec 2)
  /-- BOOT_STAGE1 (R730): whether the PUF key was reconstructed -/
  | bootStage1 (pufOk : Bool)
  /-- PWR_EN_ASSERT (R709): after PWR_EN was low for `lowMs` ms -/
  | pwrEnAssert (lowMs : Nat) (report : StartReport)
  /-- PWR_EN_DEASSERT (R713) -/
  | pwrEnDeassert
  /-- START_FAILURE (R732) -/
  | startFailure (reason : Byte)
  /-- START_RETRY (R732) -/
  | startRetry
  /-- START_TIMEOUT (R733) -/
  | startTimeout
  /-- RAIL_FAULT (R711) -/
  | railFault (rail : Fin 24)
  /-- INPUT_VOLTAGE_FAULT (R708): the input in mV -/
  | inputVoltageFault (mv : B16)
  /-- INPUT_VOLTAGE_BAND (R708): the input in mV -/
  | inputVoltageBand (mv : B16)
  /-- POWER_SAMPLE (R714): the input power in W -/
  | powerSample (watts : B16)
  /-- POWER_WINDOW (R716): the window's mean in W -/
  | powerWindow (mean : B16)
  /-- THERMAL_TRIP (R719): spine sensor 0-7, HBM stack 8-15, optics 16, and its reading in 0.0625 °C -/
  | thermalTrip (sensor : Fin 17) (reading : B16)
  /-- SB_TRIP_N (R765) -/
  | sbTripN
  /-- SB_OFF_N (R765) -/
  | sbOffN
  /-- SB_RESET_N (R765) -/
  | sbResetN
  /-- WARDEN_WATCHDOG (R720) -/
  | wardenWatchdog (core : Fin 4)
  /-- HOST_WATCHDOG_EXPIRY (R654) -/
  | hostWatchdogExpiry (p : Part)
  /-- STATUS_PUSH (R654) -/
  | statusPush (p : Part)
  /-- TELEMETRY_LOG (R654) -/
  | telemetryLog
  /-- LINK_SAMPLE (R654) -/
  | linkSample
  /-- STATUS_BLOCK_REFRESH (R662) -/
  | statusBlockRefresh
  /-- REQUEST_FIRMWARE_DATA (R739) -/
  | requestFirmwareData (offset : B32) (data : List Byte)
  /-- ACTIVATE_FIRMWARE (R739) -/
  | activateFirmware
  /-- REQUEST_UPDATE (R740) -/
  | requestUpdate
  /-- GET_MEASUREMENTS (R750): one block, or every block for index 0xFF -/
  | getMeasurements (index : Byte) (nonce : B256)
  /-- CHALLENGE (R749) -/
  | challenge (slot : Byte) (nonce : B256)
  /-- GET_CERTIFICATE (R749) -/
  | getCertificate (slot : Byte) (offset length : B16)
  /-- PLDM_SENSOR_UPDATE (R751) -/
  | pldmSensorUpdate (readings : SensorReadings)
  /-- FLIT (R495): the codewords received since the last flit, each as the symbols of the lanes in use in lane order (R490), and
  the next flit in their data, at time `t` in ns -/
  | flit (port : Port) (words : List (List (List Nat))) (t : Nat)
  /-- START_READY (R727) -/
  | startReady
  /-- POWER_LOSS (R380) -/
  | powerLoss
  /-- WARDEN_FAULT (R720) -/
  | wardenFault (core : Fin 4)
  /-- GUEST_SITE_FAULT (R700) -/
  | guestSiteFault (site : Fin 2)
  deriving DecidableEq, Repr

end Sys2Proof
end

