-- ==== Sys2Proof/Decode.lean ====
section
/-!
DEFINITION. The word form of the table's rows. No row of spec/opcode_table.json gives its bits, so no word spells a
command here; the packets, bench words, plate instructions, messages and flits that the manual does lay out are decoded
where the block takes them in (Machine/HostIf.lean, BenchWord.lean, Words.lean, Frames.lean).
-/
namespace Sys2Proof

/-- The command that a word spells by the table's bits: none, since no row gives bits. -/
def decodeTableWord (_nbits _w : Nat) : Option Instr := none

end Sys2Proof
end

