-- ==== Sys2Proof/Config.lean ====
section
/-!
DEFINITION. What the manual leaves to the implementation, to manufacture or open: constants without a body, so that no
proof can see a value of theirs. A free value applies one of them to the operands or to the counter `freeCtr` of State.
-/
namespace Sys2Proof.Config

/-- Which of two zeros of unlike sign FMAX (`isMax`) or FMIN gives: the first, or else the second (R244 is silent). -/
opaque zeroTie : (isMax : Bool) → F32 → F32 → Bool

/-- Whether ST stores UINT8: R146 says that the lanes store it, and R192 with R245 that no conversion to it exists. -/
opaque storesUint8 : Bool

/-- Nanoseconds that wall time has run since it was loaded, at each reading (R80): a free value. -/
opaque elapsedNs : Nat → B64

/-- Nanoseconds from one event to a reading, for waits that the model does not time: a free value. -/
opaque freeNat : Nat → Nat

/-- An unspecified byte, at a draw of the free counter and an index: output the manual leaves undefined. -/
opaque freeByte : Nat → Nat → Byte

/-- A random 128-bit nonce (R504): a free value. -/
opaque nonce : Nat → B128

/-- A random 32-byte salt or key-sized value (R721, R749): a free value. -/
opaque randomBytes : Nat → Nat → Byte

/-- Whether a translation misses its translation buffer (R348, R399), by partition and the count of its translations so far: a
free value. -/
opaque stbMissed : Part → Nat → Bool

/-- Spare blocks that a managed region has when formatted (R386), by region. -/
opaque spareBlocks : Nat → Nat

/-- Whether a block of a unit fails to program or erase (R385), at a draw of the free counter: a free value. -/
opaque blockFails : Nat → Bool

/-- Cycles a head waited for plate slots (R256): a free value. -/
opaque waitCycles : Nat → Nat

/-- The modulus of the Terrarno root public key, whose digest the boot ROM holds (R722). -/
opaque rootModulus : Nat

/-- The 256-bit root secret of the PUF (R742). -/
opaque pufRoot : B256

/-- The label strings of derived keys (R743): of the two halves of a memory key, of the boot-flash region key, and of the key
that wraps the identity key. -/
opaque memoryLabel : (second : Bool) → List Byte
/-- The label of the boot-flash region key. -/
opaque bootLabel : List Byte
/-- The label of the key that wraps the device identity key (R744). -/
opaque wrapLabel : List Byte

/-- The XTS tweak of a granule (R433), from the partition, the device virtual sheet number and the granule's index: the
manual does not say how the three are put together. -/
opaque xtsTweak : Part → Nat → Nat → B128

/-- The SHA-256 digest of the boot ROM (R750). -/
opaque bootRomDigest : B256

/-- The private exponent of the device identity key and its modulus (R744). -/
opaque identityExponent : Nat
/-- The modulus of the device identity key (R744). -/
opaque identityModulus : Nat

/-- The certificate chain of slot 0, in the form DSP0274 requires (R744, R749). -/
opaque certChain : List Byte

/-- The signed records the module left manufacture with, by KIND: 2 manufacturing, 3 population, 4 owner (R724). -/
opaque factoryRecord : Nat → List Byte

/-- What each slot of the boot flash held when the module left manufacture: slot B or A, byte offset. -/
opaque factoryImage : Bool → Nat → Byte

/-- The serial a manufacturing record gives (R724); the manual does not give the record's layout. -/
opaque recSerial : List Byte → B64
/-- Whether a manufacturing record names CY9400-MG. -/
opaque recIsMG : List Byte → Bool
/-- The population code nn that a manufacturing record of a CY9400-MG names, 01 to 99 (R5), less one. -/
opaque recPopIndex : List Byte → Fin 99
/-- The owner's modulus in an owner record. -/
opaque recOwner : List Byte → Nat
/-- The default PWR_LIMIT in a settings record (R715). -/
opaque recPwrLimit : List Byte → BitVec 12

/-- The attributes of a guest master id (R695). -/
structure GuestAttr where
  assigned  : Bool
  site      : Fin 2
  partition : Part
  reqRate   : B16
  byteRate  : B16
  burst     : Byte
  deriving DecidableEq, Repr, Inhabited

/-- What a population record gives guest master id 0x10 + i (R695). -/
opaque recGuest : List Byte → Fin 16 → GuestAttr
/-- The access row a population record gives guest id 0x10 + i at a table (R482, R695). -/
opaque recGuestRow : List Byte → Fin 16 → Nat → Byte
/-- Whether a population record populates a site. -/
opaque recSite : List Byte → Fin 2 → Bool
/-- A site's violation limit (R695). -/
opaque recViolLimit : List Byte → Fin 2 → B16
/-- A site's guest window: partition, device virtual address and bytes (R702). -/
opaque recWindow : List Byte → Fin 2 → Option (Part × Addr × Nat)

end Sys2Proof.Config
end

