-- ==== Sys2Proof/Machine/Store.lean ====
section
/-!
DEFINITION. The containers State is built from: a four-place record for the partitions, quarters, streams and links;
a finite map as a list of number and value pairs in rising order; and little-endian byte strings (R12).
-/
namespace Sys2Proof.Machine

/-- Four of a kind: partitions, quarters, streams, PCIe links. -/
structure Quad (α : Type) where
  a0 : α
  a1 : α
  a2 : α
  a3 : α
  deriving DecidableEq, Repr

/-- The same value in each place. -/
def Quad.all {α : Type} (a : α) : Quad α := ⟨a, a, a, a⟩

/-- The value in place `i`. -/
def Quad.get {α : Type} (q : Quad α) (i : Fin 4) : α :=
  match i with
  | 0 => q.a0
  | 1 => q.a1
  | 2 => q.a2
  | 3 => q.a3

/-- Another value in place `i`. -/
def Quad.set {α : Type} (q : Quad α) (i : Fin 4) (a : α) : Quad α :=
  match i with
  | 0 => { q with a0 := a }
  | 1 => { q with a1 := a }
  | 2 => { q with a2 := a }
  | 3 => { q with a3 := a }

/-- The value in place `i` changed by `f`. -/
def Quad.modify {α : Type} (q : Quad α) (i : Fin 4) (f : α → α) : Quad α := q.set i (f (q.get i))

/-- Every value changed by `f`, which is told the place. -/
def Quad.mapIdx {α β : Type} (q : Quad α) (f : Fin 4 → α → β) : Quad β := ⟨f 0 q.a0, f 1 q.a1, f 2 q.a2, f 3 q.a3⟩

/-- The four values, place 0 first. -/
def Quad.toList {α : Type} (q : Quad α) : List α := [q.a0, q.a1, q.a2, q.a3]

/-- The four places in order. -/
def four : List (Fin 4) := [0, 1, 2, 3]

@[simp] theorem Quad.get_set_self {α : Type} (q : Quad α) (i : Fin 4) (a : α) : (q.set i a).get i = a := by
  match i with
  | 0 => rfl
  | 1 => rfl
  | 2 => rfl
  | 3 => rfl

theorem Quad.get_set_of_ne {α : Type} (q : Quad α) {i j : Fin 4} (a : α) (h : j ≠ i) :
    (q.set i a).get j = q.get j := by
  fin_cases i <;> fin_cases j <;> first | rfl | exact absurd rfl h

@[simp] theorem Quad.get_all {α : Type} (i : Fin 4) (a : α) : (Quad.all a).get i = a := by
  match i with
  | 0 => rfl
  | 1 => rfl
  | 2 => rfl
  | 3 => rfl

@[simp] theorem Quad.get_modify_self {α : Type} (q : Quad α) (i : Fin 4) (f : α → α) :
    (q.modify i f).get i = f (q.get i) := by simp [Quad.modify]

theorem Quad.get_modify_of_ne {α : Type} (q : Quad α) {i j : Fin 4} (f : α → α) (h : j ≠ i) :
    (q.modify i f).get j = q.get j := Quad.get_set_of_ne q _ h

@[simp] theorem Quad.get_mapIdx {α β : Type} (q : Quad α) (f : Fin 4 → α → β) (i : Fin 4) :
    (q.mapIdx f).get i = f i (q.get i) := by
  match i with
  | 0 => rfl
  | 1 => rfl
  | 2 => rfl
  | 3 => rfl

/-- A finite map from numbers: pairs in strictly rising order of number. -/
abbrev Map (α : Type) := List (Nat × α)

/-- The value at `k`, if the map lists one. -/
def Map.find? {α : Type} : Map α → Nat → Option α
  | [], _ => none
  | (j, a) :: m, k => if k = j then some a else Map.find? m k

/-- The value at `k`, or `d` where the map lists none. -/
def Map.getD {α : Type} (m : Map α) (k : Nat) (d : α) : α := (Map.find? m k).getD d

/-- The map with `a` at `k`. -/
def Map.insert {α : Type} : Map α → Nat → α → Map α
  | [], k, a => [(k, a)]
  | (j, b) :: m, k, a =>
    if k < j then (k, a) :: (j, b) :: m
    else if k = j then (k, a) :: m
    else (j, b) :: Map.insert m k a

/-- The map without `k`. -/
def Map.erase {α : Type} : Map α → Nat → Map α
  | [], _ => []
  | (j, b) :: m, k => if k = j then m else (j, b) :: Map.erase m k

/-- The map with `a` at `k`, nothing being listed where `a` is the value `d` that an unlisted number has. -/
def Map.setD {α : Type} [DecidableEq α] (d : α) (m : Map α) (k : Nat) (a : α) : Map α :=
  if a = d then Map.erase m k else Map.insert m k a

/-- The keys a map lists. -/
def Map.keys {α : Type} (m : Map α) : List Nat := m.map Prod.fst

/-- The values a map lists. -/
def Map.values {α : Type} (m : Map α) : List α := m.map Prod.snd

/-- The map with each listed value changed. -/
def Map.mapVal {α : Type} (m : Map α) (f : Nat → α → α) : Map α := m.map fun e => (e.1, f e.1 e.2)

/-- The value at `k` changed by `f`, if the map lists one. -/
def Map.adjust {α : Type} (m : Map α) (k : Nat) (f : α → α) : Map α :=
  m.map fun e => if e.1 = k then (e.1, f e.2) else e

/-- The canonical form: numbers strictly rising. -/
def Map.sorted {α : Type} : Map α → Bool
  | [] => true
  | [_] => true
  | (j, _) :: (k, b) :: m => decide (j < k) && Map.sorted ((k, b) :: m)

/-- The canonical form of a map whose unlisted numbers have the value `d`: rising, and no entry is `d`. -/
def Map.wf {α : Type} [DecidableEq α] (d : α) (m : Map α) : Bool :=
  Map.sorted m && m.all fun e => decide (e.2 ≠ d)

/-- The least number below `bound` that satisfies `f`. -/
def firstBelow (bound : Nat) (f : Nat → Bool) : Option Nat := (List.range bound).find? f

/-- `n` bytes of a number, least significant first (R12). -/
def leBytes : Nat → Nat → List Byte
  | 0, _ => []
  | n + 1, v => BitVec.ofNat 8 v :: leBytes n (v / 256)

/-- The number that bytes spell, least significant first (R12). -/
def leNat : List Byte → Nat
  | [] => 0
  | b :: bs => b.toNat + 256 * leNat bs

@[simp] theorem length_leBytes (n v : Nat) : (leBytes n v).length = n := by
  induction n generalizing v with
  | zero => rfl
  | succ n ih => simp [leBytes, ih]

/-- The bit field [hi:lo] of a number. -/
def field (v hi lo : Nat) : Nat := v / 2 ^ lo % 2 ^ (hi + 1 - lo)

/-- A number placed at bit `lo` of a word of `w` bits. -/
def place (w lo v : Nat) : BitVec w := BitVec.ofNat w (v * 2 ^ lo)

/-- A Bool as one bit. -/
def bit (b : Bool) : Nat := if b then 1 else 0

/-- A counter of `w` bits that stops at all ones. -/
def satAdd {w : Nat} (c : BitVec w) (n : Nat) : BitVec w :=
  if c.toNat + n < 2 ^ w then BitVec.ofNat w (c.toNat + n) else BitVec.allOnes w

/-- The first `n` of a list, with `a` where it is too short. -/
def takePad {α : Type} (n : Nat) (a : α) (l : List α) : List α := (l ++ List.replicate n a).take n

/-- Element `i` of a list replaced. -/
def setAt {α : Type} (l : List α) (i : Nat) (a : α) : List α := l.set i a

/-- An element put into a sorted list, before those it does not exceed. -/
def insertBy {α : Type} (le : α → α → Bool) (a : α) : List α → List α
  | [] => [a]
  | b :: l => if le a b then a :: b :: l else b :: insertBy le a l

/-- A list sorted, equal elements in their order. -/
def sortBy {α : Type} (le : α → α → Bool) (l : List α) : List α := l.foldr (insertBy le) []

end Sys2Proof.Machine
end

