-- ==== Sys2Proof/Machine/Flags.lean ====
section
/-!
DEFINITION. The sticky flags of R190 and R191, and the one rounding step (R168 to R171) that every conversion uses.
-/
namespace Sys2Proof.Machine

/-- A set of the four sticky flags (R190). -/
structure Flags where
  overflow  : Bool := false
  underflow : Bool := false
  inexact   : Bool := false
  invalid   : Bool := false
  deriving DecidableEq, Repr

/-- Flags only accumulate: each is an OR over the elements of an operation (R191). -/
def Flags.or (a b : Flags) : Flags :=
  ⟨a.overflow || b.overflow, a.underflow || b.underflow, a.inexact || b.inexact, a.invalid || b.invalid⟩

/-- The flags as register bits: bit 3 INVALID, 2 INEXACT, 1 UNDERFLOW, 0 OVERFLOW (R130, R145, R256). -/
def Flags.bits (f : Flags) : Nat := bit f.overflow + 2 * bit f.underflow + 4 * bit f.inexact + 8 * bit f.invalid

/-- A write of `v` to a register of flags with access W1C: each 1 clears its flag (R15). -/
def Flags.clear (f : Flags) (v : Nat) : Flags :=
  ⟨f.overflow && !v.testBit 0, f.underflow && !v.testBit 1, f.inexact && !v.testBit 2, f.invalid && !v.testBit 3⟩

/-- The rounding modes of R168. -/
inductive Rnd where
  | rne
  | rtz
  | stoch
  deriving DecidableEq, Repr

/-- The mode a 2-bit code names; code 3 is reserved (R168). -/
def Rnd.ofCode (c : BitVec 2) : Option Rnd :=
  match c.toNat with
  | 0 => some .rne
  | 1 => some .rtz
  | 2 => some .stoch
  | _ => none

/-- An exact number: the sign, and the magnitude n × 2^q; with `sticky`, something more than that and less than
(n + 1) × 2^q, for a quotient, root or transcendental that no such number equals. -/
structure Exact where
  neg    : Bool
  n      : Nat
  q      : Int
  sticky : Bool := false
  deriving DecidableEq, Repr

/-- Whether it is zero. -/
def Exact.isZero (x : Exact) : Bool := x.n == 0 && !x.sticky

/-- The exponent of its leading bit: floor of log2 of the magnitude, for n above 0. -/
def Exact.top (x : Exact) : Int := x.q + (Nat.log2 x.n : Int)

/-- Rounds the magnitude to a whole number of units of 2^u in mode `m` with draw `r` (R169, R170): the number of units,
and whether bits were discarded. -/
def roundAt (x : Exact) (u : Int) (m : Rnd) (r : Nat) : Nat × Bool :=
  if u ≤ x.q then (x.n * 2 ^ (x.q - u).toNat, x.sticky)
  else
    let d := (u - x.q).toNat
    let lo := x.n / 2 ^ d
    let rem := x.n % 2 ^ d
    let up := match m with
      | .rtz => false
      | .rne => decide (2 * rem > 2 ^ d) || (decide (2 * rem = 2 ^ d) && (x.sticky || lo % 2 == 1))
      | .stoch => decide (r < rem * 2 ^ 32 / 2 ^ d)
    (if up then lo + 1 else lo, rem != 0 || x.sticky)

end Sys2Proof.Machine
end

