-- ==== Sys2Proof/Machine/Operands.lean ====
section
/-!
DEFINITION. The number formats (R146 to R159), the A96 accumulator (R160 to R166, R786), the conversions of the rim and
of the vector lanes (R169 to R182, R186 to R192), the stochastic draw (R172) and the lanes' arithmetic (R187, R188).
-/
namespace Sys2Proof.Machine

/-! ## Format codes -/

/-- The formats of R146. -/
inductive Fmt where
  | fp32 | bf16 | fp16 | e4m3 | e5m2 | int8 | uint8 | int4 | uint4
  | mxE4m3 | mxE5m2 | mxInt8 | mxFp4 | sgi4 | fx64
  deriving DecidableEq, Repr

/-- The format a 5-bit code names (R146). -/
def Fmt.ofCode (c : BitVec 5) : Option Fmt :=
  match c.toNat with
  | 0x00 => some .fp32
  | 0x01 => some .bf16
  | 0x02 => some .fp16
  | 0x03 => some .e4m3
  | 0x04 => some .e5m2
  | 0x05 => some .int8
  | 0x06 => some .uint8
  | 0x07 => some .int4
  | 0x08 => some .uint4
  | 0x09 => some .mxE4m3
  | 0x0A => some .mxE5m2
  | 0x0B => some .mxInt8
  | 0x0C => some .mxFp4
  | 0x0D => some .sgi4
  | 0x0E => some .fx64
  | _ => none

/-- Bits of one element (R146). -/
def Fmt.bits : Fmt → Nat
  | .fp32 => 32
  | .bf16 | .fp16 => 16
  | .e4m3 | .e5m2 | .int8 | .uint8 | .mxE4m3 | .mxE5m2 | .mxInt8 => 8
  | .int4 | .uint4 | .mxFp4 | .sgi4 => 4
  | .fx64 => 64

/-- Whether the format has one scale byte per group of 32 elements (R155). -/
def Fmt.scaled : Fmt → Bool
  | .mxE4m3 | .mxE5m2 | .mxInt8 | .mxFp4 | .sgi4 => true
  | _ => false

/-- The width class of an array input, in bits; none where the format is no array input (R146). -/
def Fmt.inputClass : Fmt → Option Nat
  | .fp32 | .fx64 => none
  | f => some f.bits

/-- Whether the rim can write the format (R146). -/
def Fmt.isOutput : Fmt → Bool
  | .uint8 | .int4 | .uint4 => false
  | _ => true

/-- A floating-point layout of R149: mantissa bits, bias, the code of the largest finite magnitude, and the codes
(without sign) of infinity and of the canonical NaN, where the format has them. -/
structure FpFmt where
  expBits : Nat
  man     : Nat
  bias    : Int
  maxCode : Nat
  inf     : Option Nat
  nan     : Option Nat
  deriving DecidableEq, Repr

/-- The floating-point layouts (R149, R152); E2M1 is the element of MXFP4. -/
def Fmt.fp : Fmt → Option FpFmt
  | .fp32 => some ⟨8, 23, 127, 0x7F7F_FFFF, some 0x7F80_0000, some 0x7FC0_0000⟩
  | .bf16 => some ⟨8, 7, 127, 0x7F7F, some 0x7F80, some 0x7FC0⟩
  | .fp16 => some ⟨5, 10, 15, 0x7BFF, some 0x7C00, some 0x7E00⟩
  | .e4m3 | .mxE4m3 => some ⟨4, 3, 7, 0x7E, none, some 0x7F⟩
  | .e5m2 | .mxE5m2 => some ⟨5, 2, 15, 0x7B, some 0x7C, some 0x7E⟩
  | .mxFp4 => some ⟨2, 1, 1, 0x7, none, none⟩
  | _ => none

/-- FP32's layout. -/
def fp32Fmt : FpFmt := ⟨8, 23, 127, 0x7F7F_FFFF, some 0x7F80_0000, some 0x7FC0_0000⟩

/-- Exponent of the unit of a subnormal. -/
def FpFmt.uMin (f : FpFmt) : Int := 1 - f.bias - f.man

/-- A number as the engines see it: NaN, an infinity, or an exact finite value. -/
inductive Val where
  | nan
  | inf (neg : Bool)
  | fin (x : Exact)
  deriving DecidableEq, Repr

/-- Zero. -/
def Val.zero : Val := .fin ⟨false, 0, 0, false⟩

/-- The value of a floating-point code (R149, R150). -/
def FpFmt.decode (f : FpFmt) (c : Nat) : Val :=
  let neg := c.testBit (f.expBits + f.man)
  let mag := c % 2 ^ (f.expBits + f.man)
  let e := mag / 2 ^ f.man
  let m := mag % 2 ^ f.man
  if mag ≤ f.maxCode then
    if e = 0 then .fin ⟨neg, m, f.uMin, false⟩ else .fin ⟨neg, m + 2 ^ f.man, f.uMin + (e - 1 : Int), false⟩
  else if f.inf = some mag then .inf neg
  else .nan

/-- The exact value of an integer. -/
def Exact.ofInt (i : Int) (q : Int := 0) : Exact := ⟨decide (i < 0), i.natAbs, q, false⟩

/-- A two's-complement code of `w` bits as an integer. -/
def signed (w c : Nat) : Int := if c.testBit (w - 1) then (c % 2 ^ w : Int) - 2 ^ w else (c % 2 ^ w : Int)

/-- The value of one element code, before any group scale (R149, R154, R156). -/
def Fmt.element (f : Fmt) (c : Nat) : Val :=
  match f with
  | .int8 => .fin (Exact.ofInt (signed 8 c))
  | .uint8 => .fin (Exact.ofInt (c % 256))
  | .int4 | .sgi4 => .fin (Exact.ofInt (signed 4 c))
  | .uint4 => .fin (Exact.ofInt (c % 16))
  | .mxInt8 => .fin (Exact.ofInt (signed 8 c) (-6))
  | .fx64 => .fin (Exact.ofInt (signed 64 c))
  | f => match f.fp with
    | some l => l.decode (c % 2 ^ f.bits)
    | none => .nan

/-- A value under an E8M0 scale code (R155, R156). -/
def Val.scale (v : Val) (code : Nat) : Val :=
  if code = 0xFF then .nan
  else match v with
    | .fin x => .fin { x with q := x.q + (code : Int) - 127 }
    | v => v

/-- The exact product of R158 and R159. -/
def Val.mul : Val → Val → Val
  | .nan, _ => .nan
  | _, .nan => .nan
  | .inf a, .inf b => .inf (a != b)
  | .inf a, .fin y => if y.n = 0 then .nan else .inf (a != y.neg)
  | .fin x, .inf b => if x.n = 0 then .nan else .inf (x.neg != b)
  | .fin x, .fin y => .fin ⟨x.neg != y.neg, x.n * y.n, x.q + y.q, false⟩

/-! ## The A96 accumulator -/

/-- An accumulator cell (R133): TAG 0 finite, 1 NaN, 2 +∞, 3 −∞. -/
structure A96 where
  value   : Int := 0
  anchor  : Nat := 0
  tag     : BitVec 2 := 0
  inexact : Bool := false
  deriving DecidableEq, Repr

/-- Rounds an integer ratio n ÷ 2^d to nearest, ties to even. -/
def rneShift (n d : Nat) : Nat := (roundAt ⟨false, n, 0, false⟩ d .rne 0).1

/-- One step of R162 with a finite product of sign `neg` and magnitude n × 2^q. -/
def A96.addFin (c : A96) (p : Exact) : A96 :=
  let a0 : Int := (c.anchor : Int) - 304
  let k := min a0 p.q
  let pv : Int := (p.n : Int) * 2 ^ (p.q - k).toNat
  let s : Int := c.value * 2 ^ (a0 - k).toNat + (if p.neg then -pv else pv)
  let need : Int := if s = 0 then c.anchor else k + (Nat.size s.natAbs : Int) + 210
  let a2 := max (c.anchor : Int) need
  if a2 > 511 then { value := 1, anchor := c.anchor, tag := if s < 0 then 3 else 2, inexact := true }
  else
    let (v, lost) := roundAt ⟨false, s.natAbs, k, false⟩ (a2 - 304) .rne 0
    { value := if s < 0 then -(v : Int) else v, anchor := a2.toNat, tag := 0, inexact := c.inexact || lost }

/-- The tag after a non-finite product (R166). -/
def tagJoin (t : BitVec 2) (p : BitVec 2) : BitVec 2 :=
  if t = 0 then p else if t = p then t else 1

/-- One reduction step (R162, R165, R166, R786). -/
def A96.step (c : A96) (p : Val) : A96 :=
  match p with
  | .fin x => if c.tag = 0 then c.addFin x else c
  | .inf neg => { c with tag := tagJoin c.tag (if neg then 3 else 2), value := if c.tag = 0 then 0 else c.value }
  | .nan => { c with tag := 1, value := if c.tag = 0 then 0 else c.value }

/-- The accumulated value (R160, R167). -/
def A96.val (c : A96) : Val :=
  if c.tag = 0 then .fin ⟨decide (c.value < 0), c.value.natAbs, (c.anchor : Int) - 304, false⟩
  else if c.tag = 2 then .inf false else if c.tag = 3 then .inf true else .nan

/-! ## Stochastic draws (R172) -/

/-- The mixing function of R172. -/
def mix (z : B64) : B64 :=
  let z := (z ^^^ (z >>> 30)) * 0xBF58_476D_1CE4_E5B9
  let z := (z ^^^ (z >>> 27)) * 0x94D0_49BB_1331_11EB
  z ^^^ (z >>> 31)

/-- The draw r, from 0 to 2^32 − 1 (R172). -/
def drawBits (seed pos : B64) (object : B32) (element : B64) : Nat :=
  let h := mix (seed ^^^ pos)
  let h := mix (h ^^^ (object.setWidth 64 + 0x9E37_79B9_7F4A_7C15))
  let h := mix (h ^^^ element)
  (h >>> 32).toNat

/-! ## Rounding to a format -/

/-- A code and the flags its rounding sets. -/
structure Rounded where
  code  : Nat
  flags : Flags := {}
  deriving DecidableEq, Repr

/-- Whether the result is tiny after rounding, as IEEE 754 says (R191, vector lanes). -/
def FpFmt.tinyAfter (f : FpFmt) (x : Exact) (m : Rnd) (r : Nat) : Bool :=
  let emin := 1 - f.bias
  if x.n = 0 then x.sticky
  else if x.top < emin then
    let u := x.top - f.man
    let k := (roundAt x u m r).1
    !(x.top == emin - 1 && k == 2 ^ (f.man + 1))
  else false

/-- Rounds a finite value to a floating-point format (R169 to R171, R175). `lanes` says that the flags are those of the
vector lanes and the planisher, else the rim's (R191). The draw is not used above the largest finite value (R171). -/
def FpFmt.round (f : FpFmt) (lanes : Bool) (x : Exact) (m : Rnd) (r : Nat) : Rounded :=
  let sgn := if x.neg then 2 ^ (f.expBits + f.man) else 0
  if x.isZero then ⟨sgn, {}⟩
  else
    let u := if x.n = 0 then f.uMin else max (x.top - f.man) f.uMin
    let codeOf (m : Rnd) : Nat × Bool := let p := roundAt x u m r; ((u - f.uMin).toNat * 2 ^ f.man + p.1, p.2)
    let atMax := (codeOf .rtz).1
    let beyond := atMax > f.maxCode || (atMax == f.maxCode && (codeOf .rtz).2)
    let m' := if m = .stoch && beyond then .rne else m
    let (mag, lost) := codeOf m'
    if mag > f.maxCode then
      let code := match f.inf with
        | some i => if m' = .rtz then f.maxCode else i
        | none => f.maxCode
      ⟨sgn + code, { overflow := true, inexact := true }⟩
    else
      let sub := if lanes then f.tinyAfter x m' r else mag < 2 ^ f.man
      ⟨sgn + mag, { inexact := lost, underflow := lost && sub }⟩

/-- Conversion to an 8-bit integer format (R175) whose least value is minus `low` and whose largest is `high`: a saturating
rounding of the magnitude. In the lanes an infinity is a conversion that saturates, with INEXACT as any OVERFLOW has it
(DESIGN CHOICE). -/
def roundByte (low high : Nat) (lanes : Bool) (v : Val) (m : Rnd) (r : Nat) : Rounded :=
  let ends (neg : Bool) : Nat := if neg then (256 - low) % 256 else high
  match v with
  | .nan => ⟨0, { invalid := true }⟩
  | .inf neg => ⟨ends neg, { overflow := lanes, inexact := lanes }⟩
  | .fin x =>
    let lim := if x.neg then low else high
    let big := (roundAt x 0 .rtz r).1 ≥ lim
    let (k, lost) := roundAt x 0 (if m = .stoch && big then .rne else m) r
    if k > lim then ⟨ends x.neg, { overflow := true, inexact := true }⟩
    else ⟨(if x.neg then 256 - k else k) % 256, { inexact := lost }⟩

/-- Conversion to INT8 (R175). -/
def roundInt8 : Bool → Val → Rnd → Nat → Rounded := roundByte 128 127

/-- Conversion of one value to an unscaled format of the rim or the lanes other than FX64 (R175, R192). The sign of a zero
is kept only where `x` carries it; the rim's finite zero has none (R167). -/
def Fmt.round (f : Fmt) (lanes : Bool) (v : Val) (m : Rnd) (r : Nat) : Rounded :=
  match f.fp with
  | some l =>
    match v with
    | .nan => ⟨l.nan.getD 0, { invalid := !lanes }⟩
    | .inf neg => match l.inf with
      | some i => ⟨(if neg then 2 ^ (l.expBits + l.man) else 0) + i, {}⟩
      | none => ⟨l.nan.getD 0, {}⟩
    | .fin x => l.round lanes x m r
  | none => if f = .uint8 then roundByte 0 255 lanes v m r else roundInt8 lanes v m r

/-- The FX64 conversion of R181 and R182: the integer to add, or none with the buffer bit that it sets instead. -/
inductive FxConv where
  | add (c : Int) (inexact : Bool)
  | range (inexact : Bool)
  | nonfinite
  deriving DecidableEq, Repr

/-- Conversion into a buffer of anchor `e` and guard `g` (R181, R182). STOCH stays STOCH at every magnitude: an integer format
without a largest finite value of its own is not what R171 speaks of (DESIGN CHOICE). -/
def toFx (v : Val) (e : Int) (g : Nat) (m : Rnd) (r : Nat) : FxConv :=
  match v with
  | .fin x =>
    let (k, lost) := roundAt x e m r
    if k ≥ 2 ^ (63 - g) then .range lost
    else .add (if x.neg then -(k : Int) else k) lost
  | _ => .nonfinite

/-! ## Scaled groups (R176 to R179, R189) -/

/-- emax and the largest element magnitude of R176, the latter as n × 2^q, for a scaled format. -/
def Fmt.group (f : Fmt) : Int × Exact :=
  match f with
  | .mxE4m3 => (8, ⟨false, 448, 0, false⟩)
  | .mxE5m2 => (15, ⟨false, 57344, 0, false⟩)
  | .mxInt8 => (0, ⟨false, 127, -6, false⟩)
  | .mxFp4 => (2, ⟨false, 6, 0, false⟩)
  | _ => (2, ⟨false, 7, 0, false⟩)

/-- The code of a magnitude of `k` units of the element format's integer grid, with its sign. -/
def Fmt.intCode (f : Fmt) (neg : Bool) (k : Nat) : Nat :=
  let w := f.bits
  if neg then (2 ^ w - k) % 2 ^ w else k

/-- One element of a group under scale code `c` (R177 to R179): code, flags, and whether it was flushed. Limiting sets
OVERFLOW under code 254 alone (R177, R179, R191). -/
def Fmt.groupElement (f : Fmt) (lanes : Bool) (c : Nat) (x : Exact) (m : Rnd) (r : Nat) : Rounded × Bool :=
  let y : Exact := { x with q := x.q - ((c : Int) - 127) }
  if x.n = 0 then (⟨0, {}⟩, false)
  else
    let res : Nat × Bool × Bool × Bool :=  -- magnitude code, inexact, limited, subnormal
      match f.fp with
      | some l =>
        let u := max (y.top - l.man) l.uMin
        let big := y.top - l.man > (l.maxCode / 2 ^ l.man : Int) - 1 + l.uMin
        let p0 := roundAt y u .rtz r
        let overTop := big || (u - l.uMin).toNat * 2 ^ l.man + p0.1 ≥ l.maxCode
        let p := roundAt y u (if m = .stoch && overTop then .rne else m) r
        let k := (u - l.uMin).toNat * 2 ^ l.man + p.1
        let sub := if lanes then l.tinyAfter y m r else decide (k < 2 ^ l.man)
        if k > l.maxCode then (l.maxCode, true, true, false) else (k, p.2, false, sub)
      | none =>
        let u : Int := if f = .mxInt8 then -6 else 0
        let lim := if f = .mxInt8 then 127 else 7
        let p0 := roundAt y u .rtz r
        let p := roundAt y u (if m = .stoch && p0.1 ≥ lim then .rne else m) r
        if p.1 > lim then (lim, true, true, false) else (p.1, p.2, false, false)
    let (k, lost, limited, sub) := res
    if k = 0 then (⟨0, { underflow := true, inexact := true }⟩, true)
    else
      let code := match f.fp with
        | some l => (if x.neg then 2 ^ (l.expBits + l.man) else 0) + k
        | none => f.intCode x.neg k
      (⟨code, { inexact := lost || limited, underflow := lost && sub, overflow := limited && c = 254 }⟩, false)

/-- The larger of two magnitudes. -/
def Exact.maxMag (a b : Exact) : Exact :=
  let k := min a.q b.q
  if a.n * 2 ^ (a.q - k).toNat ≥ b.n * 2 ^ (b.q - k).toNat then a else b

/-- What a group of 32 elements becomes: its scale code, element codes, flags of the group's roundings, and flushed
count (R176 to R179). `draw i` is the draw of the group's element i. -/
structure GroupOut where
  scale   : Nat
  codes   : List Nat
  flags   : Flags
  flushed : Nat
  deriving DecidableEq, Repr

/-- Chooses the scale and converts the group (R176), at the rim or in the lanes (R189). The flags do not include those that a
tag or a cell's INEXACT bit calls for. -/
def Fmt.roundGroup (f : Fmt) (lanes : Bool) (vs : List Val) (m : Rnd) (draw : Nat → Nat) : GroupOut :=
  let finite? : Val → Option Exact := fun v => match v with | .fin x => some x | _ => none
  let xs := vs.filterMap finite?
  if xs.length < vs.length then ⟨0xFF, vs.map fun _ => 0, {}, 0⟩
  else
    let amax := xs.foldl Exact.maxMag ⟨false, 0, 0, false⟩
    if amax.n = 0 then ⟨0, vs.map fun _ => 0, {}, 0⟩
    else
      let code := amax.top - f.group.1 + 127
      let c := if code < 0 then 0 else if code > 254 then 254 else code.toNat
      let clamped := decide (code > 254)
      let outs := (xs.zipIdx).map fun e => f.groupElement lanes c e.1 m (draw e.2)
      { scale := c, codes := outs.map fun o => o.1.code
        flags := outs.foldl (fun a o => a.or o.1.flags) { overflow := clamped, inexact := clamped }
        flushed := (outs.filter fun o => o.2).length }

/-! ## Vector-lane arithmetic on FP32 (R187) -/

/-- The value of FP32 bits. A signaling NaN is a NaN as any other, and sets no INVALID by being one (DESIGN CHOICE). -/
def f32Val (b : F32) : Val := fp32Fmt.decode b.toNat

/-- The canonical NaN (R152). -/
def f32NaN : F32 := 0x7FC0_0000

/-- An FP32 result and the flags it sets. -/
structure LaneRes where
  bits  : F32
  flags : Flags := {}
  deriving DecidableEq, Repr

/-- A NaN made by an invalid operation. -/
def laneInvalid : LaneRes := ⟨f32NaN, { invalid := true }⟩

/-- An infinity. -/
def laneInf (neg : Bool) : LaneRes := ⟨if neg then 0xFF80_0000 else 0x7F80_0000, {}⟩

/-- A finite value rounded to FP32. -/
def laneRound (x : Exact) (m : Rnd) : LaneRes :=
  let o := fp32Fmt.round true x m 0
  ⟨BitVec.ofNat 32 o.code, o.flags⟩

/-- The exact sum of two finite values, with IEEE 754's sign of an exact zero sum. -/
def Exact.add (x y : Exact) : Exact :=
  let k := min x.q y.q
  let i (z : Exact) : Int := (if z.neg then -1 else 1) * ((z.n : Int) * 2 ^ (z.q - k).toNat)
  let s := i x + i y
  ⟨if s = 0 then x.neg && y.neg else decide (s < 0), s.natAbs, k, false⟩

/-- Whether FP32 bits are a NaN. -/
def f32IsNaN (b : F32) : Bool := f32Val b == .nan

/-- Addition of two values, rounded once. -/
def valAdd (x y : Val) (m : Rnd) : LaneRes :=
  match x, y with
  | .nan, _ => ⟨f32NaN, {}⟩
  | _, .nan => ⟨f32NaN, {}⟩
  | .inf a, .inf b => if a = b then laneInf a else laneInvalid
  | .inf a, .fin _ => laneInf a
  | .fin _, .inf b => laneInf b
  | .fin x, .fin y => laneRound (x.add y) m

/-- FADD. -/
def f32Add (a b : F32) (m : Rnd) : LaneRes := valAdd (f32Val a) (f32Val b) m

/-- FNEG: the sign turned; a NaN becomes the canonical NaN (R152). -/
def f32Neg (a : F32) : F32 := if f32IsNaN a then f32NaN else a ^^^ 0x8000_0000

/-- FABS. -/
def f32Abs (a : F32) : F32 := if f32IsNaN a then f32NaN else a &&& 0x7FFF_FFFF

/-- FSUB. -/
def f32Sub (a b : F32) (m : Rnd) : LaneRes := f32Add a (f32Neg b) m

/-- FMUL. -/
def f32Mul (a b : F32) (m : Rnd) : LaneRes :=
  match f32Val a, f32Val b with
  | .nan, _ => ⟨f32NaN, {}⟩
  | _, .nan => ⟨f32NaN, {}⟩
  | x, y => match x.mul y with
    | .nan => laneInvalid
    | .inf n => laneInf n
    | .fin z => laneRound z m

/-- FFMA: one rounding. Infinity times zero is an invalid operation with a NaN addend too, where IEEE 754 leaves the choice
(DESIGN CHOICE). -/
def f32Fma (a b c : F32) (m : Rnd) : LaneRes :=
  match f32Val a, f32Val b, f32Val c with
  | .nan, _, _ => ⟨f32NaN, {}⟩
  | _, .nan, _ => ⟨f32NaN, {}⟩
  | x, y, .nan => match x.mul y with
    | .nan => laneInvalid
    | _ => ⟨f32NaN, {}⟩
  | x, y, z => match x.mul y with
    | .nan => laneInvalid
    | p => valAdd p z m

/-- FDIV. -/
def f32Div (a b : F32) (m : Rnd) : LaneRes :=
  match f32Val a, f32Val b with
  | .nan, _ => ⟨f32NaN, {}⟩
  | _, .nan => ⟨f32NaN, {}⟩
  | .inf _, .inf _ => laneInvalid
  | .inf x, .fin y => laneInf (x != y.neg)
  | .fin x, .inf y => ⟨if x.neg != y then 0x8000_0000 else 0, {}⟩
  | .fin x, .fin y =>
    if y.n = 0 then if x.n = 0 then laneInvalid else laneInf (x.neg != y.neg)
    else
      let n := x.n * 2 ^ 100
      laneRound ⟨x.neg != y.neg, n / y.n, x.q - y.q - 100, n % y.n != 0⟩ m

/-- The whole square root: the largest r with r × r ≤ n, by bits from `b` down. -/
def isqrtBits (n : Nat) : Nat → Nat → Nat
  | 0, r => r
  | b + 1, r => isqrtBits n b (if (r + 2 ^ b) * (r + 2 ^ b) ≤ n then r + 2 ^ b else r)

/-- The whole square root. -/
def isqrt (n : Nat) : Nat := isqrtBits n (Nat.log2 n / 2 + 1) 0

/-- FSQRT. -/
def f32Sqrt (a : F32) (m : Rnd) : LaneRes :=
  match f32Val a with
  | .nan => ⟨f32NaN, {}⟩
  | .inf neg => if neg then laneInvalid else laneInf false
  | .fin x =>
    if x.n = 0 then ⟨a, {}⟩ else if x.neg then laneInvalid
    else
      let n := if x.q % 2 = 0 then x.n else 2 * x.n
      let q := if x.q % 2 = 0 then x.q else x.q - 1
      let r := isqrt (n * 2 ^ 64)
      laneRound ⟨false, r, q / 2 - 32, r * r != n * 2 ^ 64⟩ m

/-- Strict order of two finite or infinite values; false where either is a NaN. -/
def f32Lt (a b : F32) : Bool :=
  match f32Val a, f32Val b with
  | .nan, _ => false
  | _, .nan => false
  | .inf x, .inf y => x && !y
  | .inf x, .fin _ => x
  | .fin _, .inf y => !y
  | .fin x, .fin y =>
    let k := min x.q y.q
    let i (z : Exact) : Int := (if z.neg then -1 else 1) * ((z.n : Int) * 2 ^ (z.q - k).toNat)
    decide (i x < i y)

/-- FMAX: the larger; NaN if either is NaN. Which of two zeros of unlike sign it gives is open. -/
def f32Max (a b : F32) : F32 :=
  if f32IsNaN a || f32IsNaN b then f32NaN
  else if f32Lt a b then b else if f32Lt b a then a else if a = b || Config.zeroTie true a b then a else b

/-- FMIN. -/
def f32Min (a b : F32) : F32 :=
  if f32IsNaN a || f32IsNaN b then f32NaN
  else if f32Lt b a then b else if f32Lt a b then a else if a = b || Config.zeroTie false a b then a else b

/-- The FP32 value of a small whole number. -/
def f32OfNat (n : Nat) : F32 := (laneRound ⟨false, n, 0, false⟩ .rne).bits

/-- A fixed pairwise tree over a list of 2^d values (R116, R244 RSUM and RMAX). -/
def tree {α : Type} (op : α → α → α) : Nat → List α → List α
  | 0, l => l
  | d + 1, l =>
    let rec pairs : List α → List α
      | a :: b :: r => op a b :: pairs r
      | r => r
    tree op d (pairs l)

/-- An FP32 sum by a pairwise tree of 2^d values, with the flags of every addition. -/
def treeSum (d : Nat) (l : List F32) (m : Rnd) : LaneRes :=
  let op (a b : LaneRes) : LaneRes := let r := f32Add a.bits b.bits m; ⟨r.bits, (a.flags.or b.flags).or r.flags⟩
  ((tree op d (l.map fun b => ⟨b, {}⟩)).head?).getD ⟨0, {}⟩

/-! ## Transcendental functions (R188)

Each is computed in fixed point with 640 bits after the point, far below any distance of a value from a rounding boundary
for an FP32 input, and rounded once with the sticky bit set wherever the true value is not exact. -/

/-- Bits after the point. -/
def fxP : Nat := 640

/-- One in fixed point. -/
def fxOne : Int := 2 ^ fxP

/-- Fixed-point product. -/
def fxMul (a b : Int) : Int := a * b / fxOne

/-- Σ z^(2k+1) ÷ (2k+1) from term k with power `p`; alternating when `alt`. -/
def atanSeries (z2 : Int) (alt : Bool) : Nat → Nat → Int → Int
  | 0, _, _ => 0
  | n + 1, k, p => p / (2 * k + 1 : Int) + (if alt then -1 else 1) * atanSeries z2 alt n (k + 1) (fxMul p z2)

/-- ln 2 = 2 artanh(1/3). -/
def fxLn2 : Int := 2 * atanSeries (fxOne / 9) false 210 0 (fxOne / 3)

/-- π by Machin's formula. -/
def fxPi : Int :=
  16 * atanSeries (fxOne / 25) true 145 0 (fxOne / 5) - 4 * atanSeries (fxOne / (239 * 239)) true 45 0 (fxOne / 239)

/-- Σ r^k ÷ k! for 0 ≤ r < 1. -/
def expSeries (r : Int) : Nat → Nat → Int → Int
  | 0, _, _ => 0
  | n + 1, k, t => t + expSeries r n (k + 1) (fxMul t r / (k + 1 : Int))

/-- A finite value in fixed point, limited to ± `lim`. -/
def toFixed (x : Exact) (lim : Nat) : Int :=
  let a : Int := if x.q ≥ 0 then (if x.top ≥ 12 then (lim : Int) * fxOne else (x.n : Int) * 2 ^ x.q.toNat * fxOne)
    else if x.n ≠ 0 && x.top ≥ 12 then (lim : Int) * fxOne
    else (x.n : Int) * fxOne / 2 ^ (-x.q).toNat
  let a := min a ((lim : Int) * fxOne)
  if x.neg then -a else a

/-- e^(X): the exponent k and the mantissa in [1, 2), in fixed point. -/
def fxExp (X : Int) : Int × Int :=
  let k := X / fxLn2
  (k, expSeries (X - k * fxLn2) 150 0 fxOne)

/-- e^X in fixed point, for X ≤ 0. -/
def fxExpNeg (X : Int) : Int := let (k, m) := fxExp X; m / 2 ^ (-k).toNat

/-- A fixed-point magnitude as an inexact value. -/
def fromFixed (neg : Bool) (v : Int) (k : Int := 0) : Exact := ⟨neg, v.toNat, k - fxP, true⟩

/-- ln of a positive finite value. -/
def fxLog (x : Exact) : Int :=
  let t := Nat.log2 x.n
  let m : Int := (x.n : Int) * fxOne / 2 ^ t
  let z := (m - fxOne) * fxOne / (m + fxOne)
  2 * atanSeries (fxMul z z) false 215 0 z + (x.q + (t : Int)) * fxLn2

/-- Σ (−1)^n x^(2n+1) ÷ (n! (2n+1)), with the power over the factorial in `t`. -/
def erfSeries (x2 : Int) : Nat → Nat → Int → Int
  | 0, _, _ => 0
  | n + 1, k, t => t / (2 * k + 1 : Int) + erfSeries x2 n (k + 1) (-(fxMul t x2) / (k + 1 : Int))

/-- The functions of R188. -/
inductive LaneFn where
  | exp | exp2 | log | log2 | rcp | rsqrt | tanh | sigm | erf
  deriving DecidableEq, Repr

/-- One, exact. -/
def exactOne : Exact := ⟨false, 1, 0, false⟩

/-- The function at a finite non-zero input, exact or with the sticky bit. -/
def LaneFn.finite (f : LaneFn) (x : Exact) : Exact :=
  match f with
  | .exp => let (k, m) := fxExp (toFixed x 300); fromFixed false m k
  | .exp2 =>
    let X := toFixed x 400
    let k := X / fxOne
    let fr := X - k * fxOne
    if fr = 0 then ⟨false, 1, k, false⟩ else fromFixed false (expSeries (fxMul fr fxLn2) 150 0 fxOne) k
  | .log => let v := fxLog x; if x.n = 2 ^ Nat.log2 x.n && x.top = 0 then ⟨false, 0, 0, false⟩ else fromFixed (decide (v < 0)) v.natAbs
  | .log2 =>
    if x.n = 2 ^ Nat.log2 x.n then Exact.ofInt x.top
    else let v := fxLog x * fxOne / fxLn2; fromFixed (decide (v < 0)) v.natAbs
  | .rcp => let n := 2 ^ 100; ⟨x.neg, n / x.n, -x.q - 100, n % x.n != 0⟩
  | .rsqrt =>
    let n := if x.q % 2 = 0 then x.n else 2 * x.n
    let q := if x.q % 2 = 0 then x.q else x.q - 1
    let r := isqrt (2 ^ 160 / n)
    ⟨false, r, -(q / 2) - 80, r * r * n != 2 ^ 160⟩
  | .tanh =>
    let e := fxExpNeg (-2 * toFixed { x with neg := false } 100)
    fromFixed x.neg ((fxOne - e) * fxOne / (fxOne + e))
  | .sigm =>
    let e := fxExpNeg (-(toFixed { x with neg := false } 300))
    fromFixed false ((if x.neg then e else fxOne) * fxOne / (fxOne + e))
  | .erf =>
    let a := toFixed { x with neg := false } 6
    let s := erfSeries (fxMul a a) 390 0 a
    fromFixed x.neg (2 * s * fxOne / (isqrt ((fxPi * fxOne).toNat) : Int))

/-- The function at any FP32 input (R188). RSQRT of -0, which the table does not list, is minus infinity (DESIGN CHOICE). -/
def LaneFn.eval (f : LaneFn) (a : F32) (m : Rnd) : LaneRes :=
  match f32Val a with
  | .nan => ⟨f32NaN, {}⟩
  | .inf neg => match f with
    | .exp | .exp2 => if neg then ⟨0, {}⟩ else laneInf false
    | .log | .log2 => if neg then laneInvalid else laneInf false
    | .rcp => ⟨if neg then 0x8000_0000 else 0, {}⟩
    | .rsqrt => if neg then laneInvalid else ⟨0, {}⟩
    | .tanh | .erf => ⟨if neg then 0xBF80_0000 else 0x3F80_0000, {}⟩
    | .sigm => ⟨if neg then 0 else 0x3F80_0000, {}⟩
  | .fin x =>
    if x.n = 0 then match f with
      | .exp | .exp2 => ⟨0x3F80_0000, {}⟩
      | .log | .log2 => laneInf true
      | .rcp => laneInf x.neg
      | .rsqrt => laneInf x.neg
      | .tanh | .erf => ⟨a, {}⟩
      | .sigm => ⟨0x3F00_0000, {}⟩
    else match f with
      | .log | .log2 | .rsqrt => if x.neg then laneInvalid else laneRound (f.finite x) m
      | _ => laneRound (f.finite x) m

end Sys2Proof.Machine
end

