-- ==== Sys2Proof/Machine/StateHost.lean ====
section
/-!
DEFINITION. The parts of State that the chapters on the host interface, cadence, memory tiers and stitches name.
A field's reset value is its default here; INVENTORY.md says where the manual states it.
-/
namespace Sys2Proof.Machine

/-! ## Host interface -/

/-- The state of a partition (R605). -/
inductive PState where
  | closed | opened | detached
  deriving DecidableEq, Repr

/-- One journal entry (R655). -/
structure JEntry where
  jseq   : B64
  time   : B64
  pos    : B64
  kind   : B16
  status : B16
  opcode : B16 := 0
  tag    : B16 := 0
  seq    : B32 := 0
  detail : BitVec 224 := 0
  deriving DecidableEq, Repr

/-- A reply not yet written (R633, R635); `short` says that it is a short command's. -/
structure Reply where
  tag    : B16
  status : B16
  seq    : B32
  jseq   : B32
  result : B128
  short  : Bool
  deriving DecidableEq, Repr

/-- What a long command in progress still has to do (R630). -/
inductive LongWork where
  /-- nothing but to report -/
  | report (status : B16) (result : B128)
  | service (q : Qtr)
  | destroy (handle : Nat)
  /-- SET_POLICY: `begun` once its frames are reserved -/
  | policy (handle : Nat) (bits : B128) (begun : Bool)
  | format (region mode owner refresh start count : Nat)
  | dmaOut (dev host bytes : Nat)
  | dmaIn (dev : Nat) (data : List Byte)
  | restore (set slot : Nat) (objects : List Nat) (phase : Nat)
  | fill (dest ident : Nat) (source : Nat)
  | rollback (step : B64)
  | keySwitch
  | aclSet (first last master row : Nat)
  | stage (offset : Nat) (data : List Byte)
  | activate
  | record (data : List Byte)
  | pack (src dst : Nat) (mask : B16) (stitch : B16)
  | unpack (src dst : Nat) (stitch : B16) (slots : List Nat)
  deriving DecidableEq, Repr

/-- An entry of the long-command table (R664). -/
structure LongCmd where
  seq    : B32
  tag    : B16
  opcode : B16
  ajseq  : B64
  quiet  : Bool
  work   : LongWork
  deriving DecidableEq, Repr

/-- A packet whose seal word has arrived early (R628), with what the host buffer it names holds. -/
structure WaitingPacket where
  packet : List Byte
  data   : List Byte
  deriving DecidableEq, Repr

/-- The host interface of a partition (R605 to R637, R664, R665). -/
structure HostPart where
  pstate      : PState := .closed
  seqNext     : B32 := 0
  jseq        : B64 := 0
  journal     : Map JEntry := []
  ringBase    : B64 := 0
  ringLog2    : BitVec 5 := 0
  replyTail   : B32 := 0
  replyHead   : B32 := 0
  held        : List Reply := []
  closedDrops : B16 := 0
  sealFails   : B32 := 0
  irqMask     : BitVec 4 := 0
  irqStatus   : BitVec 4 := 0
  winBase     : Addr := 0
  barLog2     : BitVec 6 := 34
  slots       : Map WaitingPacket := []
  /-- accepted commands that have not started, in SEQ order (R629) -/
  accepted    : List Instr := []
  /-- the model's own: the command at hand comes from `accepted` -/
  starting    : Bool := false
  longs       : Map LongCmd := []
  /-- the warden's copy of the status block, in 64-bit words (R662, R664) -/
  status      : List B64 := [0, 0, 0, 0, 0, 0, 1000]
  deriving DecidableEq, Repr

/-- What a warden timer serves (R650, R654). -/
structure TimerUse where
  feature : Byte
  part    : Part
  action  : Byte
  period  : B32
  addr    : B64
  /-- times HST_HEARTBEAT has begun the period anew: the model's own -/
  beats   : Nat := 0
  deriving DecidableEq, Repr

/-- The crash record (R666). `named` is the sensor or rail that the record names; the bytes of DUMP, whose format the manual
leaves to the release notes, are the free bytes of draw `draw`. -/
structure Crash where
  valid    : Bool := false
  cause    : Byte := 0
  core     : Byte := 0
  count    : Byte := 0
  time     : B64 := 0
  firmware : B64 := 0
  named    : Option Nat := none
  draw     : Nat := 0
  deriving DecidableEq, Repr

/-- A PCIe link (R594, R664): SPEED 5, 6 or 0, and the lanes trained. -/
structure PcieLink where
  speed : BitVec 4 := 0
  width : BitVec 5 := 0
  deriving DecidableEq, Repr

/-- Who holds the staging regions (R650): accumulator save for the whole module, or a partition's hallmark capture. -/
inductive StagingUse where
  | free
  | save
  | capture (p : Part)
  deriving DecidableEq, Repr

/-- What the host sees on its side of a link: a completion of a read or of a non-posted request, or an interrupt. -/
inductive BusEvent where
  | completion (fn : Part) (data : List Byte)
  | unsupported (fn : Part)
  | poisoned (fn : Part) (data : List Byte)
  | msi (fn : Part) (vector : Fin 4)
  | config (fn : Part)
  /-- Configuration Request Retry Status -/
  | retry (fn : Part)
  deriving DecidableEq, Repr

/-- The part of the host interface that serves the whole module. -/
structure HostDev where
  split      : BitVec 2 := 0
  links      : Quad PcieLink := .all {}
  tsEn       : Bool := false
  arrayOwner : Part := 0
  quantum    : Quad B32 := .all 1000
  timers     : Map TimerUse := []
  staging    : StagingUse := .free
  crash      : Crash := {}
  /-- bytes the module has written to host memory, by function × 2^64 + address -/
  hostMem    : Map Byte := []
  /-- what has gone out on the links, oldest first -/
  bus        : List BusEvent := []
  alertN     : Bool := true
  deriving DecidableEq, Repr

/-! ## Cadence -/

/-- The cadence role (R57). -/
inductive CadRole where
  | standalone | leader | follower
  deriving DecidableEq, Repr

/-- An entry of the scheduled-event table (R69). -/
structure Event where
  target : B64 := 0
  stride : B16 := 0
  kind   : Byte := 0
  report : Bool := false
  object : B32 := 0
  arg    : B128 := 0
  deriving DecidableEq, Repr

/-- A firing in an engine's queue (R75, R782): `shot` numbers the firings of a partition, and `holds` says that this one still
holds its entry. -/
structure Firing where
  idx   : Nat
  shot  : Nat := 0
  entry : Event
  pos   : B64
  holds : Bool := true
  deriving DecidableEq, Repr

/-- The cadence state of a partition (R47 to R86). -/
structure Cad where
  pos        : B64 := 0
  role       : CadRole := .standalone
  stale      : B32 := 0
  events     : Map Event := []
  evtOverrun : Bool := false
  posLatch   : Option B32 := none
  timeLatch  : Option B32 := none
  /-- the number the next firing gets: the model's own -/
  nextShot   : Nat := 0
  /-- entries whose firing has not completed, with the number of that firing (R76) -/
  busy       : Map Nat := []
  /-- entries whose last target has passed and that end with their firing (R77, R78) -/
  lastShot   : List Nat := []
  ckptQ      : List Firing := []
  assayQ     : List Firing := []
  lateQ      : List Firing := []
  commitQ    : List Firing := []
  /-- loads of wall time, losses of the pulse input and settings of CAD_IO when the partition was last reset (R14, R86) -/
  loadsAt    : Nat := 0
  lossesAt   : Nat := 0
  settingsAt : Nat := 0
  deriving DecidableEq, Repr

/-- Wall time and CAD_IO (R80 to R86). -/
structure CadDev where
  wall     : B64 := 0
  onEdge   : Option B64 := none
  ppsLost  : Bool := false
  ioFunc   : BitVec 2 := 0
  ioPart   : Part := 0
  /-- the partition whose CAD_IO_CFG claimed the pin -/
  ioHolder : Part := 0
  /-- pulses given on CAD_IO -/
  ioPulses : Nat := 0
  /-- loads of wall time, losses of the pulse input and settings of CAD_IO so far -/
  loads    : Nat := 0
  losses   : Nat := 0
  settings : Nat := 0
  deriving DecidableEq, Repr

/-! ## Tiers -/

/-- The tiers of R351; `none` stands for no tier. -/
inductive Tier where
  | none | stake | hbm | bulk | managed | striped
  deriving DecidableEq, Repr

/-- Tier codes (R351). -/
def Tier.code : Tier → Nat
  | .none => 0
  | .stake => 1
  | .hbm => 2
  | .bulk => 3
  | .managed => 4
  | .striped => 5

/-- A sheet's entry in the sheet map (R348, R398). A stake frame is numbered as in the status word. -/
structure Sheet where
  tier      : Tier
  region    : Nat := 0
  /-- the frame of each copy, copy 0 first -/
  frames    : List Nat
  /-- stake copies that a fence has lost -/
  gone      : List Nat := []
  poison    : Bool := false
  unwritten : Bool := true
  /-- the HBM frame of the window copy and its place in the order of fetching (R370, R371) -/
  window    : Option (Nat × Nat) := Option.none
  deriving DecidableEq, Repr

/-- What an object is (R642), with the option block's fields. -/
inductive ObjKind where
  | plain
  | packed (fmt blocks granules : Nat)
  | redBuf (group rows cols : Nat) (anchor : Int) (guard parts : Nat)
  | redGroup
  | ckptSet (capacity mirror : Nat)
  | mirrorSet (capacity source : Nat)
  | attach (region first : Nat)
  | guestWindow (site : Fin 2)
  deriving DecidableEq, Repr

/-- An object of a partition (R345 to R381). -/
structure Obj where
  kind    : ObjKind
  base    : Nat
  sheets  : Nat
  policy  : B128
  map     : Map Sheet := []
  /-- HBM frames of the fetch window that hold no copy now, and the count of fetches so far -/
  winFree : List Nat := []
  fetches : Nat := 0
  /-- a set-policy has not completed (R362) -/
  changing : Bool := false
  /-- a destroy waits for moves in flight -/
  dying    : Bool := false
  /-- packed: the slot each block's header refers to (R428) -/
  slotRefs : Map Nat := []
  /-- a reduction buffer whose header or sheet table has had a POISON or LOST sheet (R783) -/
  broken   : Bool := false
  deriving DecidableEq, Repr

/-- Kinds of move, in the order of R375. -/
inductive MoveKind where
  | fetch | policy | promotion
  deriving DecidableEq, Repr

/-- A move of one sheet (R373 to R375). -/
structure Move where
  ident   : Nat
  p       : Part
  handle  : Nat
  sheet   : Nat
  kind    : MoveKind
  dst     : Tier
  region  : Nat := 0
  frames  : List Nat
  /-- frames of the sheet that stay as copies -/
  keep    : List Nat := []
  started : Bool := false
  dirty   : Bool := false
  tries   : Nat := 0
  holding : Bool := false
  deriving DecidableEq, Repr

/-- The tier registers of a partition that are not computed (R399). -/
structure TierRegs where
  quotaHbm   : B32 := 0
  quotaBulk  : B32 := 0
  stakeBase  : Byte := 0
  stakeLimit : Byte := 0
  moves      : B32 := 0
  dirty      : B32 := 0
  holds      : B32 := 0
  fetchMiss  : B32 := 0
  movedBytes : B64 := 0
  stbMiss    : B32 := 0
  /-- translations so far: the model's own -/
  lookups    : Nat := 0
  objects    : Map Obj := []
  nextHandle : Nat := 1
  deriving DecidableEq, Repr

/-- A flash region (R378, R400). -/
structure Region where
  mode     : BitVec 2 := 0
  owner    : Part := 0
  refresh  : Byte := 0
  start    : BitVec 6 := 0
  count    : BitVec 7 := 0
  ready    : Bool := false
  readOnly : Bool := false
  /-- spare blocks left for retirement, once formatted as managed -/
  spares   : Nat := 0
  /-- managed: the unit of blocks that new sheets go to (R383) -/
  fill     : Option Nat := none
  deriving DecidableEq, Repr

/-- A stripe that is not as format left it (R387 to R395): slots programmed since its erase, entry in the pending
record, staleness, and reads of its pieces since it was programmed. -/
structure Stripe where
  slots   : Nat := 0
  pending : Bool := false
  stale   : Bool := false
  reads   : Nat := 0
  deriving DecidableEq, Repr

/-- Four blocks, one on each channel of a group, that the translation layer fills together (R351, R382): pages programmed
since their erase, and the reads since then (R384). -/
structure NandUnit where
  pages : Nat := 0
  reads : Nat := 0
  deriving DecidableEq, Repr

/-- The flash tier and the migration engine (R373 to R400). -/
structure Flash where
  regions       : Map Region := []
  /-- stripes by region × 2^32 + stripe -/
  stripes       : Map Stripe := []
  /-- sheets in the overlay, by region × 2^40 + frame, oldest entry first -/
  overlay       : List Nat := []
  /-- sheets with writes that wait for room in the overlay (R393), by region × 2^40 + frame, the first to wait first -/
  overlayWait   : List Nat := []
  /-- partitions of which an operation waits for such room -/
  stalled       : List Part := []
  /-- writes held at translation until a move has switched (R374): partition, address, bytes -/
  heldWrites    : List (Part × Nat × List Byte) := []
  /-- the stripe being folded, and whether for its refresh; stripes that wait to be folded -/
  folding       : Option Nat := none
  refreshing    : Bool := false
  foldQ         : List (Nat × Bool) := []
  /-- regions being formatted -/
  formatting    : List Nat := []
  /-- program/erase cycles: of a block, by number, beyond those of its extent's formats; and of the formats, by extent -/
  wear          : Map Nat := []
  erased        : Map Nat := []
  /-- the translation tables of managed regions: the page of a frame, by region × 2^40 + frame, as unit × 1024 + page -/
  ftl           : Map Nat := []
  units         : Map NandUnit := []
  /-- units programmed whose blocks' success is not yet known (R385), and units to rewrite elsewhere (R384) -/
  unproven      : List Nat := []
  rewrites      : List Nat := []
  /-- blocks retired, and blocks of stripes marked for retirement at the next format (R396) -/
  bad           : List Nat := []
  marked        : List Nat := []
  /-- for whom a flash frame's bytes are encrypted (R433), by place: partition × 2^48 + sheet number -/
  tags          : Map Nat := []
  badFactory    : B32 := 0
  badGrown      : B32 := 0
  uncorr        : B32 := 0
  retry         : B32 := 0
  sheetsWritten : B64 := 0
  moves         : List Move := []
  nextMove      : Nat := 0
  deriving DecidableEq, Repr

/-! ## Stitches -/

/-- STATE of a stitch (R437). -/
inductive StState where
  | opened | locked | broken
  deriving DecidableEq, Repr

/-- A registered wait or lock request (R445, R446). -/
structure StReq where
  p         : Part
  st        : Strm
  lock      : Bool
  threshold : B32
  /-- the index the head names -/
  idx       : B16 := 0
  deriving DecidableEq, Repr

/-- A stitch (R437); WAITERS is the number of registered requests. -/
structure Stitch where
  count  : B32 := 0
  owner  : Byte := 0xFF
  epoch  : Byte := 0
  state  : StState := .opened
  remote : Bool := false
  sat    : Bool := false
  stream : Strm := 0
  reqs   : List StReq := []
  deriving DecidableEq, Repr

/-- An import window (R442, R461). -/
structure ImportWin where
  src   : Part
  ops   : BitVec 4
  base  : B16
  count : Nat
  deriving DecidableEq, Repr

/-- The stitch registers of a partition (R461). -/
structure StcRegs where
  base         : Byte := 0
  count        : Byte := 0
  imports      : Map ImportWin := []
  signals      : B32 := 0
  waitBroken   : B32 := 0
  breaks       : B32 := 0
  remoteIn     : B32 := 0
  remoteDenied : B32 := 0
  /-- STC_LAST_BROKEN, with VALID in bit 63 -/
  lastBroken   : B64 := 0
  deriving DecidableEq, Repr

end Sys2Proof.Machine
end

