-- ==== Sys2Proof/Machine/StateBench.lean ====
section
/-!
DEFINITION. The parts of State that the chapters on the array and on bench operations and plate programs name.
-/
namespace Sys2Proof.Machine

/-! ## Streams and issued operations -/

/-- The state of a stream (R195). -/
inductive StreamState where
  | idle | run | stopped | halted
  deriving DecidableEq, Repr

/-- Codes of R195. -/
def StreamState.code : StreamState → Nat
  | .idle => 0
  | .run => 1
  | .stopped => 2
  | .halted => 3

/-- A stream (R194 to R208, R255). -/
structure Stream where
  state      : StreamState := .idle
  head       : B64 := 0
  fault      : Byte := 0
  lc         : BitVec 14 := 0
  faultPc    : B64 := 0
  drawPos    : B64 := 0
  issued     : B32 := 0
  /-- counts of the dependency tags, 1 to 63 (R204) -/
  tags       : Map Nat := []
  /-- the head wait or lock has registered with its bank (R445) -/
  registered : Bool := false
  /-- the registered wait is satisfied, or the lock granted -/
  granted    : Bool := false
  /-- the fault that stopped the stream left its head unissued (R251) -/
  unissued   : Bool := false
  deriving DecidableEq, Repr

/-- The kinds of operation that stay in flight after issue (R202). -/
inductive FlightKind where
  | array | vrun | copy | signal | veto | planish
  deriving DecidableEq, Repr

/-- The runs of bytes, by device virtual address and length, that an operation reads and writes (R207). -/
structure Foot where
  reads  : List (Nat × Nat) := []
  writes : List (Nat × Nat) := []
  deriving DecidableEq, Repr

/-- An issued operation that has not completed. -/
structure Flight where
  ident  : Nat
  st     : Strm
  outTag : BitVec 6
  addr   : B64
  kind   : FlightKind
  opTag  : B32 := 0
  /-- quarters that were live at issue (R210) -/
  live   : Quad Bool := .all true
  /-- numbers of the operations in flight at issue: the model's own -/
  mates  : List Nat := []
  foot   : Foot := {}
  deriving DecidableEq, Repr

/-! ## Array operations -/

/-- An array operation descriptor (R215). -/
structure ArrayDesc where
  opTag   : B32 := 0
  predTag : B32 := 0
  m       : Nat := 1
  n       : Nat := 1
  k       : Nat := 1
  fmtA    : Fmt := .bf16
  fmtB    : Fmt := .bf16
  fmtC    : Fmt := .bf16
  rnd     : Rnd := .rne
  foldA   : Bool := false
  foldB   : Bool := false
  cont    : Bool := false
  hold    : Bool := false
  bank    : BitVec 2 := 0
  stats   : Bool := false
  seed    : BitVec 6 := 0
  cmpA    : Bool := false
  cmpB    : Bool := false
  aOff    : Nat := 0
  bOff    : Nat := 0
  asOff   : Nat := 0
  bsOff   : Nat := 0
  cOff    : Nat := 0
  aSrc    : Nat := 0
  bSrc    : Nat := 0
  asSrc   : Nat := 0
  bsSrc   : Nat := 0
  report  : Nat := 0
  stat    : Nat := 0
  buf     : Nat := 0
  deriving DecidableEq, Repr

/-- How far an array operation has come: in the quarters' queue, taken and feeding or to feed, or fed (R90, R111). -/
inductive OpPhase where
  | queued | taken | fed
  deriving DecidableEq, Repr

/-- An issued array operation, queued or taken by the quarters (R93, R109, R130, R134). -/
structure ArrayOp where
  ident    : Nat
  st       : Strm
  outTag   : BitVec 6
  addr     : B64
  desc     : ArrayDesc
  shares   : Quad Nat
  drawPos  : B64
  phase    : OpPhase := .queued
  /-- tiles started on the quarter that has most: the quarters start each tile together (R95) -/
  round    : Nat := 0
  /-- the step at which its current tiles were saved (R134) -/
  step     : Nat := 0
  flags    : Flags := {}
  nfPos    : B64 := 0
  nfKey    : Option Nat := none
  flushed  : B32 := 0
  preempts : Byte := 0
  lost     : Bool := false
  /-- data sheets that have admitted its FX64 adds -/
  fxSheets : List Nat := []
  fault    : Option Byte := none
  /-- further data of the fault's journal entry (R778) -/
  extra    : Nat := 0
  deriving DecidableEq, Repr

/-- The state of an accumulator bank (R103). -/
inductive BankState where
  | free | filling | held | draining | saving | restoring
  deriving DecidableEq, Repr

/-- Codes of BNC_BANK_STATE (R145). -/
def BankState.code : BankState → Nat
  | .free => 0
  | .filling => 1
  | .held => 2
  | .draining => 3
  | .saving => 4
  | .restoring => 5

/-- A bank of a quarter: its state, holder tag, the operation that fills, holds or drains it and, while held, the
accumulators by row × 512 + column. -/
structure Bank where
  state  : BankState := .free
  holder : Option B32 := none
  owner  : Nat := 0
  cells  : Map A96 := []
  deriving DecidableEq, Repr

/-- The array part of a quarter: two banks, the bank that became FREE last, and the tile being fed with its bank. -/
structure QuarterArr where
  bank0     : Bank := {}
  bank1     : Bank := {}
  lastFreed : Option (Fin 2) := none
  cur       : Option (Nat × Fin 2) := none
  deriving DecidableEq, Repr

/-- A saved context (R132 to R134): each quarter's banks but for their cells, which lie in the staging region and the
context area (R135, R138), and whether a fence made it incomplete. -/
structure Context where
  quarters   : Quad QuarterArr := .all {}
  incomplete : Bool := false
  deriving DecidableEq, Repr

/-! ## Copies, latches, plate programs -/

/-- What a queued copy moves (R227 to R229). -/
inductive CopyKind where
  | plain (src dst count : Nat) (pos : Nat)
  | add (src dst count : Nat) (pos : Nat)
  | routed (role : Nat) (desc : ArrayDesc) (shares : Quad Nat)
  deriving DecidableEq, Repr

/-- A copy in the ladle queue (R212, R231). -/
structure CopyOp where
  ident   : Nat
  kind    : CopyKind
  running : Bool := false
  /-- numbers of messages sent and not yet answered (R511) -/
  waits   : List Nat := []
  fault   : Option Byte := none
  /-- further data of the fault's journal entry (R778) -/
  detail  : Nat := 0
  deriving DecidableEq, Repr

/-- A latch-table entry (R230, R213), with the punch-set slots it refers to (R428). -/
structure Latch where
  opTag  : B32
  shares : Quad Nat
  st     : Strm
  issued : Bool := false
  /-- a quarter to which it gives tiles has been fenced since (R140) -/
  lost   : Bool := false
  slots  : List Nat := []
  deriving DecidableEq, Repr

/-- An instance of a plate program (R239 to R242, R248). -/
structure Inst where
  vrun    : Nat
  pc      : Nat
  /-- the address of its launch block -/
  launch  : B64 := 0
  v       : Map (List F32) := []
  pr      : List B32
  c       : List B32
  buf     : B64
  object  : B32
  drawPos : B64
  seed    : BitVec 6
  /-- sheets the instance's FXADDs have reached, by handle × 2^40 + sheet: admitted or refused (R267, R270) -/
  sheets  : Map Bool := []
  /-- places of the model's memory that the instance has stored to, with their lengths (R254) -/
  stores  : List (Nat × Nat) := []
  deriving DecidableEq, Repr

/-- A remote signal that waits for its reply (R457, R458). -/
structure RemoteSignal where
  ident : Nat
  dst   : BitVec 6
  seq   : B64
  deriving DecidableEq, Repr

/-- The bench of a partition (R194 to R256). -/
structure Bench where
  streams     : Quad Stream := .all {}
  flight      : List Flight := []
  /-- operations completed that were in flight together with one still in flight (R207): the model's own -/
  past        : List Flight := []
  arrayQ      : List ArrayOp := []
  copies      : List CopyOp := []
  latches     : List Latch := []
  /-- VRUNs of a switched-out context that a fence has ended: they complete at the next switch in (R140) -/
  lostRuns    : List Nat := []
  /-- instances on each plate, in the order their slots were taken (R242) -/
  insts       : Map (List Inst) := []
  signals     : List RemoteSignal := []
  /-- chains that a fence broke, by bank and holder tag, whose next operation is lost (R142) -/
  lostChains  : List (Nat × B32) := []
  prog        : Map B64 := []
  seeds       : Map B64 := []
  vflags      : Flags := {}
  slotWait    : B32 := 0
  /-- the context of the partition while it does not hold the array -/
  context     : Option Context := none
  /-- array registers (R145) -/
  rimFlags    : Flags := {}
  nfPos       : B64 := 0
  rimFlushed  : B32 := 0
  occCyc      : B64 := 0
  lostCyc     : B64 := 0
  ctxBase     : B64 := 0
  ctxSet      : Bool := false
  switches    : B32 := 0
  deriving DecidableEq, Repr

/-- The array as the quarters hold it (R87 to R145). -/
structure ArrayDev where
  shares   : Quad Nat := .all 8
  live     : Quad Bool := .all true
  quarters : Quad QuarterArr := .all {}
  /-- the partition that holds the array while time-sharing is enabled (R618) -/
  holder   : Part := 0
  /-- the holder has held the array for its quantum (R618) -/
  expired  : Bool := false
  /-- the partition whose saved context is still to be copied out, and the one whose context has been copied in (R138) -/
  copyOut  : Option Part := none
  copyIn   : Option Part := none
  /-- the number the next issued operation gets: the model's own -/
  nextOp   : Nat := 0
  deriving DecidableEq, Repr

end Sys2Proof.Machine
end

