-- ==== Sys2Proof/Machine/StateTrain.lean ====
section
/-!
DEFINITION. The parts of State that the chapters on the backward pass, parameter updates and compression name.
-/
namespace Sys2Proof.Machine

/-- The FX64 adds of an array operation to one sheet of a buffer, on their way to the sheet (R267 to R270). -/
structure Contribution where
  p         : Part
  /-- the array operation it belongs to -/
  ident     : Nat
  /-- the quarter it left -/
  quarter   : Qtr
  handle    : Nat
  sheet     : Nat
  /-- the draw position of the stream at issue, which gives step and leaf (R269) -/
  drawPos   : B64
  /-- element of the sheet and the integer to add -/
  adds      : List (Nat × Int)
  nonfinite : Bool := false
  range     : Bool := false
  inexact   : Bool := false
  deriving DecidableEq, Repr

/-- A VETO record (R285). -/
structure VetoRec where
  group     : Nat
  step      : Nat
  stitch    : Nat
  sig       : Bool
  closeOnly : Bool
  vlane     : Bool
  rim       : Bool
  result    : Nat
  deriving DecidableEq, Repr

/-- A verdict as sent, held or kept (R287, R288): SKIP or not, reasons, position. -/
structure Verdict where
  step   : Nat
  pos    : Nat
  skip   : Bool
  reason : Nat
  deriving DecidableEq, Repr

/-- A result kept or applied (R287, R291). -/
structure VetoResult where
  step     : Nat
  skip     : Bool
  reason   : Nat
  firstPos : Nat
  reported : Nat
  deriving DecidableEq, Repr

/-- A VETO in flight (R282 to R292). -/
structure PendingVeto where
  ident   : Nat
  record  : VetoRec
  /-- handles of buffers still to move to CLOSED -/
  toClose : List Nat
  /-- what the buffers closed so far show -/
  reason  : Nat := 0
  dropped : B64 := 0
  partially : B64 := 0
  /-- positions other than the own one in the membership at issue (R288, R289) -/
  awaited : BitVec 40 := 0
  /-- the local verdict has been formed -/
  judged  : Bool := false
  skip    : Bool := false
  /-- a RESULT for its step that came before the local verdict (R287) -/
  early   : Option VetoResult := none
  deriving DecidableEq, Repr

/-- The veto state of a partition (R287 to R297). -/
structure Veto where
  vstep       : BitVec 40 := 0
  reason      : Byte := 0
  skip        : Bool := false
  closedOnly  : Bool := false
  carried     : BitVec 3 := 0
  carriedStep : Nat := 0
  pending     : List PendingVeto := []
  /-- verdicts the leader holds (R288, R290) -/
  verdicts    : List Verdict := []
  kept        : Option VetoResult := none
  dropped     : B64 := 0
  partially   : B64 := 0
  refused     : B32 := 0
  skips       : B32 := 0
  late        : B32 := 0
  deriving DecidableEq, Repr

/-! ## Planisher -/

/-- Where a planisher job came from (R313): an operation, or a delivery with its firing's entry index and position. -/
inductive JobSource where
  | op (ident : Nat)
  | delivery (firing : Firing) (table : Nat)
  deriving DecidableEq, Repr

/-- A planisher job and its progress (R311 to R318). -/
structure Job where
  source   : JobSource
  addr     : Nat
  code     : Nat
  step     : Nat
  table    : Nat
  count    : Nat
  report   : Nat
  expect   : B64
  stitch   : Nat
  sig      : Bool
  fault    : Option Byte := none
  next     : Nat := 0
  maxStep  : Nat := 0
  applied  : Nat := 0
  skipped  : Nat := 0
  already  : Nat := 0
  mismatch : Nat := 0
  zero     : Nat := 0
  flags    : Flags := {}
  waiting  : Bool := false
  /-- a delivery that a lost quarter ended, to be rerun (R338) -/
  rerun    : Bool := false
  /-- the bytes a delivery reads and writes (R301) -/
  foot     : Foot := {}
  deriving DecidableEq, Repr

/-- The entry that a running APPLY updates (R330 to R332): its address, the gradient step, the handle of its gradient buffer,
write units completed, and the writes of a unit that is computed and not yet written (R316). -/
structure EntryWork where
  addr   : Nat
  step   : Nat
  handle : Nat
  unit   : Nat
  /-- units of the values in SCRATCH computed so far (R315, R330) -/
  pass   : Nat := 0
  hyper  : List F32
  writes : Option (List (Nat × List Byte)) := none
  deriving DecidableEq, Repr

/-- An entry of the verdict history (R334). -/
structure HistEntry where
  /-- the register of BNC_PLN_HIST that shows it -/
  slot    : Nat
  step    : BitVec 40
  reason  : Byte
  skip    : Bool
  deriving DecidableEq, Repr

/-- The planisher of a partition (R313, R334, R344). -/
structure Planisher where
  queue     : List Job := []
  entry     : Option EntryWork := none
  flags     : Flags := {}
  applied   : B32 := 0
  skipped   : B32 := 0
  zero      : B32 := 0
  mismatch  : B32 := 0
  resumed   : B32 := 0
  realigned : B32 := 0
  /-- oldest first -/
  hist      : List HistEntry := []
  deriving DecidableEq, Repr

/-! ## Compression -/

/-- The state of a punch-set slot (R424). -/
inductive SlotState where
  | free | loaded | retiring
  deriving DecidableEq, Repr

/-- A punch-set slot (R424, R434). -/
structure PunchSlot where
  state : SlotState := .free
  owner : Part := 0
  fmt   : BitVec 2 := 0
  gen   : Byte := 0
  refs  : Nat := 0
  image : List Byte := []
  deriving DecidableEq, Repr

end Sys2Proof.Machine
end

