-- ==== Sys2Proof/Machine/StateLink.lean ====
section
/-!
DEFINITION. The parts of State that the chapters on arbiters, access tables and Vesin links name.
-/
namespace Sys2Proof.Machine

/-! ## Arbiters and access tables -/

/-- A request raised at an arbiter (R464 to R467): its source, master id and the port cycle it was raised in. -/
structure ArbReq where
  source : BitVec 4
  master : Byte
  raised : Nat
  deriving DecidableEq, Repr

/-- A port arbiter (R462 to R475, R484). -/
structure Arbiter where
  map     : B64 := 0xEDCB_A123_4658_970F
  shadow  : B64 := 0xEDCB_A123_4658_970F
  mapErr  : Bool := false
  compat  : Bool := false
  burst   : Byte := 32
  ageN    : Byte := 16
  maxWait : B32 := 0
  dead    : B32 := 0
  aged    : B32 := 0
  grants  : Nat := 0
  /-- requests raised and not granted, one of a source at a time (R464) -/
  waiting : List ArbReq := []
  /-- requesters whose source has another request raised: source and master id -/
  behind  : List (BitVec 4 × Byte) := []
  /-- the request that holds the port, until the next decision -/
  owner   : Option ArbReq := none
  /-- granules that it has moved (R469) -/
  moved   : Nat := 0
  /-- the master each source offered last (R464) -/
  offered : Map Byte := []
  deriving DecidableEq, Repr

/-- The access registers of a partition (R486). -/
structure AclRegs where
  sel    : BitVec 7 := 0
  denied : B32 := 0
  /-- ACL_LAST, with VALID in bit 63 -/
  last   : B64 := 0
  deriving DecidableEq, Repr

/-! ## Vesin -/

/-- The type-specific part of a message (R508, R509, R565, R584). -/
inductive MsgBody where
  | send (addr : Nat) (data : List Byte)
  | add (addr : Nat) (mask : B64) (step : Nat) (torn : Bool) (data : List Byte)
  | ack (answered : B64) (status : B16)
  | signal (stitch : B16) (value : B32)
  | sigReply (answered : B64) (status : B16)
  | mark (pos : B64)
  | verdict (step : Nat) (skip : Bool) (reason : Nat)
  | result (r : VetoResult)
  /-- DIGEST (R565): OP, LEVEL, EXPORT, STEP, CODE, node index -/
  | digest (op level ident step code node : Nat) (payload : List Byte)
  /-- FILL (R584): STREAM, export id or slice, IMG_NO, sheet index -/
  | fill (stream ident img sheet : Nat) (payload : List Byte)
  /-- FILL_CTRL (R583): OP and the fields A, B, C -/
  | fillCtrl (op a b c : Nat) (payload : List Byte)
  deriving DecidableEq, Repr

/-- Who waits for the reply to a message (R202, R512, R516). -/
inductive Waiter where
  | copy (p : Part) (ident : Nat)
  | signal (p : Part) (ident : Nat)
  | none
  deriving DecidableEq, Repr

/-- A message sent or waiting to be sent (R507, R513, R516, R520). -/
structure OutMsg where
  dst    : BitVec 6
  seq    : B64
  body   : MsgBody
  waiter : Waiter := .none
  port   : Option Port := Option.none
  tries  : Nat := 0
  /-- the master id of the engine whose request it is (R524) -/
  master : Option Nat := Option.none
  deriving DecidableEq, Repr

/-- Numbers accepted from a source position, with the status first given (R514). -/
structure SrcRecord where
  highest : Nat := 0
  seen    : Map B16 := []
  deriving DecidableEq, Repr

/-- The state of a port (R526). -/
inductive PortSt where
  | off | detect | train | up | retrain | isolated | down
  deriving DecidableEq, Repr

/-- Codes of R526. -/
def PortSt.code : PortSt → Nat
  | .off => 0
  | .detect => 1
  | .train => 2
  | .up => 3
  | .retrain => 4
  | .isolated => 5
  | .down => 6

/-- A message with bytes still to send on a port (R499): its source (0 the control channel, 1 the ladles, 2 the checkpoint
engine, 3 the assay engine), whether its first flit has gone, and the bytes left. -/
structure TxItem where
  src   : Nat
  begun : Bool
  left  : List Byte
  deriving DecidableEq, Repr

/-- A Vesin port: its registers (R535), training, and flit layer (R491 to R506). -/
structure VPort where
  state      : PortSt := .off
  width      : Nat := 0
  lanes      : Byte := 0
  good       : Byte := 0
  peerGood   : Byte := 0
  ksel       : Bool := false
  peerPos    : BitVec 6 := 62
  isoReason  : BitVec 4 := 0
  peerSerial : B64 := 0
  fecCorr    : B32 := 0
  fecUncorr  : B32 := 0
  replays    : B32 := 0
  authFail   : B32 := 0
  retrains   : B32 := 0
  downs      : B32 := 0
  txBytes    : B64 := 0
  rxBytes    : B64 := 0
  laserFail  : Bool := false
  /-- HELLO of full training: own nonce, and what the neighbour's said -/
  nonce      : B128 := 0
  peerFolio  : B32 := 0
  peerKeyId  : Byte := 0
  peerNonce  : B128 := 0
  helloIn    : Bool := false
  trained    : Bool := false
  /-- the neighbour's mask of a fast retrain, once its RETRAIN has arrived (R530) -/
  peerMask   : Option Byte := none
  /-- session keys (R504, R506): for sending, for receiving, and the previous one for receiving -/
  keyTx      : Option B256 := none
  keyRx      : Option B256 := none
  keyPrev    : Option B256 := none
  rxKsel     : Bool := false
  /-- a REKEY sent and not answered -/
  rekeying   : Bool := false
  rekeyed    : Bool := false
  /-- sending: next SEQ, flits not acknowledged with their sends, run counter, credits last seen, slots in use -/
  txSeq      : B16 := 0
  retry      : List (B16 × List Byte × Nat) := []
  txRun      : Nat := 0
  creditD    : BitVec 12 := 0
  creditC    : BitVec 6 := 0
  outD       : Nat := 0
  outC       : Nat := 0
  /-- messages with bytes still to send -/
  txQueue    : List TxItem := []
  /-- the source of the last data flit; the first rotation begins at the ladles (R499) -/
  lastSrc    : Nat := 3
  /-- control flits sent since the last data flit (R498) -/
  ctrlRun    : Nat := 0
  /-- messages of which some flit is not acknowledged, with the SEQ of the last one once it is sent (R533) -/
  carrying   : List (OutMsg × Option B16) := []
  /-- receiving: SEQ expected, run counter, flits of the run under way, slots freed, bytes of each channel's message -/
  rxSeq      : B16 := 0
  discarding : Bool := false
  rxRun      : Nat := 0
  rxFlits    : List (List Byte) := []
  freedD     : BitVec 12 := 0
  freedC     : BitVec 6 := 0
  partial0   : List Byte := []
  partial1   : List Byte := []
  /-- bits of flits that fill no codeword yet, and decoded bits of which no flit has been taken yet (R490) -/
  txBits     : List Bool := []
  rxBits     : List Bool := []
  /-- the LINK request this end repeats, as a flit body (R500) -/
  linkReq    : Option (List Byte) := none
  /-- times of recent tag failures, in ns (R505) -/
  failTimes  : List Nat := []
  deriving DecidableEq, Repr

/-- The folio registers, message layer and ports (R507 to R536). -/
structure Vesin where
  ports     : Map VPort := []
  folioId   : B32 := 0
  fpart     : Part := 0
  fvalid    : Bool := false
  myPos     : BitVec 6 := 0
  curKey    : Option (Byte × B256) := none
  nextKey   : Option (Byte × B256) := none
  linkHold  : BitVec 10 := 100
  portEn    : Byte := 0
  vmap      : Map Byte := []
  misroute  : B32 := 0
  dup       : B32 := 0
  resent    : B32 := 0
  timeouts  : B32 := 0
  /-- MSG_SEQ last used to each position (R513) -/
  seqOut    : Map B64 := []
  /-- numbers accepted from each position (R514) -/
  seqIn     : Map SrcRecord := []
  /-- reply-bearing messages awaiting a reply, and messages waiting for a port or for room (R515, R534) -/
  awaiting  : List OutMsg := []
  waiting   : List OutMsg := []
  /-- positions whose LINK_HOLD has run out while no port to them was UP (R534, R570) -/
  expired   : List Nat := []
  /-- every message handed to a port, oldest first -/
  sent      : List OutMsg := []
  /-- flits put on the fibre, oldest first -/
  wire      : List (Nat × List Byte) := []
  /-- codewords put on the lanes of a port, each lane's symbols in lane order, oldest first (R490) -/
  coded     : List (Nat × List (List Nat)) := []
  /-- messages delivered and not yet taken up -/
  inbox     : List Instr := []
  /-- uncorrectable codewords over all ports since the last link sample, saturating (R778) -/
  unsampled : B32 := 0
  /-- headers of the messages at the front of these whose writes wait: they are still being applied (R514) -/
  applying  : List MsgHdr := []
  deriving DecidableEq, Repr

/-- Port `v`. -/
def Vesin.port (x : Vesin) (v : Port) : VPort := Map.getD x.ports v.val {}

/-- Port `v` changed. -/
def Vesin.setPort (x : Vesin) (v : Port) (q : VPort) : Vesin := { x with ports := Map.setD {} x.ports v.val q }

end Sys2Proof.Machine
end

