-- ==== Sys2Proof/Machine/StateRes.lean ====
section
/-!
DEFINITION. The parts of State that the chapters on checkpoints, assay, stand-by take-over and the package name.
-/
namespace Sys2Proof.Machine

/-! ## Checkpoints -/

/-- STATE of an image (R538). -/
inductive ImgState where
  | empty | writing | sealed
  deriving DecidableEq, Repr

/-- A captured slice: its directory entry (R545), and its sheets with their hallmarks (R542, R550). -/
structure SliceRec where
  slice    : Nat
  exportId : Nat
  object   : Nat
  sheets   : Nat
  policy   : B128
  root     : B256
  data     : Map (List Byte) := []
  marks    : Map B256 := []
  deriving DecidableEq, Repr

/-- A punch-set record (R431, R544). -/
structure PunchRec where
  slot  : Nat
  gen   : Byte
  image : List Byte
  deriving DecidableEq, Repr

/-- The partition record (R340, R544). -/
structure PartRecord where
  pos    : B64
  draws  : List B64
  seeds  : B64
  hist   : List HistEntry
  events : Map Event
  punch  : List PunchRec
  deriving DecidableEq, Repr

/-- An image of a checkpoint or mirror set (R538 to R545). -/
structure Image where
  /-- sheets of its slot, and the position that the set's option block names: the mirror's, or at a mirror the source's -/
  capacity  : Nat := 0
  peer      : Nat := 63
  atMirror  : Bool := false
  imgNo     : Nat := 0
  step      : Nat := 0
  state     : ImgState := .empty
  committed : Bool := false
  source    : Nat := 0
  folioId   : B32 := 0
  sealDig   : B256 := 0
  slices    : List SliceRec := []
  final     : Bool := false
  partRec   : Option PartRecord := none
  /-- at a mirror: the header, directory and record have arrived -/
  gotDir    : Bool := false
  gotHead   : Bool := false
  /-- punch sets that captured packed objects name, as they were (R431) -/
  punch     : List PunchRec := []
  deriving DecidableEq, Repr

/-- A staged capture under way (R548): the sheets pending, and those the staging regions hold. -/
structure Snap where
  firing  : Firing
  handle  : Nat
  pending : List Nat
  punch   : List PunchRec := []
  staged  : Map (List Byte) := []
  deriving DecidableEq, Repr

/-- A standby commit that waits for its mirror (R554). -/
structure CommitWait where
  firing : Firing
  set   : Nat
  slot  : Nat
  imgNo : Nat
  step  : Nat
  mirror : Nat
  deriving DecidableEq, Repr

/-! ## Assay -/

/-- A comparison in progress (R562 to R569). -/
structure Assay where
  firing   : Firing
  ident    : Nat
  step     : Nat
  handle   : Nat
  replicas : List Nat
  stitch   : Nat
  sig      : Bool
  /-- digests of the tree: level 0 first -/
  tree     : List (List B128)
  referee  : Bool
  roots    : Map B128 := []
  /-- queries out: level and node, with the digests each position has returned -/
  queries  : List (Nat × Nat × Map (List B128)) := []
  descending : Bool := false
  /-- differing sheets: sheet, first differing block, majority position, minority positions -/
  differ   : List (Nat × Nat × Option Nat × List Nat) := []
  /-- sheets this module still has to repair: sheet, source, times requested again -/
  repairs  : List (Nat × Nat × Nat) := []
  /-- the decided result, with the first differing block of the object -/
  result   : Option (Nat × Nat) := none
  deriving DecidableEq, Repr

/-! ## Membership and take-over -/

/-- What the coordinator knows of a standby (R579, R592). -/
structure Standby where
  state : BitVec 3 := 0
  takes : BitVec 6 := 0
  cover : B32 := 0
  deriving DecidableEq, Repr

/-- A fill that runs (R582 to R585). -/
structure Fill where
  dest    : Nat
  ident   : Nat
  source  : Nat
  /-- sheets not yet received -/
  wanted  : List Nat
  retries : Map Nat := []
  /-- the status with which the fill ends, when it has failed -/
  bad     : Option B16 := none
  root    : Option B256 := none
  deriving DecidableEq, Repr

/-- A filled object to verify (R586): its export id, source, and the root that the source or the directory gives. -/
structure Filled where
  dest   : Nat
  ident  : Nat
  source : Nat
  root   : Option B256 := none
  deriving DecidableEq, Repr

/-- A take-over that the coordinator runs (R580, R587, R588). -/
structure Takeover where
  d        : Nat
  standby  : Nat
  /-- the STEP of the mirror image, once a fill of a rollback take-over has read it -/
  mirror   : Option Nat := none
  /-- READY has come, and the folio rollback has still to run -/
  isReady  : Bool := false
  deriving DecidableEq, Repr

/-- A folio rollback that the leader runs (R576): members still to answer, and the STEPs each answer held committed. -/
structure Rollback where
  waiting : List Nat
  answers : List (List Nat)
  command : Bool
  deriving DecidableEq, Repr

/-- The resilience state of a partition (R574 to R593). -/
structure Res where
  autoRollback : Bool := true
  armEn        : Bool := false
  assayWait    : BitVec 10 := 100
  sbState      : BitVec 3 := 0
  takes        : BitVec 6 := 0
  hold         : BitVec 6 := 0
  members      : BitVec 40 := 0
  holdMark     : B64 := 0
  rbSet        : B32 := 0
  rbList       : B64 := 0
  assayLast    : B64 := 0
  diverged     : B64 := 0
  slices       : B32 := 0
  seals        : B32 := 0
  abandons     : B32 := 0
  unstaged     : B32 := 0
  snapHolds    : B32 := 0
  repairs      : B32 := 0
  dropped      : B32 := 0
  fillRetries  : B32 := 0
  exports      : Map Nat := []
  standbys     : Map Standby := []
  /-- positions between REMOVE and a commit (R573) -/
  removed      : List Nat := []
  /-- positions that a COMMIT_POS has given a new holder (R590) -/
  recommitted  : List Nat := []
  takeovers    : List Takeover := []
  snap         : Option Snap := none
  /-- partition records captured at FINAL firings still queued: entry index, position (R543) -/
  finals       : List (Nat × B64 × PartRecord) := []
  commits      : List CommitWait := []
  assays       : List Assay := []
  fills        : List Fill := []
  filled       : List Filled := []
  /-- positions whose veto state and position VERIFYING has collected, with the highest position (R67, R586) -/
  collected    : List Nat := []
  highest      : B64 := 0
  rollback     : Option Rollback := none
  /-- the STEP that a folio rollback restores once operations in flight have completed; nothing issues meanwhile -/
  rollTo       : Option Nat := none
  /-- COMMIT_IMG messages whose image has not sealed yet: position, STEP, IMG_NO (R554) -/
  deferred     : List (Nat × Nat × Nat) := []
  /-- ROOT messages for comparisons that have not fired here yet: export id, STEP, position, root -/
  earlyRoots   : List (Nat × Nat × Nat × B128) := []
  deriving DecidableEq, Repr

/-! ## Package -/

/-- The state of a spine-quarter link (R705). -/
inductive D2dSt where
  | down | train | up | retrain
  deriving DecidableEq, Repr

/-- Codes of PKG_D2D STATE. -/
def D2dSt.code : D2dSt → Nat
  | .down => 0
  | .train => 1
  | .up => 2
  | .retrain => 3

/-- A spine-quarter link and the spine's end of its width settlement (R670 to R679, R705). -/
structure D2d where
  state      : D2dSt := .up
  width      : Nat := 8
  groups     : Byte := 0xFF
  retired    : Byte := 0
  disagree   : BitVec 2 := 0
  round      : BitVec 4 := 0
  fence      : BitVec 3 := 0
  retrains   : B32 := 0
  replays    : B32 := 0
  disagrees  : B32 := 0
  /-- the mask this end proposes, what it confirmed, and failed tokens of the exchange -/
  myMask     : Byte := 0xFF
  chosen     : Option (Byte × Nat) := none
  /-- the groups both masks of this exchange held when this end confirmed -/
  usable     : Byte := 0xFF
  ownToken   : B32 := 0
  crcFails   : Nat := 0
  /-- tokens sent on the sideband lanes, oldest first -/
  tokens     : List B32 := []
  deriving DecidableEq, Repr

/-- The heat of a stake (R689 to R691). -/
structure Stake where
  sensor  : BitVec 4 := 0
  temp    : B16 := 0
  peak    : B16 := 0
  fq      : Nat := 1400
  cool    : Nat := 0
  deriving DecidableEq, Repr

/-- A violation in a firewall log (R699). -/
structure Violation where
  kind   : BitVec 4
  master : Byte
  detail : BitVec 40
  deriving DecidableEq, Repr

/-- The state of a guest site (R705). -/
inductive GuestSt where
  | empty | train | up | fenced
  deriving DecidableEq, Repr

/-- Codes of PKG_GST_STATUS STATE. -/
def GuestSt.code : GuestSt → Nat
  | .empty => 0
  | .train => 1
  | .up => 2
  | .fenced => 3

/-- A guest site and its firewall (R695 to R705). -/
structure Guest where
  state    : GuestSt := .empty
  fence    : BitVec 3 := 0
  viol     : B32 := 0
  rateWait : B32 := 0
  last     : B64 := 0
  bytes    : B64 := 0
  log      : List Violation := []
  /-- requests held by a rate: id, request -/
  held     : List (Byte × GuestReq) := []
  /-- times of violations, in ns, and of the last journal entry; violations since it -/
  violTimes : List Nat := []
  lastEntry : Option Nat := none
  since     : List Violation := []
  /-- times and sizes of passed requests by id, for the rates (R698) -/
  passed    : List (Byte × Nat × Nat) := []
  /-- responses given, oldest first: id and what the request gets -/
  answers   : List (Byte × B16 × List Byte) := []
  deriving DecidableEq, Repr

/-- The package (R667 to R705). -/
structure Package where
  d2d       : Quad D2d := .all {}
  stakes    : Quad Stake := .all {}
  clockMhz  : Nat := 1400
  chosenMhz : Nat := 1400
  throttle  : B32 := 0
  changes   : B32 := 0
  guest0    : Guest := {}
  guest1    : Guest := {}
  deriving DecidableEq, Repr

end Sys2Proof.Machine
end

