-- ==== Sys2Proof/Machine/StatePower.lean ====
section
/-!
DEFINITION. The parts of State that the chapter on power, start-up and security names.
-/
namespace Sys2Proof.Machine

/-- How far a start has come (R727): without housekeeping power; waiting for stage 1; waiting for PWR_EN in stage 2;
in stage 3; READY; in minimal mode; after a failed start, before the retry (R732); after a power-down (R713). -/
inductive Stage where
  | unpowered | boot | waitPwr | bringUp | ready | minimal | retryWait | poweredDown
  deriving DecidableEq, Repr

/-- A firmware slot of the boot flash (R737, R738): empty mark, and the bytes written since manufacture. -/
structure FwSlot where
  empty : Bool := false
  bytes : Map Byte := []
  deriving DecidableEq, Repr

/-- Who is staging firmware (R740). -/
inductive StagePath where
  | idle | command | pldm
  deriving DecidableEq, Repr

/-- A PLDM event (R751): sensor number and reading. -/
structure PldmEvent where
  sensor : Nat
  value  : Nat
  deriving DecidableEq, Repr

/-- Power, boot, keys, management bus (R706 to R752, R761 to R767). -/
structure Power where
  pinW       : B16 := 0
  vinMv      : B16 := 0
  overvolt   : Bool := false
  undervolt  : Bool := false
  thermtrip  : Bool := false
  pwrGood    : Bool := false
  pwrEn      : Bool := false
  limit      : BitVec 12 := 2800
  rails      : BitVec 24 := 0x3
  clockMhz   : Nat := 1400
  peakW      : B32 := 0
  limitedMs  : B32 := 0
  railFaults : BitVec 24 := 0
  /-- consecutive windows below 95 % of the limit, and above it at 400 MHz (R716, R717) -/
  lowWins    : Nat := 0
  overWins   : Nat := 0
  /-- the THERMTRIP_N output, low after a trip until PWR_EN is deasserted (R765) -/
  tripPin    : Bool := false
  stage      : Stage := .boot
  minReason  : Byte := 0
  /-- minimal mode for want of the PUF key, to which a DEV_RESET returns until an update or a record is accepted (R736) -/
  pufLost    : Bool := false
  recovery   : Bool := false
  /-- after a power-down, PWR_EN has since been deasserted (R713) -/
  rearmed    : Bool := false
  /-- boot record (R729) -/
  active     : Bool := false
  trial      : Option Bool := none
  failCount  : BitVec 2 := 0
  reasons    : List Byte := []
  /-- the previous increment has its reason recorded, or reached READY (R730) -/
  reasonDone : Bool := true
  runSlot    : Bool := false
  ranTrial   : Bool := false
  runSvn     : B16 := 0
  runVersion : B32 := 0
  /-- anti-rollback counters by KIND (R725) -/
  counters   : Map B16 := []
  slotA      : FwSlot := {}
  slotB      : FwSlot := {}
  /-- who stages, and whether the slot that is not ACTIVE has been marked empty since (R737) -/
  staging    : StagePath := .idle
  staged     : Bool := false
  /-- records accepted since manufacture, by KIND -/
  records    : Map (List Byte) := []
  /-- manufacturing and population records accepted since device reset, in force from the next -/
  newRecords : Map (List Byte) := []
  assayKey   : Option B256 := none
  /-- straps sampled at power-on (R762) -/
  i3cAddr    : BitVec 2 := 0
  /-- the PLDM sensors as last updated (R751) -/
  sensors    : SensorReadings := ⟨0, 0, 0, 0, 0⟩
  stakeTemps : Quad B16 := .all 0
  arrayClock : Nat := 1400
  pldm       : List PldmEvent := []
  /-- responses on the management bus, oldest first -/
  responses  : List (List Byte) := []
  deriving DecidableEq, Repr

end Sys2Proof.Machine
end

