-- ==== Sys2Proof/Machine/State.lean ====
section
/-!
DEFINITION. The state of the module, the reasons a command can stop, and the state after device reset.
-/
namespace Sys2Proof.Machine

/-- Reasons for a fault. No command of this block stops with a fault: what the manual calls a fault (a program fault,
a denied request, an uncorrectable error) is an effect on the state. The one reason stands for a step that the manual
gives no effect at all; nothing raises it, which is safe. -/
inductive Fault where
  /-- Raised by no command: safe. -/
  | noEffect
  deriving DecidableEq, Repr

/-- Reasons for a refusal. -/
inductive Refusal where
  /-- The command with this mnemonic has no meaning yet; raised by its arm of `exec` alone. Safe. -/
  | notModelled (mnemonic : String)
  deriving DecidableEq, Repr

/-- What each partition has of its own. -/
structure PartState where
  host  : HostPart := {}
  cad   : Cad := {}
  bench : Bench := {}
  veto  : Veto := {}
  pln   : Planisher := {}
  tier  : TierRegs := {}
  stc   : StcRegs := {}
  acl   : AclRegs := {}
  res   : Res := {}
  /-- compression counters (R434) -/
  packed       : B32 := 0
  packedRaw    : B32 := 0
  decodeErr    : B32 := 0
  tableRefused : B32 := 0
  saved        : B64 := 0
  deriving DecidableEq, Repr

/-- The state of the module. -/
structure State where
  /-- commands that wait, first in, first out: the model's own -/
  pending  : List Instr
  /-- draws of free values so far: the model's own (DESIGN CHOICE) -/
  freeCtr  : Nat
  parts    : Quad PartState
  host     : HostDev
  cad      : CadDev
  array    : ArrayDev
  /-- contributions on their way to their sheets (R270) -/
  contribs : List Contribution
  flash    : Flash
  /-- bytes of every memory: stake by window offset, and the tiers by frame; unlisted bytes are zero (R357, R613) -/
  mem      : Map Byte
  /-- images of checkpoint and mirror sets, by region, first frame and slot; kept in flash (R380, R537) -/
  images   : Map Image
  slots    : Map PunchSlot
  stitches : Map Stitch
  arbs     : Map Arbiter
  /-- rows changed from their values after reset, by table × 256 + master (R477 to R483) -/
  acl      : Map Byte
  vesin    : Vesin
  pkg      : Package
  power    : Power
  deriving DecidableEq, Repr

/-- Partition `p`. -/
def State.part (s : State) (p : Part) : PartState := s.parts.get p

/-- Partition `p` changed by `f`. -/
def State.upd (s : State) (p : Part) (f : PartState → PartState) : State := { s with parts := s.parts.modify p f }

/-- The RESET journal entry with which each journal begins after power-up (R613, R778): cause 4. -/
def resetEntry : JEntry :=
  { jseq := 1, time := 0, pos := 0, kind := 0x0070, status := 0, detail := place 224 216 4 }

/-- A partition after device reset (R605, R613). HST_IRQ_STATUS shows vector 2, which the RESET entry raised (R637). -/
def PartState.reset : PartState :=
  { host := { jseq := 1, journal := [(1, resetEntry)], irqStatus := 4 } }

/-- The module right after device reset on power-up: every register at the value its table gives, partition 0 with the
whole stake range and the first 64 × 256 stitches (R399, R440, R461). -/
def State.reset : State where
  pending  := []
  freeCtr  := 0
  parts    :=
    ⟨{ PartState.reset with tier := { stakeLimit := 91 }, stc := { count := 64 } },
      PartState.reset, PartState.reset, PartState.reset⟩
  host     := {}
  cad      := {}
  array    := {}
  contribs := []
  flash    := {}
  mem      := []
  images   := []
  slots    := []
  stitches := []
  arbs     := []
  acl      := []
  vesin    := {}
  pkg      := {}
  power    := {}

end Sys2Proof.Machine
end

