-- ==== Sys2Proof/Machine/Ops.lean ====
section
/-!
DEFINITION. The operations every family shares: free values, time, interrupts, the journal, replies, host memory, access
rows, and the start of a host command (R629 to R639, R655 to R660).
-/
namespace Sys2Proof.Machine

/-! ## Status codes (R638) -/

abbrev stOk : B16 := 0x0000
abbrev stAccepted : B16 := 0x0001
abbrev stBusy : B16 := 0x0010
abbrev stBadOpcode : B16 := 0x0020
abbrev stBadParam : B16 := 0x0021
abbrev stBadSeal : B16 := 0x0022
abbrev stSeqGap : B16 := 0x0023
abbrev stNoAccess : B16 := 0x0030
abbrev stConflict : B16 := 0x0031
abbrev stQuarterLost : B16 := 0x0040
abbrev stStitchBroken : B16 := 0x0041
abbrev stTableInUse : B16 := 0x0042
abbrev stDigest : B16 := 0x0050
abbrev stDiverged : B16 := 0x0051
abbrev stRealigned : B16 := 0x0052
abbrev stLinkDegraded : B16 := 0x0060
abbrev stVeto : B16 := 0x0070
abbrev stMinimal : B16 := 0x0080
abbrev stInternal : B16 := 0x00FF

/-! ## Free values and time -/

/-- The next free value is drawn from the next count. -/
def State.tick (s : State) : State := { s with freeCtr := s.freeCtr + 1 }

/-- CAD_TIME: 0 while not set, else the loaded time and what has run since (R80). -/
def State.timeNow (s : State) : B64 := if s.cad.wall = 0 then 0 else s.cad.wall + Config.elapsedNs s.freeCtr

/-- CAD_TIME as a partition reads it: 0 from its reset on until wall time is loaded again (R14, R86). -/
def State.timeOf (s : State) (p : Part) : B64 := if (s.part p).cad.loadsAt = s.cad.loads then 0 else s.timeNow

/-! ## Updates of one partition's parts -/

def State.updHost (s : State) (p : Part) (f : HostPart → HostPart) : State := s.upd p fun x => { x with host := f x.host }
def State.updCad (s : State) (p : Part) (f : Cad → Cad) : State := s.upd p fun x => { x with cad := f x.cad }
def State.updBench (s : State) (p : Part) (f : Bench → Bench) : State := s.upd p fun x => { x with bench := f x.bench }
def State.updVeto (s : State) (p : Part) (f : Veto → Veto) : State := s.upd p fun x => { x with veto := f x.veto }
def State.updPln (s : State) (p : Part) (f : Planisher → Planisher) : State := s.upd p fun x => { x with pln := f x.pln }
def State.updTier (s : State) (p : Part) (f : TierRegs → TierRegs) : State := s.upd p fun x => { x with tier := f x.tier }
def State.updStc (s : State) (p : Part) (f : StcRegs → StcRegs) : State := s.upd p fun x => { x with stc := f x.stc }
def State.updAcl (s : State) (p : Part) (f : AclRegs → AclRegs) : State := s.upd p fun x => { x with acl := f x.acl }
def State.updRes (s : State) (p : Part) (f : Res → Res) : State := s.upd p fun x => { x with res := f x.res }
/-- Stream `st` of partition `p` changed. -/
def State.updStream (s : State) (p : Part) (st : Strm) (f : Stream → Stream) : State :=
  s.updBench p fun b => { b with streams := b.streams.modify st f }

/-- Stream `st` of partition `p`. -/
def State.stream (s : State) (p : Part) (st : Strm) : Stream := (s.part p).bench.streams.get st

/-! ## Interrupts, alert, bus -/

/-- Something goes out on the links. -/
def State.out (s : State) (e : BusEvent) : State := { s with host := { s.host with bus := s.host.bus ++ [e] } }

/-- Vector `v`'s condition occurs for function `p` (R637, R665). -/
def raiseIrq (p : Part) (v : Fin 4) (s : State) : State :=
  let s := s.updHost p fun h => { h with irqStatus := h.irqStatus ||| (1#4 <<< v.val) }
  if (s.part p).host.irqMask.getLsbD v.val then s.out (.msi p v) else s

/-- The management alert: the ALERT_N pin low, and vector 3 of every function (R637, R761). -/
def raiseAlert (s : State) : State :=
  let s := { s with host := { s.host with alertN := false } }
  four.foldl (fun s p => raiseIrq p 3 s) s

/-! ## Journal (R655 to R660) -/

/-- Journal kinds that raise no interrupt: COMMAND, ACCEPT, DONE (R637). -/
def quietKind (k : B16) : Bool := k == 0x0001 || k == 0x0002 || k == 0x0003

/-- Writes a journal entry of partition `p` (R655, R656). -/
def journal (p : Part) (kind status opcode tag : B16) (seq : B32) (detail : BitVec 224) (s : State) : State :=
  let h := (s.part p).host
  let j := h.jseq + 1
  let e : JEntry := { jseq := j, time := s.timeOf p, pos := (s.part p).cad.pos, kind, status, opcode, tag, seq, detail }
  let s := (s.updHost p fun h => { h with jseq := j, journal := Map.insert h.journal (j.toNat % 4096) e }).tick
  if quietKind kind then s else raiseIrq p 2 s

/-- An entry that no command makes. -/
def note (p : Part) (kind status : B16) (detail : BitVec 224) (s : State) : State :=
  journal p kind status 0 0 0 detail s

/-- An entry about the whole module: in partition 0 and in every other open partition that it affects (R660). -/
def noteAll (kind status : B16) (detail : BitVec 224) (affects : Part → Bool) (s : State) : State :=
  four.foldl (fun s p => if p = 0 || ((s.part p).host.pstate == .opened && affects p) then note p kind status detail s
    else s) s

/-- The bytes of a journal entry (R655). -/
def JEntry.bytes (e : JEntry) : List Byte :=
  leBytes 28 e.detail.toNat ++ leBytes 4 e.seq.toNat ++ leBytes 2 e.tag.toNat ++ leBytes 2 e.opcode.toNat ++
    leBytes 2 e.status.toNat ++ leBytes 2 e.kind.toNat ++ leBytes 8 e.pos.toNat ++ leBytes 8 e.time.toNat ++
    leBytes 8 e.jseq.toNat

/-! ## Host memory and replies (R598, R633 to R636) -/

/-- The module writes bytes to the memory of the host behind function `fn`. -/
def hostWrite (fn : Part) (addr : B64) (bytes : List Byte) (s : State) : State :=
  let put (m : Map Byte) (e : Byte × Nat) : Map Byte := Map.insert m (fn.val * 2 ^ 64 + (addr.toNat + e.2) % 2 ^ 64) e.1
  { s with host := { s.host with hostMem := bytes.zipIdx.foldl put s.host.hostMem } }

/-- The 32 bytes of a reply, with its phase (R633). -/
def Reply.bytes (r : Reply) (phase : Bool) : List Byte :=
  leBytes 16 r.result.toNat ++ leBytes 4 (2 ^ 31 * bit phase) ++ leBytes 4 r.jseq.toNat ++ leBytes 4 r.seq.toNat ++
    leBytes 2 r.status.toNat ++ leBytes 2 r.tag.toNat

/-- Whether reply number `replyTail` may be written (R635), and the partition is attached (R609). -/
def canReply (h : HostPart) : Bool :=
  h.pstate != .detached && decide ((h.replyTail - h.replyHead).toNat < 2 ^ h.ringLog2.toNat)

/-- Writes one reply into the ring (R634). -/
def writeReply (p : Part) (r : Reply) (s : State) : State :=
  let h := (s.part p).host
  let n := h.ringLog2.toNat
  let i := h.replyTail.toNat
  let s := hostWrite p (h.ringBase + BitVec.ofNat 64 (32 * (i % 2 ^ n))) (r.bytes (i / 2 ^ n % 2 == 0)) s
  let s := s.updHost p fun h => { h with replyTail := h.replyTail + 1 }
  raiseIrq p 0 s

/-- Writes held replies in order for as long as the ring has room (R610, R635). -/
def flushHeld (p : Part) : List Reply → State → State
  | [], s => s.updHost p fun h => { h with held := [] }
  | r :: rs, s =>
    if canReply (s.part p).host then flushHeld p rs (writeReply p r s)
    else s.updHost p fun h => { h with held := r :: rs }

/-- A reply is made: written, or held behind those already held (R635). Where no ring has been named since device reset, it
has nowhere to go. -/
def postReply (p : Part) (r : Reply) (s : State) : State :=
  if (s.part p).host.ringLog2 = 0 then s
  else if (s.part p).host.held.isEmpty && canReply (s.part p).host then writeReply p r s
  else s.updHost p fun h => { h with held := h.held ++ [r] }

/-- RING_FULL (R635, R664). -/
def ringFull (h : HostPart) : Bool := !h.held.isEmpty && h.pstate != .detached

/-! ## Access rows (R477 to R482) -/

/-- Rights of R478. -/
inductive Right where
  | r | w | s | l | a | c
  deriving DecidableEq, Repr

/-- The bit of a right. -/
def Right.bit : Right → Nat
  | .r => 0
  | .w => 1
  | .s => 2
  | .l => 3
  | .a => 4
  | .c => 5

/-- The kind of a table's target (R477): 0 tier controller, 1 stitch bank, 2 Vesin port, 3 register window, 4 guest port. -/
def tableKind (t : Nat) : Nat :=
  if t < 56 then 0 else if t < 72 then 1 else if t < 80 then 2 else if t < 84 then 3 else 4

/-- The signed record of KIND `k` in force (R724). -/
def State.signedRec (s : State) (k : Nat) : List Byte := Map.getD s.power.records k (Config.factoryRecord k)

/-- The manufacturing record of assembly: no record accepted later changes the ordering code or the population code (R6). -/
def assemblyRec : List Byte := Config.factoryRecord 2

/-- Whether the module is a CY9400-MG (R4). -/
def State.isMG (_ : State) : Bool := Config.recIsMG assemblyRec

/-- The population code that the module reports: 01 to 99, and 0 on a CY9400-MA (R5, R6, R7). -/
def State.popCode (s : State) : Nat := if s.isMG then (Config.recPopIndex assemblyRec).val + 1 else 0

/-- The rights that a table's kind of target serves (R478, R479). -/
def rightsServed (t : Nat) : Byte :=
  match tableKind t with
  | 0 => 0x33
  | 1 => 0x2D
  | 2 => 0x37
  | 3 => 0x03
  | _ => 0x23

/-- The row of a guest id at a table: from the population record, the rights alone that the table's target serves, none at a
register window, and 0 on CY9400-MA (R478, R481, R482). -/
def guestRow (s : State) (m t : Nat) : Byte :=
  if s.isMG && tableKind t ≠ 3 then Config.recGuestRow (s.signedRec 3) (Fin.ofNat 16 m) t &&& rightsServed t else 0

/-- The row after device reset (R481). -/
def resetRow (s : State) (t m : Nat) : Byte :=
  let k := tableKind t
  if m < 4 then (match k with | 0 => 0x03 | 1 => 0x2D | 3 => if t = 80 + m then 0x03 else 0 | _ => 0)
  else if 0x08 ≤ m && m ≤ 0x0B then (match k with | 0 => 0x13 | 1 => 0x0D | 2 => 0x16 | 4 => 0x03 | _ => 0)
  else if 0x10 ≤ m && m ≤ 0x1F then guestRow s m t
  else if m = 0x20 then (match k with | 0 => 0x33 | 1 => 0x2D | 2 => 0x37 | 3 => 0x03 | _ => 0x23)
  else if m = 0x21 || m = 0x22 then (match k with | 0 => 0x03 | 1 => 0x04 | _ => 0)
  else if m = 0x23 || m = 0x24 then (match k with | 0 => 0x03 | 1 => 0x04 | 2 => 0x03 | _ => 0)
  else if 0x30 ≤ m && m ≤ 0x37 then (match k with | 0 => 0x13 | 1 => 0x04 | _ => 0)
  else if 0x40 ≤ m && m ≤ 0x43 then (match k with | 0 => 0x13 | _ => 0)
  else 0

/-- The row in force. -/
def aclRow (s : State) (t m : Nat) : Byte := Map.getD s.acl (t * 256 + m) (resetRow s t m)

/-- Whether target `t` grants master `m` a right (R479, R480). -/
def aclGrants (s : State) (t m : Nat) (g : Right) : Bool := (aclRow s t m).getLsbD g.bit

/-- Records a denial for the partition the request acts for (R480, R486). -/
def denied (p : Part) (t m : Nat) (g : Right) (detail : Nat) (s : State) : State :=
  s.updAcl p fun a => { a with
    denied := satAdd a.denied 1
    last := 0x8000_0000_0000_0000#64 ||| place 64 56 (t % 128) ||| place 64 48 (m % 256) ||| place 64 42 (2 ^ g.bit) |||
      BitVec.ofNat 64 (detail % 2 ^ 40) }

/-! ## Host commands (R622 to R639) -/

/-- Who may issue a command (R639). -/
inductive Issuer where
  | any | p0 | folio | p0OrFolio
  deriving DecidableEq, Repr

/-- What the tables say of a command: opcode, L, M, issuer, and which header bits and parameters are its own. -/
structure CmdInfo where
  opcode  : B16
  long    : Bool := false
  minimal : Bool := false
  issuer  : Issuer := .any

/-- What a command does at its start, after the checks of R631. -/
inductive CmdOut where
  /-- completes with a status and RESULT -/
  | done (status : B16) (result : B128 := 0)
  /-- a long command is in progress -/
  | started (w : LongWork)
  /-- completes without reply or entry (DEV_RESET) -/
  | silent

/-- OK without RESULT. -/
abbrev cmdOk : CmdOut := .done stOk 0

/-- The partition of the folio, if the module belongs to one (R517). -/
def State.folioPart (s : State) : Option Part := if s.vesin.fvalid then some s.vesin.fpart else none

/-- Whether the issuer is allowed (R639). -/
def issuerOk (s : State) (i : Issuer) (p : Part) : Bool :=
  match i with
  | .any => true
  | .p0 => p = 0
  | .folio => s.folioPart = some p
  | .p0OrFolio => p = 0 || s.folioPart = some p

/-- Whether the module is in minimal mode (R734). -/
def State.minimal (s : State) : Bool := s.power.stage == .minimal

/-- The first free place of the long-command table (R630, R664). -/
def freeLong (h : HostPart) : Option Nat := firstBelow 16 fun i => (Map.find? h.longs i).isNone

/-- Whether an accepted command may start now (R629, R630, R635). -/
def canStart (h : HostPart) (long fence : Bool) : Bool :=
  (h.starting || h.accepted.isEmpty) && !(fence && !h.longs.isEmpty) && !(long && (freeLong h).isNone) &&
    !(h.held.any fun x => x.short)

/-- QUIET (R622, R632). -/
def cmdQuiet (h : CmdHdr) : Bool := h.flags.getLsbD 1

/-- FENCE (R622, R629). -/
def cmdFence (h : CmdHdr) : Bool := h.flags.getLsbD 0

/-- The outcome of a short command, or of one that its checks refuse: a COMMAND entry, then the reply (R632, R658, R659). -/
def finishShort (h : CmdHdr) (opcode status : B16) (result : B128) (s : State) : State :=
  let s := journal h.fn 0x0001 status opcode h.tag h.seq (result.setWidth 224) s
  if cmdQuiet h && status = stOk then s
  else postReply h.fn ⟨h.tag, status, h.seq, (s.part h.fn).host.jseq.setWidth 32, result, true⟩ s

/-- The start of a long command: an ACCEPT entry and the reply ACCEPTED (R630, R658). -/
def startLong (h : CmdHdr) (opcode : B16) (params : List Byte) (w : LongWork) (s : State) : State :=
  let s := journal h.fn 0x0002 stAccepted opcode h.tag h.seq (BitVec.ofNat 224 (leNat (params.take 20))) s
  let j := (s.part h.fn).host.jseq
  let i := (freeLong (s.part h.fn).host).getD 0
  let s := s.updHost h.fn fun x =>
    { x with longs := Map.insert x.longs i ⟨h.seq, h.tag, opcode, j, cmdQuiet h, w⟩ }
  if cmdQuiet h then s else postReply h.fn ⟨h.tag, stAccepted, h.seq, j.setWidth 32, 0, false⟩ s

/-- A packet that its partition cannot accept (R611). -/
def dropPacket (p : Part) (s : State) : State :=
  s.updHost p fun h => { h with closedDrops := satAdd h.closedDrops 1 }

/-- The status with which the checks of R631 end the command, if they do. `bad` says that a parameter holds an unlisted
encoding (R19). -/
def cmdChecks (info : CmdInfo) (h : CmdHdr) (bad : Bool) (s : State) : Option B16 :=
  if s.minimal && !info.minimal then some stMinimal
  else if h.partition.toNat ≠ h.fn.val || !issuerOk s info.issuer h.fn then some stNoAccess
  else if bad || h.rsvd || decide (h.flags.toNat ≥ 4) then some stBadParam
  else none

/-- Puts a command's outcome into the journal and the replies. -/
def finishCmd (info : CmdInfo) (h : CmdHdr) (params : List Byte) (r : CmdOut × State) : State :=
  match r.1 with
  | .done st res => finishShort h info.opcode st res r.2
  | .started w => startLong h info.opcode params w r.2
  | .silent => r.2

/-- A host command of an OPEN partition: it waits among the accepted commands, or starts (R629 to R631). One that was accepted
before its partition became DETACHED starts all the same (R609). -/
def hostCmd (info : CmdInfo) (i : Instr) (h : CmdHdr) (params : List Byte) (bad : Bool)
    (act : State → CmdOut × State) (s : State) : State :=
  let x := (s.part h.fn).host
  if x.pstate != .opened && !x.starting then dropPacket h.fn s
  else if !canStart x info.long (cmdFence h) then
    s.updHost h.fn fun x => { x with
      accepted := if x.starting then i :: x.accepted else x.accepted ++ [i], starting := false }
  else
    let s := s.updHost h.fn fun x => { x with starting := false }
    match cmdChecks info h bad s with
    | some st => finishShort h info.opcode st 0 s
    | none => finishCmd info h params (act s)

/-- The end of long command `i` of partition `p`: its DONE entry and final reply (R630, R632, R658). -/
def finishLong (p : Part) (i : Nat) (status : B16) (result : B128) (s : State) : State :=
  match Map.find? (s.part p).host.longs i with
  | none => s
  | some c =>
    let s := journal p 0x0003 status c.opcode c.tag c.seq (result.setWidth 224 ||| place 224 128 c.ajseq.toNat) s
    let j := (s.part p).host.jseq
    let s := s.updHost p fun x => { x with longs := Map.erase x.longs i }
    if c.quiet && status = stOk then s else postReply p ⟨c.tag, status, c.seq, j.setWidth 32, result, false⟩ s

/-- A field of the RESULT. -/
abbrev res (lo v : Nat) : B128 := place 128 lo v

/-- Nothing but a new state. -/
abbrev next (s : State) : Host.Outcome State Fault Refusal := .next s

end Sys2Proof.Machine
end

