-- ==== Sys2Proof/Machine/Arbiters.lean ====
section
/-!
DEFINITION. Port arbiters (R462 to R475, R484, R485) and the access-table command (R477, R482, R483).
-/
namespace Sys2Proof.Machine

/-- Arbiter `a`. -/
def State.arb (s : State) (a : Nat) : Arbiter := Map.getD s.arbs a {}

/-- Changes an arbiter; one as after device reset is not listed. -/
def updArb (a : Nat) (f : Arbiter → Arbiter) (s : State) : State := { s with arbs := Map.setD {} s.arbs a (f (s.arb a)) }

/-! ## Registers (R472 to R476) -/

/-- Whether the host port may write its register window; a denial is recorded (R479, R480). -/
def windowWrite (fn : Part) (off : Nat) (s : State) : Bool × State :=
  if aclGrants s (80 + fn.val) fn.val .w then (true, s) else (false, denied fn (80 + fn.val) fn.val .w off s)

/-- A register write: applied where the window admits it. -/
def onWindow (fn : Part) (off : Nat) (f : State → State) (s : State) : State :=
  let (ok, s) := windowWrite fn off s
  if ok then f s else s

/-- Whether a map names each source 0 to 15 once (R472). -/
def mapOk (v : Nat) : Bool := (List.range 16).all fun x => ((List.range 16).map fun n => field v (4 * n + 3) (4 * n)).contains x

/-- A write to the map or shadow offset. -/
def mapWrite (shadow : Bool) (size : Nat) (v : B64) (x : Arbiter) : Arbiter :=
  if size ≠ 8 || !mapOk v.toNat then { x with mapErr := true }
  else if shadow || x.compat then { x with shadow := v } else { x with map := v }

/-- ARB_MAP: only partition 0's window writes it. -/
def execArbMap (fn : Part) (a : Fin 60) (shadow : Bool) (size : Nat) (value : B64) (s : State) :
    Host.Outcome State Fault Refusal :=
  next (onWindow fn (0x9000 + a.val * 0x20 + (if shadow then 8 else 0))
    (fun s => if fn = 0 then updArb a.val (mapWrite shadow size value) s else s) s)

/-- A write of ARB_CTRL (R475, R484): unlisted AGE_N values leave it unchanged (R18). -/
def ctrlWrite (v : B32) (x : Arbiter) : Arbiter :=
  let compat := v.getLsbD 16
  let age : Byte := v.setWidth 8
  { x with
    mapErr := x.mapErr && !v.getLsbD 17
    shadow := if compat != x.compat then x.map else x.shadow
    compat
    burst := (v >>> 8).setWidth 8
    ageN := if age.toNat < 2 then x.ageN else age }

/-- ARB_CTRL. -/
def execArbCtrl (fn : Part) (a : Fin 60) (value : B32) (s : State) : Host.Outcome State Fault Refusal :=
  next (onWindow fn (0x9000 + a.val * 0x20 + 0x10)
    (fun s => if fn = 0 then updArb a.val (ctrlWrite value) s else s) s)

/-- The shadow map becomes the map of every arbiter whose COMPAT is 1 (R474). -/
def commitMaps (s : State) : State :=
  { s with arbs := Map.mapVal s.arbs fun _ x => if x.compat then { x with map := x.shadow } else x }

/-- ARB_COMMIT. -/
def execArbCommit (fn : Part) (value : B32) (s : State) : Host.Outcome State Fault Refusal :=
  next (onWindow fn 0x9780 (fun s => if fn = 0 && value.getLsbD 0 then commitMaps s else s) s)

/-! ## Granting (R463 to R471) -/

/-- The source a master id belongs to (R463); translation refills and no source have none. -/
def arbSource (m : Nat) : Option Nat :=
  if m < 4 then some 0 else if 8 ≤ m && m < 12 then some (m - 7) else if 0x10 ≤ m && m < 0x20 then some 5
  else if m = 0x20 then some 13 else if 0x21 ≤ m && m ≤ 0x24 then some (m - 0x21 + 6)
  else if 0x30 ≤ m && m < 0x34 then some 10 else if 0x34 ≤ m && m < 0x38 then some 11
  else if 0x40 ≤ m && m < 0x44 then some 12 else none

/-- Whether a source raises requests for a master: source 14, translation refills, has no masters of its own. -/
def raises (e : BitVec 4 × Byte) : Bool := e.1 = 14 || arbSource e.2.toNat = some e.1.toNat

/-- The requester that a source offers next: the first in rotation by ascending master id after the last (R464). -/
def rotate (last : Byte) (ms : List Byte) : Option Byte :=
  let least (l : List Byte) : Option Byte := l.foldl (fun a m => match a with
    | none => some m
    | some b => some (if m < b then m else b)) none
  match least (ms.filter fun m => last < m) with
  | some m => some m
  | none => least ms

/-- A source that has no request raised offers one, at port cycle `t`. -/
def offer (t : Nat) (x : Arbiter) (src : BitVec 4) : Arbiter :=
  if x.waiting.any fun r => r.source = src then x
  else
    let ms := (x.behind.filter fun e => e.1 = src).map Prod.snd
    let next := match Map.find? x.offered src.toNat with
      | some last => rotate last ms
      | none => rotate 0xFF ms
    match next with
    | none => x
    | some m => { x with
        waiting := x.waiting ++ [⟨src, m, t⟩], behind := x.behind.erase (src, m)
        offered := Map.insert x.offered src.toNat m }

/-- Every source offers what it can. -/
def offerAll (t : Nat) (x : Arbiter) : Arbiter := ((List.range 15).map (BitVec.ofNat 4)).foldl (offer t) x

/-- The input that a source sits on. -/
def inputOf (map : B64) (src : BitVec 4) : Nat :=
  ((List.range 16).find? fun n => field map.toNat (4 * n + 3) (4 * n) = src.toNat).getD 0

/-- The better of two requests: by priority, or at an age grant by wait. -/
def better (map : B64) (age : Bool) (a b : ArbReq) : ArbReq :=
  let high := if inputOf map a.source < inputOf map b.source then b else a
  if age then (if a.raised < b.raised then a else if b.raised < a.raised then b else high) else high

/-- A decision in port cycle `t`. -/
def decideGrant (t : Nat) (withdrawn : Bool) (x : Arbiter) : Arbiter :=
  match x.waiting with
  | [] => { x with owner := none }
  | r :: rs =>
    let n := x.grants + 1
    let age := n % x.ageN.toNat = 0
    let w := rs.foldl (better x.map age) r
    offerAll t { x with
      grants := n, waiting := x.waiting.erase w, owner := if withdrawn then none else some w
      maxWait := if x.maxWait.toNat < t - w.raised then BitVec.ofNat 32 (min (t - w.raised) 0xFFFF_FFFF) else x.maxWait
      aged := if age then satAdd x.aged 1 else x.aged
      dead := if withdrawn then satAdd x.dead 1 else x.dead }

/-- A requester raises a request, or drops one that waits, which costs nothing (R467, R471); its source offers what it can in
that cycle. -/
def arbEvent (x : Arbiter) (e : ArbEvent) : Arbiter :=
  if !raises (e.source, e.master) then x
  else if !e.drop then offerAll e.cycle { x with behind := x.behind ++ [(e.source, e.master)] }
  else match x.waiting.find? fun r => r.source = e.source && r.master = e.master with
    | some r => offerAll e.cycle { x with waiting := x.waiting.erase r }
    | none => { x with behind := x.behind.erase (e.source, e.master) }

/-- Whether the grant in progress is over, its owner having moved `n` granules more: none is, its owner has no more work, or
it has moved BURST granules (R469). -/
def grantOver (n : Nat) (work : Bool) (x : Arbiter) : Bool :=
  x.owner.isNone || !work || (x.burst ≠ 0 && decide (x.burst.toNat ≤ x.moved + n))

/-- The end of a grant: an owner with work left raises a new request at that moment (R467). -/
def endGrant (t : Nat) (work : Bool) (x : Arbiter) : Arbiter :=
  let again := match x.owner with
    | some r => if work then [(r.source, r.master)] else []
    | none => []
  offerAll t { x with behind := x.behind ++ again, owner := none, moved := 0 }

/-- ARBITER_GRANT: requests are raised and dropped, the owner moves granules, and where its grant is over the port falls free
and the next request is granted. -/
def execArbiterGrant (a : Fin 60) (past : ArbPast) (cycle : Nat) (withdrawn : Bool) (s : State) :
    Host.Outcome State Fault Refusal :=
  next (updArb a.val (fun x =>
    let x := past.events.foldl arbEvent x
    if grantOver past.moved past.work x then decideGrant cycle withdrawn (endGrant cycle past.work x)
    else { x with moved := x.moved + past.moved }) s)

/-! ## The access-table command (R482, R483) -/

/-- Whether a master id names an agent (R37). -/
def masterUsed (m : Nat) : Bool := m < 4 || 0x10 ≤ m && m < 0x20 || (arbSource m).isSome

/-- ACL_SET: the rows change when the command completes. -/
def actAclSet (first last master row : Nat) (s : State) : CmdOut × State :=
  if last < first || last > 85 || row > 63 then (.done stBadParam, s)
  else if master = 0x20 || (0x10 ≤ master && master < 0x20) || !masterUsed master then (.done stNoAccess, s)
  else (.started (.aclSet first last master row), s)

/-- ACL_SET. -/
def execAclSet (h : CmdHdr) (first last master row : Byte) (s : State) : Host.Outcome State Fault Refusal :=
  next (hostCmd { opcode := 0x0701, long := true, issuer := .p0 } (.aclSet h first last master row) h
    [first, last, master, row] false (actAclSet first.toNat last.toNat master.toNat row.toNat) s)

/-- Whether a request of a master, checked by one of the tables named, waits at an arbiter (R480, R483): tables 0 to 55 are
those of the arbiters of those numbers. -/
def requestsWait (s : State) (first last master : Nat) : Bool :=
  ((List.range 56).filter fun a => decide (first ≤ a) && decide (a ≤ last)).any fun a =>
    (s.arb a).waiting.any (fun r => r.master.toNat = master) || (s.arb a).behind.any fun e => e.2.toNat = master

/-- Every table named applies the new row (R478, R483). -/
def endAclSet (first last master row : Nat) (s : State) : State :=
  let put (s : State) (t : Nat) : State :=
    let k := t * 256 + master
    { s with acl := Map.setD (resetRow s t master) s.acl k (BitVec.ofNat 8 row &&& rightsServed t) }
  ((List.range (last + 1 - first)).map (first + ·)).foldl put s

end Sys2Proof.Machine
end

