-- ==== Sys2Proof/Machine/Nand.lean ====
section
/-!
DEFINITION. The NAND behind the flash tiers: blocks and their wear (R377, R397), the translation layer of managed regions
(R351, R382 to R386), and the blocks of stripes (R387, R388).
-/
namespace Sys2Proof.Machine

/-- Changes the flash. -/
def updFlash (f : Flash → Flash) (s : State) : State := { s with flash := f s.flash }

/-- A flash region. -/
def State.region (s : State) (i : Nat) : Region := Map.getD s.flash.regions i {}

/-- Changes a flash region. -/
def updRegion (i : Nat) (f : Region → Region) (s : State) : State :=
  updFlash (fun x => { x with regions := Map.setD {} x.regions i (f (s.region i)) }) s

/-- The tier of a region's frames. -/
def Region.tier (r : Region) : Tier := if r.mode = 1 then .managed else .striped

/-- Frames that a region gives (R378). -/
def Region.frames (r : Region) : Nat := r.count.toNat * (if r.mode = 1 then 6675720 else 7151616)

/-- The extents of a region (R378). -/
def Region.extents (r : Region) : List Nat := (List.range r.count.toNat).map (r.start.toNat + ·)

/-- The name of a frame in the translation tables and the overlay. -/
def overlayName (region frame : Nat) : Nat := region * 2 ^ 40 + frame

/-! ## Blocks and wear (R377, R387, R397, R400) -/

/-- Blocks of 16 MiB that an extent has on each channel (R377, R387). -/
def blockRows : Nat := 931

/-- The number of a block: extent, row and channel. -/
def blockNo (extent row channel : Nat) : Nat := (extent * 1024 + row) * 32 + channel

/-- The extent of a block. -/
def blockExtent (b : Nat) : Nat := b / 2 ^ 15

/-- Program/erase cycles of a block. -/
def blockWear (f : Flash) (b : Nat) : Nat := Map.getD f.wear b 0 + Map.getD f.erased (blockExtent b) 0

/-- Rated program/erase cycles (R397). -/
def ratedCycles : Nat := 3000

/-- One cycle more for each of some blocks. -/
def wearBlocks (bs : List Nat) (f : Flash) : Flash :=
  { f with wear := bs.foldl (fun m b => Map.insert m b (Map.getD m b 0 + 1)) f.wear }

/-- MAX_WEAR: the most-worn block in percent of the rating. -/
def maxWear (f : Flash) : Nat :=
  min 255 ((f.wear.map (fun e => blockWear f e.1) ++ f.erased.values).foldl max 0 * 100 / ratedCycles)

/-- AVG_WEAR: the mean over all blocks in percent. -/
def avgWear (f : Flash) : Nat :=
  let perExtent := 32 * blockRows
  min 255 ((f.wear.values.sum + f.erased.values.sum * perExtent) * 100 / (64 * perExtent * ratedCycles))

/-! ## Units of managed regions (R351, R382, R383) -/

/-- The four blocks of a unit: a row of an extent on the four channels of group `u % 8`. -/
def unitBlocks (u : Nat) : List Nat := (List.range 4).map fun c => u / 8 * 32 + 4 * (u % 8) + c

/-- The extent of a unit. -/
def unitExtent (u : Nat) : Nat := u / 8192

/-- The wear of a unit: that of its most-worn block. -/
def unitWear (f : Flash) (u : Nat) : Nat := ((unitBlocks u).map (blockWear f)).foldl max 0

/-- The units of a region that have held sheets since its format. -/
def knownUnits (f : Flash) (r : Region) : List Nat :=
  Map.keys (List.filter (fun e => r.extents.contains (unitExtent e.1)) f.units)

/-- The first unit of each extent that has held nothing since the region's format. -/
def freshUnits (f : Flash) (r : Region) : List Nat :=
  let known := knownUnits f r
  r.extents.filterMap fun x =>
    (firstBelow (min (8 * blockRows) (known.length + 1)) fun i => !known.contains (x * 8192 + i)).map (x * 8192 + ·)

/-- The frames whose sheets lie in a unit. -/
def unitFrames (f : Flash) (u : Nat) : List Nat :=
  Map.keys (List.filter (fun e => decide (e.2 / 1024 = u)) f.ftl)

/-- The least-worn of some units, the lowest-numbered among equals. -/
def leastWorn (f : Flash) : List Nat → Option Nat
  | [] => none
  | u :: l => match leastWorn f l with
    | none => some u
    | some v => some (if unitWear f v < unitWear f u || (unitWear f v = unitWear f u && decide (v < u)) then v else u)

/-- The unit to fill next (R383): the least-worn that holds no sheet; where every unit holds some, that with the fewest,
whose sheets are programmed anew. -/
def nextUnit (f : Flash) (r : Region) : Nat :=
  let known := (knownUnits f r).filter fun u => r.fill ≠ some u
  match leastWorn f (known.filter (fun u => (unitFrames f u).isEmpty) ++ freshUnits f r) with
  | some u => u
  | none => known.foldl (fun b u => if (unitFrames f u).length < (unitFrames f b).length then u else b) (known.headD 0)

/-- The unit that takes the next sheet of a region. -/
def fillUnit (f : Flash) (r : Region) : Nat :=
  match r.fill with
  | some u => if (Map.getD f.units u {}).pages < 1024 then u else nextUnit f r
  | none => nextUnit f r

/-- Begins a unit: it is erased, unless nothing has been programmed since the region's format, and the sheets it still holds
are programmed into it again. -/
def beginUnit (region u : Nat) (s : State) : State :=
  let f := s.flash
  let kept := unitFrames f u
  let f := if (Map.find? f.units u).isSome then wearBlocks (unitBlocks u) f else f
  updRegion region (fun r => { r with fill := some u }) { s with flash := { f with
    units := Map.insert f.units u { pages := kept.length }
    ftl := kept.zipIdx.foldl (fun m e => Map.insert m e.1 (u * 1024 + e.2)) f.ftl
    sheetsWritten := satAdd f.sheetsWritten kept.length } }

/-- One sheet is written to a fresh page, to which its frame is then mapped (R382). -/
def programSheet (region name : Nat) (s : State) : State :=
  let u := fillUnit s.flash (s.region region)
  let s := if (s.region region).fill = some u then s else beginUnit region u s
  updFlash (fun f =>
    let x := Map.getD f.units u {}
    { f with
      ftl := Map.insert f.ftl name (u * 1024 + x.pages)
      units := Map.insert f.units u { x with pages := x.pages + 1 }
      unproven := if f.unproven.contains u then f.unproven else f.unproven ++ [u]
      sheetsWritten := satAdd f.sheetsWritten 1 }) s

/-- The sheets of a unit are written elsewhere. -/
def moveUnit (region u : Nat) (s : State) : State :=
  let s := if (s.region region).fill = some u then updRegion region (fun r => { r with fill := none }) s else s
  (unitFrames s.flash u).foldl (fun s n => programSheet region n s) s

/-- When the cycles of two blocks of a region differ by more than 5 % of the rating, the data of the least-worn moves (R383). -/
def levelRegion (region : Nat) (s : State) : State :=
  let r := s.region region
  let all := knownUnits s.flash r ++ freshUnits s.flash r
  match leastWorn s.flash all with
  | none => s
  | some u =>
    if (all.map (unitWear s.flash)).foldl max 0 > unitWear s.flash u + ratedCycles * 5 / 100 then moveUnit region u s else s

/-- A sheet is written to a frame of a managed region (R382, R383). -/
def writeManaged (region frame : Nat) (s : State) : State :=
  let t := programSheet region (overlayName region frame) s
  if (t.region region).fill = (s.region region).fill then t else levelRegion region t

/-- The channel group that an access to a managed frame reaches (R351): where its sheet lies, and for a write where the sheet
will lie. -/
def groupOf (s : State) (region frame : Nat) (write : Bool) : Nat :=
  match (if write then none else Map.find? s.flash.ftl (overlayName region frame)) with
  | some page => page / 1024 % 8
  | none => fillUnit s.flash (s.region region) % 8

/-! ## Reads, rewriting and retirement (R384 to R386) -/

/-- A unit is to be rewritten elsewhere. -/
def askRewrite (u : Nat) (f : Flash) : Flash :=
  if f.rewrites.contains u then f else { f with rewrites := f.rewrites ++ [u] }

/-- One read of a sheet of a managed region: its blocks are rewritten after 100,000 of them (R384). -/
def readManaged (name : Nat) (f : Flash) : Flash :=
  match Map.find? f.ftl name with
  | none => f
  | some page =>
    let u := page / 1024
    let x := Map.getD f.units u {}
    let f := { f with units := Map.insert f.units u { x with reads := x.reads + 1 } }
    if x.reads + 1 ≥ 100000 then askRewrite u f else f

/-- The region that has an extent. -/
def regionOf (s : State) (extent : Nat) : Option Nat :=
  (List.find? (fun e => decide (e.2.mode ≠ 0) && e.2.extents.contains extent) s.flash.regions).map Prod.fst

/-- The rewriting of the first unit that is due for it; none where none is. -/
def rewriteUnit (s : State) : Option State :=
  match s.flash.rewrites with
  | [] => none
  | u :: rest =>
    let s := updFlash (fun f => { f with rewrites := rest }) s
    some (match regionOf s (unitExtent u) with
      | some r => moveUnit r u s
      | none => s)

/-- The entry for a region that has no spare block left (R386). -/
def noteReadOnly (region : Nat) (s : State) : State :=
  note (s.region region).owner 0x0030 stInternal (place 224 216 3 ||| place 224 140 region) s

/-- A block of a managed region has failed and is retired: a spare takes its place, with its valid data; with no spare left
the region is read-only (R385, R386). -/
def retireBlock (region b : Nat) (s : State) : State :=
  let g := s.region region
  let left := g.spares - 1
  let s := updFlash (fun f => { f with
    badGrown := satAdd f.badGrown 1, bad := f.bad ++ [b], wear := Map.erase f.wear b }) s
  let s := updRegion region (fun g => { g with spares := left, readOnly := g.readOnly || decide (left = 0) }) s
  if left = 0 && !g.readOnly then noteReadOnly region s else s

/-- One of a unit's blocks fails, a free value says which. -/
def failUnit (region u : Nat) (s : State) : State :=
  retireBlock region ((unitBlocks u).getD (Config.freeNat s.freeCtr % 4) 0) s.tick

/-- Whether the programs of the first unit in question, and its erase, have succeeded: a free value (R385). -/
def proveUnit (s : State) : Option State :=
  match s.flash.unproven with
  | [] => none
  | u :: rest =>
    let fails := Config.blockFails s.freeCtr
    let s := (updFlash (fun f => { f with unproven := rest }) s).tick
    some (match fails, regionOf s (unitExtent u) with
      | true, some r => failUnit r u s
      | _, _ => s)

/-! ## Stripes (R387, R388) -/

/-- Stripes that an extent gives (R378, R387). -/
def extentStripes : Nat := 873

/-- The rows of good blocks that a channel has in an extent, ascending. -/
def goodRows (f : Flash) (extent channel : Nat) : List Nat :=
  (List.range blockRows).filter fun r => !f.bad.contains (blockNo extent r channel)

/-- The block of a stripe on a channel: stripes are built from good blocks alone, in ascending order (R388). -/
def stripeBlock (f : Flash) (r : Region) (stripe channel : Nat) : Nat :=
  let x := r.start.toNat + stripe / extentStripes
  let k := stripe % extentStripes
  blockNo x ((goodRows f x channel).getD k k) channel

/-- The stripe named region × 2^32 + stripe has been erased and programmed. -/
def wearStripe (key : Nat) (s : State) : State :=
  let r := s.region (key / 2 ^ 32)
  updFlash (fun f => wearBlocks ((List.range 32).map (stripeBlock f r (key % 2 ^ 32))) f) s

/-- A piece of a striped frame cannot be read: its block is marked for retirement (R396); the channel is a free value. -/
def markBlock (region frame : Nat) (s : State) : State :=
  let b := stripeBlock s.flash (s.region region) (frame / 8192) (Config.freeNat s.freeCtr % 32)
  (updFlash (fun f => { f with marked := if f.marked.contains b then f.marked else f.marked ++ [b] }) s).tick

/-- A format erases extents: their marked blocks are retired, and nothing is left of what they held (R379, R388, R396). -/
def eraseExtents (region : Nat) (xs : List Nat) (f : Flash) : Flash :=
  let here (b : Nat) : Bool := xs.contains (blockExtent b)
  let gone := f.marked.filter here
  { f with
    erased := xs.foldl (fun m x => Map.insert m x (Map.getD m x 0 + 1)) f.erased
    bad := f.bad ++ gone
    marked := f.marked.filter fun b => !here b
    badGrown := satAdd f.badGrown gone.length
    units := f.units.filter fun e => !xs.contains (unitExtent e.1)
    unproven := f.unproven.filter fun u => !xs.contains (unitExtent u)
    rewrites := f.rewrites.filter fun u => !xs.contains (unitExtent u)
    ftl := f.ftl.filter fun e => e.1 / 2 ^ 40 ≠ region }

/-- Spare blocks that a managed region is left with at its format (R386). -/
def formatSpares (f : Flash) (region : Nat) (xs : List Nat) : Nat :=
  Config.spareBlocks region - (f.bad.filter fun b => xs.contains (blockExtent b)).length

end Sys2Proof.Machine
end

