-- ==== Sys2Proof/Machine/Memory.lean ====
section
/-!
DEFINITION. Device memory: policies and frames (R345 to R369), translation and access checks (R347, R479, R480), and
reads and writes of an object's bytes in every tier (R357, R365, R368, R370 to R374, R389 to R395, R548).
-/
namespace Sys2Proof.Machine

/-- The model's memory is canonical: numbers rising, and no byte listed that is zero. -/
abbrev memWf (s : State) : Prop := Map.wf 0 s.mem = true

/-! ## Policies (R353, R354) -/

/-- A placement policy's fields. -/
structure Policy where
  tiers  : List Nat
  pin    : Bool
  fetch  : Bool
  repl   : Nat
  region : Nat
  qmask  : Nat
  soff   : Nat
  window : Nat
  /-- a tier field that is not zero stands behind the end of the list -/
  tail   : Bool
  deriving DecidableEq, Repr

/-- The fields of 128 policy bits; the tier list ends at the first zero field. -/
def Policy.ofBits (b : B128) : Policy :=
  let v := b.toNat
  let codes := [field v 127 124, field v 123 120, field v 119 116, field v 115 112]
  { tiers := codes.takeWhile (· ≠ 0), tail := (codes.dropWhile (· ≠ 0)).any (· ≠ 0)
    pin := v.testBit 111, fetch := v.testBit 110, repl := field v 109 108, region := field v 107 104
    qmask := field v 103 100, soff := field v 99 93, window := field v 87 64 }

/-- Whether policy bits hold an encoding that R353 does not list. -/
def policyRsvd (b : B128) : Bool :=
  let v := b.toNat
  field v 92 88 ≠ 0 || field v 63 0 ≠ 0 || field v 109 108 = 3 ||
    [field v 127 124, field v 123 120, field v 119 116, field v 115 112].any (· > 4)

/-- Copies that REPL asks for. -/
def Policy.copies (o : Policy) : Nat := 2 ^ o.repl

/-- Whether a region may hold sheets of partition `p`: in use, formatted, its own (R354). -/
def regionUsable (s : State) (p : Part) (i : Nat) : Bool :=
  let r := s.region i
  r.mode ≠ 0 && r.ready && r.owner = p

/-- The quarters that QMASK names, in ascending order. -/
def qmaskList (m : Nat) : List Nat := (List.range 4).filter fun q => m.testBit q

/-- The stake frames of sheet `i`, as numbered in the status word (R366, R398). -/
def stakeFrames (o : Policy) (i : Nat) : List Nat :=
  let qs := qmaskList o.qmask
  let n := qs.length
  if o.repl = 1 then qs.map fun q => q * 8192 + (i % 64) * 128 + (o.soff + i / 64)
  else [(qs.getD (i % n) 0) * 8192 + (i / n % 64) * 128 + (o.soff + i / n / 64)]

/-- The refusals of R354 and R369 that do not depend on stake placement. -/
def policyBad (s : State) (p : Part) (sheets : Nat) (o : Policy) : Bool :=
  let flashOk := regionUsable s p o.region
  let fetchOk := o.tiers = [2, 4] && !o.tail && !o.pin && o.repl = 0 && 1 ≤ o.window && decide (o.window ≤ sheets)
  o.tiers = [] || !o.tiers.Nodup ||
    o.tiers.dropLast.contains 4 ||
    (o.tiers.contains 4 && (!flashOk || o.repl ≠ 0)) ||
    (o.tiers.contains 1 && !(o.tiers = [1] && o.pin)) ||
    (o.fetch && !fetchOk)

/-! ## Objects, frames and translation -/

/-- Where the stake window begins (R219, R345). -/
def winLo : Nat := 0xFF_FFFF_0000_0000

/-- Bytes of a sheet. -/
def sheetBytes : Nat := 65536

/-- Whether an address lies in the object. -/
def Obj.covers (o : Obj) (a : Nat) : Bool := decide (o.base ≤ a) && decide (a < o.base + o.sheets * sheetBytes)

/-- An object of a partition by handle. -/
def State.obj? (s : State) (p : Part) (h : Nat) : Option Obj := Map.find? (s.part p).tier.objects h

/-- The object that covers an address. -/
def findObj (t : TierRegs) (a : Nat) : Option (Nat × Obj) := List.find? (fun e => e.2.covers a) t.objects

/-- Changes an object. -/
def updObj (p : Part) (h : Nat) (f : Obj → Obj) (s : State) : State :=
  s.updTier p fun t => { t with objects := Map.adjust t.objects h f }

/-- Changes a sheet of an object. -/
def updSheet (p : Part) (h i : Nat) (f : Sheet → Sheet) (s : State) : State :=
  updObj p h (fun o => { o with map := Map.adjust o.map i f }) s

/-- Where the bytes of a frame lie in the model's memory. -/
def frameKey (t : Tier) (region frame : Nat) : Nat :=
  match t with
  | .stake => 2 ^ 60 + (frame / 8192) * 2 ^ 30 + (frame / 128 % 64) * 2 ^ 23 + (frame % 128) * 2 ^ 16
  | t => t.code * 2 ^ 60 + region * 2 ^ 48 + frame * 2 ^ 16

/-- Where a sheet's overlay entry lies (R390). -/
def overlayKey (region frame : Nat) : Nat := 6 * 2 ^ 60 + region * 2 ^ 48 + frame * 2 ^ 16

/-- Where the bytes of a guest window lie (R702). -/
def guestKey (site : Fin 2) (i : Nat) : Nat := 7 * 2 ^ 60 + site.val * 2 ^ 48 + i * 2 ^ 16

/-- The stake copies that no fence has lost. -/
def Sheet.alive (x : Sheet) : List Nat := x.frames.filter fun f => !x.gone.contains f

/-- Whether every stake copy is lost (R45). -/
def Sheet.lost (x : Sheet) : Bool := x.tier = .stake && x.alive.isEmpty

/-- Whether the overlay, or a write that waits for room in it, has a sheet. -/
def inOverlay (s : State) (name : Nat) : Bool := s.flash.overlay.contains name || s.flash.overlayWait.contains name

/-- The frame that serves master `m` a read of sheet number `n` (R365, R370, R390). -/
def readKey (s : State) (m n : Nat) (x : Sheet) : Nat :=
  match x.window with
  | some w => frameKey .hbm 0 w.1
  | none =>
    let c := x.alive
    let f := c.getD ((m + n) % c.length) 0
    if x.tier = .striped && inOverlay s (overlayName x.region f) then overlayKey x.region f
    else frameKey x.tier x.region f

/-- Where the byte at an address lies for master `m`; none outside every object and the stake window (R347). -/
def keyAt (s : State) (p : Part) (m a : Nat) : Option Nat :=
  if winLo ≤ a then some (2 ^ 60 + (a - winLo))
  else match findObj (s.part p).tier a with
    | none => none
    | some (_, o) =>
      let i := (a - o.base) / sheetBytes
      match o.kind with
      | .guestWindow g => some (guestKey g i + a % sheetBytes)
      | _ => (Map.find? o.map i).map fun x => readKey s m (a / sheetBytes) x + a % sheetBytes

/-- A byte of the model's memory; one not listed is zero. -/
def State.cell (s : State) (k : Nat) : Byte := Map.getD s.mem k 0

/-- The byte at a device virtual address, as master `m` reads it. -/
def byteAt (s : State) (p : Part) (m a : Nat) : Byte :=
  match keyAt s p m a with
  | some k => s.cell k
  | none => 0

/-- Bytes from a device virtual address. -/
def readMem (s : State) (p : Part) (m a n : Nat) : List Byte := (List.range n).map fun i => byteAt s p m (a + i)

/-- A little-endian number in device memory. -/
def readNat (s : State) (p : Part) (m a n : Nat) : Nat := leNat (readMem s p m a n)

/-- The memory with a run of bytes in place, in canonical form. -/
def putRun (mem : Map Byte) (k : Nat) (bytes : List Byte) : Map Byte :=
  mem.filter (fun e => decide (e.1 < k)) ++
    ((bytes.zipIdx k).map fun e => (e.2, e.1)).filter (fun e => decide (e.2 ≠ 0)) ++
    mem.filter (fun e => decide (k + bytes.length ≤ e.1))

/-- A run of `n` zero bytes. -/
def clearRun (mem : Map Byte) (k n : Nat) : Map Byte :=
  mem.filter (fun e => decide (e.1 < k)) ++ mem.filter (fun e => decide (k + n ≤ e.1))

/-- Stores a run of bytes at a place of the model's memory. -/
def putMem (k : Nat) (bytes : List Byte) (s : State) : State := { s with mem := putRun s.mem k bytes }

/-- A run of bytes of the model's memory. -/
def getMem (s : State) (k n : Nat) : List Byte := (List.range n).map fun i => s.cell (k + i)

/-- The bytes of a sheet as its object holds them, from its first surviving copy or its overlay entry. -/
def sheetData (s : State) (x : Sheet) : List Byte := getMem s (readKey s 0 0 { x with window := none }) sheetBytes

/-! ## Access checks (R347, R479, R480, R777) -/

/-- The access tables that a sheet's frames stand behind (R351, R477). -/
def sheetTables (s : State) (x : Sheet) (write : Bool) : List Nat :=
  let one (t : Tier) (f : Nat) : List Nat :=
    match t with
    | .hbm => [f % 8]
    | .bulk => [8 + f % 16]
    | .managed => (List.range 4).map fun c => 24 + 4 * groupOf s x.region f write + c
    | .striped => (List.range 32).map fun c => 24 + c
    | _ => []
  match x.window with
  | some w => if write then x.frames.flatMap (one x.tier) ++ one .hbm w.1 else one .hbm w.1
  | none => x.frames.flatMap (one x.tier)

/-- What an access meets. -/
inductive Acc where
  | ok
  /-- outside every object and the stake window -/
  | outside
  /-- denied by table `t`, at sheet number `n` -/
  | denied (t n : Nat)
  /-- a poisoned or LOST sheet, or a read-only region -/
  | memError (h i : Nat)
  deriving DecidableEq, Repr

/-- A guest site. -/
def State.guest (s : State) (g : Fin 2) : Guest := if g = 0 then s.pkg.guest0 else s.pkg.guest1

/-- The check of an access to one sheet number. -/
def checkSheet (s : State) (p : Part) (m : Nat) (g : Right) (n : Nat) : Acc :=
  if winLo ≤ n * sheetBytes then .ok
  else match findObj (s.part p).tier (n * sheetBytes) with
    | none => .outside
    | some (h, o) =>
      let i := n - o.base / sheetBytes
      match o.kind with
      | .guestWindow gs =>
        if (s.guest gs).state == .fenced || !aclGrants s (84 + gs.val) m g then .denied (84 + gs.val) n else .ok
      | _ => match Map.find? o.map i with
        | none => .outside
        | some x =>
          match (sheetTables s x (g != .r)).find? fun t => !aclGrants s t m g with
          | some t => .denied t n
          | none =>
            if x.lost || (g == .r && x.poison) then .memError h i
            else if g != .r && x.tier == .managed && (s.region x.region).readOnly then .memError h i
            else .ok

/-- The sheet numbers that `n` bytes from an address reach. -/
def sheetsFrom (a n : Nat) : List Nat :=
  if n = 0 then [] else (List.range ((a + n - 1) / sheetBytes - a / sheetBytes + 1)).map (a / sheetBytes + ·)

/-- The check of an access of `n` bytes: the first sheet in order that does not admit it. -/
def checkMem (s : State) (p : Part) (m : Nat) (g : Right) (a n : Nat) : Acc :=
  ((sheetsFrom a n).map (checkSheet s p m g)).foldl (fun r x => if r = .ok then x else r) .ok

/-- Counts a denial (R480). -/
def noteDenied (p : Part) (m : Nat) (g : Right) (r : Acc) (s : State) : State :=
  match r with
  | .denied t n => denied p t m g n s
  | _ => s

/-! ## The overlay and folds (R389 to R395) -/

/-- The stripe of an overlay name, as region × 2^32 + stripe. -/
def stripeOf (name : Nat) : Nat := name / 2 ^ 40 * 2 ^ 32 + name % 2 ^ 40 / 8192

/-- Overlay entries of a stripe. -/
def stripeEntries (s : State) (key : Nat) : List Nat := s.flash.overlay.filter fun n => stripeOf n = key

/-- Starts the next fold (R391, R392), one stripe at a time: one that is due, else the stripe with the most entries while
the overlay holds more than 49,152 sheets. -/
def dueFold (s : State) : State :=
  match s.flash.folding, s.flash.foldQ with
  | some _, _ => s
  | none, (k, r) :: q => { s with flash := { s.flash with folding := some k, refreshing := r, foldQ := q } }
  | none, [] =>
    if s.flash.overlay.length > 49152 then
      let keys := s.flash.overlay.map stripeOf
      let best := keys.foldl (fun b k => if (stripeEntries s k).length > (stripeEntries s b).length then k else b)
        (keys.headD 0)
      { s with flash := { s.flash with folding := some best, refreshing := false } }
    else s

/-- A stripe becomes due for a fold. -/
def askFold (key : Nat) (refresh : Bool) (s : State) : State :=
  if s.flash.folding = some key || s.flash.foldQ.any (fun e => e.1 = key) then s
  else dueFold { s with flash := { s.flash with foldQ := s.flash.foldQ ++ [(key, refresh)] } }

/-- A sheet enters the overlay, and its stripe the pending record (R394). -/
def enterOverlay (name : Nat) (f : Flash) : Flash :=
  let key := stripeOf name
  { f with overlay := f.overlay ++ [name]
           stripes := Map.insert f.stripes key { Map.getD f.stripes key {} with pending := true } }

/-- The sheets that waited for room enter the overlay as far as it has room (R393); what waited is tried again, and the next
fold starts. -/
def admitWaiting (s : State) : State :=
  let n := 65536 - s.flash.overlay.length
  let f := (s.flash.overlayWait.take n).foldl (fun f e => enterOverlay e f) s.flash
  dueFold { s with flash := { f with
    overlayWait := f.overlayWait.drop n, stalled := if n = 0 then f.stalled else [] } }

/-- Overlay entries are dropped. -/
def dropOverlay (names : List Nat) (s : State) : State :=
  let f := s.flash
  if (f.overlay ++ f.overlayWait).any fun n => names.contains n then
    admitWaiting { s with flash := { f with
      overlay := f.overlay.filter fun n => !names.contains n
      overlayWait := f.overlayWait.filter fun n => !names.contains n } }
  else s

/-- A striped write reaches the overlay, or waits while the overlay is full (R389 to R394). -/
def writeStriped (region frame off : Nat) (bytes : List Byte) (s : State) : State :=
  let name := overlayName region frame
  if inOverlay s name then putMem (overlayKey region frame + off) bytes s
  else
    let old := getMem s (frameKey .striped region frame) sheetBytes
    let s := putMem (overlayKey region frame + off) bytes (putMem (overlayKey region frame) old s)
    if s.flash.overlay.length ≥ 65536 then updFlash (fun f => { f with overlayWait := f.overlayWait ++ [name] }) s
    else dueFold (updFlash (enterOverlay name) s)

/-! ## Translation and reads (R348, R370, R384, R395) -/

/-- A move that waits to start. -/
def addMove (v : Move) (s : State) : State :=
  { s with flash := { s.flash with moves := s.flash.moves ++ [{ v with ident := s.flash.nextMove }]
                                   nextMove := s.flash.nextMove + 1 } }

/-- One translation of a partition; whether its buffer misses is a free value (R348, R399). -/
def noteLookup (p : Part) (s : State) : State :=
  s.updTier p fun t => { t with
    lookups := t.lookups + 1, stbMiss := satAdd t.stbMiss (bit (Config.stbMissed p t.lookups)) }

/-- The flash counts the read of a sheet's frame: a managed block is rewritten after 100,000 of them (R384), and a stripe
folded in place after 400,000 of a block, a read of a sheet reading each of its blocks (R395). -/
def countRead (x : Sheet) (s : State) : State :=
  let f := x.frames.headD 0
  let name := overlayName x.region f
  match x.tier with
  | .managed => updFlash (readManaged name) s
  | .striped =>
    if inOverlay s name then s
    else
      let key := stripeOf name
      let st := Map.getD s.flash.stripes key {}
      let s := updFlash (fun f => { f with stripes := Map.insert f.stripes key { st with reads := st.reads + 1 } }) s
      if st.reads + 1 ≥ 400000 then askFold key true s else s
  | _ => s

/-- What a read of a sheet brings about: its translation; the count of its flash blocks' reads; and where a FETCH object's
sheet has no window copy, the request for one (R370). -/
def touchSheet (p : Part) (s : State) (n : Nat) : State :=
  let s := noteLookup p s
  match findObj (s.part p).tier (n * sheetBytes) with
  | none => s
  | some (h, o) =>
    let i := n - o.base / sheetBytes
    match Map.find? o.map i with
    | none => s
    | some x =>
      if x.window.isSome then s
      else
        let s := countRead x s
        if (Policy.ofBits o.policy).fetch then
          let s := s.updTier p fun t => { t with fetchMiss := satAdd t.fetchMiss 1 }
          if s.flash.moves.any fun v => v.p = p && v.handle = h && v.sheet = i && v.kind = .fetch then s
          else addMove { ident := 0, p, handle := h, sheet := i, kind := .fetch, dst := .hbm, frames := [] } s
        else s

/-- What a read of `n` bytes from an address brings about in each sheet it reaches. -/
def touchRead (p : Part) (a n : Nat) (s : State) : State := (sheetsFrom a n).foldl (touchSheet p) s

/-! ## Writes -/

/-- Bytes are written to a frame of sheet number `n` of partition `p`, at an offset; flash frames keep for whom they are
encrypted (R433). -/
def writeFrame (p : Part) (n : Nat) (t : Tier) (region off : Nat) (bytes : List Byte) (s : State) (f : Nat) : State :=
  let tag (s : State) : State := updFlash (fun x => { x with
    tags := Map.insert x.tags (frameKey t region f) (p.val * 2 ^ 48 + n) }) s
  match t with
  | .striped => writeStriped region f off bytes (tag s)
  | .managed => writeManaged region f (putMem (frameKey t region f + off) bytes (tag s))
  | t => putMem (frameKey t region f + off) bytes s

/-- The started moves of a sheet whose source has been written are dirty (R374). -/
def dirtyMoves (p : Part) (h i : Nat) (s : State) : State :=
  updFlash (fun f => { f with moves := f.moves.map fun v =>
    if v.started && v.p = p && v.handle = h && v.sheet = i && !v.holding then { v with dirty := true } else v }) s

/-- A write to one sheet reaches every copy that is not lost (R365, R372, R777), and marks moves of it dirty (R374). -/
def writeSheet (p : Part) (h i n off : Nat) (x : Sheet) (bytes : List Byte) (s : State) : State :=
  let s := x.alive.foldl (writeFrame p n x.tier x.region off bytes) s
  let s := match x.window with
    | some w => putMem (frameKey .hbm 0 w.1 + off) bytes s
    | none => s
  let whole := bytes.length == sheetBytes
  dirtyMoves p h i (updSheet p h i (fun y => { y with unwritten := false, poison := y.poison && !whole }) s)

/-- The sheets of stake placements at some stake frames have been written (R368): partition, handle, sheet. -/
def stakeSheetsAt (s : State) (fs : List Nat) : List (Part × Nat × Nat) :=
  four.flatMap fun p => (s.part p).tier.objects.flatMap fun e =>
    (e.2.map.filter fun y => y.2.tier = .stake && y.2.frames.any fun f => fs.contains f).map fun y => (p, e.1, y.1)

/-- The number of the stake frame at a place of the stake. -/
def stakeFrameAt (k : Nat) : Nat := k % 2 ^ 60 / 2 ^ 30 * 8192 + k % 2 ^ 30 / 2 ^ 23 * 128 + k % 2 ^ 23 / 2 ^ 16

/-- Bytes go to the stake by its window's address: they are those of the sheets placed there, which are then written, with
moves of them dirty (R368, R374). -/
def putStake (k : Nat) (bytes : List Byte) (s : State) : State :=
  let fs := (List.range ((k + bytes.length - 1) / sheetBytes - k / sheetBytes + 1)).map fun i =>
    stakeFrameAt ((k / sheetBytes + i) * sheetBytes)
  (stakeSheetsAt s fs).foldl (fun s e =>
    dirtyMoves e.1 e.2.1 e.2.2 (updSheet e.1 e.2.1 e.2.2 (fun y => { y with unwritten := false }) s)) (putMem k bytes s)

/-- The captured slice `n` of an image gains a sheet. -/
def Image.addSheet (g : Image) (n i : Nat) (data : List Byte) (mark : B256) : Image :=
  { g with slices := g.slices.map fun c =>
      if c.slice = n then { c with data := Map.insert c.data i data, marks := Map.insert c.marks i mark } else c }

/-- Before a write to a pending sheet, the checkpoint engine copies the sheet into a staging region (R548); while the
regions hold 1,024 sheets, the write is held for one to be freed and counts (R549). -/
def stageSheet (p : Part) (h i : Nat) (x : Sheet) (s : State) : State :=
  match (s.part p).res.snap with
  | none => s
  | some c =>
    if c.handle = h && c.pending.contains i && (Map.find? c.staged i).isNone then
      let full := decide (c.staged.length ≥ 1024)
      s.updRes p fun r => { r with
        snap := some { c with staged := Map.insert c.staged i (sheetData s x) }
        snapHolds := if full then satAdd r.snapHolds 1 else r.snapHolds }
    else s

/-- Runs of bytes within one sheet each: address and bytes. -/
def cut : Nat → Nat → List Byte → List (Nat × List Byte)
  | 0, _, _ => []
  | n + 1, a, l =>
    if l.isEmpty then []
    else
      let k := sheetBytes - a % sheetBytes
      (a, l.take k) :: cut n (a + k) (l.drop k)

/-- Writes a run of bytes within one sheet; outside every object it changes nothing. Where a move of the sheet holds writes,
this one is held (R374). -/
def writeRun (p : Part) (s : State) (e : Nat × List Byte) : State :=
  let a := e.1
  if winLo ≤ a then putStake (2 ^ 60 + (a - winLo)) e.2 s
  else match findObj (s.part p).tier a with
    | none => s
    | some (h, o) =>
      let i := (a - o.base) / sheetBytes
      match o.kind with
      | .guestWindow g => putMem (guestKey g i + a % sheetBytes) e.2 s
      | _ => match Map.find? o.map i with
        | none => s
        | some x =>
          if x.lost then s
          else if s.flash.moves.any fun v => v.p = p && v.handle = h && v.sheet = i && v.holding then
            updFlash (fun f => { f with heldWrites := f.heldWrites ++ [(p, a, e.2)] }) s
          else writeSheet p h i (a / sheetBytes) (a % sheetBytes) x e.2 (stageSheet p h i x (noteLookup p s))

/-- Writes bytes at a device virtual address. -/
def writeMem (p : Part) (a : Nat) (bytes : List Byte) (s : State) : State :=
  (cut bytes.length a bytes).foldl (writeRun p) s

/-- Writes a little-endian number of `n` bytes. -/
def writeNat (p : Part) (a n v : Nat) (s : State) : State := writeMem p a (leBytes n v) s

/-! ## Writes that wait (R374, R393) -/

/-- Whether an operation that takes `s` to `t` has a write that waits: for room in the overlay, or for a move that holds it. -/
def heldBack (s t : State) : Bool :=
  decide (s.flash.overlayWait.length < t.flash.overlayWait.length) ||
    decide (s.flash.heldWrites.length < t.flash.heldWrites.length)

/-- An operation of partition `p` waits as a whole: TIER_STATUS shows it where it waits for the overlay. -/
def stall (p : Part) (s t : State) : State :=
  if s.flash.overlayWait.length < t.flash.overlayWait.length && !s.flash.stalled.contains p then
    updFlash (fun f => { f with stalled := f.stalled ++ [p] }) s
  else s

/-- The end of an operation of partition `p` that takes `s` to `t`: it waits while a write of its waits. -/
def settle (p : Part) (s t : State) : State := if heldBack s t then stall p s t else t

/-- A message of partition `p` taken: it stays the first that waits to be taken while a write of its waits. -/
def settleMsg (m : MsgHdr) (i : Instr) (s t : State) : State :=
  if heldBack s t then
    { stall s.vesin.fpart s t with vesin := { s.vesin with
        inbox := i :: s.vesin.inbox, applying := m :: s.vesin.applying } }
  else t

/-- A host command carried out: it goes back to be the next to start while a write of its waits. -/
def settleCmd (i : Instr) (p : Part) (s t : State) : State :=
  if heldBack s t then (stall p s t).updHost p fun h => { h with accepted := i :: h.accepted, starting := false } else t

/-! ## Poison (R385, R396) -/

/-- Sheets of a reduction buffer's header and sheet table (R261, R263). -/
def Obj.headSheets (o : Obj) : Nat :=
  match o.kind with
  | .redBuf _ rows cols .. => 1 + ((rows + 63) / 64 * ((cols + 127) / 128) * 32 + 65535) / 65536
  | _ => 0

/-- Whether a header or table sheet of a buffer is POISON or LOST now. -/
def Obj.headBad (o : Obj) : Bool := o.map.any fun e => decide (e.1 < o.headSheets) && (e.2.poison || e.2.lost)

/-- The fact that a buffer is broken is kept with it from when a header or table sheet becomes POISON or LOST (R783). -/
def noteBroken (p : Part) (h : Nat) (s : State) : State :=
  updObj p h (fun o => { o with broken := o.broken || o.headBad }) s

/-- MEMORY, cause 1: an uncorrectable error in a sheet. -/
def poisonSheet (p : Part) (h i : Nat) (s : State) : State :=
  let flash : Bool := match (s.obj? p h).bind fun o => Map.find? o.map i with
    | some x => x.tier == .managed || x.tier == .striped
    | none => false
  let s := noteBroken p h (updSheet p h i (fun x => { x with poison := true }) s)
  let s := if flash then { s with flash := { s.flash with uncorr := satAdd s.flash.uncorr 1 } } else s
  let s := match (s.obj? p h).bind fun o => Map.find? o.map i with
    | some x => if x.tier == .striped then markBlock x.region (x.frames.headD 0) s else s
    | none => s
  let no := ((s.obj? p h).map fun o => o.base / sheetBytes + i).getD i
  note p 0x0030 stInternal (place 224 216 1 ||| place 224 184 h ||| place 224 144 no) s

/-! ## Frames: allocation, quotas, release (R355, R358, R364, R780) -/

/-- Frames of a tier (and region) that the sheets of a partition hold, with those its moves have reserved. -/
def framesOf (s : State) (p : Part) (t : Tier) (region : Nat) : List Nat :=
  let objs := (s.part p).tier.objects
  let here (x : Sheet) : List Nat :=
    (if x.tier = t && (t ≠ .managed && t ≠ .striped || x.region = region) then x.frames else []) ++
      (if t = .hbm then (x.window.map fun w => w.1).toList else [])
  let held := objs.flatMap fun e => (e.2.map.flatMap fun y => here y.2) ++ (if t = .hbm then e.2.winFree else [])
  let moving := s.flash.moves.filter fun v => v.p = p && v.dst = t && (t ≠ .managed && t ≠ .striped || v.region = region)
  held ++ moving.flatMap fun v => v.frames

/-- Frames of a tier that any partition holds. -/
def usedFrames (s : State) (t : Tier) (region : Nat) : List Nat := four.flatMap fun p => framesOf s p t region

/-- Frames a tier has (R351). -/
def tierFrames (s : State) (t : Tier) (region : Nat) : Nat :=
  match t with
  | .hbm => 8789056
  | .bulk => 15380864
  | .managed => (s.region region).frames
  | .striped => (s.region region).frames
  | _ => 0

/-- Stacks or packages of a tier. -/
def tierSpread (t : Tier) : Nat :=
  match t with
  | .hbm => 8
  | .bulk => 16
  | _ => 1

/-- The lowest free frame whose stack or package holds none of the copies already placed (R780). A free one, if there
is any, lies among the first (used + 1) rounds of stacks. -/
def freeFrame (used : List Nat) (limit spread : Nat) (placed : List Nat) : Option Nat :=
  firstBelow (min limit (spread * (used.length + 1))) fun f =>
    !used.contains f && !(decide (1 < spread) && placed.any fun g => g % spread = f % spread)

/-- Frames for `n` copies, in copy order. -/
def freeCopies (used : List Nat) (limit spread : Nat) : Nat → List Nat → Option (List Nat)
  | 0, placed => some placed
  | n + 1, placed =>
    match freeFrame (used ++ placed) limit spread placed with
    | some f => freeCopies used limit spread n (placed ++ [f])
    | none => none

/-- A partition's quota in a tier; none where there is none. -/
def quota (s : State) (p : Part) (t : Tier) : Option Nat :=
  match t with
  | .hbm => some (s.part p).tier.quotaHbm.toNat
  | .bulk => some (s.part p).tier.quotaBulk.toNat
  | _ => none

/-- The tier that code `c` of a tier list names, given the region (R351, R353). -/
def listTier (s : State) (region c : Nat) : Tier :=
  match c with
  | 1 => .stake
  | 2 => .hbm
  | 3 => .bulk
  | 4 => (s.region region).tier
  | _ => .none

/-- Frames for the copies of a sheet in a tier within quota, beyond those in `extra` that are about to be held. -/
def takeFrames (s : State) (p : Part) (t : Tier) (region copies : Nat) (extra : List Nat) : Option (List Nat) :=
  let used := usedFrames s t region ++ extra
  let within := match quota s p t with
    | some q => decide ((framesOf s p t region).length + extra.length + copies ≤ q)
    | none => true
  if within then freeCopies used (tierFrames s t region) (tierSpread t) copies [] else none

/-- Clears the frames of a sheet that is new in them (R357): what the overlay has for them is an earlier sheet's. -/
def clearFrames (t : Tier) (region : Nat) (fs : List Nat) (s : State) : State :=
  let s := { s with mem := fs.foldl (fun m f => clearRun m (frameKey t region f) sheetBytes) s.mem }
  let s := updFlash (fun f => { f with tags := fs.foldl (fun m f => Map.erase m (frameKey t region f)) f.tags }) s
  if t = .striped then dropOverlay (fs.map (overlayName region)) s else s

/-- Whether a move of the sheet waits or runs. -/
def moving (s : State) (p : Part) (h i : Nat) : Bool :=
  s.flash.moves.any fun v => v.p = p && v.handle = h && v.sheet = i && v.kind ≠ .fetch

/-- The first sheet that may be promoted into a tier (R358): of an unpinned object, in a tier its policy lists below. -/
def promotionOf (s : State) (p : Part) (t : Tier) : Option (Nat × Nat × Nat) :=
  let fits (o : Obj) : Bool :=
    let l := Policy.ofBits o.policy
    !l.pin && !l.fetch && (l.tiers.map (listTier s l.region)).contains t && !o.dying && !o.changing
  let below (o : Obj) (x : Sheet) : Bool :=
    let l := Policy.ofBits o.policy
    (((l.tiers.map (listTier s l.region)).dropWhile (· ≠ t)).drop 1).contains x.tier
  let cands := (s.part p).tier.objects.flatMap fun e =>
    if fits e.2 then
      (e.2.map.filter fun y => below e.2 y.2 && !moving s p e.1 y.1).map fun y =>
        (e.1, y.1, (Policy.ofBits e.2.policy).copies)
    else []
  cands.head?

/-- Asks for one promotion into a tier that has a free frame within the quota. -/
def backfill (p : Part) (t : Tier) (region : Nat) (s : State) : State :=
  match promotionOf s p t with
  | none => s
  | some (h, i, c) => match takeFrames s p t region c [] with
    | none => s
    | some fs => addMove { ident := 0, p, handle := h, sheet := i, kind := .promotion, dst := t, region, frames := fs } s

/-- Asks for up to `n` promotions. -/
def backfills (p : Part) (t : Tier) (region : Nat) : Nat → State → State
  | 0, s => s
  | n + 1, s => backfills p t region n (backfill p t region s)

/-- Promotions after partition `p` has freed frames: HBM, bulk and flash frames in that order. -/
def backfillFreed (p : Part) (freed : List (Tier × Nat)) (s : State) : State :=
  freed.foldl (fun s e => if e.1 = .none || e.1 = .stake then s else backfill p e.1 e.2 s) s

end Sys2Proof.Machine
end

