-- ==== Sys2Proof/Machine/Buffers.lean ====
section
/-!
DEFINITION. Reduction buffers in device memory: header, sheet table and state (R261 to R266, R783), contributions as
they are admitted or refused (R269 to R276), closure (R281 to R284), and the sheet status word (R398).
-/
namespace Sys2Proof.Machine

/-- A buffer header (R261). STATE is 0 OPEN, 1 CLOSING, 2 CLOSED. -/
structure BufHdr where
  data     : Nat
  table    : Nat
  rowsM1   : Nat
  colsM1   : Nat
  anchor   : Nat
  guard    : Nat
  parts    : Nat
  step     : Nat
  state    : Nat
  group    : Nat
  dropped  : Nat := 0
  partially : Nat := 0
  refused  : Nat := 0
  torn      : Bool := false
  unmasked  : Bool := false
  outside   : Bool := false
  stale     : Bool := false
  duplicate : Bool := false
  late      : Bool := false
  inexact   : Bool := false
  range     : Bool := false
  nonfinite : Bool := false
  expect   : Nat := 0
  deriving DecidableEq, Repr

/-- The header in 512 bits. -/
def BufHdr.ofNat (v : Nat) : BufHdr where
  data := field v 511 456
  table := field v 455 400
  rowsM1 := field v 399 380
  colsM1 := field v 379 360
  anchor := field v 359 350
  guard := field v 349 345
  parts := field v 344 337
  step := field v 336 297
  state := field v 296 295
  group := field v 287 256
  dropped := field v 255 192
  partially := field v 191 128
  refused := field v 127 96
  torn := v.testBit 88
  unmasked := v.testBit 87
  outside := v.testBit 86
  stale := v.testBit 85
  duplicate := v.testBit 84
  late := v.testBit 83
  inexact := v.testBit 82
  range := v.testBit 81
  nonfinite := v.testBit 80
  expect := field v 63 0

/-- The bits of a header. -/
def BufHdr.toNat (b : BufHdr) : Nat :=
  b.data * 2 ^ 456 + b.table * 2 ^ 400 + b.rowsM1 * 2 ^ 380 + b.colsM1 * 2 ^ 360 + b.anchor * 2 ^ 350 +
    b.guard * 2 ^ 345 + b.parts * 2 ^ 337 + b.step * 2 ^ 297 + b.state * 2 ^ 295 + b.group * 2 ^ 256 +
    b.dropped * 2 ^ 192 + b.partially * 2 ^ 128 + b.refused * 2 ^ 96 + bit b.torn * 2 ^ 88 + bit b.unmasked * 2 ^ 87 +
    bit b.outside * 2 ^ 86 + bit b.stale * 2 ^ 85 + bit b.duplicate * 2 ^ 84 + bit b.late * 2 ^ 83 +
    bit b.inexact * 2 ^ 82 + bit b.range * 2 ^ 81 + bit b.nonfinite * 2 ^ 80 + b.expect

/-- E of a header (R180). -/
def BufHdr.e (b : BufHdr) : Int := signed 10 b.anchor

/-- Sheets across a buffer's columns (R262). -/
def BufHdr.across (b : BufHdr) : Nat := (b.colsM1 + 128) / 128

/-- Data sheets of a buffer (R262). -/
def BufHdr.dataSheets (b : BufHdr) : Nat := (b.rowsM1 + 64) / 64 * b.across

/-- Sheet and element within it of element (i, j) (R262). -/
def BufHdr.place (b : BufHdr) (i j : Nat) : Nat × Nat := (i / 64 * b.across + j / 128, i % 64 * 128 + j % 128)

/-- The master id with which the module itself reads a header: it makes no difference to the bytes. -/
def ownMaster : Nat := 0x20

/-- The header of a buffer object. -/
def bufHdr (s : State) (p : Part) (o : Obj) : BufHdr := BufHdr.ofNat (readNat s p ownMaster o.base 64)

/-- Writes a buffer's header. -/
def setBufHdr (p : Part) (o : Obj) (b : BufHdr) (s : State) : State := writeNat p o.base 64 b.toNat s

/-- An entry of the sheet table (R263). -/
structure BufEntry where
  mask      : Nat := 0
  lmask     : Nat := 0
  seen      : Nat := 0
  torn      : Bool := false
  nonfinite : Bool := false
  range     : Bool := false
  inexact   : Bool := false
  deriving DecidableEq, Repr

/-- The entry in 256 bits. -/
def BufEntry.ofNat (v : Nat) : BufEntry where
  mask := field v 255 192
  lmask := field v 191 128
  seen := field v 127 96
  torn := v.testBit 91
  nonfinite := v.testBit 90
  range := v.testBit 89
  inexact := v.testBit 88

/-- The bits of an entry. -/
def BufEntry.toNat (e : BufEntry) : Nat :=
  e.mask * 2 ^ 192 + e.lmask * 2 ^ 128 + e.seen % 2 ^ 32 * 2 ^ 96 + bit e.torn * 2 ^ 91 + bit e.nonfinite * 2 ^ 90 +
    bit e.range * 2 ^ 89 + bit e.inexact * 2 ^ 88

/-- The table entry of data sheet `n`. -/
def bufEntry (s : State) (p : Part) (b : BufHdr) (n : Nat) : BufEntry :=
  BufEntry.ofNat (readNat s p ownMaster (b.table + 32 * n) 32)

/-- Writes a table entry. -/
def setBufEntry (p : Part) (b : BufHdr) (n : Nat) (e : BufEntry) (s : State) : State :=
  writeNat p (b.table + 32 * n) 32 e.toNat s

/-- Bits set in a mask. -/
def popcount (v : Nat) : Nat := ((List.range 64).filter fun i => v.testBit i).length

/-- Whether the migration engine leaves a sheet where it is (R265): a buffer's table and data while OPEN or CLOSING. -/
def protectedSheet (s : State) (p : Part) (o : Obj) (i : Nat) : Bool :=
  match o.kind with
  | .redBuf .. => decide (1 ≤ i) && decide ((bufHdr s p o).state < 2)
  | _ => false

/-- Whether a buffer is broken (R783), as its object keeps it. -/
def bufBroken (_ : State) (_ : Part) (o : Obj) : Bool := o.broken

/-- The buffers of a reduction group: handle and object, ascending. -/
def groupBufs (s : State) (p : Part) (group : Nat) : List (Nat × Obj) :=
  (s.part p).tier.objects.filter fun e => match e.2.kind with
    | .redBuf g .. => g = group
    | _ => false

/-! ## Contributions (R269 to R276) -/

/-- Counts a refused contribution, with the header bit that says why (R270). A broken buffer's counts in memory stay
(R783). -/
def refuseContribution (p : Part) (o : Obj) (why : BufHdr → BufHdr) (s : State) : State :=
  let s := s.updVeto p fun v => { v with refused := satAdd v.refused 1 }
  if bufBroken s p o then s
  else
    let b := bufHdr s p o
    setBufHdr p o (why { b with refused := min (b.refused + 1) 0xFFFF_FFFF }) s

/-- What becomes of a local contribution of leaf `leaf` and step `step` to data sheet `n` (R269, R271): admitted, or
the header bit of its refusal. -/
def admitLocal (b : BufHdr) (e : BufEntry) (step phase leaf : Nat) : Option (BufHdr → BufHdr) :=
  if phase > 1 then some fun b => { b with unmasked := true }
  else if step ≠ b.step then some fun b => { b with stale := true }
  else if b.state = 0 then none
  else if b.state = 1 && e.lmask.testBit leaf && decide (e.seen < popcount e.lmask * b.parts) then none
  else some fun b => { b with late := true }

/-- The table entry after an admitted local contribution (R272). -/
def BufEntry.admitted (e : BufEntry) (leaf : Nat) : BufEntry :=
  { e with mask := e.mask ||| 2 ^ leaf, lmask := e.lmask ||| 2 ^ leaf, seen := e.seen + 1 }

/-- What becomes of a COPY_ADD contribution (R275): admitted, or the header bit of its refusal. -/
def admitAdd (b : BufHdr) (e : BufEntry) (step mask : Nat) : Option (BufHdr → BufHdr) :=
  if step ≠ b.step then some fun b => { b with stale := true }
  else if b.state ≠ 0 then some fun b => { b with late := true }
  else if mask = 0 then some fun b => { b with unmasked := true }
  else if mask &&& e.mask ≠ 0 then some fun b => { b with duplicate := true }
  else none

/-- Adds integers to FX64 elements of a data sheet: element and value, modulo 2^64 (R183, R278). -/
def addElements (p : Part) (b : BufHdr) (n : Nat) (adds : List (Nat × Int)) (s : State) : State :=
  adds.foldl (fun s a =>
    let addr := b.data + n * sheetBytes + 8 * a.1
    let v : Int := readNat s p ownMaster addr 8
    writeNat p addr 8 ((v + a.2) % 2 ^ 64).toNat s) s

/-- A buffer, as object and header, whose data holds the sheet at an address, with the sheet's number. -/
def bufOfSheet (s : State) (p : Part) (a : Nat) : Option (Nat × Obj × BufHdr × Nat) :=
  match findObj (s.part p).tier a with
  | none => none
  | some (h, o) => match o.kind with
    | .redBuf .. =>
      let b := bufHdr s p o
      if b.data ≤ a then some (h, o, b, (a - b.data) / sheetBytes) else none
    | _ => none

/-- One sheet of a COPY_ADD reaches its destination (R228, R275, R276): 8,192 integers in its bytes. A destination that is
no data sheet of a buffer gets each integer added to the one at the same place (R184). -/
def addSheet (p : Part) (a step mask : Nat) (torn : Bool) (data : List Byte) (s : State) : State :=
  match bufOfSheet s p a with
  | none =>
    let sum (i : Nat) : List Byte :=
      leBytes 8 ((readNat s p ownMaster (a + 8 * i) 8 + leNat ((data.drop (8 * i)).take 8)) % 2 ^ 64)
    writeMem p a ((List.range 8192).flatMap sum) s
  | some (_, o, b, n) =>
    if bufBroken s p o then refuseContribution p o id s
    else
      let e := bufEntry s p b n
      match admitAdd b e step mask with
      | some why => refuseContribution p o why s
      | none =>
        let adds := (List.range 8192).filterMap fun i =>
          let v := leNat ((data.drop (8 * i)).take 8)
          if v = 0 then none else some (i, (v : Int))
        setBufEntry p b n { e with mask := e.mask ||| mask, torn := e.torn || torn } (addElements p b n adds s)

/-! ## Closing and resetting (R266, R281 to R284) -/

/-- A reduction deadline for one buffer (R281). -/
def deadlineBuf (p : Part) (step expect : Nat) (s : State) (e : Nat × Obj) : State :=
  let b := bufHdr s p e.2
  if bufBroken s p e.2 || b.step ≠ step || b.state ≠ 0 then s
  else setBufHdr p e.2 { b with state := 1, expect := if expect = 0 then b.expect else expect } s

/-- The move of a buffer to CLOSED (R283): scans the sheet table. -/
def closeBuf (p : Part) (o : Obj) (s : State) : State :=
  let b := bufHdr s p o
  let ns := List.range b.dataSheets
  let fix (s : State) (n : Nat) : State :=
    let e := bufEntry s p b n
    if e.seen ≠ popcount e.lmask * b.parts && !e.torn then setBufEntry p b n { e with torn := true } s else s
  let s := ns.foldl fix s
  let es := ns.map (bufEntry s p b)
  let allM := es.foldl (fun m e => m &&& e.mask) (2 ^ 64 - 1)
  let anyM := es.foldl (fun m e => m ||| e.mask) 0
  setBufHdr p o { b with
    state := 2
    torn := b.torn || es.any fun e => e.torn
    nonfinite := b.nonfinite || es.any fun e => e.nonfinite
    range := b.range || es.any fun e => e.range
    inexact := b.inexact || es.any fun e => e.inexact
    dropped := b.expect &&& (2 ^ 64 - 1 - anyM)
    partially := b.expect &&& (anyM &&& (2 ^ 64 - 1 - allM)) } s

/-- Writes zeros over whole sheets of an object. -/
def zeroSheets (p : Part) (base : Nat) : Nat → State → State
  | 0, s => s
  | n + 1, s => zeroSheets p base n (writeMem p (base + n * sheetBytes) (List.replicate sheetBytes 0) s)

/-- A buffer reset (R266). -/
def resetBuf (p : Part) (o : Obj) (step expect : Nat) (s : State) : State :=
  let b := match o.kind with
    | .redBuf g rows cols anchor guard parts =>
      { BufHdr.ofNat 0 with
        data := o.base + (1 + (((rows + 63) / 64 * ((cols + 127) / 128)) * 32 + 65535) / 65536) * sheetBytes
        table := o.base + sheetBytes
        rowsM1 := rows - 1, colsM1 := cols - 1, anchor := (anchor % 1024).toNat, guard, parts, group := g, step
        expect }
    | _ => BufHdr.ofNat 0
  let s := setBufHdr p o b (zeroSheets p o.base o.sheets s)
  -- a buffer rewritten in full is no longer broken, unless a sheet of its header or table is still LOST (R783)
  match findObj (s.part p).tier o.base with
  | some (h, _) => updObj p h (fun o => { o with broken := o.headBad }) s
  | none => s

/-! ## Sheet status (R398, R703) -/

/-- The status word of sheet `i` of an object. -/
def statusWord (s : State) (p : Part) (h : Nat) (o : Obj) (i : Nat) : B64 :=
  match o.kind with
  | .guestWindow _ => place 64 61 6
  | _ => match Map.find? o.map i with
    | none => 0
    | some x =>
      let v := s.flash.moves.find? fun v => v.p = p && v.handle = h && v.sheet = i && v.kind ≠ .fetch
      let mv := match v with
        | none => 0
        | some v => if v.holding then 2 else if v.started then 1 else if protectedSheet s p o i then 3 else 0
      let f := x.frames.getD 0 0
      place 64 61 x.tier.code ||| place 64 59 mv ||| place 64 58 (bit x.poison) ||| place 64 57 (bit x.lost) |||
        place 64 56 (bit x.window.isSome) ||| place 64 55 (bit x.unwritten) |||
        place 64 54 (bit (x.tier == .striped && s.flash.overlay.contains (overlayName x.region f))) |||
        place 64 50 x.region ||| place 64 48 (x.frames.length - 1) ||| BitVec.ofNat 64 (f % 2 ^ 40)

end Sys2Proof.Machine
end

