-- ==== Sys2Proof/Machine/Crypto.lean ====
section
/-!
DEFINITION. The named algorithms the manual uses: CRC-32C (R491, R624) and the CRC-8 of the sideband tokens (R676),
SHA-256 (R550, R504), AES-256 in Galois counter mode (R501) and in XTS mode (R432), the keys derived under R743, the assay
digest in GF(2^128) (R559), and RSA-PSS
verification and signing (R721).
-/
namespace Sys2Proof.Machine

/-! ## CRCs -/

/-- One bit of a reflected CRC. -/
def crcBit {w : Nat} (poly c : BitVec w) : BitVec w := if c.getLsbD 0 then (c >>> 1) ^^^ poly else c >>> 1

/-- `n` bits of a reflected CRC. -/
def crcBits {w : Nat} (poly : BitVec w) : Nat → BitVec w → BitVec w
  | 0, c => c
  | n + 1, c => crcBits poly n (crcBit poly c)

/-- CRC-32C: all ones at the start, bytes bit-reflected, inverted at the end (R624). -/
def crc32c (bytes : List Byte) : B32 :=
  ~~~(bytes.foldl (fun c b => crcBits (0x82F6_3B78 : B32) 8 (c ^^^ b.setWidth 32)) (0xFFFF_FFFF : B32))

/-! ## SHA-256 -/

/-- The primes below 312, of which there are 64. -/
def shaPrimes : List Nat :=
  (List.range 312).filter fun n => 2 ≤ n && [2, 3, 5, 7, 11, 13, 17].all fun d => n = d || n % d ≠ 0

/-- The largest number below 2^b (above `r`) whose `k`th power does not pass `n`, bit by bit. -/
def rootBits (k n : Nat) : Nat → Nat → Nat
  | 0, r => r
  | b + 1, r => rootBits k n b (if (r + 2 ^ b) ^ k ≤ n then r + 2 ^ b else r)

/-- The first 32 bits behind the point of a prime's `k`th root. -/
def rootWord (k p : Nat) : B32 := BitVec.ofNat 32 (rootBits k (p * 2 ^ (32 * k)) 35 0)

/-- The round constants: cube roots of the first 64 primes. -/
def shaK : List B32 := shaPrimes.map (rootWord 3)

/-- The eight words before the first block: square roots of the first eight primes. -/
def shaInit : List B32 := (shaPrimes.take 8).map (rootWord 2)

/-- A word's rotations to the right, added without carry. -/
def spins (x : B32) (ns : List Nat) : B32 := (ns.map fun n => x.rotateRight n).foldl (· ^^^ ·) 0

/-- One round on the eight working words, with its constant and its word of the schedule. -/
def shaRound (s : List B32) (kw : B32 × B32) : List B32 :=
  match s with
  | [a, b, c, d, e, f, g, h] =>
    let u := h + kw.1 + kw.2 + spins e [6, 11, 25] + (g ^^^ (e &&& (f ^^^ g)))
    [u + spins a [2, 13, 22] + (a &&& b ||| c &&& (a ||| b)), a, b, c, d + u, e, f, g]
  | s => s

/-- The word that follows 16 words of the schedule, of which the newest stands first. -/
def shaNext (w : List B32) : B32 :=
  let back (n : Nat) : B32 := w.getD (n - 1) 0
  back 16 + (spins (back 15) [7, 18] ^^^ (back 15 >>> 3)) + back 7 + (spins (back 2) [17, 19] ^^^ (back 2 >>> 10))

/-- The schedule of a block's 16 words, newest first, made longer by `n` words. -/
def shaLonger : Nat → List B32 → List B32
  | 0, w => w
  | n + 1, w => shaLonger n (shaNext w :: w)

/-- The big-endian words of a byte string of whole words. -/
def beWords (l : List Byte) : List B32 :=
  (List.range (l.length / 4)).map fun i =>
    BitVec.ofNat 32 (((l.drop (4 * i)).take 4).foldl (fun v b => 256 * v + b.toNat) 0)

/-- One 64-byte block. -/
def shaBlock (s : List B32) (block : List Byte) : List B32 :=
  List.zipWith (· + ·) s ((shaK.zip (shaLonger 48 (beWords block).reverse).reverse).foldl shaRound s)

/-- `n` blocks from a byte string. -/
def shaBlocks : Nat → List B32 → List Byte → List B32
  | 0, s, _ => s
  | n + 1, s, l => shaBlocks n (shaBlock s (l.take 64)) (l.drop 64)

/-- Bytes of a number, most significant first. -/
def beBytes (n v : Nat) : List Byte := (leBytes n v).reverse

/-- The number that bytes spell, most significant first. -/
def beNat (l : List Byte) : Nat := l.foldl (fun v b => 256 * v + b.toNat) 0

/-- SHA-256 as 32 bytes. -/
def sha256 (m : List Byte) : List Byte :=
  let pad := m ++ [0x80] ++ List.replicate ((119 - m.length % 64) % 64) 0 ++ beBytes 8 (8 * m.length)
  (shaBlocks (pad.length / 64) shaInit pad).flatMap fun x => beBytes 4 x.toNat

/-- A digest as a 256-bit value whose byte i is digest byte i (R12). -/
def digestVal (l : List Byte) : B256 := BitVec.ofNat 256 (leNat l)

/-- SHA-256 as a 256-bit value. -/
def sha256Val (m : List Byte) : B256 := digestVal (sha256 m)

/-- The bytes of a digest value. -/
def digestBytes (d : B256) : List Byte := leBytes 32 d.toNat

/-! ## GF(2^128) -/

/-- x times a polynomial modulo x^128 + x^7 + x^2 + x + 1, bit i being the coefficient of x^i (R559). -/
def gfDouble (a : B128) : B128 := if a.getLsbD 127 then (a <<< 1) ^^^ 0x87 else a <<< 1

/-- The product, by the bits of `b` from bit `n − 1` down. -/
def gfMulBits (a b : B128) : Nat → B128 → B128
  | 0, r => r
  | n + 1, r => gfMulBits a b n (if b.getLsbD n then gfDouble r ^^^ a else gfDouble r)

/-- The product in GF(2^128). -/
def gfMul (a b : B128) : B128 := gfMulBits a b 128 0

/-- The assay digest P (R559). -/
def assayP (h : B128) (xs : List B128) : B128 := xs.foldl (fun r x => gfMul (r ^^^ x) h) 0

/-! ## AES-256 -/

/-- A product in GF(2^8) of AES. -/
def aesMul (a b : Byte) : Nat → Byte
  | 0 => 0
  | n + 1 =>
    let r := aesMul a b n
    let r2 := if r.getLsbD 7 then (r <<< 1) ^^^ 0x1B else r <<< 1
    if b.getLsbD (7 - n) then r2 ^^^ a else r2

/-- A power in GF(2^8), by squaring: a to 2^(k+1) − 2 after k steps. -/
def aesInvPow (a : Byte) : Nat → Byte
  | 0 => 1
  | k + 1 => let r := aesInvPow a k; let q := aesMul r a 8; aesMul q q 8

/-- The S-box. -/
def aesSub (a : Byte) : Byte :=
  let i := aesInvPow a 7
  i ^^^ i.rotateLeft 1 ^^^ i.rotateLeft 2 ^^^ i.rotateLeft 3 ^^^ i.rotateLeft 4 ^^^ 0x63

/-- The round key words, newest first: word `i` comes next. -/
def aesExpand : Nat → Nat → Byte → List (List Byte) → List (List Byte)
  | 0, _, _, w => w
  | n + 1, i, rc, w =>
    let t := w.headD []
    let t' := if i % 8 = 0 then
        match (t.drop 1 ++ t.take 1).map aesSub with
        | b :: r => (b ^^^ rc) :: r
        | [] => []
      else if i % 8 = 4 then t.map aesSub else t
    let v := List.zipWith (· ^^^ ·) (w.getD 7 []) t'
    aesExpand n (i + 1) (if i % 8 = 0 then aesMul rc 2 8 else rc) (v :: w)

/-- Words of four bytes. -/
def words4 : List Byte → List (List Byte)
  | a :: b :: c :: d :: r => [a, b, c, d] :: words4 r
  | _ => []

/-- Round keys of 16 bytes. -/
def rounds16 : List (List Byte) → List (List Byte)
  | a :: b :: c :: d :: r => (a ++ b ++ c ++ d) :: rounds16 r
  | _ => []

/-- The fifteen round keys of a 32-byte key. -/
def aesKeys (key : List Byte) : List (List Byte) :=
  rounds16 (aesExpand 52 8 1 (words4 key).reverse).reverse

/-- ShiftRows on sixteen bytes, column by column. -/
def aesShift (s : List Byte) : List Byte :=
  (List.range 16).map fun i => s.getD ((i + 4 * (i % 4)) % 16) 0

/-- MixColumns. -/
def aesMix : List Byte → List Byte
  | a :: b :: c :: d :: r =>
    let m2 (x : Byte) := aesMul x 2 8
    let m3 (x : Byte) := aesMul x 3 8
    [m2 a ^^^ m3 b ^^^ c ^^^ d, a ^^^ m2 b ^^^ m3 c ^^^ d, a ^^^ b ^^^ m2 c ^^^ m3 d, m3 a ^^^ b ^^^ c ^^^ m2 d] ++ aesMix r
  | _ => []

/-- The rounds after the first key addition. -/
def aesRounds : List (List Byte) → List Byte → List Byte
  | [], s => s
  | [k], s => List.zipWith (· ^^^ ·) (aesShift (s.map aesSub)) k
  | k :: ks, s => aesRounds ks (List.zipWith (· ^^^ ·) (aesMix (aesShift (s.map aesSub))) k)

/-- AES-256 of one block. -/
def aesBlock (keys : List (List Byte)) (b : List Byte) : List Byte :=
  match keys with
  | k :: ks => aesRounds ks (List.zipWith (· ^^^ ·) b k)
  | [] => b

/-- The S-box backwards: the affine part undone, then the inverse in the field. -/
def aesUnsub (a : Byte) : Byte := aesInvPow (a.rotateLeft 1 ^^^ a.rotateLeft 3 ^^^ a.rotateLeft 6 ^^^ 0x05) 7

/-- ShiftRows backwards, which is ShiftRows three times. -/
def aesUnshift (s : List Byte) : List Byte := aesShift (aesShift (aesShift s))

/-- MixColumns backwards, which is MixColumns three times. -/
def aesUnmix (s : List Byte) : List Byte := aesMix (aesMix (aesMix s))

/-- The rounds backwards after the last key addition, given the round keys that are left, last first. -/
def aesUnrounds : List (List Byte) → List Byte → List Byte
  | [], s => s
  | [k], s => List.zipWith (· ^^^ ·) ((aesUnshift s).map aesUnsub) k
  | k :: ks, s => aesUnrounds ks (aesUnmix (List.zipWith (· ^^^ ·) ((aesUnshift s).map aesUnsub) k))

/-- AES-256 of one block backwards. -/
def aesUnblock (keys : List (List Byte)) (b : List Byte) : List Byte :=
  match keys.reverse with
  | [] => b
  | k :: ks => aesUnrounds ks (List.zipWith (· ^^^ ·) b k)

/-- Sixteen-byte blocks, the last filled with zeros. -/
def blocks16 : Nat → List Byte → List (List Byte)
  | 0, _ => []
  | n + 1, l => if l.isEmpty then [] else takePad 16 0 (l.take 16) :: blocks16 n (l.drop 16)

/-! ## Derived keys and XTS (R432, R433, R743) -/

/-- A key derived from the root secret: SHA-256 of the secret, the label, and where it is a partition's the partition's
number (R743). -/
def deriveKey (label : List Byte) (p : Option Part) : List Byte :=
  sha256 (digestBytes Config.pufRoot ++ label ++ p.toList.map fun q => BitVec.ofNat 8 q.val)

/-- The memory key of a partition: two 256-bit keys. -/
def memoryKey (p : Part) : List Byte × List Byte :=
  (deriveKey (Config.memoryLabel false) (some p), deriveKey (Config.memoryLabel true) (some p))

/-- The boot-flash region key. -/
def bootFlashKey : List Byte := deriveKey Config.bootLabel none

/-- The key that wraps the private half of the device identity key (R744). -/
def identityWrapKey : List Byte := deriveKey Config.wrapLabel none

/-- The blocks of a data unit, each under its own tweak: the next tweak is the last times x. -/
def xtsBlocks (one : List Byte → List Byte) : B128 → List (List Byte) → List Byte
  | _, [] => []
  | t, b :: r =>
    let w := leBytes 16 t.toNat
    List.zipWith (· ^^^ ·) (one (List.zipWith (· ^^^ ·) b w)) w ++ xtsBlocks one (gfDouble t) r

/-- AES-256-XTS of a data unit of whole blocks, forwards or `back`. -/
def xtsUnit (back : Bool) (key : List Byte × List Byte) (tweak : B128) (data : List Byte) : List Byte :=
  let keys := aesKeys key.1
  let first := aesBlock (aesKeys key.2) (leBytes 16 tweak.toNat)
  xtsBlocks (if back then aesUnblock keys else aesBlock keys) (BitVec.ofNat 128 (leNat first))
    (blocks16 (data.length / 16) data)

/-- A sheet as its tier holds it for partition `p` and sheet number `n`, granule by granule, or `back` from that (R432). -/
def xtsSheet (back : Bool) (p : Part) (n : Nat) (data : List Byte) : List Byte :=
  let key := memoryKey p
  (List.range (data.length / 256)).flatMap fun g =>
    xtsUnit back key (Config.xtsTweak p n g) ((data.drop (256 * g)).take 256)

/-! ## Galois counter mode -/

/-- The bits of sixteen bytes, first byte's top bit first, with bit 0 of the value for x^0. -/
def ghashVal (b : List Byte) : B128 := (BitVec.ofNat 128 (beNat b)).reverse

/-- Every block of a string. -/
def allBlocks (l : List Byte) : List (List Byte) := blocks16 (l.length / 16 + 1) l

/-- GHASH of additional data and ciphertext. -/
def ghash (h : B128) (aad ct : List Byte) : List Byte :=
  let len := beBytes 8 (8 * aad.length) ++ beBytes 8 (8 * ct.length)
  let y := (allBlocks aad ++ allBlocks ct ++ [len]).foldl (fun y b => gfMul (y ^^^ ghashVal b) h) 0
  beBytes 16 y.reverse.toNat

/-- The counter stream over a text, from counter `c`. -/
def gcmStream (keys : List (List Byte)) (iv : List Byte) (c : Nat) (text : List Byte) : List Byte :=
  let ks := (List.range ((text.length + 15) / 16)).flatMap fun i => aesBlock keys (iv ++ beBytes 4 (c + i))
  List.zipWith (· ^^^ ·) text ks

/-- AES-256-GCM encryption with a 96-bit vector: ciphertext and tag. -/
def gcmEncrypt (key iv aad text : List Byte) : List Byte × List Byte :=
  let keys := aesKeys key
  let h := ghashVal (aesBlock keys (List.replicate 16 0))
  let ct := gcmStream keys iv 2 text
  (ct, List.zipWith (· ^^^ ·) (ghash h aad ct) (aesBlock keys (iv ++ beBytes 4 1)))

/-- AES-256-GCM decryption; none where the tag does not verify. -/
def gcmDecrypt (key iv aad ct tag : List Byte) : Option (List Byte) :=
  let keys := aesKeys key
  let h := ghashVal (aesBlock keys (List.replicate 16 0))
  let t := List.zipWith (· ^^^ ·) (ghash h aad ct) (aesBlock keys (iv ++ beBytes 4 1))
  if t = tag then some (gcmStream keys iv 2 ct) else none

/-! ## RSA-PSS (R721) -/

/-- b to the e modulo n, by the bits of e from bit `k − 1` down. -/
def powMod (b e n : Nat) : Nat → Nat → Nat
  | 0, r => r
  | k + 1, r =>
    let q := r * r % n
    powMod b e n k (if e.testBit k then q * b % n else q)

/-- MGF1 with SHA-256. -/
def mgf1 (seed : List Byte) (n : Nat) : List Byte :=
  ((List.range ((n + 31) / 32)).flatMap fun i => sha256 (seed ++ beBytes 4 i)).take n

/-- Verifies a signature over a digest, with SHA-256, a salt of 32 bytes and a key of `k` bytes; the top bit of the
encoded message is not used. -/
def pssVerify (k modulus exponent : Nat) (digest sig : List Byte) : Bool :=
  let em := beBytes k (powMod (beNat sig) exponent modulus (Nat.log2 exponent + 1) 1)
  let db := em.take (k - 33)
  let h := (em.drop (k - 33)).take 32
  let mask := mgf1 h (k - 33)
  let plain : List Byte := match List.zipWith (· ^^^ ·) db mask with
    | b :: r => (b &&& 0x7F) :: r
    | [] => []
  let salt := plain.drop (k - 65)
  decide (modulus ≠ 0) && decide (beNat sig < modulus) && em.getLast? == some 0xBC && (em.headD 0).getLsbD 7 == false &&
    plain.take (k - 65) == List.replicate (k - 66) (0 : Byte) ++ [1] &&
    sha256 (List.replicate 8 (0 : Byte) ++ digest ++ salt) == h

/-- Signs a digest with a salt. -/
def pssSign (k modulus exponent : Nat) (digest salt : List Byte) : List Byte :=
  let h := sha256 (List.replicate 8 (0 : Byte) ++ digest ++ salt)
  let db : List Byte := List.replicate (k - 66) (0 : Byte) ++ [1] ++ salt
  let masked : List Byte := match List.zipWith (· ^^^ ·) db (mgf1 h (k - 33)) with
    | b :: r => (b &&& 0x7F) :: r
    | [] => []
  beBytes k (powMod (beNat (masked ++ h ++ [(0xBC : Byte)])) exponent modulus (Nat.log2 exponent + 1) 1)

end Sys2Proof.Machine
end

