-- ==== Sys2Proof/Machine/Fec.lean ====
section
/-!
DEFINITION. The forward error correction of a Vesin port (R490): RS(544,514) over 10-bit symbols, as IEEE 802.3 clause 91
defines the code (PRESUMED, from that standard: the field of x^10 + x^3 + 1, the generator with the roots 1, α, ..., α^29, and
the first bit in time as bit 0 of a symbol), and the dealing of symbols to lanes.
-/
namespace Sys2Proof.Machine

/-! ## The field -/

/-- A product in the field of 1,024 elements. -/
def rsMul (a b : Nat) : Nat :=
  (List.range 10).foldr (fun i r =>
    let r := if r < 512 then 2 * r else (2 * r) ^^^ 1033
    if b.testBit i then r ^^^ a else r) 0

/-- A power. -/
def rsPow (a : Nat) : Nat → Nat
  | 0 => 1
  | n + 1 => rsMul a (rsPow a n)

/-- The inverse of an element that is not 0, its power 1022. -/
def rsInv (a : Nat) : Nat :=
  ((List.range 9).foldl (fun (x : Nat × Nat) _ => let y := rsMul x.1 x.1; (y, rsMul x.2 y)) (a, 1)).2

/-- A sum of polynomials, lowest power first. -/
def rsAdd : List Nat → List Nat → List Nat
  | [], b => b
  | a, [] => a
  | x :: a, y :: b => (x ^^^ y) :: rsAdd a b

/-- A polynomial times an element. -/
def rsScale (k : Nat) (a : List Nat) : List Nat := a.map (rsMul k)

/-- The value of a polynomial at an element. -/
def rsEval (a : List Nat) (x : Nat) : Nat := a.foldr (fun c r => c ^^^ rsMul x r) 0

/-! ## Encoding -/

/-- The generator polynomial, lowest power first; its leading coefficient 1 is last. -/
def rsGenerator : List Nat :=
  ((List.range 30).foldl (fun (g : List Nat × Nat) _ => (rsAdd (0 :: g.1) (rsScale g.2 g.1), rsMul 2 g.2)) ([1], 1)).1

/-- One step of the division by the generator: the remainder, highest power first, and the next symbol. -/
def rsStep (g r : List Nat) (m : Nat) : List Nat :=
  let k := m ^^^ r.headD 0
  (r.drop 1 ++ [0]).zipWith (fun a c => a ^^^ rsMul k c) g

/-- The codeword of 514 symbols of data: the data and 30 symbols of parity. -/
def rsEncode (data : List Nat) : List Nat :=
  let g := (rsGenerator.take 30).reverse
  data ++ data.foldl (rsStep g) (List.replicate 30 0)

/-! ## Decoding: up to 15 symbols of a codeword are corrected -/

/-- The syndromes of a received word, its first symbol the coefficient of the highest power. -/
def rsSyndromes (w : List Nat) : List Nat := (List.range 30).map fun j => rsEval w.reverse (rsPow 2 j)

/-- The state of the Berlekamp–Massey iteration: the locator, the one before the last change of length, that length, the steps
since and the discrepancy then. -/
structure Locator where
  cur  : List Nat := [1]
  old  : List Nat := [1]
  len  : Nat := 0
  gap  : Nat := 1
  disc : Nat := 1

/-- One step of it, at syndrome `n`. -/
def Locator.next (s : List Nat) (x : Locator) (n : Nat) : Locator :=
  let d := ((List.range (x.len + 1)).map fun i => rsMul (x.cur.getD i 0) (s.getD (n - i) 0)).foldl (· ^^^ ·) 0
  if d = 0 then { x with gap := x.gap + 1 }
  else
    let cur := rsAdd x.cur (List.replicate x.gap 0 ++ rsScale (rsMul d (rsInv x.disc)) x.old)
    if 2 * x.len ≤ n then { cur, old := x.cur, len := n + 1 - x.len, gap := 1, disc := d }
    else { x with cur, gap := x.gap + 1 }

/-- The error at each symbol, as positions and values; none where the word is further than 15 symbols from every codeword. -/
def rsErrors (w : List Nat) : Option (List (Nat × Nat)) :=
  let s := rsSyndromes w
  if s.all (· = 0) then some []
  else
    let x := (List.range 30).foldl (Locator.next s) {}
    let om := (List.range 30).map fun k =>
      ((List.range (k + 1)).map fun i => rsMul (x.cur.getD i 0) (s.getD (k - i) 0)).foldl (· ^^^ ·) 0
    let slope := x.cur.zipIdx.drop 1 |>.map fun e => if e.2 % 2 = 1 then e.1 else 0
    let at' := (List.range 544).filterMap fun i =>
      let root := rsInv (rsPow 2 (543 - i))
      if rsEval x.cur root = 0 then
        some (i, rsMul (rsPow 2 (543 - i)) (rsMul (rsEval om root) (rsInv (rsEval slope root)))) else none
    if 15 < x.len || at'.length ≠ x.len then none else some at'

/-- The data of a received word with the number of symbols corrected; where it cannot be corrected, as it came. -/
def rsDecode (w : List Nat) : List Nat × Option Nat :=
  match rsErrors w with
  | some es => ((es.foldl (fun l e => l.modify e.1 (· ^^^ e.2)) w).take 514, some es.length)
  | none => (w.take 514, none)

/-! ## Bits, symbols and lanes -/

/-- The bits of a value, the lowest first. -/
def lowBits (n v : Nat) : List Bool := (List.range n).map v.testBit

/-- The value of bits, the lowest first. -/
def lowNat (l : List Bool) : Nat := l.foldr (fun b r => 2 * r + b.toNat) 0

/-- `n` pieces of `k` bits each, as values. -/
def cutBits (k : Nat) : Nat → List Bool → List Nat
  | 0, _ => []
  | n + 1, l => lowNat (l.take k) :: cutBits k n (l.drop k)

/-- The bits of a flit in the codeword data, each byte's lowest bit first. -/
def flitBits (bytes : List Byte) : List Bool := bytes.flatMap fun b => lowBits 8 b.toNat

/-- Bits of data in a codeword. -/
def fecBits : Nat := 5140

/-- The lanes in use, ascending. -/
def lanesUsed (mask : Byte) : List Nat := (List.range 8).filter mask.getLsbD

/-- The symbols of a codeword dealt to `w` lanes in turn. -/
def dealLanes (w : Nat) (word : List Nat) : List (List Nat) :=
  (List.range w).map fun i => (word.zipIdx.filter fun e => e.2 % w = i).map Prod.fst

/-- The codeword that the symbols of its lanes make up. -/
def gatherLanes (lanes : List (List Nat)) : List Nat :=
  (List.range 544).map fun k => (lanes.getD (k % lanes.length) []).getD (k / lanes.length) 0

end Sys2Proof.Machine
end

