-- ==== Sys2Proof/Machine/Frames.lean ====
section
/-!
DEFINITION. The bytes of messages (R507 to R509, R565, R583, R584) and flits (R491, R492, R500), encryption runs (R501 to
R504), and sending: routes, credits, retry buffer (R494 to R499, R513, R515, R519, R520).
-/
namespace Sys2Proof.Machine

/-! ## Messages as bytes -/

/-- TYPE, ADDR, ARG and payload of a message (R508, R509, R565, R583, R584). -/
def MsgBody.fields : MsgBody → Nat × Nat × Nat × List Byte
  | .send a d => (0x01, a, 0, d)
  | .add a mask step torn d =>
    (0x02, a, 0, leBytes 8 mask.toNat ++ leBytes 8 (step % 2 ^ 40 + bit torn * 2 ^ 40) ++ d)
  | .ack n st => (0x03, 0, n.toNat * 2 ^ 24 + st.toNat * 2 ^ 8, [])
  | .signal i v => (0x10, 0, i.toNat * 2 ^ 72 + v.toNat * 2 ^ 40, [])
  | .sigReply n st => (0x11, 0, n.toNat * 2 ^ 24 + st.toNat * 2 ^ 8, [])
  | .mark p => (0x20, 0, p.toNat, [])
  | .verdict step skip reason => (0x30, 0, step % 2 ^ 40 * 2 ^ 48 + bit skip * 2 ^ 40 + reason * 2 ^ 32, [])
  | .result r => (0x31, 0, r.step % 2 ^ 40 * 2 ^ 48 + bit r.skip * 2 ^ 40 + r.reason * 2 ^ 32 + r.firstPos * 2 ^ 24,
      leBytes 8 r.reported)
  | .digest op level ident step code node d =>
    (0x40, node, op * 2 ^ 84 + level * 2 ^ 80 + ident * 2 ^ 64 + step % 2 ^ 40 * 2 ^ 24 + code * 2 ^ 8, d)
  | .fill stream ident img sheet d => (0x50, sheet, stream * 2 ^ 84 + ident * 2 ^ 68 + img % 2 ^ 32 * 2 ^ 36, d)
  | .fillCtrl op a b c d => (0x51, c, op * 2 ^ 80 + a % 2 ^ 40 * 2 ^ 40 + b % 2 ^ 40, d)

/-- Whether a message goes on the data channel (R508). -/
def MsgBody.isData : MsgBody → Bool
  | .send .. | .add .. | .fill .. => true
  | _ => false

/-- The source of a message at its port (R499): 0 the control channel, 1 the ladles, 2 the checkpoint engine, 3 the assay
engine, whose repairs are STREAM 3 of FILL. -/
def MsgBody.source : MsgBody → Nat
  | .send .. | .add .. => 1
  | .fill stream _ _ _ _ => if stream = 3 then 3 else 2
  | _ => 0

/-- Whether a message has a reply that its sender awaits (R508, R515). -/
def MsgBody.hasReply : MsgBody → Bool
  | .send .. | .add .. | .signal .. => true
  | _ => false

/-- The destination sheet number that chooses a data message's port (R520). -/
def MsgBody.sheetNo : MsgBody → Nat
  | .send a _ | .add a _ _ _ _ => a / 65536
  | .fill _ _ _ n _ => n
  | _ => 0

/-- The bytes of a message (R507). -/
def msgBytes (src : BitVec 6) (m : OutMsg) : List Byte :=
  let (ty, addr, arg, d) := m.body.fields
  leBytes 32 (ty * 2 ^ 248 + src.toNat * 2 ^ 242 + m.dst.toNat * 2 ^ 236 + d.length % 2 ^ 24 * 2 ^ 208 +
    m.seq.toNat * 2 ^ 144 + addr % 2 ^ 56 * 2 ^ 88 + arg % 2 ^ 88) ++ d

/-- Eight-byte words of a payload. -/
def words8 (d : List Byte) : List B64 := (List.range (d.length / 8)).map fun i => BitVec.ofNat 64 (leNat ((d.drop (8 * i)).take 8))

/-- Sixteen-byte words of a payload. -/
def words16 (d : List Byte) : List B128 :=
  (List.range (d.length / 16)).map fun i => BitVec.ofNat 128 (leNat ((d.drop (16 * i)).take 16))

/-- The command a received message is; none for a reserved TYPE, OP or STREAM (R508). -/
def readMsg (port : Port) (l : List Byte) : Option Instr :=
  let v := leNat (l.take 32)
  let n := field v 231 208
  let d := (l.drop 32).take n
  let addr := field v 143 88
  let a (hi lo : Nat) : Nat := field v hi lo
  let m : MsgHdr := ⟨port, BitVec.ofNat 6 (field v 247 242), BitVec.ofNat 6 (field v 241 236), BitVec.ofNat 64 (field v 207 144)⟩
  let b16 (x : Nat) : B16 := BitVec.ofNat 16 x
  let b40 (x : Nat) : BitVec 40 := BitVec.ofNat 40 x
  let b6 (x : Nat) : BitVec 6 := BitVec.ofNat 6 x
  match field v 255 248 with
  | 0x01 => some (.send m (BitVec.ofNat 56 addr) d)
  | 0x02 => some (.add m (BitVec.ofNat 56 addr) (BitVec.ofNat 64 (leNat (d.take 8)))
      (b40 (leNat ((d.drop 8).take 8))) (Nat.testBit (leNat ((d.drop 8).take 8)) 40) (d.drop 16))
  | 0x03 => some (.ack m (BitVec.ofNat 64 (a 87 24)) (b16 (a 23 8)))
  | 0x10 => some (.signal m (b16 (a 87 72)) (BitVec.ofNat 32 (a 71 40)))
  | 0x11 => some (.sigReply m (BitVec.ofNat 64 (a 87 24)) (b16 (a 23 8)))
  | 0x20 => some (.mark m (BitVec.ofNat 64 (a 63 0)))
  | 0x30 => some (.verdict m (b40 (a 87 48)) (BitVec.ofNat 8 (a 47 40)) (BitVec.ofNat 8 (a 39 32)))
  | 0x31 => some (.result m (b40 (a 87 48)) (BitVec.ofNat 8 (a 47 40)) (BitVec.ofNat 8 (a 39 32)) (BitVec.ofNat 8 (a 31 24))
      (b40 (leNat (d.take 8))))
  | 0x40 =>
    let ident := b16 (a 79 64)
    let step := b40 (a 63 24)
    let level := BitVec.ofNat 4 (a 83 80)
    match a 87 84 with
    | 1 => some (.digestRoot m ident step (BitVec.ofNat 128 (leNat (d.take 16))))
    | 2 => some (.digestQuery m ident step level addr)
    | 3 => some (.digestReply m ident step level addr (words16 d))
    | 4 => some (.digestResult m ident step (b16 (a 23 8)) addr)
    | 5 => some (.digestRepair m ident step addr (b6 (a 23 8)))
    | _ => none
  | 0x50 =>
    let data := d.take 65536
    let mark : B256 := BitVec.ofNat 256 (leNat ((d.drop 65536).take 32))
    match a 87 84 with
    | 1 => some (.fillMirror m (b16 (a 83 68)) (BitVec.ofNat 32 (a 67 36)) addr data mark)
    | 2 => some (.fillSheet m (b16 (a 83 68)) addr data mark)
    | 3 => some (.fillRepair m (b16 (a 83 68)) addr data mark)
    | 4 => some (.fillRecord m (BitVec.ofNat 32 (a 67 36)) (Fin.ofNat 3 addr) d)
    | _ => none
  | 0x51 =>
    let x := a 79 40
    let y := a 39 0
    match a 87 80 with
    | 0x01 => some (.armed m (BitVec.ofNat 32 y))
    | 0x02 => some (.assign m (b6 y))
    | 0x03 => some (.pull m (b40 x) (b16 y) addr)
    | 0x04 => some (.fillRoot m (b16 y) (BitVec.ofNat 256 (leNat (d.take 32))))
    | 0x05 => some (.ready m (b6 y))
    | 0x06 => some (.commitPos m (b6 x) (b6 y))
    | 0x07 => some (.removeMsg m (b6 y))
    | 0x08 => some (.leave m (b40 y))
    | 0x09 => some (.commitImg m (b40 x) (b40 y))
    | 0x0A => some (.queryCkpt m)
    | 0x0B => some (.rollbackMsg m (b40 x))
    | 0x0C => some (.status m (b40 x) (b16 y) (words8 d))
    | _ => none
  | _ => none

/-! ## Flits -/

/-- A flit's header fields (R492). -/
structure FlitHdr where
  kind  : Nat
  vc    : Bool := false
  som   : Bool := false
  eom   : Bool := false
  eor   : Bool := false
  ksel  : Bool := false
  seq   : B16 := 0
  deriving DecidableEq, Repr

/-- The header with ACK and credits zero, as the additional data of R501 has it. -/
def FlitHdr.still (h : FlitHdr) : Nat :=
  h.kind * 2 ^ 60 + bit h.vc * 2 ^ 59 + bit h.som * 2 ^ 58 + bit h.eom * 2 ^ 57 + bit h.eor * 2 ^ 56 + bit h.ksel * 2 ^ 21 +
    h.seq.toNat

/-- The fields of a received header. -/
def FlitHdr.ofNat (v : Nat) : FlitHdr :=
  { kind := field v 63 60, vc := v.testBit 59, som := v.testBit 58, eom := v.testBit 57, eor := v.testBit 56
    ksel := v.testBit 21, seq := BitVec.ofNat 16 v }

/-- The current ACK and credit fields of a port. -/
def VPort.live (q : VPort) : Nat :=
  q.freedD.toNat * 2 ^ 44 + q.freedC.toNat * 2 ^ 38 + (q.rxSeq - BitVec.ofNat 16 q.rxFlits.length - 1).toNat * 2 ^ 22

/-- The 256 bytes of a flit: header with current fields, body, CRC (R491). -/
def flitBytes (q : VPort) (still : Nat) (body : List Byte) : List Byte :=
  let l := leBytes 8 (still + q.live) ++ takePad 244 0 body
  l ++ leBytes 4 (crc32c l).toNat

/-- The body of a LINK flit (R500): its code at body byte 8 and its fields at their places, counted as R507 counts. -/
def linkBody (code : Nat) (fields : List (Nat × List Byte)) : List Byte :=
  let put (b : List Byte) (e : Nat × List Byte) : List Byte := b.take e.1 ++ e.2 ++ b.drop (e.1 + e.2.length)
  ((8, [BitVec.ofNat 8 code]) :: fields).foldl put (List.replicate 244 0)

/-- Changes a port. -/
def updPort (v : Port) (f : VPort → VPort) (s : State) : State :=
  { s with vesin := s.vesin.setPort v (f (s.vesin.port v)) }

/-- A flit goes onto the fibre of a port: its bits follow those before it in the codeword data, and each full codeword goes
to the lanes in use (R490). -/
def putFlit (v : Port) (bytes : List Byte) (s : State) : State :=
  let q := s.vesin.port v
  let bits := q.txBits ++ flitBits bytes
  let s := { s with vesin := { s.vesin with wire := s.vesin.wire ++ [(v.val, bytes)] } }
  if bits.length < fecBits then updPort v (fun q => { q with txBits := bits }) s
  else
    let word := dealLanes (lanesUsed q.lanes).length (rsEncode (cutBits 10 514 bits))
    let s := updPort v (fun q => { q with txBits := bits.drop fecBits }) s
    { s with vesin := { s.vesin with coded := s.vesin.coded ++ [(v.val, word)] } }

/-- Sends an IDLE flit: it carries the current ACK and credits (R493). -/
def sendIdle (v : Port) (s : State) : State := putFlit v (flitBytes (s.vesin.port v) 0 []) s

/-- Sends a LINK flit and keeps its request to be repeated (R500). -/
def sendLink (v : Port) (body : List Byte) (s : State) : State :=
  let q := s.vesin.port v
  putFlit v (flitBytes q (2 * 2 ^ 60) body) (updPort v (fun q => { q with linkReq := some body }) s)

/-! ## Encryption runs (R501 to R504) -/

/-- The module's serial (R724). -/
def State.serial (s : State) : B64 := Config.recSerial (s.signedRec 2)

/-- The initialisation vector of a run (R503). -/
def runIv (dir : Bool) (run : Nat) : List Byte := leBytes 4 (bit dir * 2 ^ 31) ++ leBytes 8 run

/-- DIR of this end (R503). -/
def ownDir (s : State) (q : VPort) : Bool := decide (q.peerSerial < s.serial)

/-- The session key of R504. -/
def sessionKey (key : B256) (ident : Byte) (s1 : B64) (n1 : B128) (s2 : B64) (n2 : B128) : B256 :=
  let low := leBytes 8 s1.toNat ++ leBytes 16 n1.toNat
  let high := leBytes 8 s2.toNat ++ leBytes 16 n2.toNat
  sha256Val (leBytes 32 key.toNat ++ [ident] ++ (if s2 < s1 then high ++ low else low ++ high))

/-- A flit of a run before encryption. -/
structure PlainFlit where
  src  : Nat
  som  : Bool
  eom  : Bool
  eor  : Bool
  body : List Byte
  deriving DecidableEq, Repr

/-- The channel of a flit (R492). -/
def PlainFlit.vc (f : PlainFlit) : Bool := decide (f.src ≠ 0)

/-- The first message of a source in the send queue. -/
def firstOf (src : Nat) (q : List TxItem) : Option TxItem := q.find? fun e => e.src = src

/-- The message the data channel goes on with: the one begun, else the next source's in rotation after the last (R499). -/
def firstData (last : Nat) (q : List TxItem) : Option TxItem :=
  match q.find? fun e => e.src ≠ 0 && e.begun with
  | some e => some e
  | none => [last % 3 + 1, (last + 1) % 3 + 1, (last + 2) % 3 + 1].findSome? fun k => firstOf k q

/-- The queue with the first message of a source replaced by what is left of it. -/
def putFirst (src : Nat) (left : List Byte) : List TxItem → List TxItem
  | [] => []
  | e :: r => if e.src = src then (if left.isEmpty then r else ⟨src, true, left⟩ :: r) else e :: putFirst src left r

/-- The flits of the next run, at most `n`, with `d` and `c` credits (R497 to R502), and the queue, the control count and
the last data source left. -/
def buildRun : Nat → Nat → Nat → Nat → Nat → List TxItem → List PlainFlit → List PlainFlit × List TxItem × Nat × Nat
  | 0, _, _, cr, last, q, acc => (acc.reverse, q, cr, last)
  | n + 1, d, c, cr, last, q, acc =>
    let dm := if d = 0 then none else firstData last q
    let cm := if c = 0 then none else firstOf 0 q
    let pick := match cm, dm with
      | some e, none => some e
      | none, some e => some e
      | some e, some f => some (if cr ≥ 7 then f else e)
      | none, none => none
    match pick with
    | none => (acc.reverse, q, cr, last)
    | some ⟨src, begun, l⟩ =>
      let vc := decide (src ≠ 0)
      let d' := if vc then d - 1 else d
      let c' := if vc then c else c - 1
      let last' := if vc then src else last
      let rest := putFirst src (l.drop 244) q
      let more := (d' ≠ 0 && (firstData last' rest).isSome) || (c' ≠ 0 && (firstOf 0 rest).isSome)
      let cr' := if vc then 0 else cr + 1
      if n = 0 || !more then
        (({ src, som := !begun, eom := decide (l.length ≤ 228), eor := true, body := l.take 228 } :: acc).reverse,
          putFirst src (l.drop 228) q, cr', last')
      else
        buildRun n d' c' cr' last' rest
          ({ src, som := !begun, eom := decide (l.length ≤ 244), eor := false, body := l.take 244 } :: acc)

/-- The headers of a run's flits, numbered from `seq`. -/
def runHdrs (ksel : Bool) : B16 → List PlainFlit → List FlitHdr
  | _, [] => []
  | seq, f :: r =>
    { kind := 1, vc := f.vc, som := f.som, eom := f.eom, eor := f.eor, ksel, seq } :: runHdrs ksel (seq + 1) r

/-- Cuts a ciphertext into flit bodies of 244 bytes, the last of which ends in the tag. -/
def runBodies : Nat → List Byte → List Byte → List (List Byte)
  | 0, _, _ => []
  | 1, l, tag => [l ++ tag]
  | n + 1, l, tag => l.take 244 :: runBodies n (l.drop 244) tag

/-- Sends one run on a port, as far as credits and the retry buffer allow. -/
def sendRun (v : Port) (s : State) : State :=
  let q := s.vesin.port v
  match q.keyTx with
  | none => s
  | some key =>
    let room := 4160 - q.retry.length
    let (fs, queue, cr, last) := buildRun (min 32 room) (4096 - q.outD) (32 - q.outC) q.ctrlRun q.lastSrc q.txQueue []
    if fs.isEmpty then s
    else
      let hs := runHdrs q.ksel q.txSeq fs
      let text := fs.flatMap fun f => takePad (if f.eor then 228 else 244) 0 f.body
      let aad := hs.flatMap fun h => leBytes 8 h.still
      let (ct, tag) := gcmEncrypt (digestBytes key) (runIv (ownDir s q) q.txRun) aad text
      let flits := (hs.zip (runBodies fs.length ct tag)).map fun e => (e.1.seq, flitBytes q e.1.still e.2, 1)
      let nd := (fs.filter fun f => f.vc).length
      -- messages whose last byte has now been sent, in order
      let ends := ((fs.zip hs).filter fun e => e.2.eom).map fun e => (e.1.src, e.2.seq)
      let mark (l : List (OutMsg × Option B16)) (e : Nat × B16) : List (OutMsg × Option B16) :=
        match l.findIdx? fun m => m.2.isNone && m.1.body.source = e.1 with
        | some i => l.modify i fun m => (m.1, some e.2)
        | none => l
      let s := updPort v (fun q => { q with
        txSeq := q.txSeq + BitVec.ofNat 16 fs.length, txRun := q.txRun + 1, txQueue := queue, ctrlRun := cr, lastSrc := last
        outD := q.outD + nd, outC := q.outC + (fs.length - nd), retry := q.retry ++ flits
        carrying := ends.foldl mark q.carrying }) s
      flits.foldl (fun s f => putFlit v f.2.1 s) s

/-- Sends runs while the port is UP and something can go (R502). -/
def pump (v : Port) : Nat → State → State
  | 0, s => s
  | n + 1, s =>
    let q := s.vesin.port v
    if q.state ≠ .up || q.txQueue.isEmpty then s
    else
      let t := sendRun v s
      if (t.vesin.port v).txSeq = q.txSeq then s else pump v n t

/-! ## Sending messages -/

/-- The port mask of a position; 0 where it is absent (R518). -/
def Vesin.mask (x : Vesin) (d : Nat) : Byte := Map.getD x.vmap d 0

/-- The eight ports. -/
def eight : List Port := [0, 1, 2, 3, 4, 5, 6, 7]

/-- The ports of a mask that are UP, ascending. -/
def upPorts (s : State) (d : Nat) : List Port :=
  eight.filter fun v => (s.vesin.mask d).getLsbD v.val && (s.vesin.port v).state == .up

/-- The port a message takes (R520). -/
def routeOf (s : State) (d : Nat) (b : MsgBody) : Option Port :=
  let l := upPorts s d
  if b.isData then l[b.sheetNo % l.length]? else l.head?

/-- A message is handed to a port. -/
def handOver (m : OutMsg) (v : Port) (s : State) : State :=
  let m := { m with port := some v, tries := m.tries + 1 }
  let bytes := msgBytes s.vesin.myPos m
  let s := updPort v (fun q => { q with
    txQueue := q.txQueue ++ [⟨m.body.source, false, bytes⟩], carrying := q.carrying ++ [(m, none)]
    txBytes := satAdd q.txBytes bytes.length }) s
  let s := { s with vesin := { s.vesin with
    sent := s.vesin.sent ++ [m]
    awaiting := if m.body.hasReply then s.vesin.awaiting ++ [m] else s.vesin.awaiting } }
  pump v (bytes.length / 228 + 2) s

/-- A message goes to a port, or waits for one, or for room among those awaiting replies (R515, R534). -/
def dispatchMsg (m : OutMsg) (s : State) : State :=
  let full := m.body.hasReply && decide ((s.vesin.awaiting.filter fun a => a.dst = m.dst).length ≥ 4096)
  match (if full then none else routeOf s m.dst.toNat m.body) with
  | some v => handOver m v s
  | none => { s with vesin := { s.vesin with waiting := s.vesin.waiting ++ [m] } }

/-- Whether position `d` stands between REMOVE and a commit, so that nothing is sent to it (R573). -/
def isRemoved (s : State) (d : Nat) : Bool := (s.part s.vesin.fpart).res.removed.contains d

/-- Whether RES_SENDS_DROPPED counts a message that is dropped: a SEND, ADD, SIGNAL or mark (R573). -/
def MsgBody.counted : MsgBody → Bool
  | .send .. | .add .. | .signal .. | .mark .. => true
  | _ => false

/-- Counts a message that R573 drops. -/
def noteDropped (b : MsgBody) (s : State) : State :=
  if b.counted then s.updRes s.vesin.fpart fun r => { r with dropped := satAdd r.dropped 1 } else s

/-- Sends a message of a master to a position with the next number of the pair (R513), unless the module is in no folio, the
position is its own or absent from the map, or it has been removed. -/
def sendMsgAs (master : Option Nat) (d : Nat) (body : MsgBody) (waiter : Waiter) (s : State) : State :=
  if !s.vesin.fvalid || s.vesin.mask d = 0 || d = s.vesin.myPos.toNat then s
  else if isRemoved s d then noteDropped body s
  else
    let n := Map.getD s.vesin.seqOut d 0 + 1
    let s := { s with vesin := { s.vesin with seqOut := Map.insert s.vesin.seqOut d n } }
    dispatchMsg { dst := BitVec.ofNat 6 d, seq := n, body, waiter, master } s

/-- Sends a message of the bench or of the warden. -/
def sendMsg (d : Nat) (body : MsgBody) (waiter : Waiter) (s : State) : State := sendMsgAs none d body waiter s

/-- The number the next message to a position gets. -/
def nextSeq (s : State) (d : Nat) : B64 := Map.getD s.vesin.seqOut d 0 + 1

/-- Sends one message to each of several positions, in order. -/
def sendAll (ds : List Nat) (body : MsgBody) (s : State) : State := ds.foldl (fun s d => sendMsg d body .none s) s

/-- The right that sending a message needs at a port (R479, R524). -/
def MsgBody.right : MsgBody → Right
  | .add .. => .a
  | .signal .. => .s
  | _ => .w

/-- The port whose access table denies master `m` the sending of a message (R524). -/
def portDenies (s : State) (d : Nat) (b : MsgBody) (m : Nat) : Option Port :=
  (routeOf s d b).filter fun v => !aclGrants s (72 + v.val) m b.right

/-- Counts a denial at a port. -/
def noteSendDenied (p : Part) (v : Port) (m : Nat) (b : MsgBody) (s : State) : State :=
  denied p (72 + v.val) m b.right (match b with
    | .send .. | .add .. => b.sheetNo
    | _ => 0) s

/-- An engine of the folio partition sends a message, unless the port denies it (R480, R524). -/
def engineSend (m d : Nat) (body : MsgBody) (s : State) : State :=
  match portDenies s d body m with
  | some v => noteSendDenied s.vesin.fpart v m body s
  | none => sendMsgAs (some m) d body .none s

end Sys2Proof.Machine
end

