-- ==== Sys2Proof/Machine/Cadence.lean ====
section
/-!
DEFINITION. The cadence position (R47 to R62), scheduled events (R69 to R78, R782), hold (R574, R575), wall time (R80 to
R85), and the cadence commands and events.
-/
namespace Sys2Proof.Machine

/-! ## Positions (R47 to R53) -/

/-- STEP of a position. -/
def posStep (x : B64) : Nat := field x.toNat 63 24
/-- LEAF of a position. -/
def posLeaf (x : B64) : Nat := field x.toNat 23 18
/-- PHASE of a position. -/
def posPhase (x : B64) : Nat := field x.toNat 17 14

/-- A malformed position (R53). -/
def malformed (x : B64) : Bool := decide (posPhase x > 7) || (decide (posPhase x ≥ 2) && decide (posLeaf x ≠ 63))

/-- The HOLD position of a step that R574 applies. -/
def holdPos (step : Nat) : B64 := BitVec.ofNat 64 (step * 2 ^ 24 + 63 * 2 ^ 18 + 7 * 2 ^ 14 + 0x3FFF)

/-! ## Events (R69 to R78) -/

/-- The 32 bytes of an entry as a value (R69). -/
def Event.bits (e : Event) : B256 :=
  place 256 192 e.target.toNat ||| place 256 176 e.stride.toNat ||| place 256 168 e.kind.toNat |||
    place 256 160 (bit e.report) ||| place 256 128 e.object.toNat ||| e.arg.setWidth 256

/-- The entry that 256 bits spell. -/
def Event.ofBits (b : B256) : Event :=
  let v := b.toNat
  { target := BitVec.ofNat 64 (field v 255 192), stride := BitVec.ofNat 16 (field v 191 176)
    kind := BitVec.ofNat 8 (field v 175 168), report := v.testBit 160
    object := BitVec.ofNat 32 (field v 159 128), arg := BitVec.ofNat 128 v }

/-- Reserved bits of an entry, or an unlisted KIND (R69, R280, R540, R554, R562). -/
def eventBad (b : B256) : Bool :=
  let v := b.toNat
  field v 167 161 ≠ 0 || match field v 175 168 with
    | 0 => false
    | 1 => field v 81 72 ≠ 0 || field v 54 0 ≠ 0
    | 2 => field v 70 56 ≠ 0 || field v 15 0 ≠ 0
    | 3 => false
    | 4 => field v 127 64 ≠ 0
    | 5 => field v 127 0 ≠ 0
    | _ => true

/-- The order in which entries with equal TARGET fire (R73). -/
def kindOrder (k : Byte) : Nat :=
  match k.toNat with
  | 4 => 0
  | 3 => 1
  | 2 => 2
  | 1 => 3
  | _ => 4

/-- The draws, seeds, history and events of a partition, as a FINAL firing captures them (R340, R543, R544). -/
def partRecord (s : State) (p : Part) (pos : B64) : PartRecord :=
  let x := s.part p
  { pos, draws := four.map fun st => (x.bench.streams.get st).drawPos
    seeds := (sha256Val ((List.range 64).flatMap fun i => leBytes 8 (Map.getD x.bench.seeds i 0).toNat)).setWidth 64
    hist := x.pln.hist, events := x.cad.events, punch := [] }

/-- The next target of a periodic entry after position `pos` (R78), as a natural number. -/
def nextTarget (e : Event) (pos : B64) : Nat :=
  let unit := e.stride.toNat * 2 ^ 24
  if pos.toNat < e.target.toNat then e.target.toNat
  else e.target.toNat + ((pos.toNat - e.target.toNat) / unit + 1) * unit

/-- The firings that wait in the engines' queues (R75). -/
def Cad.queued (c : Cad) : List Firing := c.ckptQ ++ c.assayQ ++ c.lateQ ++ c.commitQ

/-- Re-arms a periodic entry. One without a further target ends when its engine takes the firing that waits in its queue
(R78), and at once where the engine has taken it already: the skip of R76 then leaves no firing to wait for (DEDUCED). -/
def rearm (p : Part) (i : Nat) (e : Event) (pos : B64) (s : State) : State :=
  let t := nextTarget e pos
  s.updCad p fun c =>
    if t < 2 ^ 64 then { c with events := Map.insert c.events i { e with target := BitVec.ofNat 64 t } }
    else if c.queued.any fun f => f.holds && f.idx = i then { c with lastShot := i :: c.lastShot }
    else { c with events := Map.erase c.events i, busy := Map.erase c.busy i }

/-- Whether the entry waits for its one firing to be taken (R77, R78). -/
def spent (c : Cad) (i : Nat) (e : Event) : Bool := (e.stride = 0 && (Map.find? c.busy i).isSome) || c.lastShot.contains i

/-- A due entry fires, or is skipped (R70, R76): REPORT entries, the engine's queue, and the deadline itself (R281). -/
def fireEntry (p : Part) (pos : B64) (s : State) (i : Nat) : State :=
  let c := (s.part p).cad
  match Map.find? c.events i with
  | none => s
  | some e =>
    if spent c i e then s
    else if (Map.find? c.busy i).isSome then
      let s := s.updCad p fun c => { c with evtOverrun := true }
      let s := note p 0x0020 stBusy (place 224 216 2 ||| place 224 206 i ||| place 224 142 e.target.toNat) s
      rearm p i e pos s
    else
      let s := if e.report then
          note p 0x0020 stOk (place 224 216 1 ||| place 224 206 i ||| place 224 142 e.target.toNat) s
        else s
      let f : Firing := { idx := i, shot := c.nextShot, entry := e, pos }
      let s := s.updCad p fun c => { c with nextShot := c.nextShot + 1 }
      if e.kind = 4 then
        let s := (groupBufs s p e.object.toNat).foldl (deadlineBuf p (posStep pos) (field e.arg.toNat 63 0)) s
        if e.stride = 0 then s.updCad p fun c => { c with events := Map.erase c.events i }
        else rearm p i e pos s
      else
        let s := s.updCad p fun c =>
          let c := { c with busy := Map.insert c.busy i f.shot }
          match e.kind.toNat with
          | 1 => { c with ckptQ := c.ckptQ ++ [f] }
          | 2 => { c with assayQ := c.assayQ ++ [f] }
          | 3 => { c with lateQ := c.lateQ ++ [f] }
          | _ => { c with commitQ := c.commitQ ++ [f] }
        if e.stride = 0 then s else rearm p i e pos s

/-- Whether a firing is the one outstanding of its entry: no other firing, and no rewrite, has ended its hold (R75, R782). -/
def Cad.holdsEntry (c : Cad) (f : Firing) : Bool := f.holds && Map.find? c.busy f.idx = some f.shot

/-- The engine has taken a firing from its queue (R77): a one-shot entry it still holds is empty. -/
def takenFiring (p : Part) (f : Firing) (s : State) : State :=
  s.updCad p fun c =>
    if c.holdsEntry f && (f.entry.stride = 0 || c.lastShot.contains f.idx) then
      { c with events := Map.erase c.events f.idx, lastShot := c.lastShot.erase f.idx, busy := Map.erase c.busy f.idx }
    else c

/-- A firing has completed (R76). -/
def doneFiring (p : Part) (f : Firing) (s : State) : State :=
  s.updCad p fun c => if c.holdsEntry f then { c with busy := Map.erase c.busy f.idx } else c

/-- The entries due at a position, in the order of R73. -/
def dueEntries (c : Cad) (pos : B64) : List Nat :=
  let due := c.events.filter fun e => e.2.kind ≠ 0 && decide (e.2.target ≤ pos)
  let before (a b : Nat × Event) : Bool :=
    let k (e : Nat × Event) : Nat := (e.2.target.toNat * 8 + kindOrder e.2.kind) * 1024 + e.1
    decide (k a ≤ k b)
  (sortBy before due).map Prod.fst

/-- FINAL checkpoint firings at a position: the partition record is captured once all have been handed over (R543). -/
def captureFinals (p : Part) (pos : B64) (fired : List Nat) (s : State) : State :=
  let finals := (s.part p).cad.ckptQ.filter fun f => f.pos = pos && fired.contains f.idx && f.entry.arg.getLsbD 83
  let r := partRecord s p pos
  s.updRes p fun x => { x with finals := x.finals ++ finals.map fun f => (f.idx, pos, r) }

/-- A new position is applied: CAD_IO gives its pulse (R85), and due entries fire (R70, R73). -/
def applyPos (p : Part) (pos : B64) (s : State) : State :=
  let s := s.updCad p fun c => { c with pos }
  let s := if s.cad.ioFunc = 2 && s.cad.ioPart = p then
      { s with cad := { s.cad with ioPulses := s.cad.ioPulses + 1 } } else s
  let due := dueEntries (s.part p).cad pos
  captureFinals p pos due (due.foldl (fireEntry p pos) s)

/-! ## Advancing (R52, R57 to R62, R574, R575) -/

/-- The positions the leader sends its marks to (R58, R573). -/
def markTargets (s : State) (p : Part) : List Nat :=
  let r := (s.part p).res
  let own := s.vesin.myPos.toNat
  ((List.range 31).map (· + 1)).filter (fun d => d ≠ own && (r.members.getLsbD d || r.removed.contains d)) ++
    ((List.range 8).map (· + 32)).filter fun d => match Map.find? r.standbys d with
      | some b => decide (2 ≤ b.state.toNat)
      | none => false

/-- A leader sends the position it has applied (R58, R60). -/
def sendMarks (p : Part) (pos : B64) (s : State) : State :=
  if (s.part p).cad.role = .leader && s.folioPart = some p then sendAll (markTargets s p) (.mark pos) s else s

/-- Counts a discarded mark or advance (R52, R53). -/
def noteStale (p : Part) (s : State) : State := s.updCad p fun c => { c with stale := satAdd c.stale 1 }

/-- A mark or advance of a LEADER or STANDALONE partition: whether a position was applied. -/
def advance (p : Part) (pos : B64) (s : State) : Bool × State :=
  let cur := (s.part p).cad.pos
  if pos ≤ cur then (false, noteStale p s)
  else if (s.part p).cad.role = .leader && (s.part p).res.hold ≠ 0 && decide (posStep pos > posStep cur) then
    let s := s.updRes p fun r => { r with holdMark := pos }
    if posPhase cur = 7 then (false, s)
    else
      let h := holdPos (posStep cur)
      (true, sendMarks p h (applyPos p h s))
  else (true, sendMarks p pos (applyPos p pos s))

/-- A RESILIENCE entry (R778). -/
def resNote (p : Part) (event : Nat) (status : B16) (detail : BitVec 224) (s : State) : State :=
  note p 0x0050 status (place 224 216 event ||| detail) s

/-- Sets the leader's hold reasons; when the last clears, the held-back mark is applied if later (R574, R575). -/
def setHold (p : Part) (h : BitVec 6) (s : State) : State :=
  let old := (s.part p).res.hold
  if h = old then s
  else
    let s := s.updRes p fun r => { r with hold := h }
    let s := resNote p 14 stOk (place 224 88 (s.part p).res.holdMark.toNat ||| place 224 38 h.toNat) s
    if h ≠ 0 then s
    else
      let m := (s.part p).res.holdMark
      let s := s.updRes p fun r => { r with holdMark := 0 }
      if (s.part p).cad.pos < m then sendMarks p m (applyPos p m s) else s

/-- Sets or clears one hold reason. -/
def holdReason (p : Part) (i : Nat) (on : Bool) (s : State) : State :=
  let h := (s.part p).res.hold
  setHold p (if on then h ||| (1#6 <<< i) else h &&& ~~~(1#6 <<< i)) s

/-! ## Cadence commands (R645) -/

/-- CAD_ADVANCE (R53, R61, R62): a malformed position is refused before the command's own checks (R19, R631). -/
def actCadAdvance (p : Part) (pos : B64) (s : State) : CmdOut × State :=
  if malformed pos then (.done stBadParam, s)
  else if (s.part p).cad.role = .follower then (.done stNoAccess, s)
  else
    let (ok, s) := advance p pos s
    (.done stOk (res 64 (s.part p).cad.pos.toNat ||| res 0 (bit ok)), s)

/-- CAD_ADVANCE. -/
def execCadAdvance (h : CmdHdr) (pos : B64) (s : State) : Host.Outcome State Fault Refusal :=
  next (hostCmd { opcode := 0x0400 } (.cadAdvance h pos) h [] false (actCadAdvance h.fn pos) s)

/-- A write or clear of an entry ends the hold of its firing in a queue (R782). It also ends the hold of a firing that the
engine has taken and not completed, of which R782 does not speak (DESIGN CHOICE): the new contents fire for themselves. -/
def releaseEntry (i : Nat) (c : Cad) : Cad :=
  let free (l : List Firing) : List Firing := l.map fun f => if f.idx = i then { f with holds := false } else f
  { c with busy := Map.erase c.busy i, lastShot := c.lastShot.erase i
           ckptQ := free c.ckptQ, assayQ := free c.assayQ, lateQ := free c.lateQ, commitQ := free c.commitQ }

/-- EVT_WRITE (R53, R71, R72). -/
def actEvtWrite (p : Part) (idx : Nat) (entry : B256) (s : State) : CmdOut × State :=
  let e := Event.ofBits entry
  let c := (s.part p).cad
  let empty (i : Nat) : Bool := match Map.find? c.events i with
    | some x => x.kind = 0
    | none => true
  if eventBad entry || (1024 ≤ idx && idx ≠ 0xFFFF) then (.done stBadParam, s)
  else if e.kind ≠ 0 && (malformed e.target || e.target ≤ c.pos) then (.done stBadParam, s)
  else match (if idx = 0xFFFF then firstBelow 1024 empty else some idx) with
    | none => (.done stBusy, s)
    | some i =>
      (.done stOk (res 0 i), s.updCad p fun c =>
        let c := releaseEntry i c
        { c with events := if e.kind = 0 then Map.erase c.events i else Map.insert c.events i e })

/-- EVT_WRITE. -/
def execEvtWrite (h : CmdHdr) (idx : B16) (entry : B256) (s : State) : Host.Outcome State Fault Refusal :=
  next (hostCmd { opcode := 0x0401 } (.evtWrite h idx entry) h [] false (actEvtWrite h.fn idx.toNat entry) s)

/-- EVT_CLEAR. -/
def execEvtClear (h : CmdHdr) (idx : B16) (s : State) : Host.Outcome State Fault Refusal :=
  let act (s : State) : CmdOut × State :=
    if idx.toNat ≥ 1024 then (.done stBadParam, s)
    else (cmdOk, s.updCad h.fn fun c =>
      let c := releaseEntry idx.toNat c
      { c with events := Map.erase c.events idx.toNat })
  next (hostCmd { opcode := 0x0402 } (.evtClear h idx) h [] false act s)

/-- EVT_READ: entries of 32 bytes to the host. -/
def execEvtRead (h : CmdHdr) (first count : B16) (addr : B64) (s : State) : Host.Outcome State Fault Refusal :=
  let act (s : State) : CmdOut × State :=
    if first.toNat + count.toNat > 1024 then (.done stBadParam, s)
    else
      let one (i : Nat) : List Byte :=
        leBytes 32 (Map.getD (s.part h.fn).cad.events (first.toNat + i) {}).bits.toNat
      (cmdOk, hostWrite h.fn addr ((List.range count.toNat).flatMap one) s)
  next (hostCmd { opcode := 0x0403 } (.evtRead h first count addr) h [] false act s)

/-- Loads wall time; a load that moves time backwards is recorded (R81, R83). -/
def loadTime (t : B64) (s : State) : State :=
  let old := s.timeNow
  let s := { s.tick with cad := { s.cad with wall := t, loads := s.cad.loads + 1 } }
  if t < old then
    noteAll 0x0020 stOk (place 224 216 3 ||| place 224 142 old.toNat ||| place 224 78 t.toNat) (fun _ => true) s
  else s

/-- TIME_SET (R81). -/
def execTimeSet (h : CmdHdr) (mode : Byte) (time : B64) (s : State) : Host.Outcome State Fault Refusal :=
  let act (s : State) : CmdOut × State :=
    if mode.toNat > 1 then (.done stBadParam, s)
    else if mode = 0 then (cmdOk, loadTime time s)
    else (cmdOk, { s with cad := { s.cad with onEdge := some time } })
  next (hostCmd { opcode := 0x0404, issuer := .p0 } (.timeSet h mode time) h [] false act s)

/-- The RESULT of a claim that finds its resource held (R652). -/
def heldBy (resource index feature holder : Nat) : B128 :=
  res 24 resource ||| res 16 index ||| res 8 feature ||| res 0 holder

/-- CAD_IO_CFG (R84, R650 to R652). -/
def actCadIoCfg (p : Part) (func part : Nat) (s : State) : CmdOut × State :=
  let c := s.cad
  if func > 2 || part > 3 then (.done stBadParam, s)
  else if c.ioFunc ≠ 0 && (c.ioHolder ≠ p || (func ≠ 0 && func ≠ c.ioFunc.toNat)) then
    (.done stConflict (heldBy 1 0 c.ioFunc.toNat c.ioHolder.val), s)
  else (cmdOk, { s with cad := { c with
    ioFunc := BitVec.ofNat 2 func, ioPart := Fin.ofNat 4 part, ioHolder := p, settings := c.settings + 1 } })

/-- CAD_IO_CFG. -/
def execCadIoCfg (h : CmdHdr) (func part : Byte) (s : State) : Host.Outcome State Fault Refusal :=
  next (hostCmd { opcode := 0x0405 } (.cadIoCfg h func part) h [] false (actCadIoCfg h.fn func.toNat part.toNat) s)

/-! ## Pulses (R81, R82, R84) -/

/-- PPS_EDGE: an edge on the input that serves as pulse input. -/
def execPpsEdge (onIo : Bool) (s : State) : Host.Outcome State Fault Refusal :=
  if onIo ≠ decide (s.cad.ioFunc = 1) then next s
  else
    let s := { s with cad := { s.cad with ppsLost := false } }
    match s.cad.onEdge with
    | some t => next (loadTime t { s with cad := { s.cad with onEdge := none } })
    | none => next s

/-- PPS_LOST: 1.5 s without an edge, after a load on edge was asked for or once time is set. -/
def execPpsLost (s : State) : Host.Outcome State Fault Refusal :=
  next (if s.cad.onEdge.isSome || s.cad.wall ≠ 0 then
    { s with cad := { s.cad with ppsLost := true, losses := s.cad.losses + 1 } } else s)

end Sys2Proof.Machine
end

