-- ==== Sys2Proof/Machine/Objects.lean ====
section
/-!
DEFINITION. Creating and destroying objects (R345, R355, R366, R381, R402, R537, R642, R643, R745, R781), punch-set
references (R428), and the moves of the migration engine (R358 to R363, R370 to R376, R389).
-/
namespace Sys2Proof.Machine

/-! ## Punch-set references (R428) -/

/-- A punch-set slot. -/
def State.slot (s : State) (i : Nat) : PunchSlot := Map.getD s.slots i {}

/-- Changes a punch-set slot. -/
def updSlot (i : Nat) (f : PunchSlot → PunchSlot) (s : State) : State :=
  { s with slots := Map.insert s.slots i (f (s.slot i)) }

/-- Takes references to a slot. -/
def takeRefs (i n : Nat) (s : State) : State := updSlot i (fun x => { x with refs := x.refs + n }) s

/-- Releases references; a RETIRING slot without any becomes FREE (R424). -/
def dropRefs (i n : Nat) (s : State) : State :=
  updSlot i (fun x =>
    let x := { x with refs := x.refs - n }
    if x.state = .retiring && x.refs = 0 then { x with state := .free, fmt := 0, image := [] } else x) s

/-! ## Creating objects -/

/-- The first base address of an object that R745 and R702 do not place (R781). -/
def freeBase (objs : Map Obj) (sheets : Nat) : Option Nat :=
  let size := sheets * sheetBytes
  let spans := (0xF0_0000_0000_0000, 0xF4_0000_0000_0000) ::
    ((objs.map fun e => (e.2.base, e.2.base + e.2.sheets * sheetBytes)).filter fun e => e.1 ≠ e.2)
  let fits (a : Nat) : Bool := decide (a + size ≤ winLo) && spans.all fun e => decide (a + size ≤ e.1) || decide (e.2 ≤ a)
  let cands := (0 :: spans.map Prod.snd).filter fits
  cands.foldl (fun b a => match b with
    | none => some a
    | some c => some (min a c)) none

/-- The address that R745 gives a persistent object. -/
def persistBase (region first : Nat) : Nat := 0xF0_0000_0000_0000 + region * 2 ^ 46 + first * 2 ^ 16

/-- Sheets in ascending order, each in the first listed tier that has frames (R355); none where one finds no tier. -/
def placeSheets (s : State) (p : Part) (tiers : List Tier) (region copies : Nat) :
    Nat → List Sheet → List (Tier × Nat) → Option (List Sheet)
  | 0, done, _ => some done.reverse
  | n + 1, done, extra =>
    let found := tiers.findSome? fun t =>
      (takeFrames s p t region (if t = .hbm || t = .bulk then copies else 1)
        ((extra.filter fun e => e.1 = t).map Prod.snd)).map fun fs => (t, fs)
    match found with
    | none => none
    | some (t, fs) =>
      placeSheets s p tiers region copies n ({ tier := t, region := if t = .managed || t = .striped then region else 0,
                                               frames := fs } :: done) (extra ++ fs.map fun f => (t, f))

/-- Window frames for a FETCH object (R369), beyond those already taken. -/
def takeWindow (s : State) (p : Part) : Nat → List Nat → Option (List Nat)
  | 0, done => some done
  | n + 1, done => match takeFrames s p .hbm 0 1 done with
    | some fs => takeWindow s p n (done ++ fs)
    | none => none

/-- A list of values numbered from 0. -/
def numbered {α : Type} (l : List α) : Map α := l.zipIdx.map fun e => (e.2, e.1)

/-- Stake frames that some object holds. -/
def stakeHeld (s : State) : List Nat := usedFrames s .stake 0

/-- The sheets of a stake placement, unless R366 or R367 refuses it. `own` frames do not count as held. -/
def stakeSheets (s : State) (p : Part) (o : Policy) (sheets : Nat) (own : List Nat) : Option (List Sheet) :=
  let t := (s.part p).tier
  let fs := (List.range sheets).map (stakeFrames o)
  let held := (stakeHeld s).filter fun f => !own.contains f
  let okFrame (f : Nat) : Bool :=
    decide (t.stakeBase.toNat ≤ f % 128) && decide (f % 128 < t.stakeLimit.toNat) && !held.contains f
  let offs := (List.range sheets).all fun i =>
    let n := (qmaskList o.qmask).length
    decide (o.soff + (if o.repl = 1 then i else i / n) / 64 < 128)
  if o.repl = 2 || o.qmask = 0 || (qmaskList o.qmask).any (fun q => !s.array.live.get (Fin.ofNat 4 q)) then none
  else if offs && fs.flatten.all okFrame then some (fs.map fun l => { tier := .stake, frames := l })
  else none

/-- The first run of `n` free frames of a region, lowest first frame. -/
def freeRun (s : State) (region n : Nat) : Option Nat :=
  let used := usedFrames s (s.region region).tier region
  let clear (f : Nat) : Bool := used.all fun g => decide (g < f) || decide (f + n ≤ g)
  let cands := (0 :: used.map (· + 1)).filter fun f => clear f && decide (f + n ≤ (s.region region).frames)
  cands.foldl (fun b a => match b with
    | none => some a
    | some c => some (min a c)) none

/-- Places the sheets of a new object: map, window frames and base; or the status that refuses it. -/
def placeObject (s : State) (p : Part) (kind : ObjKind) (sheets : Nat) (o : Policy) :
    Except B16 (Map Sheet × List Nat × Nat) :=
  let objs := (s.part p).tier.objects
  let runAt (first : Nat) : Map Sheet := numbered ((List.range sheets).map fun i =>
    { tier := (s.region o.region).tier, region := o.region, frames := [first + i], unwritten := false })
  match kind with
  | .redGroup => .ok ([], [], 0)
  | .attach r first =>
    let used := usedFrames s (s.region r).tier r
    if first + sheets > (s.region r).frames then .error stBadParam
    else if used.any fun g => decide (first ≤ g) && decide (g < first + sheets) then .error stBusy
    else .ok (runAt first, [], persistBase r first)
  | .ckptSet _ _ | .mirrorSet _ _ =>
    match freeRun s o.region sheets with
    | none => .error stBusy
    | some first => .ok ((runAt first).mapVal fun _ x => { x with unwritten := true }, [], persistBase o.region first)
  | _ =>
    match freeBase objs sheets with
    | none => .error stBusy
    | some base =>
      if o.tiers = [1] then
        match stakeSheets s p o sheets [] with
        | none => .error stBadParam
        | some l => .ok (numbered l, [], base)
      else
        let codes := if o.fetch then [4] else if o.pin then o.tiers.take 1 else o.tiers
        match (if o.fetch then takeWindow s p o.window [] else some []) with
        | none => .error stBusy
        | some w =>
          match placeSheets s p (codes.map (listTier s o.region)) o.region o.copies sheets [] (w.map fun f => (.hbm, f)) with
          | none => .error stBusy
          | some l => .ok (numbered l, w, base)

/-- Images whose slot shares a frame of a region with the run are gone with its old contents. -/
def dropImages (region : Nat) (frames : List Nat) (s : State) : State :=
  { s with images := s.images.filter fun e =>
      let r := e.1 / 2 ^ 48
      let first := e.1 % 2 ^ 48 / 2
      !(r = region && frames.any fun f => decide (first ≤ f) && decide (f < first + 1 + 2 * e.2.capacity)) }

/-- The two EMPTY slots of a new checkpoint or mirror set. -/
def newSet (region : Nat) (m : Map Sheet) (g : Image) (s : State) : State :=
  match Map.find? m 0 with
  | none => s
  | some x =>
    let k := region * 2 ^ 48 + x.frames.headD 0 * 2
    { s with images := Map.insert (Map.insert s.images k g) (k + 1) g }

/-- A frame's bytes as they read when sheet `n` of partition `p` has it as it stands: what it holds was encrypted for the
sheet it was written as (R376, R381, R433). -/
def retagFrame (p : Part) (n : Nat) (x : Sheet) (s : State) (f : Nat) : State :=
  let key := frameKey x.tier x.region f
  let tag := p.val * 2 ^ 48 + n
  match Map.find? s.flash.tags key with
  | none => s
  | some old =>
    if old = tag then s
    else
      let turn (k : Nat) (s : State) : State := putMem k
        (xtsSheet true p n (xtsSheet false (Fin.ofNat 4 (old / 2 ^ 48)) (old % 2 ^ 48) (getMem s k sheetBytes))) s
      let s := turn key s
      let s := if inOverlay s (overlayName x.region f) then turn (overlayKey x.region f) s else s
      updFlash (fun f => { f with tags := Map.insert f.tags key tag }) s

/-- Puts a new object into the partition's map under the next handle; new sheets read as zeros (R357). -/
def addObject (p : Part) (kind : ObjKind) (policy : B128) (sheets : Nat) (placed : Map Sheet × List Nat × Nat)
    (s : State) : State :=
  let h := (s.part p).tier.nextHandle
  let keepBytes : Bool := match kind with
    | .attach .. => true
    | _ => false
  let no := placed.2.2 / sheetBytes
  let s := if keepBytes then placed.1.foldl (fun s e => e.2.frames.foldl (retagFrame p (no + e.1) e.2) s) s
    else placed.1.foldl (fun s e => clearFrames e.2.tier e.2.region e.2.frames s) s
  let flash := placed.1.filter fun e => e.2.tier = .managed || e.2.tier = .striped
  let s := if keepBytes || flash.isEmpty then s
    else dropImages (Policy.ofBits policy).region (flash.flatMap fun e => e.2.frames) s
  let s := match kind with
    | .ckptSet c m => newSet (Policy.ofBits policy).region placed.1 { capacity := c, peer := m } s
    | .mirrorSet c m => newSet (Policy.ofBits policy).region placed.1 { capacity := c, peer := m, atMirror := true } s
    | _ => s
  s.updTier p fun t => { t with
    nextHandle := h + 1
    objects := Map.insert t.objects h { kind, base := placed.2.2, sheets, policy, map := placed.1, winFree := placed.2.1 } }

/-- Sheets of a reduction buffer: header, table, data (R643). -/
def bufSheets (rows cols : Nat) : Nat :=
  let d := (rows + 63) / 64 * ((cols + 127) / 128)
  1 + (d * 32 + 65535) / 65536 + d

/-- Sheets of a packed object's header array and body (R402). -/
def packedSheets (blocks granules : Nat) : Nat := (8 * blocks + 65535) / 65536 + (256 * granules + 65535) / 65536

/-- The object kind that option code and option block ask for (R642), or the status that refuses them. -/
def optionKind (s : State) (p : Part) (option : Byte) (block : B256) (sheets : Nat) (o : Policy) :
    Except B16 (ObjKind × Nat) :=
  let v := block.toNat
  let f (hi lo : Nat) : Nat := field v (8 * hi + 7) (8 * lo)
  let flashPinned : Bool := o.tiers = [4] && o.pin
  match option.toNat with
  | 0 => if v = 0 && sheets ≠ 0 then .ok (.plain, sheets) else .error stBadParam
  | 1 =>
    if sheets = 0 || f 3 1 ≠ 0 || f 31 16 ≠ 0 || !(f 0 0 = 1 || f 0 0 = 2) || sheets < packedSheets (f 7 4) (f 15 8) then
      .error stBadParam
    else .ok (.packed (f 0 0) (f 7 4) (f 15 8), sheets)
  | 2 =>
    let anchor := signed 16 (f 13 12)
    if sheets ≠ 0 || f 7 4 = 0 || f 7 4 > 2 ^ 20 || f 11 8 = 0 || f 11 8 > 2 ^ 20 ||
        anchor < -304 || anchor > 207 || f 14 14 > 16 || f 15 15 = 0 || f 23 16 ≥ 2 ^ 40 then .error stBadParam
    else match s.obj? p (f 3 0) with
    | none => .error stNoAccess
    | some g =>
      if g.kind ≠ .redGroup then .error stBadParam
      else .ok (.redBuf (f 3 0) (f 7 4) (f 11 8) anchor (f 14 14) (f 15 15), bufSheets (f 7 4) (f 11 8))
  | 3 => if v = 0 && sheets = 0 then .ok (.redGroup, 0) else .error stBadParam
  | 4 =>
    if sheets = 0 || f 31 9 ≠ 0 || !(f 8 8 ≤ 39 || f 8 8 = 63) || f 7 0 = 0 || sheets ≠ 1 + 2 * f 7 0 || !flashPinned ||
        (s.region o.region).mode ≠ 1 then .error stBadParam
    else .ok (.ckptSet (f 7 0) (f 8 8), sheets)
  | 5 =>
    if sheets = 0 || f 31 9 ≠ 0 || f 8 8 > 39 || f 7 0 = 0 || sheets ≠ 1 + 2 * f 7 0 || !flashPinned ||
        (s.region o.region).mode ≠ 1 then .error stBadParam
    else .ok (.mirrorSet (f 7 0) (f 8 8), sheets)
  | 6 =>
    if sheets = 0 || f 7 1 ≠ 0 || f 31 16 ≠ 0 || f 0 0 ≠ o.region || !flashPinned then .error stBadParam
    else .ok (.attach (f 0 0) (f 15 8), sheets)
  | _ => .error stBadParam

/-- Writes a new buffer's header (R261, R642): the option block gives STEP and EXPECT. -/
def initBuf (p : Part) (h step expect : Nat) (s : State) : State :=
  match s.obj? p h with
  | none => s
  | some o => resetBuf p o step expect s

/-- OBJ_CREATE (R354 to R357, R366 to R369, R642, R643, R781). -/
def createObject (p : Part) (sheets : Nat) (policy : B128) (option : Byte) (block : B256) (s : State) : CmdOut × State :=
  let o := Policy.ofBits policy
  if policyRsvd policy then (.done stBadParam, s)
  else match optionKind s p option block sheets o with
  | .error e => (.done e, s)
  | .ok (kind, n) =>
    if policyBad s p n o then (.done stBadParam, s)
    else
      let h := (s.part p).tier.nextHandle
      match placeObject s p kind n o with
      | .error e => (.done e, s)
      | .ok placed =>
        if h = 0xFFFF_FFFF then (.done stBusy, s)
        else
          let s := addObject p kind policy n placed s
          let s := match kind with
            | .redBuf .. => initBuf p h (field block.toNat 191 128) (field block.toNat 255 192) s
            | _ => s
          (.done stOk (res 64 placed.2.2 ||| res 0 h), s)

/-! ## Destroying objects -/

/-- Takes an object out of the map: its frames are free, its moves are gone, its punch-set references released. -/
def removeObject (p : Part) (h : Nat) (s : State) : State :=
  match s.obj? p h with
  | none => s
  | some o =>
    let s := o.slotRefs.foldl (fun s e => dropRefs e.2 1 s) s
    let s := s.updTier p fun t => { t with objects := Map.erase t.objects h }
    { s with flash := { s.flash with
        moves := s.flash.moves.filter fun v => !(v.p = p && v.handle = h) } }

/-- The frames an object holds, by tier and region. -/
def freedBy (o : Obj) : List (Tier × Nat) :=
  (o.map.flatMap fun e => e.2.frames.map (fun _ => (e.2.tier, e.2.region)) ++
    (if e.2.window.isSome then [(.hbm, 0)] else [])) ++ o.winFree.map fun _ => (.hbm, 0)

/-- Destroys an object: its frames may serve promotions (R358). -/
def destroyObject (p : Part) (h : Nat) (s : State) : State :=
  match s.obj? p h with
  | none => s
  | some o => backfillFreed p (freedBy o) (removeObject p h s)

/-- Whether the object holds the partition's context area (R621). -/
def holdsContext (b : Bench) (o : Obj) : Bool := b.ctxSet && o.covers b.ctxBase.toNat

/-! ## Policy changes (R360 to R362) -/

/-- What a new policy asks of one sheet: nothing, or the move to make. -/
def sheetTarget (s : State) (p : Part) (o : Policy) (tiers : List Tier) (x : Sheet) (extra : List (Tier × Nat)) :
    Option (Option (Tier × List Nat × List Nat)) :=
  let want (t : Tier) : Nat := if t = .hbm || t = .bulk then o.copies else 1
  tiers.findSome? fun t =>
    let own := x.tier = t && (x.region = o.region || !(t = .managed || t = .striped))
    let more := (extra.filter fun e => e.1 = t).map Prod.snd
    if own && x.frames.length = want t then some none
    else if own && x.frames.length > want t then some (some (t, [], x.frames.take (want t)))
    else if own then
      let used := usedFrames s t o.region ++ more
      let within := match quota s p t with
        | some q => decide ((framesOf s p t o.region).length + more.length + want t - x.frames.length ≤ q)
        | none => true
      if within then
        (freeCopies used (tierFrames s t o.region) (tierSpread t) (want t - x.frames.length) x.frames).map fun fs =>
          some (t, fs.drop x.frames.length, x.frames)
      else none
    else (takeFrames s p t o.region (want t) more).map fun fs => some (t, fs, [])

/-- The moves of a policy change, in ascending sheet order; none where a frame cannot be reserved. -/
def policyMoves (s : State) (p : Part) (h : Nat) (o : Policy) (tiers : List Tier) :
    List (Nat × Sheet) → List (Tier × Nat) → List Move → Option (List Move)
  | [], _, done => some done.reverse
  | (i, x) :: rest, extra, done =>
    match sheetTarget s p o tiers x extra with
    | none => none
    | some none => policyMoves s p h o tiers rest extra done
    | some (some (t, fs, keep)) =>
      policyMoves s p h o tiers rest (extra ++ fs.map fun f => (t, f))
        ({ ident := 0, p, handle := h, sheet := i, kind := .policy, dst := t
           region := if t = .managed || t = .striped then o.region else 0, frames := fs, keep } :: done)

/-- Moves of a stake placement, or the status that refuses it (R360, R367): the frames the object's sheets hold are no other
placement's, but only its own counts as free to a sheet. -/
def stakeMoves (s : State) (p : Part) (h : Nat) (o : Policy) (ob : Obj) : Except B16 (List Move) :=
  let held (i : Nat) : List Nat := ((Map.find? ob.map i).map fun x => if x.tier = .stake then x.frames else []).getD []
  let own := ob.map.flatMap fun e => held e.1
  match stakeSheets s p o ob.sheets own with
  | none => .error stBadParam
  | some l =>
    let clash (e : Nat × Sheet) : Bool := e.2.frames.any fun f => own.contains f && !(held e.1).contains f
    if (numbered l).any clash then .error stBusy
    else .ok (((numbered l).filter fun e => held e.1 ≠ e.2.frames).map fun e =>
      { ident := 0, p, handle := h, sheet := e.1, kind := .policy, dst := .stake, frames := e.2.frames })

/-- The promotions of an object that have not started are dropped. -/
def dropWaiting (p : Part) (h : Nat) (s : State) : State :=
  updFlash (fun f => { f with
    moves := f.moves.filter fun v => v.started || !(v.p = p && v.handle = h && v.kind = .promotion) }) s

/-- Reserves the target frames of a new policy and asks for its moves (R360); the status that refuses it otherwise. A FETCH
object's window frames are free again, and may serve promotions (R358). -/
def reservePolicy (p : Part) (h : Nat) (bits : B128) (s : State) : Except B16 State :=
  match s.obj? p h with
  | none => .error stNoAccess
  | some ob =>
    let o := Policy.ofBits bits
    let codes := if o.fetch then [4] else if o.pin then o.tiers.take 1 else o.tiers
    let window := if o.fetch then takeWindow s p o.window [] else some []
    match window with
    | none => .error stBusy
    | some w =>
      let moves := if o.tiers = [1] then stakeMoves s p h o ob
        else (policyMoves s p h o (codes.map (listTier s o.region)) ob.map (w.map fun f => (.hbm, f)) []).elim
          (.error stBusy) .ok
      match moves with
      | .error e => .error e
      | .ok ms =>
        let dropWin (_ : Nat) (x : Sheet) : Sheet := { x with window := none }
        let freed := (ob.winFree ++ ob.map.flatMap fun e => (e.2.window.map fun w => w.1).toList).map fun _ => (Tier.hbm, 0)
        let s := updObj p h (fun y => { y with
          policy := bits, changing := true, winFree := w, map := y.map.mapVal dropWin }) s
        let s := { s with flash := { s.flash with
          moves := s.flash.moves.filter fun v => !(v.p = p && v.handle = h && v.kind = .fetch) } }
        .ok (backfillFreed p freed (ms.foldl (fun s v => addMove v s) s))

/-! ## Moves -/

/-- The order of R375. -/
def MoveKind.order : MoveKind → Nat
  | .fetch => 0
  | .policy => 1
  | .promotion => 2

/-- Whether a waiting move may start: room for it (R375), its buffer CLOSED (R363), for a fetch a window frame that holds no
move, and for a promotion no set-policy in hand. -/
def mayStart (s : State) (v : Move) : Bool :=
  let run := s.flash.moves.filter fun w => w.started
  !v.started && decide (run.length < 512) && decide ((run.filter fun w => w.p = v.p).length < 128) &&
    match s.obj? v.p v.handle with
    | none => false
    | some o =>
      if v.kind = .fetch then !o.winFree.isEmpty || o.map.any fun e => e.2.window.isSome
      else !protectedSheet s v.p o v.sheet && !(v.kind = .promotion && o.changing)

/-- Changes a move. -/
def updMove (ident : Nat) (f : Move → Move) (s : State) : State :=
  { s with flash := { s.flash with moves := s.flash.moves.map fun v => if v.ident = ident then f v else v } }

/-- A move is no longer in hand. -/
def endMove (ident : Nat) (s : State) : State :=
  { s with flash := { s.flash with moves := s.flash.moves.filter fun v => v.ident ≠ ident } }

/-- The window frame for a fetch: a free one, else that of the copy fetched earliest (R371). -/
def windowFrame (p : Part) (h : Nat) (o : Obj) (s : State) : Nat × State :=
  match o.winFree with
  | f :: rest => (f, updObj p h (fun y => { y with winFree := rest }) s)
  | [] =>
    let held := o.map.filterMap fun e => e.2.window.map fun w => (e.1, w)
    let old := held.foldl (fun b e => match b with
      | none => some e
      | some c => if e.2.2 < c.2.2 then some e else some c) none
    match old with
    | none => (0, s)
    | some (i, w) => (w.1, updSheet p h i (fun x => { x with window := none }) s)

/-- MOVE_START (R371, R375): the first waiting move in the order of R375 that may start. -/
def startMove (s : State) : State :=
  let waiting := s.flash.moves.filter (mayStart s)
  let best := waiting.foldl (fun b v => match b with
    | none => some v
    | some c => if v.kind.order < c.kind.order then some v else some c) none
  match best with
  | none => s
  | some v =>
    if v.kind = .fetch then
      match s.obj? v.p v.handle with
      | none => s
      | some o =>
        let (f, s) := windowFrame v.p v.handle o s
        updMove v.ident (fun v => { v with started := true, frames := [f] }) s
    else updMove v.ident (fun v => { v with started := true }) s

/-- A whole sheet, of number `n` of partition `p`, arrives in a frame by a move: a striped frame that follows the stripe's last
programmed slot is programmed directly (R389). -/
def arrive (p : Part) (n : Nat) (t : Tier) (region : Nat) (data : List Byte) (s : State) (f : Nat) : State :=
  let key := region * 2 ^ 32 + f / 8192
  let st := Map.getD s.flash.stripes key {}
  if t = .striped && st.slots = f % 8192 then
    let s := putMem (frameKey t region f) data s
    let s := updFlash (fun x => { x with
      stripes := Map.insert x.stripes key { st with slots := st.slots + 1 }
      sheetsWritten := satAdd x.sheetsWritten 1
      tags := Map.insert x.tags (frameKey t region f) (p.val * 2 ^ 48 + n) }) s
    dropOverlay [overlayName region f] s
  else writeFrame p n t region 0 data s f

/-- Writes that a move of a sheet has held are made, in order (R374). -/
def releaseWrites (p : Part) (n : Nat) (s : State) : State :=
  let mine (e : Part × Nat × List Byte) : Bool := e.1 = p && e.2.1 / sheetBytes = n
  (s.flash.heldWrites.filter mine).foldl (fun s e => writeRun p s e.2)
    (updFlash (fun f => { f with heldWrites := f.heldWrites.filter fun e => !mine e }) s)

/-- The sheet number of a sheet of an object. -/
def sheetNo (s : State) (p : Part) (h i : Nat) : Nat := ((s.obj? p h).map fun o => o.base / sheetBytes + i).getD 0

/-- A move is abandoned; its destination frames are free. -/
def abandonMove (v : Move) (s : State) : State :=
  let s := endMove v.ident s
  if v.kind = .fetch then updObj v.p v.handle (fun y => { y with winFree := y.winFree ++ v.frames }) s
  else releaseWrites v.p (sheetNo s v.p v.handle v.sheet) s

/-- The switch of a move's map entry (R373, R376): the sheet's bytes have arrived in its destination. A sheet that has never
been written reads as zeros there (R357). -/
def switchMove (v : Move) (x : Sheet) (s : State) : State :=
  let n := sheetNo s v.p v.handle v.sheet
  let s := if x.unwritten then clearFrames v.dst v.region v.frames s
    else v.frames.foldl (arrive v.p n v.dst v.region (sheetData s x)) (countRead x s)
  let s := endMove v.ident s
  let s := s.updTier v.p fun t => { t with
    moves := satAdd t.moves 1
    movedBytes := if x.unwritten then t.movedBytes else satAdd t.movedBytes sheetBytes }
  if v.kind = .fetch then
    updObj v.p v.handle (fun y => { y with
      fetches := y.fetches + 1
      map := Map.adjust y.map v.sheet fun z => { z with window := some (v.frames.headD 0, y.fetches) } }) s
  else
    let old := x.frames.filter fun f => !v.keep.contains f
    let fenced (f : Nat) : Bool := v.dst = .stake && !s.array.live.get (Fin.ofNat 4 (f / 8192))
    let s := updSheet v.p v.handle v.sheet (fun z => { z with
      tier := v.dst, region := v.region, frames := v.keep ++ v.frames, gone := (v.keep ++ v.frames).filter fenced }) s
    releaseWrites v.p n (backfillFreed v.p (old.map fun _ => (x.tier, x.region)) s)

/-- A read met an error that read-retry corrected (R384, R400): in managed flash its blocks are rewritten elsewhere. -/
def noteRetry (x : Sheet) (s : State) : State :=
  if x.tier = .managed || x.tier = .striped then
    updFlash (fun f =>
      let f := { f with retry := satAdd f.retry 1 }
      match x.tier, Map.find? f.ftl (overlayName x.region (x.frames.headD 0)) with
      | .managed, some page => askRewrite (page / 1024) f
      | _, _ => f) s
  else s

/-- The right and table that deny the migration engine the copy of a sheet, if one does (R479): its source is read and its
destination written under master id 0x22. A sheet that has never been written is not copied. -/
def moveDenied (s : State) (v : Move) (x : Sheet) : Option (Right × Nat) :=
  let no (g : Right) (y : Sheet) : Option (Right × Nat) :=
    ((sheetTables s y (g != .r)).find? fun t => !aclGrants s t 0x22 g).map fun t => (g, t)
  if x.unwritten then none
  else match no .r { x with window := none } with
    | some e => some e
    | none => no .w { tier := v.dst, region := v.region, frames := v.frames }

/-- MOVE_SWITCH (R373, R374): the copy of a move has ended. One that an access row denies is abandoned (R480). -/
def endCopy (v : Move) (media : Media) (s : State) : State :=
  match (s.obj? v.p v.handle).bind fun o => (Map.find? o.map v.sheet).map fun x => (o, x) with
  | none => abandonMove v s
  | some (o, x) =>
    let s := if media = .retried then noteRetry x s else s
    if x.poison || x.lost then abandonMove v s
    else match moveDenied s v x with
    | some (g, t) => abandonMove v (denied v.p t 0x22 g (o.base / sheetBytes + v.sheet) s)
    | none =>
    if media = .uncorrectable then poisonSheet v.p v.handle v.sheet (abandonMove v s)
    else if v.dst = .managed && (s.region v.region).readOnly then abandonMove v s
    else if v.kind ≠ .fetch && protectedSheet s v.p o v.sheet then
      -- its buffer has been reset meanwhile: the move waits again (R265, R363)
      updMove v.ident (fun v => { v with started := false, dirty := false, tries := 0, holding := false }) s
    else if v.dirty then
      let n := v.tries + 1
      let s := s.updTier v.p fun t => { t with
        dirty := satAdd t.dirty 1, holds := if n = 3 then satAdd t.holds 1 else t.holds }
      updMove v.ident (fun v => { v with dirty := false, tries := n, holding := decide (n ≥ 3) }) s
    else switchMove v x s

/-! ## Folds (R391 to R395) -/

/-- The end of the fold in hand: the stripe's overlay entries are in flash (R391, R394). -/
def endFold (s : State) : State :=
  match s.flash.folding with
  | none => s
  | some key =>
    let names := stripeEntries s key
    let region := key / 2 ^ 32
    let s := names.foldl (fun s n =>
      let f := n % 2 ^ 40
      putMem (frameKey .striped region f) (getMem s (overlayKey region f) sheetBytes) s) s
    let s := { s with mem := names.foldl (fun m n => clearRun m (overlayKey region (n % 2 ^ 40)) sheetBytes) s.mem }
    let st := Map.getD s.flash.stripes key {}
    let s := wearStripe key s
    admitWaiting { s with flash := { s.flash with
      folding := none
      refreshing := false
      overlay := s.flash.overlay.filter fun n => !names.contains n
      stripes := Map.insert s.flash.stripes key
        { slots := 8192, pending := false, stale := st.stale && names.isEmpty }
      sheetsWritten := satAdd s.flash.sheetsWritten 8192 } }

end Sys2Proof.Machine
end

