-- ==== Sys2Proof/Machine/Stitch.lean ====
section
/-!
DEFINITION. The stitch banks (R435 to R456) and program faults (R251 to R253), which break each other: a stream that stops
breaks the stitches it holds, and a stitch that breaks stops the streams that wait on it.
-/
namespace Sys2Proof.Machine

/-! ## Naming (R438 to R443) -/

/-- A stitch. -/
def State.stitch (s : State) (g : Nat) : Stitch := Map.getD s.stitches g {}

/-- Puts a stitch back; one as after device reset is not listed. -/
def putStitch (g : Nat) (x : Stitch) (s : State) : State := { s with stitches := Map.setD {} s.stitches g x }

/-- The global stitch that a partition's index names, and the OPS of the import window it goes through (R438). -/
def stitchAt (s : State) (p : Part) (i : Nat) : Option (Nat × Option (BitVec 4)) :=
  let r := (s.part p).stc
  if i < r.count.toNat * 256 && i < 0x8000 then some (r.base.toNat * 256 + i, none)
  else if 0x8000 ≤ i then
    match Map.find? r.imports ((i - 0x8000) / 0x1000) with
    | some w => if (i - 0x8000) % 0x1000 < w.count then some (w.base.toNat + (i - 0x8000) % 0x1000, some w.ops) else none
    | none => none
  else none

/-- Whether a global stitch lies in a partition's own range. -/
def inRange (r : StcRegs) (g : Nat) : Bool :=
  decide (r.base.toNat * 256 ≤ g) && decide (g < r.base.toNat * 256 + r.count.toNat * 256)

/-- The partition whose own range holds a stitch. -/
def stitchOwner (s : State) (g : Nat) : Option Part := four.find? fun p => inRange (s.part p).stc g

/-- The operations of R444. -/
inductive StOp where
  | signal | wait | lock | unlock | read
  deriving DecidableEq, Repr

/-- The right an operation needs at its bank (R479). -/
def StOp.right : StOp → Right
  | .signal => .s
  | .read => .r
  | _ => .l

/-- The OPS bit an operation needs at an import window (R461). -/
def StOp.opsBit : StOp → Nat
  | .lock | .unlock => 3
  | .wait => 2
  | .signal => 1
  | .read => 0

/-- The stitch an operation by master `m` reaches, or the access table that denies it if one does (R439, R443). -/
def reachStitch (s : State) (p : Part) (m : Nat) (op : StOp) (i : Nat) : Except (Option Nat) Nat :=
  match stitchAt s p i with
  | none => .error none
  | some (g, ops) =>
    let t := 56 + g / 4096
    if !aclGrants s t m op.right then .error (some t)
    else match ops with
      | some o => if o.getLsbD op.opsBit then .ok g else .error none
      | none => .ok g

/-- Counts a denial by a bank's table. -/
def denyStitch (p : Part) (m : Nat) (op : StOp) (i : Nat) (t : Option Nat) (s : State) : State :=
  match t with
  | some t => denied p t m op.right ((stitchAt s p i).elim 0 fun e => e.1) s
  | none => s

/-- The stitch word (R437). -/
def Stitch.word (x : Stitch) : B64 :=
  let st := match x.state with
    | .opened => 0
    | .locked => 1
    | .broken => 2
  place 64 32 x.count.toNat ||| place 64 24 x.owner.toNat ||| place 64 16 x.epoch.toNat ||| place 64 14 st |||
    place 64 13 (bit x.remote) ||| place 64 12 (bit x.sat) ||| place 64 10 x.stream.val |||
    BitVec.ofNat 64 (min x.reqs.length 31)

/-! ## Operations (R444 to R448) -/

/-- The master id of a partition's bench (R37). -/
def benchMaster (p : Part) : Nat := 8 + p.val

/-- The bank tells a stream that its registered request is satisfied. -/
def grantHead (q : StReq) (s : State) : State := s.updStream q.p q.st fun x => { x with granted := true }

/-- Checks the registered waits of a stitch (R445). -/
def checkWaits (g : Nat) (s : State) : State :=
  let x := s.stitch g
  let sat (q : StReq) : Bool := !q.lock && decide (q.threshold.toNat ≤ x.count.toNat) && x.state != .broken
  let s := putStitch g { x with reqs := x.reqs.filter fun q => !sat q } s
  (x.reqs.filter sat).foldl (fun s q => grantHead q s) s

/-- Grants an OPEN stitch to the oldest registered lock request (R446). -/
def grantLock (g : Nat) (s : State) : State :=
  let x := s.stitch g
  if x.state ≠ .opened then s
  else match x.reqs.find? fun q => q.lock with
    | none => s
    | some q =>
      let s := putStitch g { x with
        state := .locked, owner := BitVec.ofNat 8 (benchMaster q.p), stream := q.st
        reqs := x.reqs.erase q } s
      grantHead q s

/-- Signal v (R444): COUNT saturates; registered waits are checked. -/
def signalStitch (g v : Nat) (s : State) : State :=
  let x := s.stitch g
  let past := decide (x.count.toNat + v > 0xFFFF_FFFF)
  let s := putStitch g { x with count := satAdd x.count v, sat := x.sat || past } s
  let s := match stitchOwner s g with
    | some p => s.updStc p fun r => { r with signals := satAdd r.signals 1 }
    | none => s
  checkWaits g s

/-- What an operation that is not applied meets (R448). -/
inductive StBad where
  | broken | access | busy
  deriving DecidableEq, Repr

/-- Lock by a requester that does not wait (R444, R447, R448). -/
def lockStitch (g m : Nat) (st : Strm) (s : State) : Except StBad State :=
  let x := s.stitch g
  match x.state with
  | .broken => .error .broken
  | .locked => .error (if x.owner.toNat = m && x.stream = st then .access else .busy)
  | .opened => .ok (putStitch g { x with state := .locked, owner := BitVec.ofNat 8 m, stream := st } s)

/-- Unlock e (R444, R448). -/
def unlockStitch (g m : Nat) (st : Strm) (e : Byte) (s : State) : Except StBad State :=
  let x := s.stitch g
  if x.state = .broken || e ≠ x.epoch then .error .broken
  else if x.state ≠ .locked || x.owner.toNat ≠ m || x.stream ≠ st then .error .access
  else .ok (grantLock g (putStitch g { x with state := .opened, owner := 0xFF, stream := 0 } s))

/-- Registers a wait or lock request of a bench head (R445, R446). -/
def registerHead (g : Nat) (q : StReq) (s : State) : Except StBad State :=
  let x := s.stitch g
  if x.state = .broken then .error .broken
  else if q.lock && x.state = .locked && x.owner.toNat = benchMaster q.p && x.stream = q.st then .error .access
  else
    let s := putStitch g { x with reqs := x.reqs ++ [q] } s
    let s := s.updStream q.p q.st fun t => { t with registered := true }
    .ok (if q.lock then grantLock g s else checkWaits g s)

/-- A stream's head has no registered request any more. -/
def unregister (p : Part) (st : Strm) (s : State) : State :=
  let drop (_ : Nat) (x : Stitch) : Stitch := { x with reqs := x.reqs.filter fun q => !(q.p = p && q.st = st) }
  let s := { s with stitches := (Map.mapVal s.stitches drop).filter fun e => decide (e.2 ≠ ({} : Stitch)) }
  s.updStream p st fun x => { x with registered := false, granted := false }

/-! ## Program faults (R251 to R253) -/

/-- Program fault codes. -/
abbrev ftBadOp : Nat := 0x01
abbrev ftWordRsvd : Nat := 0x02
abbrev ftFormatPair : Nat := 0x03
abbrev ftFoldFormat : Nat := 0x04
abbrev ftBankMode : Nat := 0x05
abbrev ftBankSpan : Nat := 0x06
abbrev ftBankChain : Nat := 0x07
abbrev ftBankClobber : Nat := 0x08
abbrev ftBankEmpty : Nat := 0x09
abbrev ftStakeRange : Nat := 0x0A
abbrev ftAccess : Nat := 0x0B
abbrev ftPosition : Nat := 0x0C
abbrev ftStitchBroken : Nat := 0x0D
abbrev ftQuarterLost : Nat := 0x0E
abbrev ftMemError : Nat := 0x0F
abbrev ftPlateOpcode : Nat := 0x10
abbrev ftPlateField : Nat := 0x11
abbrev ftPlateAddr : Nat := 0x12
abbrev ftProgramAddr : Nat := 0x13

/-- The status of a FAULT entry (R658). -/
def faultStatus (code : Nat) : B16 :=
  if code = ftAccess then stNoAccess else if code = ftStitchBroken then stStitchBroken
  else if code = ftQuarterLost then stQuarterLost else if code = ftMemError then stInternal else stBadParam

/-- A program fault: its stream, code, operation address, OP_TAG, stitch index and further detail bits (R778). -/
structure FaultAt where
  p     : Part
  st    : Strm
  code  : Nat
  addr  : B64
  opTag : B32 := 0
  idx   : Nat := 0
  extra : Nat := 0
  /-- the operation stays at the head -/
  unissued : Bool := false
  deriving DecidableEq, Repr

/-- The stream stops, its registers and the journal tell why, and the fault interrupt rises (R251, R252). -/
def stopStream (f : FaultAt) (s : State) : State :=
  let s := s.updStream f.p f.st fun x => { x with
    state := .stopped, fault := BitVec.ofNat 8 f.code, faultPc := f.addr, unissued := x.unissued || f.unissued }
  let s := unregister f.p f.st s
  let s := note f.p 0x0010 (faultStatus f.code)
    (place 224 192 f.opTag.toNat ||| place 224 136 (f.addr.toNat % 2 ^ 56) ||| place 224 128 f.code |||
      place 224 126 f.st.val ||| place 224 99 f.idx ||| BitVec.ofNat 224 f.extra) s
  raiseIrq f.p 1 s

/-- One stitch goes BROKEN (R452, R453, R456): its registered requests are answered. -/
def breakStitch (g : Nat) (s : State) : State × List FaultAt :=
  let x := s.stitch g
  let e := x.epoch + 1
  let s := putStitch g { x with state := .broken, epoch := e, reqs := [] } s
  let s := match stitchOwner s g with
    | none => s
    | some p =>
      let s := s.updStc p fun r => { r with
        breaks := satAdd r.breaks 1
        lastBroken := place 64 63 1 ||| place 64 48 x.stream.val ||| place 64 40 e.toNat ||| place 64 32 x.owner.toNat |||
          BitVec.ofNat 64 g }
      note p 0x0011 stStitchBroken
        (place 224 208 g ||| place 224 200 x.owner.toNat ||| place 224 198 x.stream.val ||| place 224 190 e.toNat |||
          place 224 185 x.reqs.length) s
  let s := x.reqs.foldl (fun s q =>
    let s := s.updStc q.p fun r => { r with waitBroken := satAdd r.waitBroken 1 }
    s.updStream q.p q.st fun y => { y with registered := false, granted := false }) s
  (s, x.reqs.map fun q =>
    { p := q.p, st := q.st, code := ftStitchBroken, addr := (s.stream q.p q.st).head, idx := q.idx.toNat
      unissued := true })

/-- Breaks stitches in ascending order. -/
def breakEach : List Nat → State → State × List FaultAt
  | [], s => (s, [])
  | g :: gs, s =>
    let (s, a) := breakStitch g s
    let (s, b) := breakEach gs s
    (s, a ++ b)

/-- Stitches that a master holds, on stream `st` if one is given. -/
def heldStitches (s : State) (m : Nat) (st : Option Strm) : List Nat :=
  (s.stitches.filter fun e => e.2.state == .locked && e.2.owner.toNat = m && (st.all fun t => t = e.2.stream)).map Prod.fst

/-- Stops streams one after another; the stitches that each holds break and stop further ones. Every fault after the
first stops a stream with a registered head, and there are sixteen streams. -/
def runFaults : Nat → List FaultAt → State → State
  | 0, _, s => s
  | _, [], s => s
  | n + 1, f :: fs, s =>
    let s := stopStream f s
    let (s, more) := breakEach (heldStitches s (benchMaster f.p) (some f.st)) s
    runFaults n (fs ++ more) s

/-- A program fault with all it brings about. -/
def programFault (f : FaultAt) (s : State) : State := runFaults 40 [f] s

/-- Breaks stitches, with all it brings about. -/
def breakStitches (gs : List Nat) (s : State) : State :=
  let (s, fs) := breakEach gs s
  runFaults 40 fs s

/-! ## Signals of engines -/

/-- An engine signals a partition's stitch, adding 1 (R443, R444): whether it was admitted. -/
def engineSignal (p : Part) (m i : Nat) (s : State) : Bool × State :=
  match reachStitch s p m .signal i with
  | .ok g => (true, signalStitch g 1 s)
  | .error t => (false, denyStitch p m .signal i t s)

end Sys2Proof.Machine
end

