-- ==== Sys2Proof/Machine/Punch.lean ====
section
/-!
DEFINITION. Exponent compression (R401 to R418, R424 to R428): block headers, punch-set codes, coding and decoding of a
block, and the commands that load and retire punch sets and pack and unpack objects.
-/
namespace Sys2Proof.Machine

/-! ## Blocks and codes (R404 to R411) -/

/-- A block header (R404). -/
structure BlockHdr where
  raw     : Bool
  slot    : Nat
  gen     : Nat
  lenM1   : Nat
  f16     : Bool
  rsvd    : Nat
  granule : Nat
  deriving DecidableEq, Repr

/-- The header in 64 bits. -/
def BlockHdr.ofNat (v : Nat) : BlockHdr :=
  ⟨v.testBit 63, field v 62 59, field v 58 51, field v 50 46, v.testBit 45, field v 44 40, field v 39 0⟩

/-- The bits of a header. -/
def BlockHdr.toNat (b : BlockHdr) : Nat :=
  bit b.raw * 2 ^ 63 + b.slot * 2 ^ 59 + b.gen * 2 ^ 51 + b.lenM1 * 2 ^ 46 + bit b.f16 * 2 ^ 45 + b.granule % 2 ^ 40

/-- The code length of exponent `s` in a punch-set image (R408). -/
def punchLen (img : List Byte) (s : Nat) : Nat := ((img.getD (s / 2) 0).toNat / (if s % 2 = 0 then 1 else 16)) % 16

/-- The canonical codes (R411): exponent, length and codeword. -/
def codeTable (img : List Byte) : List (Nat × Nat × Nat) :=
  ((List.range 12).foldl (fun (st : Nat × List (Nat × Nat × Nat)) k =>
    let here := (List.range 256).filter fun s => punchLen img s = k + 1
    ((st.1 + here.length) * 2, st.2 ++ here.zipIdx.map fun e => (e.1, k + 1, st.1 + e.2))) (0, [])).2

/-- Whether a punch-set image is refused (R409). -/
def punchBad (img : List Byte) : Bool :=
  let ls := (List.range 256).map (punchLen img)
  let sum := (ls.map fun l => if l = 0 then 0 else 4096 / 2 ^ l).foldl (· + ·) 0
  let fmt := (img.getD 128 0).toNat
  ls.any (fun l => decide (l > 12)) || ls.all (fun l => l = 0) || decide (sum > 4096) || !(fmt = 1 || fmt = 2) ||
    (fmt = 2 && (ls.drop 32).any fun l => l ≠ 0) || (img.drop 129).any fun b => b ≠ 0

/-- `n` bits of a value, most significant first. -/
def msbBits (n v : Nat) : List Bool := (List.range n).map fun i => v.testBit (n - 1 - i)

/-- The number that bits spell, most significant first. -/
def bitsNat (l : List Bool) : Nat := l.foldl (fun a b => 2 * a + bit b) 0

/-- Bytes of a bit stream, bit n in bit 7 − n mod 8 of byte n div 8 (R407). -/
def bitBytes : Nat → List Bool → List Byte
  | 0, _ => []
  | n + 1, l => if l.isEmpty then [] else BitVec.ofNat 8 (bitsNat (takePad 8 false (l.take 8))) :: bitBytes n (l.drop 8)

/-- Element `i` of 8,192 bytes of 16-bit data. -/
def elem16 (data : List Byte) (i : Nat) : Nat := leNat ((data.drop (2 * i)).take 2)

/-- The exponent of a 16-bit element. -/
def expOf (f16 : Bool) (v : Nat) : Nat := if f16 then field v 14 10 else field v 14 7

/-- A block's 4,096 elements. -/
def blockElems (data : List Byte) : List Nat := (List.range 4096).map (elem16 data)

/-- Sign and mantissa bytes of a compressed block (R406). -/
def signMant (f16 : Bool) (es : List Nat) : List Byte :=
  if f16 then
    let low := es.map fun v => BitVec.ofNat 8 (v % 256)
    let high := es.foldr (fun v acc => acc * 8 + (v / 32768 * 4 + field v 9 8)) 0
    low ++ leBytes 1536 high
  else es.map fun v => BitVec.ofNat 8 (v / 32768 * 128 + v % 128)

/-- The coded form of a block under a punch set (R406, R407), without fill; none where an exponent has no code (R410). -/
def encodeBlock (img : List Byte) (f16 : Bool) (data : List Byte) : Option (List Byte) :=
  let es := blockElems data
  let table := codeTable img
  let code (v : Nat) : Option (List Bool) :=
    (table.find? fun t => t.1 = expOf f16 v).map fun t => msbBits t.2.1 t.2.2
  let sub (l : Nat) : Option (List Bool) :=
    ((List.range 64).mapM fun i => code (es.getD (i * 64 + l) 0)).map List.flatten
  match (List.range 64).mapM sub with
  | none => none
  | some subs =>
    let lens := subs.foldr (fun b acc => acc * 1024 + b.length) 0
    let stream := subs.flatten
    some (signMant f16 es ++ leBytes 80 lens ++ bitBytes (stream.length / 8 + 1) stream)

/-- One symbol from the front of a bit stream: the exponent and the rest. -/
def nextSym (table : List (Nat × Nat × Nat)) : Nat → Nat → Nat → List Bool → Option (Nat × List Bool)
  | 0, _, _, _ => none
  | _, _, _, [] => none
  | n + 1, len, code, b :: bs =>
    match table.find? fun t => t.2.1 = len + 1 && t.2.2 = code * 2 + bit b with
    | some t => some (t.1, bs)
    | none => nextSym table n (len + 1) (code * 2 + bit b) bs

/-- `n` symbols that use a bit stream up exactly. -/
def decodeSub (table : List (Nat × Nat × Nat)) : Nat → List Bool → Option (List Nat)
  | 0, bs => if bs.isEmpty then some [] else none
  | n + 1, bs => match nextSym table 12 0 0 bs with
    | some (s, r) => (decodeSub table n r).map fun t => s :: t
    | none => none

/-- Cuts substreams of the given lengths from a bit stream. -/
def cutSubs : List Nat → List Bool → List (List Bool)
  | [], _ => []
  | n :: ns, l => l.take n :: cutSubs ns (l.drop n)

/-- Decodes the body of a compressed block of `granules` granules: 8,192 bytes, or the check of R417 that failed. -/
def decodeBlock (img : List Byte) (f16 : Bool) (granules : Nat) (body : List Byte) : Except Nat (List Byte) :=
  let sm := if f16 then 5632 else 4096
  let lens : List Nat := (List.range 64).map fun l => field (leNat ((body.drop sm).take 80)) (10 * l + 9) (10 * l)
  let room := 8 * (256 * granules - sm - 80)
  if 256 * granules < sm + 80 || lens.foldl (· + ·) 0 > room then .error 5
  else
    let bits := ((body.take (256 * granules)).drop (sm + 80)).flatMap fun b => msbBits 8 b.toNat
    match (cutSubs lens bits).mapM (decodeSub (codeTable img) 64) with
    | none => .error 6
    | some subs =>
      let high := leNat ((body.drop 4096).take 1536)
      .ok ((List.range 4096).flatMap fun i =>
        let e := (subs.getD (i % 64) []).getD (i / 64) 0
        let b := (body.getD i 0).toNat
        leBytes 2 (if f16 then
            let h := field high (3 * i + 2) (3 * i)
            h / 4 * 32768 + e * 1024 + h % 4 * 256 + b
          else b / 128 * 32768 + e * 128 + b % 128))

/-- The checks of R417 on a header, for partition `p` and a 16-bit format: the number of the one that fails; 7 is a raw
block with a wrong header. -/
def headerCheck (s : State) (p : Part) (f16 : Bool) (h : BlockHdr) : Option Nat :=
  if h.raw then if h.lenM1 = 31 && h.slot = 0 && h.gen = 0 then none else some 7
  else
    let x := s.slot h.slot
    if x.owner ≠ p then some 1
    else if x.state = .free || x.gen.toNat ≠ h.gen then some 2
    else if h.f16 ≠ f16 || x.fmt.toNat ≠ (if f16 then 2 else 1) then some 3
    else if h.lenM1 > 30 then some 4
    else none

/-- A block's raw bytes from its header and body. -/
def expandBlock (s : State) (p : Part) (f16 : Bool) (h : BlockHdr) (body : List Byte) : Except Nat (List Byte) :=
  match headerCheck s p f16 h with
  | some n => .error n
  | none => if h.raw then .ok (takePad 8192 0 body) else decodeBlock (s.slot h.slot).image f16 (h.lenM1 + 1) body

/-! ## Loading and retiring punch sets (R424 to R427) -/

/-- PUNCH_LOAD. -/
def actPunchLoad (p : Part) (slot gen : Nat) (image : List Byte) (s : State) : CmdOut × State :=
  let x := s.slot slot
  if slot > 15 || punchBad image then (.done stBadParam, s)
  else if x.state ≠ .free && x.owner ≠ p then (.done stNoAccess, s)
  else if x.refs > 0 || x.state = .retiring || (gen ≠ 0 && x.state ≠ .free) then
    (.done stTableInUse (res 24 x.refs ||| res 8 x.owner.val),
      s.upd p fun y => { y with tableRefused := satAdd y.tableRefused 1 })
  else
    let g : Byte := if gen ≠ 0 then BitVec.ofNat 8 gen else if x.gen = 255 then 1 else x.gen + 1
    (cmdOk, updSlot slot (fun _ =>
      { state := .loaded, owner := p, fmt := BitVec.ofNat 2 (image.getD 128 0).toNat, gen := g, refs := 0, image }) s)

/-- PUNCH_LOAD. -/
def execPunchLoad (h : CmdHdr) (slot gen : Byte) (addr : B64) (image : List Byte) (s : State) :
    Host.Outcome State Fault Refusal :=
  next (hostCmd { opcode := 0x0800 } (.punchLoad h slot gen addr image) h [] false
    (actPunchLoad h.fn slot.toNat gen.toNat (takePad 256 0 image)) s)

/-- PUNCH_RETIRE: a slot that is not LOADED by the partition gives NO_ACCESS. -/
def actPunchRetire (p : Part) (slot : Nat) (s : State) : CmdOut × State :=
  let x := s.slot slot
  if slot > 15 then (.done stBadParam, s)
  else if x.state = .free || x.owner ≠ p then (.done stNoAccess, s)
  else if x.state = .retiring then (cmdOk, s)
  else (cmdOk, updSlot slot (fun x => if x.refs = 0 then { x with state := .free, fmt := 0, image := [] }
    else { x with state := .retiring }) s)

/-- PUNCH_RETIRE. -/
def execPunchRetire (h : CmdHdr) (slot : Byte) (s : State) : Host.Outcome State Fault Refusal :=
  next (hostCmd { opcode := 0x0801 } (.punchRetire h slot) h [] false (actPunchRetire h.fn slot.toNat) s)

/-! ## Packing and unpacking (R402, R403, R412 to R418) -/

/-- The pack unit's master id. -/
abbrev packMaster : Nat := 0x22

/-- The slots a mask names. -/
def maskSlots (mask : Nat) : List Nat := (List.range 16).filter fun i => mask.testBit i

/-- The punch-set references of a long command are released (R428). -/
def releaseWork (w : LongWork) (s : State) : State :=
  match w with
  | .pack _ _ mask _ => (maskSlots mask.toNat).foldl (fun s i => dropRefs i 1 s) s
  | .unpack _ _ _ slots => slots.foldl (fun s i => dropRefs i 1 s) s
  | _ => s

/-- Where the body of a packed object begins (R402). -/
def packBody (o : Obj) (blocks : Nat) : Nat := o.base + (8 * blocks + 65535) / 65536 * sheetBytes

/-- PACK: the checks of R412; the command's references are taken. -/
def actPack (p : Part) (src dst : Nat) (mask stitch : B16) (s : State) : CmdOut × State :=
  match s.obj? p src, s.obj? p dst with
  | some a, some b => match a.kind, b.kind with
    | .plain, .packed fmt blocks _ =>
      let ok (i : Nat) : Bool := let x := s.slot i; x.state = .loaded && x.owner = p && x.fmt.toNat = fmt
      if blocks < a.sheets * 8 || mask = 0 || !(maskSlots mask.toNat).all ok then (.done stBadParam, s)
      else (.started (.pack src dst mask stitch), (maskSlots mask.toNat).foldl (fun s i => takeRefs i 1 s) s)
    | _, _ => (.done stBadParam, s)
  | _, _ => (.done stNoAccess, s)

/-- PACK. -/
def execPack (h : CmdHdr) (src dst : B32) (mask stitch : B16) (s : State) : Host.Outcome State Fault Refusal :=
  next (hostCmd { opcode := 0x0802, long := true } (.pack h src dst mask stitch) h
    (leBytes 4 src.toNat ++ leBytes 4 dst.toNat ++ leBytes 2 mask.toNat ++ leBytes 2 stitch.toNat) false
    (actPack h.fn src.toNat dst.toNat mask stitch) s)

/-- How a block is packed (R413, R405): slot and coded bytes, or raw. -/
def packChoice (s : State) (slots : List Nat) (f16 : Bool) (data : List Byte) : Option (Nat × List Byte) :=
  let granules (l : List Byte) : Nat := (l.length + 255) / 256
  let forms := slots.filterMap fun i => (encodeBlock (s.slot i).image f16 data).map fun l => (i, l)
  forms.foldl (fun b e =>
    if granules e.2 > 31 then b
    else match b with
      | none => some e
      | some c => if granules e.2 < granules c.2 then some e else b) none

/-- The status with which an access of the pack unit ends its command, if it does. -/
def packCheck (p : Part) (g : Right) (o : Obj) (s : State) : Option (B16 × B128) × State :=
  let acc := checkMem s p packMaster g o.base (o.sheets * sheetBytes)
  match acc with
  | .ok => (none, s)
  | .memError _ i => (some (stInternal, BitVec.ofNat 128 (o.base / sheetBytes + i)), s)
  | _ => (some (stNoAccess, 0), noteDenied p packMaster g acc s)

/-- A signal on completion; index 0xFFFF is none. -/
def packSignal (p : Part) (stitch : B16) (s : State) : State :=
  if stitch = 0xFFFF then s else (engineSignal p packMaster stitch.toNat s).2

/-- Writes block `i` of a packed object, its header after it, and moves its reference (R414, R428). -/
def packBlock (p : Part) (dst : Nat) (o : Obj) (blocks : Nat) (f16 : Bool) (i g : Nat)
    (form : Option (Nat × List Byte)) (data : List Byte) (s : State) : Nat × State :=
  let (hdr, body, n) : BlockHdr × List Byte × Nat := match form with
    | some (k, l) =>
      let n := (l.length + 255) / 256
      (⟨false, k, (s.slot k).gen.toNat, n - 1, f16, 0, g⟩, takePad (256 * n) 0 l, n)
    | none => (⟨true, 0, 0, 31, f16, 0, g⟩, data, 32)
  let s := writeMem p (packBody o blocks + 256 * g) body s
  let s := writeNat p (o.base + 8 * i) 8 hdr.toNat s
  let s := match Map.find? ((s.obj? p dst).elim [] fun y => y.slotRefs) i with
    | some k => updObj p dst (fun y => { y with slotRefs := Map.erase y.slotRefs i }) (dropRefs k 1 s)
    | none => s
  let s := match form with
    | some (k, _) => updObj p dst (fun y => { y with slotRefs := Map.insert y.slotRefs i k }) (takeRefs k 1 s)
    | none => s
  let s := s.upd p fun y => { y with
    packed := if form.isSome then satAdd y.packed 1 else y.packed
    packedRaw := if form.isSome then y.packedRaw else satAdd y.packedRaw 1
    saved := satAdd y.saved (32 - n) }
  (g + n, s)

/-- The end of a PACK: its two passes (R413, R414); the command's references are released. -/
def endPack (p : Part) (src dst : Nat) (mask stitch : B16) (s : State) : B16 × B128 × State :=
  let slots := maskSlots mask.toNat
  let release (s : State) : State := releaseWork (.pack src dst mask stitch) s
  match s.obj? p src, s.obj? p dst with
  | some a, some o => match o.kind with
    | .packed fmt blocks granules =>
      match packCheck p .r a s with
      | (some e, s) => (e.1, e.2, release s)
      | (none, s) => match packCheck p .w o s with
        | (some e, s) => (e.1, e.2, release s)
        | (none, s) =>
          let f16 := fmt == 2
          let datas := (List.range (a.sheets * 8)).map fun i => readMem s p packMaster (a.base + 8192 * i) 8192
          let forms := datas.map fun d => (packChoice s slots f16 d, d)
          let need := (forms.map fun e => e.1.elim 32 fun f => (f.2.length + 255) / 256).foldl (· + ·) 0
          if need > granules then (stBusy, res 64 need, release s)
          else
            let s := touchRead p a.base (a.sheets * sheetBytes) s
            let r := forms.zipIdx.foldl (fun (st : Nat × State) e =>
              packBlock p dst o blocks f16 e.2 st.1 e.1.1 e.1.2 st.2) (0, s)
            let coded := (forms.filter fun e => e.1.isSome).length
            (stOk, res 32 (forms.length - coded) ||| res 0 coded, packSignal p stitch (release r.2))
    | _ => (stNoAccess, 0, release s)
  | _, _ => (stNoAccess, 0, release s)

/-- The punch-set slots of its partition that the headers of a packed object name, with their GEN (R428, R431). -/
def namedSlots (s : State) (p : Part) (o : Obj) : List Nat :=
  match o.kind with
  | .packed _ blocks _ =>
    let hs := (List.range blocks).map fun b => BlockHdr.ofNat (readNat s p packMaster (o.base + 8 * b) 8)
    (List.range 16).filter fun i =>
      let x := s.slot i
      x.state ≠ .free && x.owner = p && hs.any fun h => !h.raw && h.slot = i && h.gen = x.gen.toNat
  | _ => []

/-- UNPACK: the command holds a reference to each slot that the source's headers name. -/
def actUnpack (p : Part) (src dst : Nat) (stitch : B16) (s : State) : CmdOut × State :=
  match s.obj? p src, s.obj? p dst with
  | some a, some b => match a.kind, b.kind with
    | .packed _ blocks _, .plain =>
      if b.sheets * 8 < blocks then (.done stBadParam, s)
      else
        let slots := namedSlots s p a
        (.started (.unpack src dst stitch slots), slots.foldl (fun s i => takeRefs i 1 s) s)
    | _, _ => (.done stBadParam, s)
  | _, _ => (.done stNoAccess, s)

/-- UNPACK. -/
def execUnpack (h : CmdHdr) (src dst : B32) (stitch : B16) (s : State) : Host.Outcome State Fault Refusal :=
  next (hostCmd { opcode := 0x0803, long := true } (.unpack h src dst stitch) h
    (leBytes 4 src.toNat ++ leBytes 4 dst.toNat ++ leBytes 2 0 ++ leBytes 2 stitch.toNat) false
    (actUnpack h.fn src.toNat dst.toNat stitch) s)

/-- Writes block `i` raw, or poisons the destination sheet where R417 fails (R416, R418). -/
def unpackBlock (p : Part) (src : Nat) (a : Obj) (blocks : Nat) (f16 : Bool) (dst : Nat) (b : Obj) (st : Nat × State)
    (i : Nat) : Nat × State :=
  let s := st.2
  let h := BlockHdr.ofNat (readNat s p packMaster (a.base + 8 * i) 8)
  let body := readMem s p packMaster (packBody a blocks + 256 * h.granule) (256 * (h.lenM1 + 1))
  match expandBlock s p f16 h body with
  | .ok data => (st.1, writeMem p (b.base + 8192 * i) data s)
  | .error n =>
    let s := s.upd p fun y => { y with decodeErr := satAdd y.decodeErr 1 }
    let s := note p 0x0030 stInternal
      (place 224 216 5 ||| place 224 184 src ||| place 224 144 i ||| place 224 104 n) s
    (st.1 + 1, noteBroken p dst (updSheet p dst (i / 8) (fun x => { x with poison := true }) s))

/-- The end of an UNPACK; the command's references are released. -/
def endUnpack (p : Part) (src dst : Nat) (stitch : B16) (slots : List Nat) (s : State) : B16 × B128 × State :=
  let release (s : State) : State := releaseWork (.unpack src dst stitch slots) s
  match s.obj? p src, s.obj? p dst with
  | some a, some b => match a.kind with
    | .packed fmt blocks _ =>
      match packCheck p .r a s with
      | (some e, s) => (e.1, e.2, release s)
      | (none, s) => match packCheck p .w b s with
        | (some e, s) => (e.1, e.2, release s)
        | (none, s) =>
          let s := touchRead p a.base (a.sheets * sheetBytes) s
          let r := (List.range blocks).foldl (unpackBlock p src a blocks (fmt == 2) dst b) (0, s)
          (stOk, res 0 r.1, packSignal p stitch (release r.2))
    | _ => (stNoAccess, 0, release s)
  | _, _ => (stNoAccess, 0, release s)

end Sys2Proof.Machine
end

