-- ==== Sys2Proof/Machine/Tier.lean ====
section
/-!
DEFINITION. The object and placement commands (R641), the events of the migration engine (R373, R375) and those of the
striped flash (R391, R392, R395).
-/
namespace Sys2Proof.Machine

/-! ## The stake window (R219, R220, R350) -/

/-- Whether the staging region is addressable to a partition's programs (R220). -/
def stagingUsable (s : State) (p : Part) : Bool := s.host.staging = .free && !s.host.tsEn && s.host.arrayOwner = p

/-- Whether offset `o` of a slice is addressable to a partition (R220, R350). -/
def offsetOk (s : State) (p : Part) (o : Nat) : Bool :=
  let t := (s.part p).tier
  (decide (t.stakeBase.toNat ≤ o / sheetBytes) && decide (o / sheetBytes < t.stakeLimit.toNat)) ||
    (stagingUsable s p && decide (0x5C_0000 ≤ o) && decide (o < 0x60_0000))

/-- Whether `n` bytes from stake-window address `a` are addressable, sheet by sheet (R219, R220, R350). -/
def stakeOk (s : State) (p : Part) (a n : Nat) : Bool :=
  (sheetsFrom a n).all fun k =>
    let x := k * sheetBytes - winLo
    decide (x / 2 ^ 30 < 4) && decide (x % 2 ^ 30 / 2 ^ 23 < 64) && offsetOk s p (x % 2 ^ 23)

/-- Whether `n` bytes from a stake-window address reach a fenced quarter (R683). -/
def stakeFenced (s : State) (a n : Nat) : Bool :=
  (sheetsFrom a n).any fun k => !s.array.live.get (Fin.ofNat 4 ((k * sheetBytes - winLo) / 2 ^ 30))

/-- Whether any of the bytes lie in the stake window. -/
def reachesWindow (a n : Nat) : Bool := decide (winLo < a + n) && decide (0 < n)

/-! ## Object commands (R641) -/

/-- OBJ_CREATE. -/
def execObjCreate (h : CmdHdr) (sheets : B64) (policy : B128) (option : Byte) (block : B256) (s : State) :
    Host.Outcome State Fault Refusal :=
  let params := leBytes 8 sheets.toNat ++ leBytes 16 policy.toNat
  let i : Instr := .objCreate h sheets policy option block
  let t := hostCmd { opcode := 0x0200 } i h params false (createObject h.fn sheets.toNat policy option block) s
  next (if option = 2 then settleCmd i h.fn s t else t)

/-- OBJ_DESTROY (R362, R621, R703, R779): waits for the object's moves in flight. -/
def actObjDestroy (p : Part) (handle : Nat) (s : State) : CmdOut × State :=
  match s.obj? p handle with
  | none => (.done stNoAccess, s)
  | some o =>
    match o.kind with
    | .guestWindow _ => (.done stBadParam, s)
    | _ =>
      if o.changing || o.dying || (s.host.tsEn && holdsContext (s.part p).bench o) then (.done stBusy, s)
      else
        let s := updObj p handle (fun y => { y with dying := true }) s
        let s := { s with flash := { s.flash with
          moves := s.flash.moves.filter fun v => v.started || !(v.p = p && v.handle = handle) } }
        (.started (.destroy handle), s)

/-- OBJ_DESTROY. -/
def execObjDestroy (h : CmdHdr) (handle : B32) (s : State) : Host.Outcome State Fault Refusal :=
  next (hostCmd { opcode := 0x0201, long := true } (.objDestroy h handle) h (leBytes 4 handle.toNat) false
    (actObjDestroy h.fn handle.toNat) s)

/-- The end of an OBJ_DESTROY, once no move of the object is in flight. -/
def endDestroy (p : Part) (handle : Nat) (s : State) : Option (B16 × B128 × State) :=
  if s.flash.moves.any fun v => v.p = p && v.handle = handle then none
  else some (stOk, 0, destroyObject p handle s)

/-- Whether a kind of object may take a policy: sets and attached runs stay pinned in the flash region they lie in
(R381, R537). -/
def policyFits (o : Obj) (l : Policy) : Bool :=
  match o.kind with
  | .guestWindow _ => false
  | .ckptSet .. | .mirrorSet .. | .attach .. => l.tiers = [4] && l.pin && l.region = (Policy.ofBits o.policy).region
  | _ => true

/-- SET_POLICY (R354, R360 to R362): promotions not yet started are dropped when its frames are reserved; one in flight is
waited for. -/
def actSetPolicy (p : Part) (handle : Nat) (bits : B128) (s : State) : CmdOut × State :=
  if policyRsvd bits then (.done stBadParam, s)
  else match s.obj? p handle with
  | none => (.done stNoAccess, s)
  | some o =>
    let l := Policy.ofBits bits
    if policyBad s p o.sheets l || !policyFits o l then (.done stBadParam, s)
    else if o.changing || o.dying then (.done stBusy, s)
    else
      let t := dropWaiting p handle s
      if t.flash.moves.any fun v => v.p = p && v.handle = handle && v.kind = .promotion then
        (.started (.policy handle bits false), updObj p handle (fun y => { y with changing := true }) s)
      else match reservePolicy p handle bits t with
        | .error e => (.done e, s)
        | .ok u => (.started (.policy handle bits true), u)

/-- SET_POLICY. -/
def execSetPolicy (h : CmdHdr) (handle : B32) (policy : B128) (s : State) : Host.Outcome State Fault Refusal :=
  next (hostCmd { opcode := 0x0202, long := true } (.setPolicy h handle policy) h
    (leBytes 8 handle.toNat ++ leBytes 16 policy.toNat) false (actSetPolicy h.fn handle.toNat policy) s)

/-- The end of a SET_POLICY, after its last move (R361); with `begun` false its frames are reserved first. -/
def endPolicy (p : Part) (handle : Nat) (bits : B128) (begun : Bool) (s : State) :
    Option (B16 × B128 × State) ⊕ State :=
  let quiet := updObj p handle (fun y => { y with changing := false })
  if begun then
    if s.flash.moves.any fun v => v.p = p && v.handle = handle && v.kind = .policy then .inl none
    else .inl (some (stOk, 0, quiet s))
  else if (dropWaiting p handle s).flash.moves.any fun v => v.p = p && v.handle = handle && v.kind = .promotion then
    .inl none
  else match reservePolicy p handle bits (dropWaiting p handle s) with
    | .error e => .inl (some (e, 0, quiet s))
    | .ok t => .inr t

/-- SHEET_QUERY. -/
def actSheetQuery (h : CmdHdr) (handle count first : Nat) (addr : B64) (s : State) : CmdOut × State :=
  match s.obj? h.fn handle with
  | none => (.done stNoAccess, s)
  | some o =>
    if count = 0 || first + count > o.sheets then (.done stBadParam, s)
    else
      let words := (List.range count).flatMap fun i => leBytes 8 (statusWord s h.fn handle o (first + i)).toNat
      (.done stOk (res 0 count), hostWrite h.fn addr words s)

/-- SHEET_QUERY. -/
def execSheetQuery (h : CmdHdr) (handle count : B32) (first addr : B64) (s : State) : Host.Outcome State Fault Refusal :=
  next (hostCmd { opcode := 0x0203 } (.sheetQuery h handle count first addr) h [] false
    (actSheetQuery h handle.toNat count.toNat first.toNat addr) s)

/-- REFRESH_DAYS as a format sets it (R395); none where it is not allowed. -/
def refreshDays (mode refresh : Nat) : Option Nat :=
  if mode = 1 then if refresh = 0 then some 0 else none
  else if refresh = 0 then some 30
  else if 7 ≤ refresh && refresh ≤ 90 then some refresh else none

/-- Whether any object has a sheet in a flash region. -/
def regionInUse (s : State) (r : Nat) : Bool :=
  four.any fun p => (s.part p).tier.objects.any fun e =>
    e.2.map.any fun y => (y.2.tier = .managed || y.2.tier = .striped) && y.2.region = r

/-- REGION_FORMAT (R378, R379, R395). -/
def actRegionFormat (region mode owner refresh start count : Nat) (s : State) : CmdOut × State :=
  let extentsOk := decide (start ≤ 63) && decide (1 ≤ count) && decide (count ≤ 64) && decide (start + count ≤ 64)
  let overlap := s.flash.regions.any fun e =>
    e.1 ≠ region && e.2.mode ≠ 0 && decide (start < e.2.start.toNat + e.2.count.toNat) &&
      decide (e.2.start.toNat < start + count)
  if region > 15 || mode > 2 then (.done stBadParam, s)
  else if mode ≠ 0 && (owner > 3 || !extentsOk || overlap || (refreshDays mode refresh).isNone) then (.done stBadParam, s)
  else if regionInUse s region then (.done stBusy, s)
  else
    let r := s.region region
    let w : LongWork := .format region mode owner refresh start count
    if mode = 0 && r.mode = 0 then (.started w, s)
    else
      let r : Region := if mode = 0 then { r with ready := false } else
        { mode := BitVec.ofNat 2 mode, owner := Fin.ofNat 4 owner
          refresh := BitVec.ofNat 8 ((refreshDays mode refresh).getD 0), start := BitVec.ofNat 6 start
          count := BitVec.ofNat 7 count }
      (.started w, updRegion region (fun _ => r) (updFlash (fun f => { f with formatting := f.formatting ++ [region] }) s))

/-- REGION_FORMAT. -/
def execRegionFormat (h : CmdHdr) (region mode owner refresh start count : Byte) (s : State) :
    Host.Outcome State Fault Refusal :=
  next (hostCmd { opcode := 0x0204, long := true, issuer := .p0 } (.regionFormat h region mode owner refresh start count) h
    [region, mode, owner, refresh, start, count] false
    (actRegionFormat region.toNat mode.toNat owner.toNat refresh.toNat start.toNat count.toNat) s)

/-- The end of a REGION_FORMAT: the extents are erased and the region has its mode (R379, R388, R394, R396). One that found
its region unused, to make it unused, does nothing. -/
def endFormat (region mode : Nat) (s : State) : State :=
  if !s.flash.formatting.contains region then s
  else
    let lo (c : Nat) : Nat := c * 2 ^ 60 + region * 2 ^ 48
    let mem := [4, 5, 6].foldl (fun m c => clearRun m (lo c) (2 ^ 48)) s.mem
    let xs := (s.region region).extents
    let f := eraseExtents region xs s.flash
    let here (k : Nat) : Bool := k / 2 ^ 32 = region
    let spares := if mode = 1 then formatSpares f region xs else 0
    let s := { s with
      mem
      images := s.images.filter fun e => e.1 / 2 ^ 48 ≠ region
      flash := { f with
        formatting := f.formatting.erase region
        tags := f.tags.filter fun e => e.1 / 2 ^ 48 % 2 ^ 12 ≠ region
        stripes := f.stripes.filter fun e => !here e.1
        overlay := f.overlay.filter fun n => n / 2 ^ 40 ≠ region
        overlayWait := f.overlayWait.filter fun n => n / 2 ^ 40 ≠ region
        folding := f.folding.filter fun k => !here k
        refreshing := f.refreshing && !f.folding.any here
        foldQ := f.foldQ.filter fun e => !here e.1 } }
    let s := updRegion region (fun r => if mode = 0 then {} else
      { r with ready := true, spares, readOnly := mode = 1 && spares = 0, fill := none }) s
    admitWaiting (if mode = 1 && spares = 0 then noteReadOnly region s else s)

/-- The FLS_REGION word (R400). -/
def regionWord (r : Region) : B64 :=
  place 64 56 r.mode.toNat ||| place 64 52 r.owner.val ||| place 64 44 r.refresh.toNat ||| place 64 38 r.start.toNat |||
    place 64 31 r.count.toNat ||| place 64 30 (bit r.ready)

/-- The stale stripes of a region, ascending. -/
def staleStripes (s : State) (region : Nat) : List Nat :=
  (s.flash.stripes.filter fun e => e.1 / 2 ^ 32 = region && e.2.stale).map fun e => e.1 % 2 ^ 32

/-- REGION_QUERY: the region's word, then its stale stripes. -/
def actRegionQuery (h : CmdHdr) (region : Nat) (addr : B64) (s : State) : CmdOut × State :=
  if region > 15 then (.done stBadParam, s)
  else if h.fn ≠ 0 && !((s.region region).mode ≠ 0 && (s.region region).owner = h.fn) then (.done stNoAccess, s)
  else
    let l := staleStripes s region
    (.done stOk (res 0 l.length),
      hostWrite h.fn addr (leBytes 8 (regionWord (s.region region)).toNat ++ l.flatMap (leBytes 4)) s)

/-- REGION_QUERY. -/
def execRegionQuery (h : CmdHdr) (region : Byte) (addr : B64) (s : State) : Host.Outcome State Fault Refusal :=
  next (hostCmd { opcode := 0x0205 } (.regionQuery h region addr) h [] false (actRegionQuery h region.toNat addr) s)

/-- BUF_RESET (R266, R779). -/
def actBufReset (p : Part) (handle step expect : Nat) (s : State) : CmdOut × State :=
  if step ≥ 2 ^ 40 then (.done stBadParam, s)
  else match s.obj? p handle with
  | none => (.done stNoAccess, s)
  | some o => match o.kind with
    | .redBuf .. =>
      if (bufHdr s p o).state = 1 then (.done stBusy, s)
      else (cmdOk, resetBuf p o step expect s)
    | _ => (.done stBadParam, s)

/-- BUF_RESET. -/
def execBufReset (h : CmdHdr) (handle : B32) (step expect : B64) (s : State) : Host.Outcome State Fault Refusal :=
  let i : Instr := .bufReset h handle step expect
  next (settleCmd i h.fn s (hostCmd { opcode := 0x0206 } i h [] false
    (actBufReset h.fn handle.toNat step.toNat expect.toNat) s))

/-- EXPORT_SET (R581): an export id names one handle; handle 0 clears it. -/
def actExportSet (p : Part) (ident handle : Nat) (s : State) : CmdOut × State :=
  let t := (s.part p).res.exports
  if handle = 0 then (cmdOk, s.updRes p fun r => { r with exports := Map.erase r.exports ident })
  else if (s.obj? p handle).isNone then (.done stNoAccess, s)
  else if Map.getD t ident handle ≠ handle || ((Map.find? t ident).isNone && t.length ≥ 4096) then (.done stBusy, s)
  else (cmdOk, s.updRes p fun r => { r with exports := Map.insert r.exports ident handle })

/-- EXPORT_SET. -/
def execExportSet (h : CmdHdr) (ident : B16) (handle : B32) (s : State) : Host.Outcome State Fault Refusal :=
  next (hostCmd { opcode := 0x0207 } (.exportSet h ident handle) h [] false
    (actExportSet h.fn ident.toNat handle.toNat) s)

/-- The status with which an access by host port `p` ends a HOST_DMA, if it does (R347, R350, R641, R683). -/
def dmaCheck (p : Part) (g : Right) (a n : Nat) (s : State) : Option (B16 × B128) × State :=
  let acc := checkMem s p p.val g a n
  match acc with
  | .outside => (some (stNoAccess, 0), s)
  | .denied _ _ => (some (stNoAccess, 0), noteDenied p p.val g acc s)
  | .memError h i =>
    let no := ((s.obj? p h).map fun o => o.base / sheetBytes + i).getD 0
    (some (stInternal, BitVec.ofNat 128 no), s)
  | .ok =>
    if reachesWindow a n then
      let lo := max a winLo
      if !stakeOk s p lo (a + n - lo) then (some (stNoAccess, 0), s)
      else if stakeFenced s lo (a + n - lo) then (some (stQuarterLost, 0), s)
      else (none, s)
    else (none, s)

/-- HOST_DMA. -/
def execHostDma (h : CmdHdr) (dir : Byte) (dev host bytes : B64) (data : List Byte) (s : State) :
    Host.Outcome State Fault Refusal :=
  let act (s : State) : CmdOut × State :=
    (.started (if dir = 0 then .dmaOut dev.toNat host.toNat bytes.toNat else .dmaIn dev.toNat (data.take bytes.toNat)), s)
  next (hostCmd { opcode := 0x0208, long := true } (.hostDma h dir dev host bytes data) h
    (leBytes 8 dir.toNat ++ leBytes 8 dev.toNat ++ leBytes 8 host.toNat) (dir.toNat > 1) act s)

/-- The end of a HOST_DMA to the host (R598, R636). -/
def endDmaOut (p : Part) (dev host bytes : Nat) (s : State) : B16 × B128 × State :=
  match dmaCheck p .r dev bytes s with
  | (some e, s) => (e.1, e.2, s)
  | (none, s) => (stOk, 0, touchRead p dev bytes (hostWrite p (BitVec.ofNat 64 host) (readMem s p p.val dev bytes) s))

/-- The end of a HOST_DMA from the host. -/
def endDmaIn (p : Part) (dev : Nat) (data : List Byte) (s : State) : B16 × B128 × State :=
  match dmaCheck p .w dev data.length s with
  | (some e, s) => (e.1, e.2, s)
  | (none, s) => (stOk, 0, writeMem p dev data s)

/-- The option code of an object (R642, R703). -/
def ObjKind.code : ObjKind → Nat
  | .plain => 0
  | .packed .. => 1
  | .redBuf .. => 2
  | .redGroup => 3
  | .ckptSet .. => 4
  | .mirrorSet .. => 5
  | .attach .. => 6
  | .guestWindow _ => 7

/-- OBJ_LIST. -/
def execObjList (h : CmdHdr) (addr : B64) (max : B32) (s : State) : Host.Outcome State Fault Refusal :=
  let act (s : State) : CmdOut × State :=
    let l := (s.part h.fn).tier.objects
    let word (e : Nat × Obj) : List Byte :=
      leBytes 4 e.1 ++ leBytes 4 e.2.kind.code ++ leBytes 8 e.2.base ++ leBytes 16 e.2.policy.toNat
    (.done stOk (res 0 l.length), hostWrite h.fn addr ((l.take max.toNat).flatMap word) s)
  next (hostCmd { opcode := 0x0209 } (.objList h addr max) h [] false act s)

/-! ## Events of the migration engine and the striped flash -/

/-- MOVE_START. -/
def execMoveStart (s : State) : Host.Outcome State Fault Refusal := next (startMove s)

/-- MOVE_SWITCH: the copy of a started move has ended; a number that names none changes nothing. -/
def execMoveSwitch (ident : Nat) (media : Media) (s : State) : Host.Outcome State Fault Refusal :=
  match s.flash.moves.find? fun v => v.ident = ident && v.started with
  | some v => next (settle v.p s (endCopy v media s))
  | none => next s

/-- OVERLAY_AGE_EXPIRY (R392): the stripe is due for a fold if it has overlay entries. -/
def execOverlayAgeExpiry (region : Fin 16) (stripe : Nat) (s : State) : Host.Outcome State Fault Refusal :=
  let key := region.val * 2 ^ 32 + stripe
  next (if (stripeEntries s key).isEmpty then s else askFold key false s)

/-- FOLD (R391): the fold in hand has ended. -/
def execFold (s : State) : Host.Outcome State Fault Refusal := next (endFold s)

/-- STRIPE_REFRESH (R395): the stripe of a striped region is due to be folded in place. -/
def execStripeRefresh (region : Fin 16) (stripe : Nat) (s : State) : Host.Outcome State Fault Refusal :=
  let r := s.region region.val
  next (if r.mode = 2 && r.ready && decide (stripe * 8192 < r.frames) then askFold (region.val * 2 ^ 32 + stripe) true s
    else s)

end Sys2Proof.Machine
end

