-- ==== Sys2Proof/Machine/BenchWord.lean ====
section
/-!
DEFINITION. The bench operation word (R201 to R203), and what every bench operation shares: the ready rule of R198, issue,
tags and completion (R196 to R213), records fetched from device memory, and program faults at issue (R251, R253).
-/
namespace Sys2Proof.Machine

/-! ## The word (R201 to R203, R208, R214, R227, R229, R233, R235 to R238) -/

/-- The operation that a 128-bit word spells at the head of a stream; none for a reserved opcode. -/
def benchOf (p : Part) (st : Strm) (w : Nat) : Option Instr :=
  let b6 (hi lo : Nat) : BitVec 6 := BitVec.ofNat 6 (field w hi lo)
  let b (rsvd : Nat) : BenchHdr :=
    { p, st, prio := BitVec.ofNat 2 (field w 119 118), outTag := b6 117 112, in0 := b6 111 106, in1 := b6 105 100
      in2 := b6 99 94, rsvd := decide (rsvd ≠ 0) }
  let addr : Addr := BitVec.ofNat 56 (field w 55 0)
  let high := field w 93 56
  let pos64 : B64 := BitVec.ofNat 64 (field w 63 0)
  let src : BitVec 40 := BitVec.ofNat 40 (field w 93 54)
  let dst : BitVec 40 := BitVec.ofNat 40 (field w 53 14)
  let stitch : B16 := BitVec.ofNat 16 (field w 87 72)
  let epoch : Byte := BitVec.ofNat 8 (field w 71 64)
  let gap := field w 63 56
  match field w 127 120 with
  | 0x00 => some (.nop (b 0))
  | 0x01 => some (.endOp (b 0))
  | 0x02 => some (.jump (b (field w 79 56)) (BitVec.ofNat 14 (field w 93 80)) addr)
  | 0x03 => some (.fence (b 0))
  | 0x10 => some (.array (b high) addr)
  | 0x18 => some (.vrun (b (field w 60 56)) (BitVec.ofNat 8 (field w 93 86)) (BitVec.ofNat 8 (field w 85 78))
      (BitVec.ofNat 11 (field w 77 67)) (b6 66 61) addr)
  | 0x20 => some (.copy (b 0) src dst (b6 13 8) (BitVec.ofNat 8 w))
  | 0x21 => some (.copyRouted (b (field w 91 56)) (BitVec.ofNat 2 (field w 93 92)) addr)
  | 0x22 => some (.copyAdd (b 0) src dst (b6 13 8) (BitVec.ofNat 8 w))
  | 0x30 => some (.stSignal (b gap) (b6 93 88) stitch epoch addr)
  | 0x31 => some (.stWait (b gap) (b6 93 88) stitch epoch addr)
  | 0x32 => some (.stLock (b gap) (b6 93 88) stitch epoch addr)
  | 0x33 => some (.stUnlock (b gap) (b6 93 88) stitch epoch addr)
  | 0x34 => some (.stRead (b gap) (b6 93 88) stitch epoch addr)
  | 0x40 => some (.cadMark (b (field w 93 64)) pos64)
  | 0x41 => some (.posDraw (b (field w 93 64)) pos64)
  | 0x60 => some (.veto (b high) addr)
  | 0x70 => some (.planish (b high) addr)
  | _ => none

/-! ## Faults at issue and fetched records -/

/-- Why an operation is refused at issue: its code, OP_TAG and stitch index, and the access that was denied. -/
structure Halt where
  code  : Nat
  opTag : B32 := 0
  idx   : Nat := 0
  acc   : Acc := .ok
  right : Right := .r

/-- The program fault that an access of `n` bytes by master `m` for a partition meets, if any (R219, R220, R347, R350,
R683, R777). -/
def masterAccess (m : Nat) (s : State) (p : Part) (g : Right) (a n : Nat) : Option Nat × Acc :=
  let acc := checkMem s p m g a n
  match acc with
  | .outside => (some ftAccess, acc)
  | .denied _ _ => (some ftAccess, acc)
  | .memError _ _ => (some ftMemError, acc)
  | .ok =>
    if reachesWindow a n then
      let lo := max a winLo
      if !stakeOk s p lo (a + n - lo) then (some ftStakeRange, acc)
      else if stakeFenced s lo (a + n - lo) then (some ftQuarterLost, acc)
      else (none, acc)
    else (none, acc)

/-- The program fault that a bench access meets, if any. -/
def benchAccess (s : State) (p : Part) (g : Right) (a n : Nat) : Option Nat × Acc := masterAccess (benchMaster p) s p g a n

/-- A record of `n` bytes at an address aligned to `align` (R253: misaligned or unmapped is PROGRAM_ADDR). -/
def fetchRec (s : State) (p : Part) (a n align : Nat) : Except Halt (List Byte) :=
  if a % align ≠ 0 then .error { code := ftProgramAddr }
  else match benchAccess s p .r a n with
    | (none, _) => .ok (readMem s p (benchMaster p) a n)
    | (some c, acc) => .error { code := if acc = .outside then ftProgramAddr else c, acc }

/-! ## Readiness (R198, R200, R210, R212) -/

/-- Whether the partition holds the array (R615, R618, R621). -/
def holdsArray (s : State) (p : Part) : Bool :=
  if s.host.tsEn then s.array.holder = p && (s.part p).bench.ctxSet else s.host.arrayOwner = p

/-- Operations of a stream in flight. -/
def inFlight (s : State) (p : Part) (st : Strm) : Nat := ((s.part p).bench.flight.filter fun f => f.st = st).length

/-- The count of a tag. -/
def Stream.tag (x : Stream) (t : BitVec 6) : Nat := Map.getD x.tags t.toNat 0

/-- Whether an IN tag is clear. -/
def Stream.clearTag (x : Stream) (t : BitVec 6) : Bool := t = 0 || x.tag t = 0

/-- Whether the IN tags of a head are clear. -/
def tagsClear (b : BenchHdr) (s : State) : Bool :=
  let x := s.stream b.p b.st
  x.clearTag b.in0 && x.clearTag b.in1 && x.clearTag b.in2

/-- R198 without the array, the resources, and the last two lines; a folio rollback has stopped issue (R576). -/
def headReady (b : BenchHdr) (s : State) : Bool :=
  let x := s.stream b.p b.st
  x.state = .run && (s.part b.p).res.rollTo.isNone && !(posPhase (s.part b.p).cad.pos = 7 && b.st ≠ 3) && tagsClear b s &&
    !(b.outTag ≠ 0 && x.tag b.outTag = 255)

/-- Slots taken on plate `k` by a partition's operations (R209, R210). -/
def slotsUsed (s : State) (p : Part) (k : Nat) : Nat :=
  let b := (s.part p).bench
  let q : Qtr := Fin.ofNat 4 (k / 64)
  (b.arrayQ.filter fun o => o.shares.get q ≠ 0).length + (Map.getD b.insts k []).length +
    (b.flight.filter fun f => f.kind = .planish && f.live.get q).length

/-- Whether each plate of a list has a free slot. -/
def slotsFree (s : State) (p : Part) (ks : List Nat) : Bool := ks.all fun k => decide (slotsUsed s p k < 64)

/-- The plates of the quarters that satisfy `f`. -/
def platesOf (f : Qtr → Bool) : List Nat := (List.range 256).filter fun k => f (Fin.ofNat 4 (k / 64))

/-- Whether any quarter is live. -/
def anyLive (s : State) : Bool := four.any fun q => s.array.live.get q

/-! ## Issue and completion (R196, R202, R205, R251, R252) -/

/-- The head issues: BNC_ISSUED counts it and the stream goes on to `next`. -/
def issueHead (b : BenchHdr) (nextHead : B64) (s : State) : State :=
  s.updStream b.p b.st fun x => { x with
    issued := satAdd x.issued 1, head := nextHead, registered := false, granted := false }

/-- An issued operation that stays in flight: its number and record; its OUT_TAG counts one more. -/
def takeFlight (b : BenchHdr) (addr : B64) (kind : FlightKind) (opTag : B32) (foot : Foot) (s : State) : Nat × State :=
  let n := s.array.nextOp
  let s := { s with array := { s.array with nextOp := n + 1 } }
  let s := s.updStream b.p b.st fun x =>
    if b.outTag = 0 then x else { x with tags := Map.setD 0 x.tags b.outTag.toNat (x.tag b.outTag + 1) }
  (n, s.updBench b.p fun y => { y with
    flight := y.flight ++ [{ ident := n, st := b.st, outTag := b.outTag, addr, kind, opTag, foot, live := s.array.live
                             mates := y.flight.map Flight.ident }] })

/-- Whether two operations have been in flight at the same time. -/
def Flight.beside (f g : Flight) : Bool := f.ident ≠ g.ident && (f.mates.contains g.ident || g.mates.contains f.ident)

/-- An operation leaves those in flight; it is remembered while one is left that was in flight together with it. -/
def Bench.land (f : Flight) (y : Bench) : Bench :=
  let left := y.flight.filter fun g => g.ident ≠ f.ident
  { y with flight := left, past := (y.past ++ [f]).filter fun g => left.any g.beside }

/-- An operation completes, with a program fault or without one (R205). -/
def completeOp (p : Part) (ident : Nat) (fault : Option (Nat × Nat × Nat)) (s : State) : State :=
  match (s.part p).bench.flight.find? fun f => f.ident = ident with
  | none => s
  | some f =>
    let s := s.updBench p (Bench.land f)
    let s := s.updStream p f.st fun x =>
      if f.outTag = 0 then x else { x with tags := Map.setD 0 x.tags f.outTag.toNat (x.tag f.outTag - 1) }
    match fault with
    | none => s
    | some (code, idx, extra) => programFault { p, st := f.st, code, addr := f.addr, opTag := f.opTag, idx, extra } s

/-- A head refused at issue: it stays, and its stream stops. -/
def haltHead (b : BenchHdr) (e : Halt) (s : State) : State :=
  programFault { p := b.p, st := b.st, code := e.code, addr := (s.stream b.p b.st).head, opTag := e.opTag, idx := e.idx,
                 unissued := true } (noteDenied b.p (benchMaster b.p) e.right e.acc s)

/-- A bench operation: not ready, nothing changes; ready, its reserved bits are checked (R203), then `run` refuses it or
gives what its issue leaves. -/
def benchOp (b : BenchHdr) (ready : State → Bool) (run : State → Except Halt State) (s : State) : State :=
  if !headReady b s || !ready s then s
  else if b.rsvd then haltHead b { code := ftWordRsvd } s
  else match run s with
    | .error e => haltHead b e s
    | .ok t => t

/-- The head address after the operation. -/
def afterHead (b : BenchHdr) (s : State) : B64 := (s.stream b.p b.st).head + 16

/-! ## Operations in flight together (R207, R301) -/

/-- The bytes that two runs share. -/
def meetRun (x y : Nat × Nat) : Option (Nat × Nat) :=
  let lo := max x.1 y.1
  let hi := min (x.1 + x.2) (y.1 + y.2)
  if lo < hi then some (lo, hi - lo) else none

/-- The bytes that two lists of runs share. -/
def meetRuns (xs ys : List (Nat × Nat)) : List (Nat × Nat) := xs.flatMap fun x => ys.filterMap (meetRun x)

/-- What operations in flight together with operation `n` read and write, completed ones among them, and a delivery job that
runs beside it; for a delivery job (none), what the operations in flight do. -/
def rivals (s : State) (p : Part) (n : Option Nat) : List Foot :=
  let y := (s.part p).bench
  match n with
  | none => y.flight.map Flight.foot
  | some n => match y.flight.find? fun f => f.ident = n with
    | none => []
    | some f =>
      let job : List Foot := match (s.part p).pln.queue.head? with
        | some j => if holdsArray s p then [j.foot] else []
        | none => []
      ((y.flight ++ y.past).filter f.beside).map Flight.foot ++ job

/-- Free bytes over a run of device memory. -/
def blurRun (p : Part) (s : State) (r : Nat × Nat) : State :=
  writeMem p r.1 ((List.range r.2).map (Config.freeByte s.freeCtr)) s.tick

/-- The memory that an operation's read of some runs finds: free bytes where another that is in flight together with it
writes them (R207). -/
def blurFor (p : Part) (n : Option Nat) (reads : List (Nat × Nat)) (s : State) : State :=
  (meetRuns reads ((rivals s p n).flatMap Foot.writes)).foldl (blurRun p) s

/-- What an operation's write of some runs leaves: free bytes where another that is in flight together with it reads or
writes them, and free output of one that reads them (R207). -/
def smearFor (p : Part) (n : Option Nat) (writes : List (Nat × Nat)) (s : State) : State :=
  let fs := rivals s p n
  let readers := fs.filter fun f => !(meetRuns writes f.reads).isEmpty
  (meetRuns writes (fs.flatMap fun f => f.reads ++ f.writes) ++ readers.flatMap Foot.writes).foldl (blurRun p) s

/-- A read of device memory by an operation in flight. -/
def readBeside (p : Part) (n : Option Nat) (m a k : Nat) (s : State) : List Byte × State :=
  let v := blurFor p n [(a, k)] s
  (readMem v p m a k, { s with freeCtr := v.freeCtr })

/-- A write of device memory by an operation in flight. -/
def writeBeside (p : Part) (n : Option Nat) (a : Nat) (bytes : List Byte) (s : State) : State :=
  smearFor p n [(a, bytes.length)] (writeMem p a bytes s)

/-- What an operation in flight reads and writes. -/
def ownFoot (s : State) (p : Part) (n : Nat) : Foot :=
  match (s.part p).bench.flight.find? fun f => f.ident = n with
  | some f => f.foot
  | none => {}

/-- The memory that an operation finds over all it reads. -/
def blurOp (p : Part) (n : Nat) (s : State) : State := blurFor p (some n) (ownFoot s p n).reads s

/-- What is left of an operation's writes, all of them, once it has made some of them. -/
def smearOp (p : Part) (n : Nat) (s : State) : State := smearFor p (some n) (ownFoot s p n).writes s

/-- An operation in flight has read or written further runs: those of a VRUN are known as its instances go. -/
def addFoot (p : Part) (n : Nat) (f : Foot) (s : State) : State :=
  s.updBench p fun y => { y with flight := y.flight.map fun g => if g.ident = n then
    { g with foot := { reads := (g.foot.reads ++ f.reads).dedup, writes := (g.foot.writes ++ f.writes).dedup } } else g }

/-- The stake window's address of a place in the model's memory of stake SRAM (R219). -/
def stakeAddr (key : Nat) : Nat := winLo + (key - 2 ^ 60)

end Sys2Proof.Machine
end

