-- ==== Sys2Proof/Machine/Bench.lean ====
section
/-!
DEFINITION. Bench operations that complete at issue, stitch and cadence operations (R202, R208, R233 to R236, R444 to
R448, R457), the latch table (R213, R230), and the stream and program commands (R644).
-/
namespace Sys2Proof.Machine

/-! ## Operations that complete at issue (R202, R208) -/

/-- NOP. -/
def execNop (b : BenchHdr) (s : State) : Host.Outcome State Fault Refusal :=
  next (benchOp b (fun _ => true) (fun s => .ok (issueHead b (afterHead b s) s)) s)

/-- END: the stream goes HALTED once nothing of it is in flight (R195, R198). -/
def execEndOp (b : BenchHdr) (s : State) : Host.Outcome State Fault Refusal :=
  next (benchOp b (fun s => inFlight s b.p b.st = 0)
    (fun s => .ok ((issueHead b (afterHead b s) s).updStream b.p b.st fun x => { x with state := .halted })) s)

/-- FENCE. -/
def execFence (b : BenchHdr) (s : State) : Host.Outcome State Fault Refusal :=
  next (benchOp b (fun s => inFlight s b.p b.st = 0) (fun s => .ok (issueHead b (afterHead b s) s)) s)

/-- The loop counter after a JUMP, and whether it is taken (R208). -/
def jumpStep (lc count : BitVec 14) : BitVec 14 × Bool :=
  if count = 0 then (lc, true)
  else
    let n := (if lc = 0 then count else lc) - 1
    (n, n ≠ 0)

/-- JUMP (R208): its target must be aligned and mapped (R253); what else the target's bytes may meet, the fetch of the next
head meets. -/
def runJump (b : BenchHdr) (count : BitVec 14) (target : Addr) (s : State) : Except Halt State :=
  if target.toNat % 16 ≠ 0 || (benchAccess s b.p .r target.toNat 16).2 = .outside then .error { code := ftProgramAddr }
  else
    let (lc, taken) := jumpStep (s.stream b.p b.st).lc count
    let s := issueHead b (if taken then target.setWidth 64 else afterHead b s) s
    .ok (s.updStream b.p b.st fun x => { x with lc })

/-- JUMP. -/
def execJump (b : BenchHdr) (count : BitVec 14) (target : Addr) (s : State) : Host.Outcome State Fault Refusal :=
  next (benchOp b (fun _ => true) (runJump b count target) s)

/-! ## Cadence operations (R53, R235, R236) -/

/-- CAD_MARK: sets the draw position; a LEADER or STANDALONE partition applies the position too. -/
def runCadMark (b : BenchHdr) (pos : B64) (s : State) : Except Halt State :=
  if malformed pos then .error { code := ftWordRsvd }
  else
    let s := (issueHead b (afterHead b s) s).updStream b.p b.st fun x => { x with drawPos := pos }
    .ok (if (s.part b.p).cad.role = .follower then s else (advance b.p pos s).2)

/-- CAD_MARK. -/
def execCadMark (b : BenchHdr) (pos : B64) (s : State) : Host.Outcome State Fault Refusal :=
  next (benchOp b (fun _ => true) (runCadMark b pos) s)

/-- POS_DRAW. -/
def runPosDraw (b : BenchHdr) (pos : B64) (s : State) : Except Halt State :=
  if malformed pos then .error { code := ftWordRsvd }
  else .ok ((issueHead b (afterHead b s) s).updStream b.p b.st fun x => { x with drawPos := pos })

/-- POS_DRAW. -/
def execPosDraw (b : BenchHdr) (pos : B64) (s : State) : Host.Outcome State Fault Refusal :=
  next (benchOp b (fun _ => true) (runPosDraw b pos) s)

/-! ## Stitch operations (R233, R234, R444 to R448, R457) -/

/-- An operation of the bench that completes in the step that issues it, with a program fault or without one. -/
def issueDone (b : BenchHdr) (fault : Option (Nat × Nat)) (s : State) : State :=
  let addr := (s.stream b.p b.st).head
  let s := issueHead b (afterHead b s) s
  match fault with
  | none => s
  | some (code, idx) => programFault { p := b.p, st := b.st, code, addr, idx } s

/-- Whether a position can be reached from the partition through the port map (R233, R253). -/
def positionOk (s : State) (p : Part) (d : Nat) : Bool :=
  decide (d < 40) && s.folioPart = some p && s.vesin.mask d ≠ 0 && d ≠ s.vesin.myPos.toNat

/-- ST_SIGNAL, here or at a folio position. -/
def runStSignal (b : BenchHdr) (pos : Nat) (idx : B16) (arg : Nat) (s : State) : Except Halt State :=
  if arg ≥ 2 ^ 32 then .error { code := ftWordRsvd }
  else if pos = 63 then
    match reachStitch s b.p (benchMaster b.p) .signal idx.toNat with
    | .ok g => .ok (signalStitch g arg (issueDone b none s))
    | .error t =>
      .ok (issueDone b (some (ftAccess, idx.toNat)) (denyStitch b.p (benchMaster b.p) .signal idx.toNat t s))
  else if !positionOk s b.p pos then .error { code := ftPosition }
  else if isRemoved s pos then .ok (sendMsg pos (.signal idx (BitVec.ofNat 32 arg)) .none (issueDone b none s))
  else match portDenies s pos (.signal idx (BitVec.ofNat 32 arg)) (benchMaster b.p) with
  | some v => .ok (issueDone b (some (ftAccess, idx.toNat))
      (noteSendDenied b.p v (benchMaster b.p) (.signal idx (BitVec.ofNat 32 arg)) s))
  | none =>
    let addr := (s.stream b.p b.st).head
    let (n, s) := takeFlight b addr .signal 0 {} (issueHead b (afterHead b s) s)
    let seq := nextSeq s pos
    let s := s.updBench b.p fun y => { y with signals := y.signals ++ [⟨n, BitVec.ofNat 6 pos, seq⟩] }
    .ok (sendMsg pos (.signal idx (BitVec.ofNat 32 arg)) (.signal b.p n) s)

/-- ST_SIGNAL. -/
def execStSignal (b : BenchHdr) (pos : BitVec 6) (stitch : B16) (epoch : Byte) (arg : Addr) (s : State) :
    Host.Outcome State Fault Refusal :=
  let _ := epoch
  next (benchOp b (fun _ => true) (runStSignal b pos.toNat stitch arg.toNat) s)

/-- A wait or lock at the head registers with its bank, if it has not and its stream is in RUN with its IN tags clear
(R445). -/
def registerWait (b : BenchHdr) (lock : Bool) (idx : B16) (threshold : B32) (s : State) : State :=
  let x := s.stream b.p b.st
  if x.state ≠ .run || !tagsClear b s || x.registered then s
  else
    let op : StOp := if lock then .lock else .wait
    match reachStitch s b.p (benchMaster b.p) op idx.toNat with
    | .error t =>
      haltHead b { code := ftAccess, idx := idx.toNat } (denyStitch b.p (benchMaster b.p) op idx.toNat t s)
    | .ok g => match registerHead g { p := b.p, st := b.st, lock, threshold, idx } s with
      | .ok t => t
      | .error .broken =>
        haltHead b { code := ftStitchBroken, idx := idx.toNat }
          (s.updStc b.p fun r => { r with waitBroken := satAdd r.waitBroken 1 })
      | .error _ => haltHead b { code := ftAccess, idx := idx.toNat } s

/-- A wait or lock: it registers if it has not, and issues once its request is answered (R198, R234, R446). Its fields are
checked when it would otherwise be ready (R203); one that names a position has no stitch here to wait for. -/
def waitOp (b : BenchHdr) (lock : Bool) (pos : Nat) (idx : B16) (threshold : B32) (bad : Bool) (s : State) : State :=
  let s := if pos = 63 then registerWait b lock idx threshold s else s
  benchOp b (fun s => pos ≠ 63 || (s.stream b.p b.st).granted) (fun s =>
    if bad then .error { code := ftWordRsvd }
    else if pos ≠ 63 then .error { code := ftPosition }
    else .ok (issueDone b none s)) s

/-- ST_WAIT. -/
def execStWait (b : BenchHdr) (pos : BitVec 6) (stitch : B16) (epoch : Byte) (arg : Addr) (s : State) :
    Host.Outcome State Fault Refusal :=
  let _ := epoch
  next (waitOp b false pos.toNat stitch (arg.setWidth 32) (decide (arg.toNat ≥ 2 ^ 32)) s)

/-- ST_LOCK. -/
def execStLock (b : BenchHdr) (pos : BitVec 6) (stitch : B16) (epoch : Byte) (arg : Addr) (s : State) :
    Host.Outcome State Fault Refusal :=
  let _ := epoch
  next (waitOp b true pos.toNat stitch 0 (arg ≠ 0) s)

/-- STITCH_WAIT_REGISTER. -/
def execStitchWaitRegister (b : BenchHdr) (lock : Bool) (stitch : B16) (threshold : B32) (s : State) :
    Host.Outcome State Fault Refusal :=
  next (registerWait b lock stitch threshold s)

/-- The fault of a POS other than 63 in ST_UNLOCK and ST_READ: POSITION for 40 to 62 (R253); a folio position is an encoding
that their table does not list (R203, R233). -/
def badPos (pos : Nat) : Nat := if pos < 40 then ftWordRsvd else ftPosition

/-- ST_UNLOCK (R448). -/
def runStUnlock (b : BenchHdr) (pos : Nat) (idx : B16) (epoch : Byte) (arg : Addr) (s : State) : Except Halt State :=
  if arg ≠ 0 then .error { code := ftWordRsvd }
  else if pos ≠ 63 then .error { code := badPos pos }
  else match reachStitch s b.p (benchMaster b.p) .unlock idx.toNat with
    | .error t =>
      .ok (issueDone b (some (ftAccess, idx.toNat)) (denyStitch b.p (benchMaster b.p) .unlock idx.toNat t s))
    | .ok g => match unlockStitch g (benchMaster b.p) b.st epoch s with
      | .ok t => .ok (issueDone b none t)
      | .error .broken => .ok (issueDone b (some (ftStitchBroken, idx.toNat)) s)
      | .error _ => .ok (issueDone b (some (ftAccess, idx.toNat)) s)

/-- ST_UNLOCK. -/
def execStUnlock (b : BenchHdr) (pos : BitVec 6) (stitch : B16) (epoch : Byte) (arg : Addr) (s : State) :
    Host.Outcome State Fault Refusal :=
  next (benchOp b (fun _ => true) (runStUnlock b pos.toNat stitch epoch arg) s)

/-- ST_READ: the stitch word goes to memory (R233, R444). -/
def runStRead (b : BenchHdr) (pos : Nat) (idx : B16) (dest : Nat) (s : State) : Except Halt State :=
  if pos ≠ 63 then .error { code := badPos pos }
  else if dest % 8 ≠ 0 then .error { code := ftProgramAddr }
  else match benchAccess s b.p .w dest 8 with
    | (some c, acc) =>
      if c = ftStakeRange then .error { code := c }
      else .ok (issueDone b (some (c, idx.toNat)) (noteDenied b.p (benchMaster b.p) .w acc s))
    | (none, _) => match reachStitch s b.p (benchMaster b.p) .read idx.toNat with
      | .error t =>
        .ok (issueDone b (some (ftAccess, idx.toNat)) (denyStitch b.p (benchMaster b.p) .read idx.toNat t s))
      | .ok g => .ok (issueDone b none (writeNat b.p dest 8 (s.stitch g).word.toNat s))

/-- ST_READ. -/
def execStRead (b : BenchHdr) (pos : BitVec 6) (stitch : B16) (epoch : Byte) (arg : Addr) (s : State) :
    Host.Outcome State Fault Refusal :=
  let _ := epoch
  next (settle b.p s (benchOp b (fun _ => true) (runStRead b pos.toNat stitch arg.toNat) s))

/-! ## The latch table (R212, R213, R230) -/

/-- The latch-table entry of an OP_TAG. -/
def latchOf (s : State) (p : Part) (opTag : B32) : Option Latch := (s.part p).bench.latches.find? fun l => l.opTag = opTag

/-- Frees latch-table entries, and the punch-set references tied to them (R213, R428). -/
def freeLatches (p : Part) (which : Latch → Bool) (s : State) : State :=
  let gone := (s.part p).bench.latches.filter which
  let s := gone.foldl (fun s l => l.slots.foldl (fun s i => dropRefs i 1 s) s) s
  s.updBench p fun y => { y with latches := y.latches.filter fun l => !which l }

/-! ## Stream and program commands (R644) -/

/-- Whether any stream of a partition is in RUN. -/
def anyRunning (s : State) (p : Part) : Bool := four.any fun st => (s.stream p st).state = .run

/-- STREAM_START (R195, R204, R452). -/
def actStreamStart (p : Part) (n : Nat) (addr : B64) (s : State) : CmdOut × State :=
  if n > 3 || addr.toNat ≥ 2 ^ 56 then (.done stBadParam, s)
  else
    let st : Strm := Fin.ofNat 4 n
    let x := s.stream p st
    if x.state = .run || x.state = .stopped then (.done stBusy, s)
    else
      let s := if x.state = .halted then breakStitches (heldStitches s (benchMaster p) (some st)) s else s
      (cmdOk, s.updStream p st fun x => { x with
        state := .run, head := addr, fault := 0, lc := 0, tags := [], unissued := false })

/-- STREAM_START. -/
def execStreamStart (h : CmdHdr) (stream : Byte) (addr : B64) (s : State) : Host.Outcome State Fault Refusal :=
  next (hostCmd { opcode := 0x0300 } (.streamStart h stream addr) h [] false (actStreamStart h.fn stream.toNat addr) s)

/-- The OP_TAG of the ARRAY at an address, if one stands there whose descriptor can be read. -/
def arrayTagAt (s : State) (p : Part) (head : Nat) : Option B32 :=
  match fetchRec s p head 16 16 with
  | .error _ => none
  | .ok w =>
    if field (leNat w) 127 120 ≠ 0x10 then none
    else match fetchRec s p (field (leNat w) 55 0) 128 128 with
      | .error _ => none
      | .ok d => some (BitVec.ofNat 32 (leNat (d.drop 124)))

/-- STREAM_RESUME (R213, R644). -/
def actStreamResume (p : Part) (n skip : Nat) (s : State) : CmdOut × State :=
  if n > 3 || skip > 1 then (.done stBadParam, s)
  else
    let st : Strm := Fin.ofNat 4 n
    let x := s.stream p st
    if x.state ≠ .stopped then (.done stBusy, s)
    else
      let s := if skip = 1 && x.unissued then
          let s := match arrayTagAt s p x.head.toNat with
            | some t => freeLatches p (fun l => l.opTag = t) s
            | none => s
          s.updStream p st fun x => { x with head := x.head + 16 }
        else s
      (cmdOk, s.updStream p st fun x => { x with state := .run, fault := 0, unissued := false })

/-- STREAM_RESUME. -/
def execStreamResume (h : CmdHdr) (stream skip : Byte) (s : State) : Host.Outcome State Fault Refusal :=
  next (hostCmd { opcode := 0x0301 } (.streamResume h stream skip) h [] false
    (actStreamResume h.fn stream.toNat skip.toNat) s)

/-- STREAM_RESET (R213, R644). -/
def actStreamReset (p : Part) (n : Nat) (s : State) : CmdOut × State :=
  if n > 3 then (.done stBadParam, s)
  else
    let st : Strm := Fin.ofNat 4 n
    let x := s.stream p st
    if x.state = .run || inFlight s p st ≠ 0 || !(heldStitches s (benchMaster p) (some st)).isEmpty then (.done stBusy, s)
    else
      let s := freeLatches p (fun l => l.st = st && !l.issued) (unregister p st s)
      (cmdOk, s.updStream p st fun x => { drawPos := x.drawPos, issued := x.issued })

/-- STREAM_RESET. -/
def execStreamReset (h : CmdHdr) (stream : Byte) (s : State) : Host.Outcome State Fault Refusal :=
  next (hostCmd { opcode := 0x0302 } (.streamReset h stream) h [] false (actStreamReset h.fn stream.toNat) s)

/-- The status with which a command's read of device memory by the host port ends it, if it does (R347, R641). -/
def hostRead (p : Part) (a n : Nat) (s : State) : Option B16 × State :=
  match dmaCheck p .r a n s with
  | (some e, s) => (some e.1, s)
  | (none, s) => (none, s)

/-- PROG_LOAD (R240). -/
def actProgLoad (p : Part) (first count : Nat) (addr : B64) (s : State) : CmdOut × State :=
  if first + count > 2048 then (.done stBadParam, s)
  else if anyRunning s p then (.done stBusy, s)
  else match hostRead p addr.toNat (8 * count) s with
    | (some e, s) => (.done e, s)
    | (none, s) =>
      let word (i : Nat) : B64 := BitVec.ofNat 64 (readNat s p p.val (addr.toNat + 8 * i) 8)
      let ws := (List.range count).map fun i => (first + i, word i)
      (cmdOk, (touchRead p addr.toNat (8 * count) s).updBench p fun y => { y with
        prog := ws.foldl (fun m e => Map.setD 0 m e.1 e.2) y.prog })

/-- PROG_LOAD. -/
def execProgLoad (h : CmdHdr) (first count : B16) (addr : B64) (s : State) : Host.Outcome State Fault Refusal :=
  next (hostCmd { opcode := 0x0303 } (.progLoad h first count addr) h [] false
    (actProgLoad h.fn first.toNat count.toNat addr) s)

/-- SEED_SET (R173). -/
def actSeedSet (p : Part) (first count : Nat) (seeds : List B64) (s : State) : CmdOut × State :=
  if first + count > 64 then (.done stBadParam, s)
  else if anyRunning s p then (.done stBusy, s)
  else
    let ws := (takePad count 0 seeds).zipIdx first
    (cmdOk, s.updBench p fun y => { y with seeds := ws.foldl (fun m e => Map.setD 0 m e.2 e.1) y.seeds })

/-- SEED_SET. -/
def execSeedSet (h : CmdHdr) (first count : Byte) (seeds : List B64) (s : State) : Host.Outcome State Fault Refusal :=
  next (hostCmd { opcode := 0x0304 } (.seedSet h first count seeds) h [] false
    (actSeedSet h.fn first.toNat count.toNat seeds) s)

/-- Bytes of a context area (R138). -/
def contextBytes : Nat := 0x200_0000

/-- CTX_BASE (R138, R621). -/
def actCtxBase (p : Part) (addr : B64) (s : State) : CmdOut × State :=
  let a := addr.toNat
  let inside : Bool := match findObj (s.part p).tier a with
    | some (_, o) => decide (a + contextBytes ≤ o.base + o.sheets * sheetBytes)
    | none => false
  if a % sheetBytes ≠ 0 || !inside then (.done stBadParam, s)
  else if (s.part p).bench.context.isSome then (.done stBusy, s)
  else (cmdOk, s.updBench p fun y => { y with ctxBase := addr, ctxSet := true })

/-- CTX_BASE. -/
def execCtxBase (h : CmdHdr) (addr : B64) (s : State) : Host.Outcome State Fault Refusal :=
  next (hostCmd { opcode := 0x0305 } (.ctxBase h addr) h [] false (actCtxBase h.fn addr) s)

end Sys2Proof.Machine
end

