-- ==== Sys2Proof/Machine/ArrayPlan.lean ====
section
/-!
DEFINITION. The array operation descriptor (R215), the split of an operation into tiles (R91, R92, R106), its operands'
layout in the stake and in device memory (R153, R221 to R225, R788), and the checks of R218 at issue.
-/
namespace Sys2Proof.Machine

/-! ## The descriptor (R214, R215) -/

/-- The descriptor that 1,024 bits spell; none where a reserved bit is set or a field holds an unlisted encoding. -/
def ArrayDesc.ofNat (v : Nat) : Option ArrayDesc :=
  let f (hi lo : Nat) : Nat := field v hi lo
  let fmt (hi lo : Nat) : Option Fmt := Fmt.ofCode (BitVec.ofNat 5 (f hi lo))
  if f 748 704 ≠ 0 || f 311 0 ≠ 0 || f 874 873 = 3 then none
  else match fmt 895 891, fmt 890 886, fmt 885 881, Rnd.ofCode (BitVec.ofNat 2 (f 880 879)) with
    | some fmtA, some fmtB, some fmtC, some rnd =>
      some {
        opTag := BitVec.ofNat 32 (f 1023 992), predTag := BitVec.ofNat 32 (f 991 960)
        m := f 959 940 + 1, n := f 939 920 + 1, k := f 919 896 + 1
        fmtA, fmtB, fmtC, rnd
        foldA := v.testBit 878, foldB := v.testBit 877, cont := v.testBit 876, hold := v.testBit 875
        bank := BitVec.ofNat 2 (f 874 873), stats := v.testBit 872, seed := BitVec.ofNat 6 (f 871 866)
        cmpA := v.testBit 865, cmpB := v.testBit 864
        aOff := f 863 841, bOff := f 840 818, asOff := f 817 795, bsOff := f 794 772, cOff := f 771 749
        aSrc := f 703 648, bSrc := f 647 592, asSrc := f 591 536, bsSrc := f 535 480
        report := f 479 424, stat := f 423 368, buf := f 367 312 }
    | _, _, _, _ => none

/-! ## Tiles (R91, R92, R106, R126) -/

/-- Tile columns. -/
def ArrayDesc.tc (d : ArrayDesc) : Nat := (d.n + 511) / 512
/-- Tile rows. -/
def ArrayDesc.tr (d : ArrayDesc) : Nat := (d.m + 511) / 512
/-- Tiles. -/
def ArrayDesc.tiles (d : ArrayDesc) : Nat := d.tr * d.tc
/-- Whether the operation continues or holds a bank. -/
def ArrayDesc.chain (d : ArrayDesc) : Bool := d.cont || d.hold

/-- The padded reduction depth K′ (R126). -/
def ArrayDesc.kPad (d : ArrayDesc) : Nat :=
  let up (u : Nat) : Nat := (d.k + u - 1) / u * u
  if d.fmtA.scaled || d.fmtB.scaled then up 32
  else if [d.fmtA, d.fmtB].any fun f => f = .int4 || f = .uint4 then up 2
  else d.k

/-- Blocks of 64 steps, J. -/
def ArrayDesc.blocks (d : ArrayDesc) : Nat := (d.kPad + 63) / 64

/-- Quarters whose share is non-zero, ascending. -/
def sharers (sh : Quad Nat) : List Qtr := four.filter fun q => sh.get q ≠ 0

/-- The tiles of a quarter: first, and end exclusive (R92, R106). -/
def ArrayDesc.range (d : ArrayDesc) (sh : Quad Nat) (q : Qtr) : Nat × Nat :=
  if d.chain then
    match (sharers sh).findIdx? (fun x => x = q) with
    | some i => if i < d.tiles then (i, i + 1) else (0, 0)
    | none => (0, 0)
  else
    let total := sh.a0 + sh.a1 + sh.a2 + sh.a3
    let before := (sh.toList.take q.val).foldl (· + ·) 0
    if total = 0 then (0, 0) else (d.tiles * before / total, d.tiles * (before + sh.get q) / total)

/-- The tile rows a quarter's panels hold: the first, and how many (R223). -/
def ArrayDesc.rows (d : ArrayDesc) (sh : Quad Nat) (q : Qtr) : Nat × Nat :=
  let (a, b) := d.range sh q
  if a < b then (a / d.tc, (b - 1) / d.tc + 1 - a / d.tc) else (0, 0)

/-- The tile columns a quarter owns, ascending. -/
def ArrayDesc.cols (d : ArrayDesc) (sh : Quad Nat) (q : Qtr) : List Nat :=
  let (a, b) := d.range sh q
  (List.range d.tc).filter fun c => (List.range (b - a)).any fun i => (a + i) % d.tc = c

/-! ## Layout (R153, R221 to R225) -/

/-- Whether operand A (`true`) or B is meant. -/
abbrev Side := Bool

def ArrayDesc.fmtOf (d : ArrayDesc) (a : Side) : Fmt := if a then d.fmtA else d.fmtB
def ArrayDesc.fold (d : ArrayDesc) (a : Side) : Bool := if a then d.foldA else d.foldB
def ArrayDesc.cmp (d : ArrayDesc) (a : Side) : Bool := if a then d.cmpA else d.cmpB
def ArrayDesc.off (d : ArrayDesc) (a : Side) : Nat := if a then d.aOff else d.bOff
def ArrayDesc.sOff (d : ArrayDesc) (a : Side) : Nat := if a then d.asOff else d.bsOff
def ArrayDesc.src (d : ArrayDesc) (a : Side) : Nat := if a then d.aSrc else d.bSrc
def ArrayDesc.sSrc (d : ArrayDesc) (a : Side) : Nat := if a then d.asSrc else d.bsSrc

/-- The block reservation BB. -/
def Fmt.blockBytes (f : Fmt) : Nat := 512 * f.bits

/-- Bytes of a scale block, or of a header for a compressed operand (R221, R420). -/
def ArrayDesc.scaleBytes (d : ArrayDesc) (a : Side) : Nat := if d.cmp a then 8 else 128

/-- Whether the operand has scales or headers. -/
def ArrayDesc.hasScale (d : ArrayDesc) (a : Side) : Bool := (d.fmtOf a).scaled || d.cmp a

/-- Bytes of one panel in one slice. -/
def ArrayDesc.panelBytes (d : ArrayDesc) (a : Side) : Nat := (d.blocks + 7) / 8 * (d.fmtOf a).blockBytes
/-- Bytes of one panel's scales or headers in one slice. -/
def ArrayDesc.scalePanel (d : ArrayDesc) (a : Side) : Nat := (d.blocks + 7) / 8 * d.scaleBytes a

/-- The slice that holds block `j` for plate row or column `x`. -/
def blockSlice (a : Side) (x j : Nat) : Nat := if a then x * 8 + j % 8 else j % 8 * 8 + x

/-- Slice offset of block `j` of panel `p`. -/
def ArrayDesc.blockOff (d : ArrayDesc) (a : Side) (p j : Nat) : Nat :=
  d.off a + p * d.panelBytes a + j / 8 * (d.fmtOf a).blockBytes
/-- Slice offset of that block's scales or header. -/
def ArrayDesc.scaleOff (d : ArrayDesc) (a : Side) (p j : Nat) : Nat :=
  d.sOff a + p * d.scalePanel a + j / 8 * d.scaleBytes a

/-- The place in the model's memory of a slice offset. -/
def sliceKey (q : Qtr) (slice off : Nat) : Nat := 2 ^ 60 + q.val * 2 ^ 30 + slice * 2 ^ 23 + off

/-- Valid lines of the operand: rows of A, columns of B. -/
def ArrayDesc.extent (d : ArrayDesc) (a : Side) : Nat := if a then d.m else d.n

/-- Whether block `j` of plate row or column `x` of tile row or column `t` holds any valid element (R224). -/
def ArrayDesc.blockValid (d : ArrayDesc) (a : Side) (t x j : Nat) : Bool :=
  decide (t * 512 + x * 64 < d.extent a) && decide (j * 64 < d.k)

/-- The block's index in the operand's source array (R788). -/
def ArrayDesc.blockIndex (d : ArrayDesc) (t x j : Nat) : Nat := (t * 8 + x) * d.blocks + j

/-- Bytes of an output block: elements, then scales (R225). -/
def Fmt.outBytes (f : Fmt) : Nat := 512 * f.bits + (if f.scaled then 128 else 0)

/-! ## Checks at issue (R105, R106, R124, R148, R217, R218, R226, R229, R237, R253) -/

/-- Whether slice offsets [off, off + n) are addressable to a partition (R220, R226). -/
def sliceOk (s : State) (p : Part) (off n : Nat) : Bool :=
  n = 0 || (decide (off + n ≤ 0x80_0000) && (sheetsFrom off n).all fun k => offsetOk s p (k * sheetBytes))

/-- Whether every panel and output block a quarter holds is addressable. -/
def layoutOk (s : State) (p : Part) (d : ArrayDesc) (sh : Quad Nat) : Bool :=
  four.all fun q =>
    let (a, b) := d.range sh q
    let side (x : Side) : Bool :=
      let ps := if x then List.range (d.rows sh q).2 else d.cols sh q
      ps.all fun i => sliceOk s p (d.off x + i * d.panelBytes x) (d.panelBytes x) &&
        (!d.hasScale x || sliceOk s p (d.sOff x + i * d.scalePanel x) (d.scalePanel x))
    decide (b ≤ a) || (side true && side false &&
      (d.hold || d.fmtC = .fx64 || sliceOk s p d.cOff ((b - a) * d.fmtC.outBytes)))

/-- The reduction buffer whose header lies at an address. -/
def bufAt (s : State) (p : Part) (a : Nat) : Option (Nat × Obj) :=
  List.find? (fun e => e.2.base = a && match e.2.kind with
    | .redBuf .. => true
    | _ => false) (s.part p).tier.objects

/-- The refusal of a descriptor at issue under shares `sh`, if any. -/
def descFault (s : State) (p : Part) (d : ArrayDesc) (sh : Quad Nat) : Option Nat :=
  let ca := d.fmtA.inputClass
  if ca.isNone || ca ≠ d.fmtB.inputClass || !d.fmtC.isOutput then some ftFormatPair
  else if (d.cmpA && !(d.fmtA = .bf16 || d.fmtA = .fp16)) || (d.cmpB && !(d.fmtB = .bf16 || d.fmtB = .fp16)) then
    some ftFormatPair
  else if (d.foldA && d.fmtA.scaled) || (d.foldB && d.fmtB.scaled) then some ftFoldFormat
  else if d.chain && d.bank = 0 then some ftBankMode
  else if d.report % 64 ≠ 0 || d.stat % 8 ≠ 0 then some ftProgramAddr
  else if !layoutOk s p d sh then some ftStakeRange
  else if d.fmtC = .fx64 && (bufAt s p d.buf).isNone then some ftAccess
  else none

/-- The descriptor at an address, as an ARRAY or COPY_ROUTED fetches it (R214, R253). -/
def fetchDesc (s : State) (p : Part) (a : Nat) : Except Halt ArrayDesc :=
  match fetchRec s p a 128 128 with
  | .error e => .error e
  | .ok bytes => match ArrayDesc.ofNat (leNat bytes) with
    | none => .error { code := ftWordRsvd, opTag := BitVec.ofNat 32 (leNat (bytes.drop 124)) }
    | some d => .ok d

/-- The shares an operation latches now, or has latched (R93, R230). -/
def sharesFor (s : State) (p : Part) (opTag : B32) : Quad Nat :=
  match latchOf s p opTag with
  | some l => l.shares
  | none => s.array.shares

/-- A head that waits only for plate slots counts the cycles it waits (R256); how many is not modelled. -/
def noteSlotWait (b : BenchHdr) (free : State → Bool) (s : State) : State :=
  if headReady b s && holdsArray s b.p && !free s then
    s.tick.updBench b.p fun y => { y with slotWait := satAdd y.slotWait (Config.waitCycles s.freeCtr) }
  else s

end Sys2Proof.Machine
end

