-- ==== Sys2Proof/Machine/Copies.lean ====
section
/-!
DEFINITION. Ladle copies (R227 to R232, R274, R421, R422, R511, R512, R788): at issue, when a ladle takes them up, and when
they complete.
-/
namespace Sys2Proof.Machine

/-! ## Issue (R203, R212, R227 to R232) -/

/-- Whether the sheets a copy names in the stake window are addressable (R220, R232). -/
def copyRange (s : State) (p : Part) (sheet count : Nat) : Bool :=
  (List.range count).all fun i =>
    let a := (sheet + i) * sheetBytes
    decide (a < winLo) || stakeOk s p a sheetBytes

/-- Puts an issued copy into the ladle queue. -/
def queueCopy (b : BenchHdr) (kind : CopyKind) (opTag : B32) (foot : Foot) (s : State) : State :=
  let addr := (s.stream b.p b.st).head
  let (n, s) := takeFlight b addr .copy opTag foot (issueHead b (afterHead b s) s)
  s.updBench b.p fun y => { y with copies := y.copies ++ [{ ident := n, kind }] }

/-- Whether the ladle queue has room. -/
def ladleFree (s : State) (p : Part) : Bool := decide ((s.part p).bench.copies.length < 64)

/-- COPY and COPY_ADD at issue. -/
def runCopy (b : BenchHdr) (add : Bool) (src dst pos count : Nat) (s : State) : Except Halt State :=
  if 40 ≤ pos && pos ≤ 62 then .error { code := ftPosition }
  else if pos ≠ 63 && !positionOk s b.p pos then .error { code := ftPosition }
  else if !copyRange s b.p src count || (pos = 63 && !copyRange s b.p dst count) then .error { code := ftStakeRange }
  else
    let run (a : Nat) : List (Nat × Nat) := [(a * sheetBytes, count * sheetBytes)]
    let foot : Foot := { reads := run src, writes := if add || pos ≠ 63 then [] else run dst }
    .ok (queueCopy b (if add then .add src dst count pos else .plain src dst count pos) 0 foot s)

/-- COPY. -/
def execCopy (b : BenchHdr) (src dst : BitVec 40) (pos : BitVec 6) (countM1 : Byte) (s : State) :
    Host.Outcome State Fault Refusal :=
  next (benchOp b (fun s => ladleFree s b.p) (runCopy b false src.toNat dst.toNat pos.toNat (countM1.toNat + 1)) s)

/-- COPY_ADD. -/
def execCopyAdd (b : BenchHdr) (src dst : BitVec 40) (pos : BitVec 6) (countM1 : Byte) (s : State) :
    Host.Outcome State Fault Refusal :=
  next (benchOp b (fun s => ladleFree s b.p) (runCopy b true src.toNat dst.toNat pos.toNat (countM1.toNat + 1)) s)

/-- One block that a routed copy moves: operand, whether its scales or header, panel, plate row or column, block, source
address and destination. -/
structure Route where
  side  : Side
  scale : Bool
  panel : Nat
  block : Nat
  /-- index of the block in the operand's source array -/
  index : Nat
  src   : Nat
  dst   : Nat
  q     : Qtr
  off   : Nat
  deriving DecidableEq, Repr

/-- The blocks that ROLE delivers under shares `sh` (R222 to R224, R229, R788). -/
def routes (d : ArrayDesc) (role : Nat) (sh : Quad Nat) : List Route :=
  let side : Side := role % 2 = 0
  let scale := decide (role ≥ 2)
  four.flatMap fun q =>
    let panels : List (Nat × Nat) :=
      if side then (List.range (d.rows sh q).2).map fun p => (p, (d.rows sh q).1 + p)
      else (d.cols sh q).map fun c => (c, c)
    panels.flatMap fun (p, t) => (List.range 8).flatMap fun x =>
      ((List.range d.blocks).filter fun j => d.blockValid side t x j).map fun j =>
        let idx := d.blockIndex t x j
        let off := if scale then d.scaleOff side p j else d.blockOff side p j
        { side, scale, panel := p, block := j, index := idx, q, off
          src := if scale then d.sSrc side + idx * d.scaleBytes side else d.src side + idx * (d.fmtOf side).blockBytes
          dst := sliceKey q (blockSlice side x j) off }

/-- Bytes a route may write. -/
def Route.bytes (d : ArrayDesc) (e : Route) : Nat :=
  if e.scale then d.scaleBytes e.side else (d.fmtOf e.side).blockBytes

/-- What a routed copy reads and writes. -/
def routedFoot (d : ArrayDesc) (role : Nat) (sh : Quad Nat) : Foot :=
  { reads := (routes d role sh).map fun e => (e.src, e.bytes d)
    writes := (routes d role sh).map fun e => (stakeAddr e.dst, e.bytes d) }

/-- COPY_ROUTED at issue. -/
def runCopyRouted (b : BenchHdr) (role : Nat) (desc : Addr) (s : State) : Except Halt State :=
  match fetchDesc s b.p desc.toNat with
  | .error e => .error e
  | .ok d =>
    let sh := sharesFor s b.p d.opTag
    let stop (code : Nat) : Except Halt State := .error { code, opTag := d.opTag }
    if (role = 2 && !d.hasScale true) || (role = 3 && !d.hasScale false) then stop ftWordRsvd
    else if (d.fmtOf (role % 2 = 0)).inputClass.isNone then stop ftFormatPair
    else if d.chain && decide (d.tiles > (sharers sh).length) then stop ftBankSpan
    else if (routes d role sh).any fun e => !sliceOk s b.p e.off (e.bytes d) then stop ftStakeRange
    else
      let s := if (latchOf s b.p d.opTag).isSome then s
        else s.updBench b.p fun y => { y with latches := y.latches ++ [{ opTag := d.opTag, shares := sh, st := b.st }] }
      .ok (touchRead b.p desc.toNat 128 (queueCopy b (.routed role d sh) d.opTag (routedFoot d role sh) s))

/-- Whether a COPY_ROUTED finds the ladle queue and the latch table with room for it. -/
def routedRoom (s : State) (p : Part) (desc : Addr) : Bool :=
  ladleFree s p && match fetchDesc s p desc.toNat with
    | .ok d => (latchOf s p d.opTag).isSome || decide ((s.part p).bench.latches.length < 64)
    | .error _ => true

/-- COPY_ROUTED. -/
def execCopyRouted (b : BenchHdr) (role : BitVec 2) (desc : Addr) (s : State) : Host.Outcome State Fault Refusal :=
  next (benchOp b (fun s => routedRoom s b.p desc) (runCopyRouted b role.toNat desc) s)

/-! ## Moving the data -/

/-- Keeps the fault that a copy reports: ACCESS if any sheet was denied (R232), else the first. -/
def joinFault (old : Option Byte) (new : Nat) : Option Byte :=
  if new = ftAccess || old.isNone then some (BitVec.ofNat 8 new) else old

/-- What a COPY_ADD of a sheet carries: STEP, mask and TORN (R274). -/
def addTags (s : State) (p : Part) (a : Nat) : Nat × Nat × Bool :=
  match bufOfSheet s p a with
  | none => (0, 0, false)
  | some (_, _, b, n) =>
    if b.state = 2 then (b.step, (bufEntry s p b n).mask, (bufEntry s p b n).torn) else (b.step, 0, false)

/-- Moves one sheet of copy `n` within the module, unless an access is denied. -/
def moveSheet (p : Part) (n : Nat) (add : Bool) (st : Option Byte × State) (e : Nat × Nat) : Option Byte × State :=
  let s := st.2
  let m := benchMaster p
  let g : Right := if add then .a else .w
  match benchAccess s p .r e.1 sheetBytes with
  | (some c, acc) => (joinFault st.1 c, noteDenied p m .r acc s)
  | (none, _) => match benchAccess s p g e.2 sheetBytes with
    | (some c, acc) => (joinFault st.1 c, noteDenied p m g acc s)
    | (none, _) =>
      let (data, s) := readBeside p (some n) m e.1 sheetBytes s
      let s := touchRead p e.1 sheetBytes s
      if add then
        let (step, mask, torn) := addTags s p e.1
        (st.1, addSheet p e.2 step mask torn data s)
      else (st.1, writeBeside p (some n) e.2 data s)

/-- Sends one sheet to a folio position; the number of the message is awaited, unless the position is removed (R573). -/
def sendSheet (p : Part) (ident : Nat) (add : Bool) (d : Nat) (st : Option Byte × List Nat × State) (e : Nat × Nat) :
    Option Byte × List Nat × State :=
  let s := st.2.2
  match benchAccess s p .r e.1 sheetBytes with
  | (some c, acc) => (joinFault st.1 c, st.2.1, noteDenied p (benchMaster p) .r acc s)
  | (none, _) =>
    let (data, s) := readBeside p (some ident) (benchMaster p) e.1 sheetBytes s
    let s := touchRead p e.1 sheetBytes s
    let body : MsgBody := if add then
        let (step, mask, torn) := addTags s p e.1
        .add e.2 (BitVec.ofNat 64 mask) step torn data
      else .send e.2 data
    match portDenies s d body (benchMaster p) with
    | some v => (joinFault st.1 ftAccess, st.2.1, noteSendDenied p v (benchMaster p) body s)
    | none =>
      let waits := if isRemoved s d then st.2.1 else st.2.1 ++ [(nextSeq s d).toNat]
      (st.1, waits, sendMsg d body (.copy p ident) s)

/-- Changes a copy. -/
def updCopy (p : Part) (ident : Nat) (f : CopyOp → CopyOp) (s : State) : State :=
  s.updBench p fun y => { y with copies := y.copies.map fun c => if c.ident = ident then f c else c }

/-- The source and destination addresses of a copy's sheets. -/
def sheetPairs (src dst count : Nat) : List (Nat × Nat) :=
  (List.range count).map fun i => ((src + i) * sheetBytes, (dst + i) * sheetBytes)

/-- A ladle takes a copy up: one to another module sends its sheets. -/
def startCopy (p : Part) (c : CopyOp) (s : State) : State :=
  let send (add : Bool) (src dst count pos : Nat) : State :=
    if pos = 63 then updCopy p c.ident (fun c => { c with running := true }) s
    else
      let r := (sheetPairs src dst count).foldl (sendSheet p c.ident add pos) (none, [], s)
      updCopy p c.ident (fun c => { c with running := true, fault := r.1, waits := r.2.1 }) r.2.2
  match c.kind with
  | .plain src dst count pos => send false src dst count pos
  | .add src dst count pos => send true src dst count pos
  | .routed .. => updCopy p c.ident (fun c => { c with running := true }) s

/-- LADLE_START (R231): the copy issued first among those that wait, while fewer than 16 run. -/
def ladleStep (s : State) : State :=
  let all := four.flatMap fun p => (s.part p).bench.copies.map fun c => (p, c)
  let first := (all.filter fun e => !e.2.running).foldl (fun b e => match b with
    | none => some e
    | some x => if e.2.ident < x.2.ident then some e else some x) (none : Option (Part × CopyOp))
  if (all.filter fun e => e.2.running).length ≥ 16 then s
  else match first with
    | none => s
    | some (p, c) => startCopy p c s

/-- LADLE_START. -/
def execLadleStart (s : State) : Host.Outcome State Fault Refusal := next (ladleStep s)

/-! ## Routed data (R224, R417, R419 to R422, R428) -/

/-- The journal detail of a block that fails R417 (R778). -/
def blockDetail (operand panel block : Nat) : Nat := operand * 2 ^ 97 + panel * 2 ^ 73 + block * 2 ^ 49

/-- The latch of an OP_TAG holds a reference to a punch-set slot (R428). -/
def latchSlot (p : Part) (opTag : B32) (slot : Nat) (s : State) : State :=
  match latchOf s p opTag with
  | none => s
  | some l =>
    if l.slots.contains slot then s
    else
      let s := takeRefs slot 1 s
      s.updBench p fun y => { y with latches := y.latches.map fun l =>
        if l.opTag = opTag then { l with slots := l.slots ++ [slot] } else l }

/-- A routed copy's progress: fault, its detail, and the state. -/
structure RouteRun where
  fault  : Option Byte := none
  detail : Nat := 0
  s      : State

/-- A block that cannot be moved. -/
def RouteRun.stop (x : RouteRun) (code detail : Nat) (s : State) : RouteRun :=
  { fault := joinFault x.fault code, detail := if x.fault.isNone then detail else x.detail, s }

/-- Reads from device memory for routed copy `c` and stores at a stake place, unless denied or in a fenced quarter. -/
def routeBytes (p : Part) (c : Nat) (x : RouteRun) (q : Qtr) (src dst n : Nat) : RouteRun :=
  match benchAccess x.s p .r src n with
  | (some c, acc) => x.stop c 0 (noteDenied p (benchMaster p) .r acc x.s)
  | (none, _) =>
    if !x.s.array.live.get q then x.stop ftQuarterLost 0 x.s
    else
      let (data, s) := readBeside p (some c) (benchMaster p) src n x.s
      { x with s := smearFor p (some c) [(stakeAddr dst, n)] (putStake dst data (touchRead p src n s)) }

/-- Moves one block of routed copy `c`: a compressed one's header is checked under R417 before its body is read. -/
def routeBlock (p : Part) (c : Nat) (d : ArrayDesc) (x : RouteRun) (e : Route) : RouteRun :=
  if e.scale || !d.cmp e.side then routeBytes p c x e.q e.src e.dst (e.bytes d)
  else
    let ha := d.sSrc e.side + e.index * 8
    match benchAccess x.s p .r ha 8 with
    | (some c, acc) => x.stop c 0 (noteDenied p (benchMaster p) .r acc x.s)
    | (none, _) =>
      let h := BlockHdr.ofNat (readNat x.s p (benchMaster p) ha 8)
      let n := 256 * (h.lenM1 + 1)
      let src := d.src e.side + h.granule * 256
      let fails : RouteRun := x.stop ftMemError (blockDetail (if e.side then 0 else 1) e.panel e.block)
        (x.s.upd p fun y => { y with decodeErr := satAdd y.decodeErr 1 })
      if (headerCheck x.s p (d.fmtOf e.side = .fp16) h).isSome then fails
      else match benchAccess x.s p .r src n with
      | (some c, acc) => x.stop c 0 (noteDenied p (benchMaster p) .r acc x.s)
      | (none, _) =>
        match expandBlock x.s p (d.fmtOf e.side = .fp16) h (readMem x.s p (benchMaster p) src n) with
        | .error _ => fails
        | .ok _ =>
          let x := if h.raw then x else { x with s := latchSlot p d.opTag h.slot x.s }
          routeBytes p c x e.q src e.dst n

/-! ## Completion -/

/-- A copy leaves the ladle queue and completes. -/
def finishCopy (p : Part) (c : CopyOp) (fault : Option Byte) (detail : Nat) (s : State) : State :=
  let s := s.updBench p fun y => { y with copies := y.copies.filter fun x => x.ident ≠ c.ident }
  completeOp p c.ident (fault.map fun f => (f.toNat, 0, detail)) s

/-- COPY_COMPLETE: the data of a local copy is in place; a remote one has had every reply. -/
def endCopyOp (p : Part) (c : CopyOp) (s : State) : State :=
  let localMove (add : Bool) (src dst count : Nat) : State :=
    let r := (sheetPairs src dst count).foldl (moveSheet p c.ident add) (none, s)
    finishCopy p c r.1 0 r.2
  let remote : State := if c.waits.isEmpty then finishCopy p c c.fault c.detail s else s
  match c.kind with
  | .plain src dst count pos => if pos = 63 then localMove false src dst count else remote
  | .add src dst count pos => if pos = 63 then localMove true src dst count else remote
  | .routed role d sh =>
    let r := (routes d role sh).foldl (routeBlock p c.ident d) { s }
    finishCopy p c r.fault r.detail r.s

/-- COPY_COMPLETE; a number that names no running copy changes nothing. -/
def execCopyComplete (p : Part) (ident : Nat) (s : State) : Host.Outcome State Fault Refusal :=
  match (s.part p).bench.copies.find? fun c => c.ident = ident && c.running with
  | some c => next (settle p s (endCopyOp p c s))
  | none => next s

end Sys2Proof.Machine
end

