-- ==== Sys2Proof/Machine/Rim.lean ====
section
/-!
DEFINITION. What the cells and the rim compute for one tile: operand elements from the stake (R96 to R99, R123, R126, R127,
R221 to R224), accumulation (R100, R161, R162), and the rim's outputs, statistics, flags and counts (R114 to R122, R175 to
R182, R191, R225, R267, R268, R787).
-/
namespace Sys2Proof.Machine

/-! ## Operands -/

/-- A block of an operand as the expander delivers it, or none where it fails R417. -/
def operandBlock (s : State) (p : Part) (d : ArrayDesc) (a : Side) (q : Qtr) (panel x j : Nat) : Option (List Byte) :=
  let sl := blockSlice a x j
  if d.cmp a then
    let h := BlockHdr.ofNat (leNat (getMem s (sliceKey q sl (d.scaleOff a panel j)) 8))
    match expandBlock s p (d.fmtOf a = .fp16) h (getMem s (sliceKey q sl (d.blockOff a panel j)) (256 * (h.lenM1 + 1))) with
    | .ok l => some l
    | .error _ => none
  else some (getMem s (sliceKey q sl (d.blockOff a panel j)) (d.fmtOf a).blockBytes)

/-- The element code at line position `m` and step `k` of a block (R123, R153, R221). -/
def blockCode (f : Fmt) (fold : Bool) (block : Array Byte) (m k : Nat) : Nat :=
  let byte (i : Nat) : Nat := (block.getD i 0).toNat
  let at64 : Nat := if fold then m * 64 + k else k * 64 + m
  match f.bits with
  | 16 => byte (2 * at64) + 256 * byte (2 * at64 + 1)
  | 8 => byte at64
  | _ =>
    let b := byte (if fold then 32 * m + k / 2 else 64 * (k / 2) + m)
    if k % 2 = 0 then b % 16 else b / 16

/-- The values that enter line `i` of a quarter from block `j`, for steps k0 to k1 of the block (R99, R127, R155, R221). -/
def blockVals (s : State) (d : ArrayDesc) (a : Side) (q : Qtr) (panel i j : Nat) (block : Array Byte) (k0 k1 : Nat) :
    List Val :=
  let f := d.fmtOf a
  let m := i % 64
  (List.range (k1 - k0)).map fun n =>
    let k := k0 + n
    if j * 64 + k ≥ d.k then Val.zero
    else
      let v := f.element (blockCode f (d.fold a) block m k)
      if f.scaled then
        v.scale (s.cell (sliceKey q (blockSlice a (i / 64) j) (d.scaleOff a panel j + 2 * m + k / 32))).toNat
      else v

/-- The values that enter line `i` of tile row or column `t` for reduction steps k0 to k1; or the block that fails. -/
def lineVals (s : State) (p : Part) (d : ArrayDesc) (a : Side) (q : Qtr) (panel t i k0 k1 : Nat) : Except Nat (List Val) :=
  if t * 512 + i ≥ d.extent a then .ok (List.replicate (k1 - k0) Val.zero)
  else
    let js := (List.range d.blocks).filter fun j => decide (j * 64 < k1) && decide (k0 < j * 64 + 64)
    let part (j : Nat) : Except Nat (List Val) :=
      let lo := max k0 (j * 64) - j * 64
      let hi := min k1 (j * 64 + 64) - j * 64
      if j * 64 ≥ d.k then .ok (List.replicate (hi - lo) Val.zero)
      else match operandBlock s p d a q panel (i / 64) j with
        | none => .error j
        | some l => .ok (blockVals s d a q panel i j l.toArray lo hi)
    (js.mapM part).map List.flatten

/-- The values of several lines; or operand, panel and block of one that fails. -/
def linesVals (s : State) (p : Part) (d : ArrayDesc) (a : Side) (q : Qtr) (panel t n k0 k1 : Nat) :
    Except (Nat × Nat × Nat) (List (List Val)) :=
  (List.range n).mapM fun i =>
    match lineVals s p d a q panel t i k0 k1 with
    | .ok l => .ok l
    | .error j => .error (if a then 0 else 1, panel, j)

/-! ## Accumulation -/

/-- The terms of one cell added in ascending k (R100, R162). -/
def accumulate (c : A96) (a b : List Val) : A96 := (a.zip b).foldl (fun c e => c.step (e.1.mul e.2)) c

/-- Panel of A, tile row and tile column of a tile on a quarter (R91, R223). -/
def ArrayOp.at (o : ArrayOp) (q : Qtr) (t : Nat) : Nat × Nat × Nat :=
  (t / o.desc.tc - (o.desc.rows o.shares q).1, t / o.desc.tc, t % o.desc.tc)

/-- The first `rows` × `cols` cells of a tile after reduction steps k0 to k1, from what its bank holds. -/
def tileCells (s : State) (p : Part) (o : ArrayOp) (q : Qtr) (t : Nat) (bank : Bank) (rows cols k0 k1 : Nat) :
    Except (Nat × Nat × Nat) (List (List A96)) :=
  let (panel, tr, tc) := o.at q t
  match linesVals s p o.desc true q panel tr rows k0 k1, linesVals s p o.desc false q tc tc cols k0 k1 with
  | .error e, _ => .error e
  | _, .error e => .error e
  | .ok as, .ok bs =>
    .ok (as.zipIdx.map fun a => bs.zipIdx.map fun b =>
      accumulate (Map.getD bank.cells (a.2 * 512 + b.2) {}) a.1 b.1)

/-- All cells of a quarter as a bank holds them. -/
def bankCells (cells : List (List A96)) : Map A96 :=
  (cells.zipIdx.flatMap fun r => r.1.zipIdx.map fun c => (r.2 * 512 + c.2, c.1)).filter fun e => decide (e.2 ≠ ({} : A96))

/-! ## The rim -/

/-- What the rim found in a tile. -/
structure RimOut where
  flags   : Flags := {}
  flushed : Nat := 0
  /-- the first non-finite output: its order and RIM_NF_POS -/
  nf      : Option (Nat × B64) := none
  deriving DecidableEq, Repr

/-- The flags that a cell's TAG, VALUE and INEXACT bit call for (R191). -/
def A96.rimFlags (c : A96) : Flags :=
  let ovf := c.tag ≠ 0 && c.value = 1
  { overflow := ovf, inexact := c.inexact || ovf, invalid := c.tag = 1 }

/-- Whether a rounding flushed a non-zero value to zero (R121). -/
def flushes (f : Fmt) (v : Val) (code : Nat) : Bool :=
  match f.fp, v with
  | some l, .fin x => x.n ≠ 0 && code % 2 ^ (l.expBits + l.man) = 0
  | _, _ => false

/-- RIM_NF_POS for a cell (R119, R145). -/
def nfWord (kind : BitVec 2) (t : Nat) (q : Qtr) (i j : Nat) : B64 :=
  place 64 63 1 ||| place 64 60 kind.toNat ||| place 64 32 t ||| place 64 30 q.val |||
    place 64 22 (q.val * 64 + i / 64 * 8 + j / 64) ||| place 64 6 (i % 64) ||| place 64 0 (j % 64)

/-- The first non-finite cell of a tile, rows first (R119). -/
def firstNonfinite (t : Nat) (q : Qtr) (cells : List (List A96)) : Option (Nat × B64) :=
  let hit (r : List A96 × Nat) : Option (Nat × B64) := (r.1.zipIdx.find? fun c => c.1.tag ≠ 0).map fun c =>
    ((t * 512 + r.2) * 512 + c.2, nfWord c.1.tag t q r.2 c.2)
  cells.zipIdx.findSome? hit

/-- The draw of output element (row, col) (R172, R173, R217). -/
def rimDraw (s : State) (p : Part) (o : ArrayOp) (object : B32) (row col : Nat) : Nat :=
  drawBits (Map.getD (s.part p).bench.seeds o.desc.seed.toNat 0) o.drawPos object (BitVec.ofNat 64 (row * o.desc.n + col))

/-- The codes of a row of up to 32 columns of a scaled group, or of unscaled elements one by one: codes, scale, flags and
flushed count (R175 to R179). `base` is the group's first column. -/
def rimGroup (s : State) (p : Part) (o : ArrayOp) (row base : Nat) (cs : List A96) : GroupOut :=
  let f := o.desc.fmtC
  let tags := cs.foldl (fun a c => a.or c.rimFlags) ({} : Flags)
  let draw (i : Nat) : Nat := rimDraw s p o o.desc.opTag row (base + i)
  if f.scaled then
    let g := f.roundGroup false (cs.map A96.val) o.desc.rnd draw
    { g with flags := g.flags.or tags }
  else
    let outs := cs.zipIdx.map fun c => (c.1, f.round false c.1.val o.desc.rnd (draw c.2))
    { scale := 0, codes := outs.map fun e => e.2.code
      flags := outs.foldl (fun a e => a.or e.2.flags) tags
      flushed := (outs.filter fun e => flushes f e.1.val e.2.code).length }

/-- The bytes of consecutive element codes; a last lone nibble keeps the high half that stands there. -/
def packCodes (bits : Nat) (old : Byte) : List Nat → List Byte
  | [] => []
  | [a] => if bits = 4 then [BitVec.ofNat 8 (a % 16 + old.toNat / 16 * 16)] else leBytes (bits / 8) a
  | a :: b :: r =>
    if bits = 4 then BitVec.ofNat 8 (a % 16 + 16 * (b % 16)) :: packCodes bits old r
    else leBytes (bits / 8) a ++ packCodes bits old (b :: r)

/-- A list cut into pieces of `n`. -/
def chunks {α : Type} (n : Nat) : Nat → List α → List (List α)
  | 0, _ => []
  | k + 1, l => if l.isEmpty then [] else l.take n :: chunks n k (l.drop n)

/-- Writes one row of one plate's output block: up to 64 elements, then their scales (R221, R225). -/
def writeOut (d : ArrayDesc) (q : Qtr) (slice k line : Nat) (gs : List GroupOut) (s : State) : State :=
  let f := d.fmtC
  let base := sliceKey q slice (d.cOff + k * f.outBytes)
  let codes := gs.flatMap fun g => g.codes
  let place := base + line * 8 * f.bits
  let s := putStake place (packCodes f.bits (s.cell (place + codes.length * f.bits / 8)) codes) s
  if f.scaled then putStake (base + 512 * f.bits + 2 * line) (gs.map fun g => BitVec.ofNat 8 g.scale) s else s

/-- The rim's rounding and writing of one row. -/
def rimRow (p : Part) (o : ArrayOp) (q : Qtr) (k tr tc : Nat) (st : RimOut × State) (r : List A96 × Nat) : RimOut × State :=
  ((chunks 64 8 r.1).zipIdx).foldl (fun st c =>
    let gs := ((chunks 32 2 c.1).zipIdx).map fun g =>
      rimGroup st.2 p o (tr * 512 + r.2) (tc * 512 + c.2 * 64 + g.2 * 32) g.1
    let flags := gs.foldl (fun a g => a.or g.flags) st.1.flags
    let n := (gs.map fun g => g.flushed).foldl (· + ·) st.1.flushed
    ({ st.1 with flags, flushed := n }, writeOut o.desc q (r.2 / 64 * 8 + c.2) k (r.2 % 64) gs st.2)) st

/-! ## Row statistics (R116, R117, R216) -/

/-- The pair of a row: maximum and exponential sum. -/
def rowStats (cs : List A96) : F32 × F32 :=
  let vs := cs.map fun c => BitVec.ofNat 32 (Fmt.round .fp32 false c.val .rne 0).code
  let mx := vs.foldl f32Max (vs.headD 0)
  let es := vs.map fun v => (LaneFn.eval .exp (f32Sub v mx .rne).bits .rne).bits
  (mx, (treeSum 9 (takePad 512 0 es) .rne).bits)

/-- The fault that denies a quarter's write of statistics, if one does, and what its access met. -/
def statsAccess (s : State) (p : Part) (q : Qtr) (addr n : Nat) : Option Nat × Acc :=
  let acc := checkMem s p (0x40 + q.val) .w addr n
  match acc with
  | .ok =>
    if reachesWindow addr n && !stakeOk s p (max addr winLo) (addr + n - max addr winLo) then (some ftStakeRange, acc)
    else (none, acc)
  | .memError _ _ => (some ftMemError, acc)
  | _ => (some ftAccess, acc)

/-- Writes a tile's statistics with the quarter's master id; the fault that denies them, if one does. -/
def writeStats (p : Part) (o : ArrayOp) (q : Qtr) (t : Nat) (cells : List (List A96)) (s : State) : Option Nat × State :=
  let bytes := cells.flatMap fun r => let (m, e) := rowStats r; leBytes 4 m.toNat ++ leBytes 4 e.toNat
  let addr := o.desc.stat + t * 4096
  match statsAccess s p q addr bytes.length with
  | (none, _) => (none, writeMem p addr bytes s)
  | (some c, acc) => (some c, noteDenied p (0x40 + q.val) .w acc s)

/-! ## FX64 output (R181, R182, R267, R268, R787) -/

/-- What a contribution of one sheet is as the rim forms it, element by element. -/
def fxElement (s : State) (p : Part) (o : ArrayOp) (handle : Nat) (b : BufHdr) (st : Flags × Contribution)
    (e : Nat × Nat × A96) : Flags × Contribution :=
  let (row, col, c) := e
  let fl := c.rimFlags
  match toFx c.val b.e b.guard o.desc.rnd (rimDraw s p o (BitVec.ofNat 32 handle) row col) with
  | .add v lost =>
    let k := (b.place row col).2
    (st.1.or { fl with inexact := fl.inexact || lost },
      { st.2 with adds := if v = 0 then st.2.adds else st.2.adds ++ [(k, v)], inexact := st.2.inexact || lost })
  | .range lost =>
    (st.1.or { fl with overflow := true, inexact := true }, { st.2 with range := true, inexact := st.2.inexact || lost })
  | .nonfinite => (st.1.or fl, { st.2 with nonfinite := true })

/-- The FX64 output of a tile: its contributions, one for each sheet (R267), and OUTSIDE where elements lie beyond the
buffer (R268). -/
def rimFx (p : Part) (o : ArrayOp) (q : Qtr) (tr tc : Nat) (cells : List (List A96)) (s : State) : RimOut × State :=
  match bufAt s p o.desc.buf with
  | none => ({}, s)
  | some (h, ob) =>
    let b := bufHdr s p ob
    let es := cells.zipIdx.flatMap fun r => r.1.zipIdx.map fun c => (tr * 512 + r.2, tc * 512 + c.2, c.1)
    let inside (e : Nat × Nat × A96) : Bool := decide (e.1 ≤ b.rowsM1) && decide (e.2.1 ≤ b.colsM1)
    let s := if es.any (fun e => !inside e) && !bufBroken s p ob then setBufHdr p ob { b with outside := true } s else s
    let out := es.filter fun e => !inside e
    let flags := out.foldl (fun a e => a.or (fxElement s p o h b ({}, default0 h) e).1) ({} : Flags)
    let sheets := ((es.filter inside).map fun e => (b.place e.1 e.2.1).1).dedup
    let made := sheets.map fun n =>
      ((es.filter fun e => inside e && (b.place e.1 e.2.1).1 = n).foldl (fxElement s p o h b)
        ({}, { p, ident := o.ident, quarter := q, handle := h, sheet := n, drawPos := o.drawPos, adds := [] }))
    ({ flags := made.foldl (fun a e => a.or e.1) flags },
      { s with contribs := s.contribs ++ made.map fun e => e.2 })
where
  /-- an empty contribution, for the flags of elements beyond the buffer -/
  default0 (h : Nat) : Contribution :=
    { p, ident := o.ident, quarter := q, handle := h, sheet := 0, drawPos := o.drawPos, adds := [] }

/-- The rim drains a tile that is number `k` of the quarter. -/
def rimTile (p : Part) (o : ArrayOp) (q : Qtr) (t k : Nat) (cells : List (List A96)) (s : State) :
    RimOut × Option Nat × State :=
  let (_, tr, tc) := o.at q t
  let (out, s) : RimOut × State := if o.desc.fmtC = .fx64 then rimFx p o q tr tc cells s
    else cells.zipIdx.foldl (rimRow p o q k tr tc) ({}, s)
  let out := { out with nf := firstNonfinite t q cells }
  if o.desc.stats then
    let (f, s) := writeStats p o q t cells s
    (out, f, s)
  else (out, none, s)

end Sys2Proof.Machine
end

