-- ==== Sys2Proof/Machine/Plate.lean ====
section
/-!
DEFINITION. Plate programs (R238 to R248, R254): VRUN, and what each plate instruction does to the instance that runs on
its plate.
-/
namespace Sys2Proof.Machine

/-! ## VRUN (R238 to R242) -/

/-- The plates on which a VRUN starts instances: those of its range in live quarters. -/
def vrunPlates (s : State) (first last : Byte) : List Nat :=
  (platesOf fun q => s.array.live.get q).filter fun k => decide (first.toNat ≤ k) && decide (k ≤ last.toNat)

/-- An instance as it begins (R239, R241). -/
def newInst (vrun : Nat) (entry : BitVec 11) (seed : BitVec 6) (drawPos addr : B64) (launch : List Byte) : Inst :=
  let word (i : Nat) : B32 := BitVec.ofNat 32 (leNat ((launch.drop i).take 4))
  { vrun, pc := entry.toNat, seed, drawPos, launch := addr
    pr := (List.range 8).map fun i => word (4 * i)
    c := (List.range 4).map fun i => word (44 + 4 * i)
    buf := BitVec.ofNat 64 (leNat ((launch.drop 32).take 8))
    object := word 40 }

/-- A plate's instances, in the order they took their slots. -/
def plateInsts (s : State) (p : Part) (k : Nat) : List Inst := Map.getD (s.part p).bench.insts k []

/-- Puts a plate's instances. -/
def setInsts (p : Part) (k : Nat) (l : List Inst) (s : State) : State :=
  s.updBench p fun y => { y with insts := Map.setD [] y.insts k l }

/-- VRUN at issue. -/
def runVrun (b : BenchHdr) (first last : Byte) (entry : BitVec 11) (seed : BitVec 6) (launch : Addr) (s : State) :
    Except Halt State :=
  if last.toNat < first.toNat then .error { code := ftWordRsvd }
  else match fetchRec s b.p launch.toNat 64 64 with
    | .error e => .error e
    | .ok block =>
      if leNat (block.drop 60) ≠ 0 then .error { code := ftWordRsvd }
      else if !anyLive s then .error { code := ftQuarterLost }
      else
        let x := s.stream b.p b.st
        let ks := vrunPlates s first last
        let (n, s) := takeFlight b x.head .vrun 0 {} (issueHead b (afterHead b s) s)
        let i := newInst n entry seed x.drawPos (launch.setWidth 64) block
        let s := ks.foldl (fun s k => setInsts b.p k (plateInsts s b.p k ++ [i]) s) s
        .ok (touchRead b.p launch.toNat 64 (if ks.isEmpty then completeOp b.p n none s else s))

/-- VRUN. -/
def execVrun (b : BenchHdr) (first last : Byte) (entry : BitVec 11) (seed : BitVec 6) (launch : Addr) (s : State) :
    Host.Outcome State Fault Refusal :=
  let free (s : State) : Bool := slotsFree s b.p (vrunPlates s first last)
  next (benchOp b (fun s => holdsArray s b.p && free s) (runVrun b first last entry seed launch) (noteSlotWait b free s))

/-! ## The end of a VRUN (R210, R254) -/

/-- Whether any instance of a VRUN is left. -/
def vrunRuns (s : State) (p : Part) (n : Nat) : Bool :=
  (s.part p).bench.insts.any fun e => e.2.any fun i => i.vrun = n

/-- Every instance of a VRUN ends, and its slots are released. -/
def dropInsts (p : Part) (n : Nat) (s : State) : State :=
  s.updBench p fun y => { y with
    insts := (y.insts.map fun e => (e.1, e.2.filter fun i => i.vrun ≠ n)).filter fun e => !e.2.isEmpty }

/-- What the instances of a VRUN have stored becomes undefined: free bytes (R254). -/
def spoilStores (p : Part) (n : Nat) (s : State) : State :=
  let mine := (s.part p).bench.insts.flatMap fun e => (e.2.filter fun i => i.vrun = n).flatMap fun i => i.stores
  mine.foldl (fun s w => putStake w.1 ((List.range w.2).map (Config.freeByte s.freeCtr)) s.tick) s

/-- A VRUN ends with a fault in all its instances (R254). -/
def failVrun (p : Part) (n code : Nat) (s : State) : State :=
  completeOp p n (some (code, 0, 0)) (dropInsts p n (spoilStores p n s))

/-- A plate loses its instances with its quarter: the VRUNs concerned complete, or will at the next switch in (R140, R248). -/
def loseRuns (q : Qtr) (here : Bool) (p : Part) (s : State) : State :=
  let hit := ((s.part p).bench.insts.filter fun e => e.1 / 64 = q.val).flatMap fun e => e.2.map fun i => i.vrun
  hit.dedup.foldl (fun s n =>
    if here then failVrun p n ftQuarterLost s
    else (dropInsts p n (spoilStores p n s)).updBench p fun y => { y with lostRuns := y.lostRuns ++ [n] }) s

/-- The VRUNs that a fence ended while their partition was switched out complete at its switch in (R140). -/
def endLostRuns (p : Part) (s : State) : State :=
  let l := (s.part p).bench.lostRuns
  l.foldl (fun s n => completeOp p n (some (ftQuarterLost, 0, 0)) s) (s.updBench p fun y => { y with lostRuns := [] })

/-! ## One instruction (R242 to R245) -/

/-- What an instruction does: a plate fault or a denied access, or the instance and state it leaves. -/
abbrev PlateOut := Except Halt (Inst × State)

/-- An instruction of the instance that runs on a plate, while its partition holds the array. `bad` says that a field holds
a reserved or disallowed value. -/
def plateOp (h : PlateHdr) (bad : Bool) (f : Inst → State → PlateOut) (s : State) : State :=
  match plateInsts s h.p h.plate.val with
  | [] => s
  | i :: rest =>
    if !holdsArray s h.p then s
    else if h.rsvd || bad then failVrun h.p i.vrun ftPlateField s
    else match f { i with pc := i.pc + 1 } s with
      | .error e => failVrun h.p i.vrun e.code (noteDenied h.p (benchMaster h.p) e.right e.acc s)
      | .ok (j, t) => setInsts h.p h.plate.val (j :: rest) t

/-- V register `d` of an instance; one not listed holds +0.0 in every lane. -/
def Inst.vreg (i : Inst) (d : BitVec 5) : List F32 := Map.getD i.v d.toNat (List.replicate 64 0)

/-- Puts a V register. -/
def Inst.setV (i : Inst) (d : BitVec 5) (l : List F32) : Inst :=
  { i with v := Map.setD (List.replicate 64 0) i.v d.toNat l }

/-- Flags of the vector lanes accumulate (R190, R191). -/
def laneFlags (p : Part) (f : Flags) (s : State) : State := s.updBench p fun y => { y with vflags := y.vflags.or f }

/-- The flags of several lanes. -/
def orFlags (l : List LaneRes) : Flags := l.foldl (fun a r => a.or r.flags) {}

/-- The rounding mode of an arithmetic instruction; STOCH and code 3 are no modes of it (R187, R245). -/
def arithRnd (c : BitVec 2) : Option Rnd :=
  match c.toNat with
  | 0 => some .rne
  | 1 => some .rtz
  | _ => none

/-- An instruction of the register form: its lanes from S1, S2 and S3 under its mode. -/
def regOp (h : PlateHdr) (d s1 s2 s3 : BitVec 5) (rnd : BitVec 2)
    (f : Rnd → List F32 → List F32 → List F32 → List LaneRes) (s : State) : Host.Outcome State Fault Refusal :=
  next (plateOp h (arithRnd rnd).isNone (fun i s =>
    let out := f ((arithRnd rnd).getD .rne) (i.vreg s1) (i.vreg s2) (i.vreg s3)
    .ok (i.setV d (out.map fun r => r.bits), laneFlags h.p (orFlags out) s)) s)

/-- Lane by lane, of one source. -/
def lanes1 (f : Rnd → F32 → LaneRes) : Rnd → List F32 → List F32 → List F32 → List LaneRes :=
  fun m a _ _ => a.map (f m)

/-- Lane by lane, of two sources. -/
def lanes2 (f : Rnd → F32 → F32 → LaneRes) : Rnd → List F32 → List F32 → List F32 → List LaneRes :=
  fun m a b _ => (a.zip b).map fun e => f m e.1 e.2

/-- A result without flags. -/
def quiet (b : F32) : LaneRes := ⟨b, {}⟩

/-! ## Control and moves -/

/-- PLATE_NOP. -/
def execPlateNop (h : PlateHdr) (s : State) : Host.Outcome State Fault Refusal :=
  next (plateOp h false (fun i s => .ok (i, s)) s)

/-- HALT: the instance ends, its slot is released, and the last one of a VRUN completes it (R210). -/
def haltInst (h : PlateHdr) (s : State) : State :=
  match plateInsts s h.p h.plate.val with
  | [] => s
  | i :: rest =>
    if !holdsArray s h.p then s
    else if h.rsvd then failVrun h.p i.vrun ftPlateField s
    else
      let s := setInsts h.p h.plate.val rest s
      if vrunRuns s h.p i.vrun then s else completeOp h.p i.vrun none s

/-- HALT. -/
def execHalt (h : PlateHdr) (s : State) : Host.Outcome State Fault Refusal := next (haltInst h s)

/-- LOOPC on an instance: the counter falls by one; while it is not 0, a jump relative to the instruction. -/
def loopInst (t : Nat) (imm : B32) (i : Inst) (s : State) : PlateOut :=
  let n := i.c.getD t 0 - 1
  let dest : Int := (i.pc : Int) - 1 + imm.toInt
  let j := { i with c := setAt i.c t n }
  if dest < 0 || 2047 < dest then .error { code := ftPlateField }
  else .ok (if n = 0 then j else { j with pc := dest.toNat }, s)

/-- LOOPC. -/
def execLoopc (h : PlateHdr) (target : BitVec 5) (imm : B32) (s : State) : Host.Outcome State Fault Refusal :=
  next (plateOp h (decide (target.toNat > 3)) (loopInst target.toNat imm) s)

/-- SETC. -/
def execSetc (h : PlateHdr) (target : BitVec 5) (imm : B32) (s : State) : Host.Outcome State Fault Refusal :=
  next (plateOp h (decide (target.toNat > 3)) (fun i s => .ok ({ i with c := setAt i.c target.toNat imm }, s)) s)

/-- SETP. -/
def execSetp (h : PlateHdr) (target : BitVec 5) (imm : B32) (s : State) : Host.Outcome State Fault Refusal :=
  next (plateOp h (decide (target.toNat > 7)) (fun i s => .ok ({ i with pr := setAt i.pr target.toNat imm }, s)) s)

/-- ADDP. -/
def execAddp (h : PlateHdr) (target : BitVec 5) (imm : B32) (s : State) : Host.Outcome State Fault Refusal :=
  next (plateOp h (decide (target.toNat > 7)) (fun i s =>
    .ok ({ i with pr := setAt i.pr target.toNat (i.pr.getD target.toNat 0 + imm) }, s)) s)

/-- MOVI. -/
def execMovi (h : PlateHdr) (target : BitVec 5) (imm : B32) (s : State) : Host.Outcome State Fault Refusal :=
  next (plateOp h false (fun i s => .ok (i.setV target (List.replicate 64 imm), s)) s)

/-! ## Memory form (R192, R244, R246, R247) -/

/-- P + OFFSET. -/
def Inst.at (i : Inst) (pr : BitVec 3) (off : BitVec 24) : Nat := (i.pr.getD pr.toNat 0).toNat + off.toNat

/-- Formats that LD and LDB convert from (R192). -/
def loadFmt (c : BitVec 5) : Option Fmt := (Fmt.ofCode c).filter fun f => f ≠ .fx64

/-- Formats that ST converts to (R192), UINT8 being the implementation's (R146). -/
def storeFmt (c : BitVec 5) : Option Fmt :=
  (Fmt.ofCode c).filter fun f => f.isOutput && f ≠ .fx64 || f = .uint8 && Config.storesUint8

/-- Where slice offset `off` of the plate's own slice lies. -/
def plateKey (h : PlateHdr) (off : Nat) : Nat := sliceKey (Fin.ofNat 4 (h.plate.val / 64)) (h.plate.val % 64) off

/-- Bytes of 64 elements, with the scale bytes of a scaled format. -/
def Fmt.laneBytes (f : Fmt) : Nat := 8 * f.bits + (if f.scaled then 2 else 0)

/-- The code of element `l` in consecutive elements of `bits` bits. -/
def codeIn (bits : Nat) (bytes : Array Byte) (l : Nat) : Nat :=
  if bits = 4 then
    let b := (bytes.getD (l / 2) 0).toNat
    if l % 2 = 0 then b % 16 else b / 16
  else leNat ((List.range (bits / 8)).map fun i => bytes.getD (l * (bits / 8) + i) 0)

/-- A value as FP32 (R192, LD): exact, or ±∞ with OVERFLOW and INEXACT beyond the FP32 range. -/
def laneOf (v : Val) : LaneRes :=
  match v with
  | .nan => ⟨f32NaN, {}⟩
  | .inf n => laneInf n
  | .fin x => laneRound x .rne

/-- The 64 lanes that LD loads. -/
def loadLanes (f : Fmt) (bytes : List Byte) : List LaneRes :=
  let a := bytes.toArray
  (List.range 64).map fun l =>
    let v := f.element (codeIn f.bits a l)
    laneOf (if f.scaled then v.scale (a.getD (8 * f.bits + l / 32) 0).toNat else v)

/-- What a VRUN's instance reads of its plate's slice; the VRUN's runs are known as its instances go (R207). -/
def readPlate (h : PlateHdr) (i : Inst) (off n : Nat) (s : State) : List Byte × State :=
  let run := [(stakeAddr (plateKey h off), n)]
  let s := addFoot h.p i.vrun { reads := run } s
  let view := blurFor h.p (some i.vrun) run s
  (getMem view (plateKey h off) n, { s with freeCtr := view.freeCtr })

/-- What a VRUN's instance writes to its plate's slice. -/
def writePlate (h : PlateHdr) (i : Inst) (off : Nat) (bytes : List Byte) (s : State) : State :=
  let run := [(stakeAddr (plateKey h off), bytes.length)]
  smearFor h.p (some i.vrun) run (putStake (plateKey h off) bytes (addFoot h.p i.vrun { writes := run } s))

/-- LD on an instance. -/
def loadInst (h : PlateHdr) (v : BitVec 5) (f : Fmt) (off : Nat) (i : Inst) (s : State) : PlateOut :=
  if off % (8 * f.bits) ≠ 0 || !sliceOk s h.p off f.laneBytes then .error { code := ftPlateAddr }
  else
    let (data, s) := readPlate h i off f.laneBytes s
    let out := loadLanes f data
    .ok (i.setV v (out.map fun r => r.bits), laneFlags h.p (orFlags out) s)

/-- LD. -/
def execLd (h : PlateHdr) (v : BitVec 5) (pr : BitVec 3) (fmt : BitVec 5) (rnd : BitVec 2) (off : BitVec 24) (s : State) :
    Host.Outcome State Fault Refusal :=
  next (plateOp h (rnd = 3 || (loadFmt fmt).isNone)
    (fun i s => loadInst h v ((loadFmt fmt).getD .fp32) (i.at pr off) i s) s)

/-- The draw of element `e` for an instance (R172, R173). -/
def instDraw (s : State) (p : Part) (i : Inst) (object : B32) (e : Nat) : Nat :=
  drawBits (Map.getD (s.part p).bench.seeds i.seed.toNat 0) i.drawPos object (BitVec.ofNat 64 e)

/-- The bytes that ST stores for 64 lanes, with the flags. -/
def storeLanes (f : Fmt) (m : Rnd) (draw : Nat → Nat) (l : List F32) : List Byte × Flags :=
  if f.scaled then
    let gs := (chunks 32 2 l).zipIdx.map fun g => f.roundGroup true (g.1.map f32Val) m (fun k => draw (32 * g.2 + k))
    (packCodes f.bits 0 (gs.flatMap fun g => g.codes) ++ gs.map (fun g => BitVec.ofNat 8 g.scale),
      gs.foldl (fun a g => a.or g.flags) {})
  else
    let out := l.zipIdx.map fun e => f.round true (f32Val e.1) m (draw e.2)
    (packCodes f.bits 0 (out.map fun r => r.code), out.foldl (fun a r => a.or r.flags) {})

/-- The instance has stored `n` bytes at a place. -/
def Inst.stored (i : Inst) (k n : Nat) : Inst :=
  if i.stores.contains (k, n) then i else { i with stores := i.stores ++ [(k, n)] }

/-- ST on an instance. -/
def storeInst (h : PlateHdr) (v : BitVec 5) (f : Fmt) (m : Rnd) (off : Nat) (i : Inst) (s : State) : PlateOut :=
  if off % (8 * f.bits) ≠ 0 || !sliceOk s h.p off f.laneBytes then .error { code := ftPlateAddr }
  else
    let (bytes, fl) := storeLanes f m (fun l => instDraw s h.p i i.object (off * 8 / f.bits + l)) (i.vreg v)
    .ok (i.stored (plateKey h off) f.laneBytes, laneFlags h.p fl (writePlate h i off bytes s))

/-- ST. -/
def execSt (h : PlateHdr) (v : BitVec 5) (pr : BitVec 3) (fmt : BitVec 5) (rnd : BitVec 2) (off : BitVec 24) (s : State) :
    Host.Outcome State Fault Refusal :=
  next (plateOp h (rnd = 3 || (storeFmt fmt).isNone)
    (fun i s => storeInst h v ((storeFmt fmt).getD .fp32) ((Rnd.ofCode rnd).getD .rne) (i.at pr off) i s) s)

/-- LDB on an instance: one element; where its format has a group scale, the manual does not say which scale byte holds for
it, and the lane value is a free one. -/
def loadOne (h : PlateHdr) (v : BitVec 5) (f : Fmt) (off : Nat) (i : Inst) (s : State) : PlateOut :=
  let n := max 1 (f.bits / 8)
  if off % n ≠ 0 || !sliceOk s h.p off n then .error { code := ftPlateAddr }
  else if f.scaled then
    .ok (i.setV v (List.replicate 64 (BitVec.ofNat 32 (Config.freeNat s.freeCtr))), s.tick)
  else
    let (data, s) := readPlate h i off n s
    let r := laneOf (f.element (codeIn f.bits data.toArray 0))
    .ok (i.setV v (List.replicate 64 r.bits), laneFlags h.p r.flags s)

/-- LDB. -/
def execLdb (h : PlateHdr) (v : BitVec 5) (pr : BitVec 3) (fmt : BitVec 5) (rnd : BitVec 2) (off : BitVec 24) (s : State) :
    Host.Outcome State Fault Refusal :=
  next (plateOp h (rnd = 3 || (loadFmt fmt).isNone)
    (fun i s => loadOne h v ((loadFmt fmt).getD .fp32) (i.at pr off) i s) s)

/-- 1.0. -/
def f32One : F32 := 0x3F80_0000

/-- LDBIT on an instance. -/
def loadBits (h : PlateHdr) (v : BitVec 5) (off : Nat) (i : Inst) (s : State) : PlateOut :=
  if off % 8 ≠ 0 || !sliceOk s h.p off 8 then .error { code := ftPlateAddr }
  else
    let (data, s) := readPlate h i off 8 s
    let w := leNat data
    .ok (i.setV v ((List.range 64).map fun l => if w.testBit l then f32One else 0), s)

/-- LDBIT. -/
def execLdbit (h : PlateHdr) (v : BitVec 5) (pr : BitVec 3) (fmt : BitVec 5) (rnd : BitVec 2) (off : BitVec 24)
    (s : State) : Host.Outcome State Fault Refusal :=
  let _ := fmt
  next (plateOp h (rnd = 3) (fun i s => loadBits h v (i.at pr off) i s) s)

/-- The bit-plane of 64 lanes (R259): bit l says that lane l is greater than +0.0. -/
def bitPlane (l : List F32) : Nat := (l.zipIdx.map fun e => if f32Lt 0 e.1 then 2 ^ e.2 else 0).foldl (· + ·) 0

/-- STBIT on an instance. -/
def storeBits (h : PlateHdr) (v : BitVec 5) (off : Nat) (i : Inst) (s : State) : PlateOut :=
  if off % 8 ≠ 0 || !sliceOk s h.p off 8 then .error { code := ftPlateAddr }
  else .ok (i.stored (plateKey h off) 8, writePlate h i off (leBytes 8 (bitPlane (i.vreg v))) s)

/-- STBIT. -/
def execStbit (h : PlateHdr) (v : BitVec 5) (pr : BitVec 3) (fmt : BitVec 5) (rnd : BitVec 2) (off : BitVec 24)
    (s : State) : Host.Outcome State Fault Refusal :=
  let _ := fmt
  next (plateOp h (rnd = 3) (fun i s => storeBits h v (i.at pr off) i s) s)

/-! ## FX64 (R181 to R183, R186, R246, R267 to R272) -/

/-- The place in its sheet and the sheet of buffer element `e`, if it lies in the buffer. -/
def BufHdr.elem (b : BufHdr) (e : Nat) : Option (Nat × Nat) :=
  let i := e / (b.colsM1 + 1)
  if i ≤ b.rowsM1 then some (b.place i (e % (b.colsM1 + 1))) else none

/-- The instance's contribution to a sheet is admitted or refused at its first add (R267, R269 to R272). -/
def meetSheet (p : Part) (hd : Nat) (o : Obj) (b : BufHdr) (n : Nat) (i : Inst) (s : State) : Inst × State :=
  let key := hd * 2 ^ 40 + n
  if (Map.find? i.sheets key).isSome then (i, s)
  else
    let e := bufEntry s p b n
    if bufBroken s p o then
      ({ i with sheets := Map.insert i.sheets key false }, refuseContribution p o id s)
    else match admitLocal b e (posStep i.drawPos) (posPhase i.drawPos) (posLeaf i.drawPos) with
      | some why => ({ i with sheets := Map.insert i.sheets key false }, refuseContribution p o why s)
      | none =>
        ({ i with sheets := Map.insert i.sheets key true }, setBufEntry p b n (e.admitted (posLeaf i.drawPos)) s)

/-- One lane of FXADD: element `e` and the lane's value. -/
def fxLane (p : Part) (hd : Nat) (o : Obj) (m : Rnd) (st : Inst × State) (l : Nat × F32) : Inst × State :=
  let (i, s) := st
  let b := bufHdr s p o
  let r := instDraw s p i (BitVec.ofNat 32 hd) l.1
  let c := toFx (f32Val l.2) b.e b.guard m r
  let fl : Flags := match c with
    | .add _ lost => { inexact := lost }
    | .range _ => {}
    | .nonfinite => { invalid := f32IsNaN l.2 }
  let s := laneFlags p fl s
  match b.elem l.1 with
  | none => (i, if bufBroken s p o then s else setBufHdr p o { b with outside := true } s)
  | some (n, k) =>
    let (i, s) := meetSheet p hd o b n i s
    if Map.getD i.sheets (hd * 2 ^ 40 + n) false then
      let e := bufEntry s p b n
      (i, match c with
        | .add v lost => addElements p b n [(k, v)] (setBufEntry p b n { e with inexact := e.inexact || lost } s)
        | .range lost => setBufEntry p b n { e with range := true, inexact := e.inexact || lost } s
        | .nonfinite => setBufEntry p b n { e with nonfinite := true } s)
    else (i, s)

/-- The bytes of a buffer that elements `e` to `e` + 63 lie in, as addresses of whole sheets. -/
def fxSheets (b : BufHdr) (e : Nat) : List Nat :=
  ((List.range 64).filterMap fun l => (b.elem (e + l)).map Prod.fst).dedup

/-- The fault with which the buffer's sheets deny the bench a right, if they do. -/
def fxAccess (s : State) (p : Part) (g : Right) (b : BufHdr) (e : Nat) : Option Halt :=
  (fxSheets b e).findSome? fun n => match benchAccess s p g (b.data + n * sheetBytes) sheetBytes with
    | (some c, acc) => some { code := c, acc, right := g }
    | (none, _) => none

/-- FXADD on an instance. -/
def fxAddInst (h : PlateHdr) (v : BitVec 5) (m : Rnd) (e : Nat) (i : Inst) (s : State) : PlateOut :=
  match bufAt s h.p i.buf.toNat with
  | none => .error { code := ftPlateAddr }
  | some (hd, o) => match fxAccess s h.p .a (bufHdr s h.p o) e with
    | some f => .error f
    | none => .ok (((i.vreg v).zipIdx.map fun l => (e + l.2, l.1)).foldl (fxLane h.p hd o m) (i, s))

/-- FXADD. Its FMT, and that of LDX, LDBIT, STBIT and DRAW, names no format and may hold any value (DESIGN CHOICE). -/
def execFxadd (h : PlateHdr) (v : BitVec 5) (pr : BitVec 3) (fmt : BitVec 5) (rnd : BitVec 2) (off : BitVec 24)
    (s : State) : Host.Outcome State Fault Refusal :=
  let _ := fmt
  next (settle h.p s (plateOp h (rnd = 3) (fun i s => fxAddInst h v ((Rnd.ofCode rnd).getD .rne) (i.at pr off) i s) s))

/-- The sheets of the 64 elements from element `e` of a buffer are read (R370). -/
def fxTouch (p : Part) (b : BufHdr) (e : Nat) (s : State) : State :=
  (((List.range 64).filterMap fun l => (b.elem (e + l)).map Prod.fst).eraseDups).foldl (fun s n =>
    touchRead p (b.data + n * sheetBytes) 8 s) s

/-- LDX on an instance: an element beyond the buffer is a free value. -/
def loadFx (h : PlateHdr) (v : BitVec 5) (e : Nat) (i : Inst) (s : State) : PlateOut :=
  match bufAt s h.p i.buf.toNat with
  | none => .error { code := ftPlateAddr }
  | some (_, o) =>
    let b := bufHdr s h.p o
    match fxAccess s h.p .r b e with
    | some f => .error f
    | none =>
      let lane (l : Nat) : LaneRes := match b.elem (e + l) with
        | some (n, k) =>
          laneRound (Exact.ofInt (signed 64 (readNat s h.p (benchMaster h.p) (b.data + n * sheetBytes + 8 * k) 8)) b.e) .rne
        | none => ⟨BitVec.ofNat 32 (Config.freeNat (s.freeCtr + l)), {}⟩
      let out := (List.range 64).map lane
      .ok (i.setV v (out.map fun r => r.bits),
        laneFlags h.p (orFlags out) (fxTouch h.p b e { s with freeCtr := s.freeCtr + 64 }))

/-- LDX. -/
def execLdx (h : PlateHdr) (v : BitVec 5) (pr : BitVec 3) (fmt : BitVec 5) (rnd : BitVec 2) (off : BitVec 24) (s : State) :
    Host.Outcome State Fault Refusal :=
  let _ := fmt
  next (plateOp h (rnd = 3) (fun i s => loadFx h v (i.at pr off) i s) s)

/-- DRAW (R172, R244). -/
def execDraw (h : PlateHdr) (v : BitVec 5) (pr : BitVec 3) (fmt : BitVec 5) (rnd : BitVec 2) (off : BitVec 24) (s : State) :
    Host.Outcome State Fault Refusal :=
  let _ := fmt
  next (plateOp h (rnd = 3) (fun i s =>
    let lane (l : Nat) : F32 :=
      (laneRound ⟨false, instDraw s h.p i i.object (i.at pr off + l) / 256, -24, false⟩ .rne).bits
    .ok (i.setV v ((List.range 64).map lane), s)) s)

/-! ## Register form (R187, R188, R244) -/

/-- FADD. -/
def execFadd (h : PlateHdr) (d s1 s2 s3 : BitVec 5) (rnd : BitVec 2) (s : State) : Host.Outcome State Fault Refusal :=
  regOp h d s1 s2 s3 rnd (lanes2 fun m a b => f32Add a b m) s

/-- FSUB. -/
def execFsub (h : PlateHdr) (d s1 s2 s3 : BitVec 5) (rnd : BitVec 2) (s : State) : Host.Outcome State Fault Refusal :=
  regOp h d s1 s2 s3 rnd (lanes2 fun m a b => f32Sub a b m) s

/-- FMUL. -/
def execFmul (h : PlateHdr) (d s1 s2 s3 : BitVec 5) (rnd : BitVec 2) (s : State) : Host.Outcome State Fault Refusal :=
  regOp h d s1 s2 s3 rnd (lanes2 fun m a b => f32Mul a b m) s

/-- FFMA. -/
def execFfma (h : PlateHdr) (d s1 s2 s3 : BitVec 5) (rnd : BitVec 2) (s : State) : Host.Outcome State Fault Refusal :=
  regOp h d s1 s2 s3 rnd (fun m a b c => ((a.zip b).zip c).map fun e => f32Fma e.1.1 e.1.2 e.2 m) s

/-- FDIV. -/
def execFdiv (h : PlateHdr) (d s1 s2 s3 : BitVec 5) (rnd : BitVec 2) (s : State) : Host.Outcome State Fault Refusal :=
  regOp h d s1 s2 s3 rnd (lanes2 fun m a b => f32Div a b m) s

/-- FSQRT. -/
def execFsqrt (h : PlateHdr) (d s1 s2 s3 : BitVec 5) (rnd : BitVec 2) (s : State) : Host.Outcome State Fault Refusal :=
  regOp h d s1 s2 s3 rnd (lanes1 fun m a => f32Sqrt a m) s

/-- FMAX. -/
def execFmax (h : PlateHdr) (d s1 s2 s3 : BitVec 5) (rnd : BitVec 2) (s : State) : Host.Outcome State Fault Refusal :=
  regOp h d s1 s2 s3 rnd (lanes2 fun _ a b => quiet (f32Max a b)) s

/-- FMIN. -/
def execFmin (h : PlateHdr) (d s1 s2 s3 : BitVec 5) (rnd : BitVec 2) (s : State) : Host.Outcome State Fault Refusal :=
  regOp h d s1 s2 s3 rnd (lanes2 fun _ a b => quiet (f32Min a b)) s

/-- FNEG. -/
def execFneg (h : PlateHdr) (d s1 s2 s3 : BitVec 5) (rnd : BitVec 2) (s : State) : Host.Outcome State Fault Refusal :=
  regOp h d s1 s2 s3 rnd (lanes1 fun _ a => quiet (f32Neg a)) s

/-- FABS. -/
def execFabs (h : PlateHdr) (d s1 s2 s3 : BitVec 5) (rnd : BitVec 2) (s : State) : Host.Outcome State Fault Refusal :=
  regOp h d s1 s2 s3 rnd (lanes1 fun _ a => quiet (f32Abs a)) s

/-- FCMPLT on one lane. Whether the comparison of a NaN is the invalid operation of IEEE 754 depends on which of its two
comparisons is meant, which the manual does not say: a free value. -/
def cmpLane (n : Nat) (a b : F32) : LaneRes :=
  ⟨if f32Lt a b then f32One else 0, { invalid := (f32IsNaN a || f32IsNaN b) && Config.freeNat n % 2 = 1 }⟩

/-- FCMPLT. -/
def execFcmplt (h : PlateHdr) (d s1 s2 s3 : BitVec 5) (rnd : BitVec 2) (s : State) : Host.Outcome State Fault Refusal :=
  regOp h d s1 s2 s3 rnd (lanes2 fun _ a b => cmpLane s.freeCtr a b) s.tick

/-- FSEL on one lane: a zero of either sign is 0, a NaN is not. -/
def selLane (c a b : F32) : F32 :=
  let r := if c &&& 0x7FFF_FFFF = 0 then b else a
  if f32IsNaN r then f32NaN else r

/-- FSEL. -/
def execFsel (h : PlateHdr) (d s1 s2 s3 : BitVec 5) (rnd : BitVec 2) (s : State) : Host.Outcome State Fault Refusal :=
  regOp h d s1 s2 s3 rnd (fun _ a b c => ((a.zip b).zip c).map fun e => quiet (selLane e.1.1 e.1.2 e.2)) s

/-- LANEID. -/
def execLaneid (h : PlateHdr) (d s1 s2 s3 : BitVec 5) (rnd : BitVec 2) (s : State) : Host.Outcome State Fault Refusal :=
  regOp h d s1 s2 s3 rnd (fun _ _ _ _ => (List.range 64).map fun l => quiet (f32OfNat l)) s

/-- EXP. -/
def execExp (h : PlateHdr) (d s1 s2 s3 : BitVec 5) (rnd : BitVec 2) (s : State) : Host.Outcome State Fault Refusal :=
  regOp h d s1 s2 s3 rnd (lanes1 fun m a => LaneFn.exp.eval a m) s

/-- EXP2. -/
def execExp2 (h : PlateHdr) (d s1 s2 s3 : BitVec 5) (rnd : BitVec 2) (s : State) : Host.Outcome State Fault Refusal :=
  regOp h d s1 s2 s3 rnd (lanes1 fun m a => LaneFn.exp2.eval a m) s

/-- LOG. -/
def execLog (h : PlateHdr) (d s1 s2 s3 : BitVec 5) (rnd : BitVec 2) (s : State) : Host.Outcome State Fault Refusal :=
  regOp h d s1 s2 s3 rnd (lanes1 fun m a => LaneFn.log.eval a m) s

/-- LOG2. -/
def execLog2 (h : PlateHdr) (d s1 s2 s3 : BitVec 5) (rnd : BitVec 2) (s : State) : Host.Outcome State Fault Refusal :=
  regOp h d s1 s2 s3 rnd (lanes1 fun m a => LaneFn.log2.eval a m) s

/-- RCP. -/
def execRcp (h : PlateHdr) (d s1 s2 s3 : BitVec 5) (rnd : BitVec 2) (s : State) : Host.Outcome State Fault Refusal :=
  regOp h d s1 s2 s3 rnd (lanes1 fun m a => LaneFn.rcp.eval a m) s

/-- RSQRT. -/
def execRsqrt (h : PlateHdr) (d s1 s2 s3 : BitVec 5) (rnd : BitVec 2) (s : State) : Host.Outcome State Fault Refusal :=
  regOp h d s1 s2 s3 rnd (lanes1 fun m a => LaneFn.rsqrt.eval a m) s

/-- TANH. -/
def execTanh (h : PlateHdr) (d s1 s2 s3 : BitVec 5) (rnd : BitVec 2) (s : State) : Host.Outcome State Fault Refusal :=
  regOp h d s1 s2 s3 rnd (lanes1 fun m a => LaneFn.tanh.eval a m) s

/-- SIGM. -/
def execSigm (h : PlateHdr) (d s1 s2 s3 : BitVec 5) (rnd : BitVec 2) (s : State) : Host.Outcome State Fault Refusal :=
  regOp h d s1 s2 s3 rnd (lanes1 fun m a => LaneFn.sigm.eval a m) s

/-- ERF. -/
def execErf (h : PlateHdr) (d s1 s2 s3 : BitVec 5) (rnd : BitVec 2) (s : State) : Host.Outcome State Fault Refusal :=
  regOp h d s1 s2 s3 rnd (lanes1 fun m a => LaneFn.erf.eval a m) s

/-- The maximum of 64 lanes by the fixed tree. -/
def maxLanes (l : List F32) : F32 := (tree f32Max 6 l).headD 0

/-- RMAX. -/
def execRmax (h : PlateHdr) (d s1 s2 s3 : BitVec 5) (rnd : BitVec 2) (s : State) : Host.Outcome State Fault Refusal :=
  regOp h d s1 s2 s3 rnd (fun _ a _ _ => List.replicate 64 (quiet (maxLanes a))) s

/-- RSUM. -/
def execRsum (h : PlateHdr) (d s1 s2 s3 : BitVec 5) (rnd : BitVec 2) (s : State) : Host.Outcome State Fault Refusal :=
  regOp h d s1 s2 s3 rnd (fun m a _ _ => List.replicate 64 (treeSum 6 a m)) s

end Sys2Proof.Machine
end

