-- ==== Sys2Proof/Machine/Array.lean ====
section
/-!
DEFINITION. Array operations from issue to report (R90 to R95, R103 to R113, R128 to R144, R211, R213, R218), context
switches (R131 to R139, R617 to R619), and contributions as they reach their sheets (R270 to R272).
-/
namespace Sys2Proof.Machine

/-! ## Issue (R217, R218, R685) -/

/-- The output blocks of an operation: quarter and place. -/
def ArrayDesc.outPlaces (d : ArrayDesc) (sh : Quad Nat) : List (Qtr × Nat) :=
  let n (q : Qtr) : Nat := (d.range sh q).2 - (d.range sh q).1
  four.flatMap fun q => (List.range 64).flatMap fun sl => (List.range (n q)).map fun k =>
    (q, sliceKey q sl (d.cOff + k * d.fmtC.outBytes))

/-- The row statistics of an operation by tile: quarter, address and bytes. -/
def ArrayDesc.statRuns (d : ArrayDesc) (sh : Quad Nat) : List (Qtr × Nat × Nat) :=
  four.flatMap fun q =>
    let (a, b) := d.range sh q
    (List.range (b - a)).map fun k => (q, d.stat + (a + k) * 4096, min 512 (d.m - (a + k) / d.tc * 512) * 8)

/-- What an array operation reads and writes (R207): the blocks routed for it, its output blocks, its row statistics and its
report; the adds of an FX64 output are ordered at their sheets and are not among them. -/
def arrayFoot (d : ArrayDesc) (sh : Quad Nat) : Foot :=
  let roles := [0, 1] ++ (if d.hasScale true then [2] else []) ++ (if d.hasScale false then [3] else [])
  let blocks := if d.hold || d.fmtC == .fx64 then [] else (d.outPlaces sh).map fun e => (stakeAddr e.2, d.fmtC.outBytes)
  let stats := if d.hold || !d.stats then [] else (d.statRuns sh).map Prod.snd
  { reads := roles.flatMap fun r => (routes d r sh).map fun e => (stakeAddr e.dst, e.bytes d)
    writes := blocks ++ stats ++ [(d.report, 64)] }

/-- ARRAY at issue. -/
def runArray (b : BenchHdr) (desc : Addr) (s : State) : Except Halt State :=
  match fetchDesc s b.p desc.toNat with
  | .error e => .error e
  | .ok d =>
    if !anyLive s then .error { code := ftQuarterLost, opTag := d.opTag }
    else
      let sh := sharesFor s b.p d.opTag
      match descFault s b.p d sh with
      | some c => .error { code := c, opTag := d.opTag }
      | none =>
        let x := s.stream b.p b.st
        let lost := (latchOf s b.p d.opTag).any fun l => l.lost
        let (n, s) := takeFlight b x.head .array d.opTag (arrayFoot d sh) (issueHead b (afterHead b s) s)
        .ok ((touchRead b.p desc.toNat 128 s).updBench b.p fun y => { y with
          latches := y.latches.map fun l => if l.opTag = d.opTag then { l with issued := true } else l
          arrayQ := y.arrayQ ++ [{ ident := n, st := b.st, outTag := b.outTag, addr := x.head, desc := d, shares := sh
                                   drawPos := x.drawPos, lost }] })

/-- Whether an ARRAY finds a slot on every plate it uses (R210). -/
def arraySlots (s : State) (p : Part) (desc : Addr) : Bool :=
  match fetchDesc s p desc.toNat with
  | .ok d =>
    let sh := sharesFor s p d.opTag
    slotsFree s p (platesOf fun q => sh.get q ≠ 0)
  | .error _ => true

/-- ARRAY. -/
def execArray (b : BenchHdr) (desc : Addr) (s : State) : Host.Outcome State Fault Refusal :=
  let free (s : State) : Bool := arraySlots s b.p desc
  next (benchOp b (fun s => holdsArray s b.p && free s) (runArray b desc) (noteSlotWait b free s))

/-! ## Banks (R103 to R109) -/

/-- A bank of a quarter. -/
def QuarterArr.bank (x : QuarterArr) (b : Fin 2) : Bank := if b = 0 then x.bank0 else x.bank1

/-- Puts a bank. -/
def QuarterArr.setBank (x : QuarterArr) (b : Fin 2) (k : Bank) : QuarterArr :=
  if b = 0 then { x with bank0 := k } else { x with bank1 := k }

/-- A bank becomes FREE. -/
def QuarterArr.free (x : QuarterArr) (b : Fin 2) : QuarterArr := { x.setBank b {} with lastFreed := some b }

/-- The drains of a quarter end: DRAINING banks are FREE (R113). -/
def QuarterArr.drained (x : QuarterArr) : QuarterArr :=
  let f (x : QuarterArr) (b : Fin 2) : QuarterArr := if (x.bank b).state = .draining then x.free b else x
  f (f x 0) 1

/-- Changes a quarter. -/
def updQuarter (q : Qtr) (f : QuarterArr → QuarterArr) (s : State) : State :=
  { s with array := { s.array with quarters := s.array.quarters.modify q f } }

/-- The partition whose operations the quarters take. -/
def arrayPart (s : State) : Part := if s.host.tsEn then s.array.holder else s.host.arrayOwner

/-- The bank a descriptor names; none for AUTO. -/
def ArrayDesc.named (d : ArrayDesc) : Option (Fin 2) :=
  if d.bank = 1 then some 0 else if d.bank = 2 then some 1 else none

/-- The bank the next tile of an operation takes on a quarter, if one may (R104, R108, R109). -/
def tileBank (d : ArrayDesc) (x : QuarterArr) : Option (Fin 2) :=
  let ok (b : Fin 2) : Bool :=
    if d.cont then (x.bank b).state = .held && (x.bank b).holder = some d.predTag else (x.bank b).state = .free
  match d.named with
  | some b => if ok b then some b else none
  | none =>
    if ok 0 && ok 1 then some (if x.lastFreed = some 0 then 1 else 0)
    else if ok 0 then some 0 else if ok 1 then some 1 else none

/-- The tile that quarter `q` starts as its `k`th, if it has one (R92, R106). -/
def ArrayOp.tile (o : ArrayOp) (q : Qtr) (k : Nat) : Option Nat :=
  let (a, b) := o.desc.range o.shares q
  if a + k < b then some (a + k) else none

/-- The largest number of tiles on one quarter. -/
def ArrayDesc.most (d : ArrayDesc) (sh : Quad Nat) : Nat :=
  (four.map fun q => (d.range sh q).2 - (d.range sh q).1).foldl max 0

/-- A quarter starts tile `t` in bank `b`: the bank goes FILLING, keeping what it held for a continuing operation (R103). -/
def QuarterArr.start (x : QuarterArr) (o : ArrayOp) (t : Nat) (b : Fin 2) : QuarterArr :=
  { x.setBank b { state := .filling, holder := if o.desc.hold then some o.desc.opTag else none, owner := o.ident
                  cells := if o.desc.cont then (x.bank b).cells else [] } with
    cur := some (t, b) }

/-- Changes an array operation. -/
def updArrayOp (p : Part) (ident : Nat) (f : ArrayOp → ArrayOp) (s : State) : State :=
  s.updBench p fun y => { y with arrayQ := y.arrayQ.map fun o => if o.ident = ident then f o else o }

/-- The operation that feeds, or will feed next: the oldest taken whose tiles are not all fed (R90). -/
def feedOp (s : State) (p : Part) : Option ArrayOp := (s.part p).bench.arrayQ.find? fun o => o.phase = .taken

/-- Whether any quarter feeds a tile. -/
def anyFeeds (s : State) : Bool := four.any fun q => (s.array.quarters.get q).cur.isSome

/-- The quarters start their next tiles of an operation in the same cycle (R95): once every quarter that has one has a
bank for it. -/
def startRound (p : Part) (o : ArrayOp) (s : State) : State :=
  if four.all fun q => (o.tile q o.round).isNone || (tileBank o.desc (s.array.quarters.get q)).isSome then
    let begin (q : Qtr) (x : QuarterArr) : QuarterArr :=
      match o.tile q o.round, tileBank o.desc x with
      | some t, some b => x.start o t b
      | _, _ => x
    updArrayOp p o.ident (fun o => { o with round := o.round + 1 })
      { s with array := { s.array with quarters := s.array.quarters.mapIdx begin } }
  else s

/-- With no tile being fed, the next tiles start: of the operation that feeds, or of the one taken after it when its tiles
are all fed (R90, R94, R111). -/
def feedOn (p : Part) (s : State) : State :=
  match feedOp s p with
  | none => s
  | some o =>
    if anyFeeds s then s
    else if o.desc.most o.shares ≤ o.round then
      let s := updArrayOp p o.ident (fun o => { o with phase := .fed, step := 0 }) s
      match feedOp s p with
      | none => s
      | some o => startRound p o s
    else startRound p o (updArrayOp p o.ident (fun o => { o with step := 0 }) s)

/-- What R106 to R109 say of an operation at the head of the queue. -/
inductive HeadRule where
  | fault (code : Nat)
  | waits
  | issues
  deriving DecidableEq, Repr

/-- R109 and R108 for one quarter. A bank that fills for an operation whose END is HOLD counts for BANK = AUTO once it is
HELD: until then the operation has not reached the point where R108 decides. -/
def bankRule (d : ArrayDesc) (x : QuarterArr) : HeadRule :=
  match d.named with
  | none =>
    let held (k : Bank) : Bool := k.state = .held
    let willHold (k : Bank) : Bool := k.state = .filling && k.holder.isSome
    if held x.bank0 && held x.bank1 then .fault ftBankClobber
    else if (held x.bank0 || willHold x.bank0) && (held x.bank1 || willHold x.bank1) then .waits
    else .issues
  | some b =>
    let k := x.bank b
    if d.cont then
      match k.state with
      | .held => if k.holder = some d.predTag then .issues else .fault ftBankChain
      | .filling =>
        if k.holder = some d.predTag then .waits
        else if k.holder.isSome then .fault ftBankChain else .fault ftBankEmpty
      | _ => .fault ftBankEmpty
    else match k.state with
      | .held => .fault ftBankClobber
      | .free => .issues
      | _ => .waits

/-- The outcome at the head of the queue: a fault of any quarter it uses, else a wait of any, else it issues. -/
def headRule (s : State) (o : ArrayOp) : HeadRule :=
  if o.desc.chain && decide (o.desc.tiles > (sharers o.shares).length) then .fault ftBankSpan
  else
    let qs := four.filter fun q => let (a, b) := o.desc.range o.shares q; decide (a < b)
    let rules := qs.map fun q => bankRule o.desc (s.array.quarters.get q)
    match rules.find? fun x => match x with
      | .fault _ => true
      | _ => false with
    | some x => x
    | none => if rules.contains .waits then .waits else .issues

/-- An operation leaves the quarters' queue, its latch entry is freed (R213), and it completes. -/
def leaveQueue (p : Part) (o : ArrayOp) (fault : Option (Nat × Nat)) (s : State) : State :=
  let s := s.updBench p fun y => { y with arrayQ := y.arrayQ.filter fun x => x.ident ≠ o.ident }
  let s := freeLatches p (fun l => l.opTag = o.desc.opTag) s
  completeOp p o.ident (fault.map fun f => (f.1, 0, f.2)) s

/-- Whether the link of every live quarter is UP: else the quarters take no new operation (R674). -/
def linksUp (s : State) : Bool := four.all fun q => !s.array.live.get q || (s.pkg.d2d.get q).state = .up

/-- Whether the quarters may take another operation: those they have taken have tiles started or fed, so that only the
next one after the feeding one is ever taken ahead (R111). -/
def mayTake (s : State) (p : Part) : Bool :=
  (s.part p).bench.arrayQ.all fun o => o.phase ≠ .taken || decide (0 < o.round)

/-- ARRAY_QUEUE_HEAD: the quarters take the operation at the head of the queue, it waits, or it is refused. -/
def takeHead (s : State) : State :=
  let p := arrayPart s
  match (s.part p).bench.arrayQ.find? fun o => o.phase = .queued with
  | none => s
  | some o =>
    if !holdsArray s p || !mayTake s p || !linksUp s then s
    else
      let chain := (o.desc.bank.toNat, o.desc.predTag)
      if o.desc.cont && (s.part p).bench.lostChains.contains chain then
        let s := s.updBench p fun y => { y with lostChains := y.lostChains.erase chain }
        updArrayOp p o.ident (fun o => { o with phase := .fed, lost := true }) s
      else if o.lost then updArrayOp p o.ident (fun o => { o with phase := .fed }) s
      else match headRule s o with
        | .fault c => leaveQueue p o (some (c, 0)) s
        | .waits => s
        | .issues =>
          -- a chain begun again under a broken chain's tag is another chain (R142)
          let s := if o.desc.hold then s.updBench p fun y => { y with
              lostChains := y.lostChains.filter fun e => e ≠ (o.desc.bank.toNat, o.desc.opTag) } else s
          feedOn p (updArrayOp p o.ident (fun o => { o with phase := .taken }) s)

/-- ARRAY_QUEUE_HEAD. -/
def execArrayQueueHead (s : State) : Host.Outcome State Fault Refusal := next (takeHead s)

/-! ## Draining (R112 to R122) -/

/-- The valid rows and columns of a tile (R122). -/
def ArrayDesc.valid (d : ArrayDesc) (t : Nat) : Nat × Nat :=
  (min 512 (d.m - t / d.tc * 512), min 512 (d.n - t % d.tc * 512))

/-- The banks that an operation fills, holds or drains on a quarter become FREE, the one being fed first, and it feeds there
no more. -/
def QuarterArr.dropOp (ident : Nat) (x : QuarterArr) : QuarterArr :=
  let mine (x : QuarterArr) (b : Fin 2) : Bool := (x.bank b).state ≠ .free && (x.bank b).owner = ident
  let x := match x.cur with
    | some (_, b) => if mine x b then { x.free b with cur := none } else x
    | none => x
  let one (x : QuarterArr) (b : Fin 2) : QuarterArr := if mine x b then x.free b else x
  one (one x 0) 1

/-- A fault ends an operation before its tiles are done: its quarters stop feeding it and free its banks (R141, R422). -/
def abortOp (p : Part) (o : ArrayOp) (code extra : Nat) (s : State) : State :=
  let s := updArrayOp p o.ident (fun o => { o with
    fault := if o.fault.isNone then some (BitVec.ofNat 8 code) else o.fault
    extra := if o.fault.isNone then extra else o.extra, phase := .fed }) s
  { s with array := { s.array with quarters := s.array.quarters.mapIdx fun _ => QuarterArr.dropOp o.ident } }

/-- Merges what the rim found into the operation and the partition's registers (R119 to R121). -/
def noteRim (p : Part) (ident : Nat) (r : RimOut) (s : State) : State :=
  let s := updArrayOp p ident (fun o =>
    let first : Bool := match r.nf with
      | some e => match o.nfKey with
        | some k => decide (e.1 < k)
        | none => true
      | none => false
    { o with
      flags := o.flags.or r.flags, flushed := satAdd o.flushed r.flushed
      nfKey := if first then r.nf.map Prod.fst else o.nfKey
      nfPos := if first then (r.nf.map Prod.snd).getD 0 else o.nfPos }) s
  s.updBench p fun y => { y with rimFlags := y.rimFlags.or r.flags, rimFlushed := satAdd y.rimFlushed r.flushed }

/-- The tile that a quarter feeds drains: its bank goes DRAINING and its outputs are written. -/
def drainTile (p : Part) (o : ArrayOp) (q : Qtr) (t : Nat) (b : Fin 2) (s : State) : State :=
  let x := s.array.quarters.get q
  let (rows, cols) := o.desc.valid t
  let view := blurOp p o.ident s
  let s := { s with freeCtr := view.freeCtr }
  match tileCells view p o q t (x.bank b) rows cols o.step o.desc.kPad with
  | .error (a, panel, j) =>
    let s := s.upd p fun y => { y with decodeErr := satAdd y.decodeErr 1 }
    abortOp p o ftMemError (blockDetail a panel j) s
  | .ok cells =>
    let (out, fault, s) := rimTile p o q t (t - (o.desc.range o.shares q).1) cells s
    let s := noteRim p o.ident out (smearOp p o.ident s)
    let s := updQuarter q (fun x =>
      { x.setBank b { x.bank b with state := .draining, cells := [] } with cur := none }) s
    match fault with
    | none => s
    | some c => updArrayOp p o.ident (fun o => { o with
        fault := if o.fault.isNone then some (BitVec.ofNat 8 c) else o.fault }) s

/-- TILE_DRAIN on a quarter: the drain before it has ended; the tile being fed has had its last step and drains, unless its
operation holds it; once every quarter's tile has, the next ones start. -/
def tileStep (q : Qtr) (s : State) : State :=
  let p := arrayPart s
  let s := updQuarter q QuarterArr.drained s
  match feedOp s p with
  | none => s
  | some o =>
    let s := match (s.array.quarters.get q).cur with
      | some (t, b) => if o.desc.hold then s else drainTile p o q t b s
      | none => s
    feedOn p s

/-- TILE_DRAIN. -/
def execTileDrain (q : Qtr) (s : State) : Host.Outcome State Fault Refusal := next (settle (arrayPart s) s (tileStep q s))

/-! ## Completion (R128 to R130, R140, R141, R785) -/

/-- OCC without stalls (R128). -/
def ArrayDesc.occ (d : ArrayDesc) (sh : Quad Nat) : Nat :=
  if d.hold then d.kPad
  else if d.kPad ≥ 512 then d.most sh * d.kPad else (d.most sh - 1) * 512 + d.kPad

/-- The losses of R129: PAD_MN, PAD_K, SHORT_K. -/
def ArrayDesc.losses (d : ArrayDesc) (sh : Quad Nat) : Nat × Nat × Nat :=
  let short := (four.map fun q =>
    let n := (d.range sh q).2 - (d.range sh q).1
    if d.kPad < 512 then 262144 * (n - 1) * (512 - d.kPad) else 0).foldl (· + ·) 0
  ((d.tiles * 262144 - d.m * d.n) * d.k, d.tiles * 262144 * (d.kPad - d.k), short)

/-- The numbers of an operation's report: OCC, PAD_MN, PAD_K, SHORT_K, STALL (R129, R785). The manual gives no figures for an
operation that MEM_ERROR ends early: those of its whole run stand (DESIGN CHOICE). -/
def reportNumbers (o : ArrayOp) (stall : Nat) : Nat × Nat × Nat × Nat × Nat :=
  if o.lost then
    let occ := if o.round = 0 then 0 else stall
    (occ, 0, 0, 0, 1048576 * occ)
  else
    let occ := o.desc.occ o.shares + stall
    let (mn, k, sk) := o.desc.losses o.shares
    (occ, mn, k, sk, 1048576 * occ - o.desc.m * o.desc.n * o.desc.k - mn - k - sk)

/-- The report's 64 bytes (R130). -/
def reportBytes (o : ArrayOp) (stall : Nat) (status : B16) : List Byte :=
  let (occ, mn, k, sk, st) := reportNumbers o stall
  let top (n v : Nat) : Nat := min v (2 ^ n - 1)
  let quarters := four.map fun q => if 0 < o.round && (o.tile q 0).isSome then 2 ^ q.val else 0
  leBytes 64 (top 64 mn * 2 ^ 448 + top 64 sk * 2 ^ 384 + top 64 k * 2 ^ 320 + top 64 st * 2 ^ 256 +
    o.nfPos.toNat * 2 ^ 192 + o.flushed.toNat * 2 ^ 160 + top 32 occ * 2 ^ 128 + o.desc.opTag.toNat * 2 ^ 96 +
    status.toNat * 2 ^ 80 + quarters.foldl (· + ·) 0 * 2 ^ 76 + o.flags.bits * 2 ^ 72 + o.preempts.toNat * 2 ^ 64 +
    o.desc.tiles)

/-- Free bytes over the output blocks of an operation in the quarters that are live. -/
def spoilBlocks (o : ArrayOp) (s : State) : State :=
  let put (s : State) (e : Qtr × Nat) : State :=
    putStake e.2 ((List.range o.desc.fmtC.outBytes).map (Config.freeByte s.freeCtr)) s.tick
  ((o.desc.outPlaces o.shares).filter fun e => s.array.live.get e.1).foldl put s

/-- Free bytes over the row statistics that an operation could write. -/
def spoilStats (p : Part) (o : ArrayOp) (s : State) : State :=
  let put (s : State) (e : Qtr × Nat × Nat) : State :=
    if (statsAccess s p e.1 e.2.1 e.2.2).1.isNone then blurRun p s e.2 else s
  (o.desc.statRuns o.shares).foldl put s

/-- Free bytes over the elements of the data sheets that have admitted an operation's FX64 adds. -/
def spoilAdds (p : Part) (o : ArrayOp) (s : State) : State :=
  match bufAt s p o.desc.buf with
  | none => s
  | some (_, ob) =>
    let b := bufHdr s p ob
    let added (n e : Nat) : Bool :=
      decide (n / b.across * 64 + e / 128 < o.desc.m) && decide (n % b.across * 128 + e % 128 < o.desc.n)
    let put (s : State) (n : Nat) : State :=
      let a := b.data + n * sheetBytes
      writeMem p a ((readMem s p ownMaster a sheetBytes).zipIdx.map fun e =>
        if added n (e.2 / 8) then Config.freeByte s.freeCtr e.2 else e.1) s.tick
    o.fxSheets.foldl put s

/-- The output of an operation that failed is undefined as a whole (R141, R422): its blocks, its row statistics and the
elements its adds have reached hold free bytes. -/
def spoilOutput (p : Part) (o : ArrayOp) (s : State) : State :=
  if o.desc.hold then s
  else
    let s := if o.desc.fmtC = .fx64 then spoilAdds p o s else spoilBlocks o s
    if o.desc.stats then spoilStats p o s else s

/-- Cells of a held tile are kept; a block that fails R417 ends the operation. -/
def holdTile (p : Part) (o : ArrayOp) (s : State) (q : Qtr) : State :=
  match (s.array.quarters.get q).cur with
  | none => s
  | some (t, b) =>
    let view := blurOp p o.ident s
    let s := { s with freeCtr := view.freeCtr }
    match tileCells view p o q t ((s.array.quarters.get q).bank b) 512 512 o.step o.desc.kPad with
    | .error (a, panel, j) =>
      let s := s.upd p fun y => { y with decodeErr := satAdd y.decodeErr 1 }
      abortOp p o ftMemError (blockDetail a panel j) s
    | .ok cells => updQuarter q (fun x =>
        { x.setBank b { x.bank b with state := .held, cells := bankCells cells } with cur := none }) s

/-- The report is written and the operation completes. -/
def reportOp (p : Part) (o : ArrayOp) (stall : Nat) (s : State) : State :=
  let bad := o.lost || o.fault.isSome
  let s := if bad then spoilOutput p o s else s
  -- the manual lists two values and gives neither for another fault: one of the two, free
  let status : B16 := if o.lost || o.fault.isSome && Config.freeNat s.freeCtr % 2 = 1 then stQuarterLost else stOk
  let (occ, mn, k, sk, st) := reportNumbers o stall
  let s := if o.fault.isSome then s.tick else s
  let s := s.updBench p fun y => { y with
    nfPos := if y.nfPos.getLsbD 63 then y.nfPos else o.nfPos
    occCyc := satAdd y.occCyc occ
    lostCyc := satAdd y.lostCyc ((mn + k + sk + st) / 1048576) }
  let (denied, s) : Option Nat × State := match benchAccess s p .w o.desc.report 64 with
    | (some c, acc) => (some c, noteDenied p (benchMaster p) .w acc s)
    | (none, _) => (none, smearOp p o.ident (writeMem p o.desc.report (reportBytes o stall status) s))
  let fault : Option (Nat × Nat) :=
    if o.lost then some (ftQuarterLost, 0)
    else match o.fault with
      | some c => some (c.toNat, o.extra)
      | none => denied.map fun c => (c, 0)
  leaveQueue p o fault s

/-- The drains of an operation end: its DRAINING banks are FREE (R113). -/
def QuarterArr.drainedOf (ident : Nat) (x : QuarterArr) : QuarterArr :=
  let f (x : QuarterArr) (b : Fin 2) : QuarterArr :=
    if (x.bank b).state = .draining && (x.bank b).owner = ident then x.free b else x
  f (f x 0) 1

/-- ARRAY_COMPLETE: the operation taken first, once all its tiles have drained or are to be held and its contributions have
reached their sheets. -/
def endArray (stall : Nat) (s : State) : State :=
  let p := arrayPart s
  match (s.part p).bench.arrayQ.find? fun o => o.phase ≠ .queued with
  | none => s
  | some o =>
    if s.contribs.any fun c => c.p = p && c.ident = o.ident then s
    else if o.phase = .fed then
      let drained := s.array.quarters.mapIdx fun _ => QuarterArr.drainedOf o.ident
      feedOn p (reportOp p o stall { s with array := { s.array with quarters := drained } })
    else if o.desc.hold && anyFeeds s then
      let s := four.foldl (holdTile p o) s
      match (s.part p).bench.arrayQ.find? fun x => x.ident = o.ident with
      | some o => feedOn p (reportOp p o stall s)
      | none => s
    else s

/-- ARRAY_COMPLETE. -/
def execArrayComplete (stall : B32) (s : State) : Host.Outcome State Fault Refusal :=
  next (settle (arrayPart s) s (endArray stall.toNat s))

/-! ## Contributions (R270 to R272, R480) -/

/-- A contribution reaches its sheet. Its sheet flags are set in the table entry at once; the header's show them from the
scan at closure on (R182, R283; DESIGN CHOICE). -/
def admitContribution (c : Contribution) (s : State) : State :=
  match s.obj? c.p c.handle with
  | none => updArrayOp c.p c.ident (fun o => { o with fault := if o.fault.isNone then some (BitVec.ofNat 8 ftAccess) else o.fault }) s
  | some o =>
    let b := bufHdr s c.p o
    let m := 0x40 + c.quarter.val
    let acc := checkMem s c.p m .a (b.data + c.sheet * sheetBytes) sheetBytes
    match acc with
    | .denied _ _ =>
      updArrayOp c.p c.ident (fun o => { o with fault := if o.fault.isNone then some (BitVec.ofNat 8 ftAccess) else o.fault })
        (noteDenied c.p m .a acc s)
    | .memError _ _ =>
      updArrayOp c.p c.ident (fun o => { o with fault := if o.fault.isNone then some (BitVec.ofNat 8 ftMemError) else o.fault }) s
    | _ =>
      if bufBroken s c.p o then refuseContribution c.p o id s
      else
        let e := bufEntry s c.p b c.sheet
        match admitLocal b e (posStep c.drawPos) (posPhase c.drawPos) (posLeaf c.drawPos) with
        | some why => refuseContribution c.p o why s
        | none =>
          let e := e.admitted (posLeaf c.drawPos)
          let s := updArrayOp c.p c.ident (fun o => { o with fxSheets := o.fxSheets ++ [c.sheet] }) s
          setBufEntry c.p b c.sheet { e with
            nonfinite := e.nonfinite || c.nonfinite, range := e.range || c.range, inexact := e.inexact || c.inexact }
            (addElements c.p b c.sheet c.adds s)

/-- CONTRIBUTION_ADMISSION: the waiting contribution at a place; a place that holds none changes nothing. -/
def execContributionAdmission (i : Nat) (s : State) : Host.Outcome State Fault Refusal :=
  match s.contribs[i]? with
  | some c => next (settle c.p s (admitContribution c { s with contribs := s.contribs.eraseIdx i }))
  | none => next s

/-! ## Time-sharing (R131 to R139, R617 to R621) -/

/-- Whether a stream's head is ready but for the array (R617). -/
def headWants (s : State) (p : Part) (st : Strm) : Bool :=
  let x := s.stream p st
  if x.state ≠ .run then false
  else match benchOf p st (readNat s p (benchMaster p) x.head.toNat 16) with
    | some (.array b d) => headReady b s && arraySlots s p d
    | some (.vrun b ..) => headReady b s
    | some (.planish b _) => headReady b s
    | _ => false

/-- Array demand of a partition (R617, R621). -/
def demand (s : State) (p : Part) : Bool :=
  (s.part p).bench.ctxSet && (four.any (headWants s p) || !(s.part p).pln.queue.isEmpty)

/-- What a holder still does on the array: operations in flight there, or demand. -/
def busyOnArray (s : State) (p : Part) : Bool :=
  demand s p || (s.part p).bench.flight.any fun f => f.kind = .array || f.kind = .vrun || f.kind = .planish

/-- The next holder (R619). -/
def nextHolder (s : State) : Option Part :=
  ([1, 2, 3].map fun i => Fin.ofNat 4 (s.array.holder.val + i)).find? (demand s)

/-- Whether a switch may take place at reduction step `step` of the current tiles (R131, R618): once the quantum has expired,
at an operation boundary, at a multiple of 512 that every quarter's current tile has yet to pass, or at step 0 of a later
tile; for a holder without demand at an operation boundary. -/
def mayCut (s : State) (step : Nat) : Bool :=
  let p := s.array.holder
  match feedOp s p with
  | none => s.array.expired || !busyOnArray s p
  | some o =>
    -- the quarters stand at the same step: each that has a tile of the current round still feeds it
    let together := four.all fun q => (o.tile q (o.round - 1)).isSome == (s.array.quarters.get q).cur.isSome
    s.array.expired && (if o.round = 0 then step = 0
      else if step = 0 then (together && decide (1 < o.round) && o.step = 0) || !anyFeeds s
      else together && step % 512 = 0 && decide (o.step < step) && decide (step < o.desc.kPad))

/-- Whether the feeding operation is cut mid-operation: it has started a tile. -/
def cutsMid (s : State) (p : Part) : Bool := (feedOp s p).any fun o => decide (0 < o.round)

/-- The cells of the tile that a quarter feeds, as far as step `step`, settle in their bank (R132). -/
def settleTile (p : Part) (o : ArrayOp) (step : Nat) (s : State) (q : Qtr) : State :=
  match (s.array.quarters.get q).cur with
  | none => s
  | some (t, b) =>
    let view := blurOp p o.ident s
    let s := { s with freeCtr := view.freeCtr }
    match tileCells view p o q t ((s.array.quarters.get q).bank b) 512 512 o.step step with
    | .error (a, panel, j) =>
      let s := s.upd p fun y => { y with decodeErr := satAdd y.decodeErr 1 }
      abortOp p o ftMemError (blockDetail a panel j) s
    | .ok cells => updQuarter q (fun x => x.setBank b { x.bank b with cells := bankCells cells }) s

/-! ### Saved cells (R132, R133, R135, R137, R138) -/

/-- A saved cell's 128 bits (R133). -/
def A96.saved (c : A96) : Nat :=
  bit c.inexact * 2 ^ 107 + c.tag.toNat * 2 ^ 105 + c.anchor % 512 * 2 ^ 96 + (c.value % 2 ^ 96).toNat

/-- The cell that 128 bits hold. -/
def A96.ofSaved (v : Nat) : A96 where
  value := signed 96 (field v 95 0)
  anchor := field v 104 96
  tag := BitVec.ofNat 2 (field v 106 105)
  inexact := v.testBit 107

/-- Where the staging region keeps bank `b` of the plate beside a slice: half 0 outbound, 1 inbound. The region's place is
R220's; which bytes of it hold which cell the manual leaves open: each slice holds the cells of its own plate. -/
def stagingOff (half : Nat) (b : Fin 2) : Nat := 0x5C_0000 + half * 0x2_0000 + b.val * 0x1_0000

/-- Row × 512 + column in the quarter of cell `c` of the plate beside slice `sl`. -/
def plateCell (sl c : Nat) : Nat := (sl / 8 * 64 + c / 64) * 512 + (sl % 8 * 64 + c % 64)

/-- Writes a bank's cells to the outbound half of the quarter's staging region. -/
def putCells (q : Qtr) (b : Fin 2) (cells : Map A96) (s : State) : State :=
  (List.range 64).foldl (fun s sl => putMem (sliceKey q sl (stagingOff 0 b))
    ((List.range 4096).flatMap fun c => leBytes 16 (Map.getD cells (plateCell sl c) {}).saved) s) s

/-- The cells that the inbound half of a quarter's staging region holds for a bank. -/
def getCells (s : State) (q : Qtr) (b : Fin 2) : Map A96 :=
  let read (n : Nat) : A96 :=
    let i := n / 512
    let j := n % 512
    A96.ofSaved (leNat (getMem s (sliceKey q (i / 64 * 8 + j / 64) (stagingOff 1 b + (i % 64 * 64 + j % 64) * 16)) 16))
  ((List.range 262144).map fun n => (n, read n)).filter fun e => e.2 ≠ {}

/-- A bank in FILLING or HELD is SAVING while its cells go to the staging region; a FREE one is not saved (R132). -/
def saveBank (q : Qtr) (s : State) (b : Fin 2) : State :=
  let k := (s.array.quarters.get q).bank b
  if k.state = .filling || k.state = .held then
    putCells q b k.cells (updQuarter q (fun x => x.setBank b { k with state := .saving }) s)
  else s

/-- A bank recorded as FILLING or HELD is RESTORING while its cells come from the staging region, and then takes the state
that the context records (R103). -/
def restoreBank (c : Context) (q : Qtr) (s : State) (b : Fin 2) : State :=
  let k := (c.quarters.get q).bank b
  if k.state = .filling || k.state = .held then
    let s := updQuarter q (fun x => x.setBank b { k with state := .restoring }) s
    updQuarter q (fun x => x.setBank b { k with cells := getCells s q b }) s
  else updQuarter q (fun x => x.setBank b k) s

/-- What the context records of a quarter: all but the cells. -/
def QuarterArr.noted (x : QuarterArr) : QuarterArr :=
  { x with bank0 := { x.bank0 with cells := [] }, bank1 := { x.bank1 with cells := [] } }

/-- The banks of every quarter are saved, and the context is recorded (R132, R134). -/
def saveContext (p : Part) (s : State) : State :=
  let c : Context := { quarters := s.array.quarters.mapIdx fun _ => QuarterArr.noted }
  let s := four.foldl (fun s q => saveBank q (saveBank q s 0) 1) s
  s.updBench p fun y => { y with context := some c }

/-- The banks of every quarter take what a partition's context holds; FREE banks where it has none. -/
def restoreContext (p : Part) (s : State) : State :=
  let c := (s.part p).bench.context.getD {}
  let s := { s with array := { s.array with quarters := .all {} } }
  let one (s : State) (q : Qtr) : State :=
    let s := restoreBank c q (restoreBank c q s 0) 1
    updQuarter q (fun x => { x with cur := (c.quarters.get q).cur, lastFreed := (c.quarters.get q).lastFreed }) s
  (four.foldl one s).updBench p fun y => { y with context := none }

/-- A context switch (R131 to R134, R138, R142). -/
def switchArray (step : Nat) (s : State) : State :=
  let p := s.array.holder
  match nextHolder s with
  | none => s
  | some n =>
    let ready := (s.part n).bench.context.isNone || s.array.copyIn = some n
    if !s.host.tsEn || !mayCut s step || s.array.copyOut.isSome || !ready then s
    else
      let s := match feedOp s p with
        | none => s
        | some o =>
          if cutsMid s p then
            let s := if step = 0 then s
              else updArrayOp p o.ident (fun o => { o with step }) (four.foldl (settleTile p o step) s)
            let s := updArrayOp p o.ident (fun o => { o with preempts := satAdd o.preempts 1 }) s
            s.updBench p fun y => { y with switches := satAdd y.switches 1 }
          else s
      let s := saveContext p (four.foldl (fun s q => updQuarter q QuarterArr.drained s) s)
      let s := endLostRuns n (restoreContext n s)
      feedOn n { s with array := { s.array with holder := n, expired := false, copyOut := some p, copyIn := none } }

/-- CONTEXT_SWITCH. -/
def execContextSwitch (step : BitVec 24) (s : State) : Host.Outcome State Fault Refusal := next (switchArray step.toNat s)

/-- ARRAY_QUANTUM_EXPIRY (R618). -/
def execArrayQuantumExpiry (s : State) : Host.Outcome State Fault Refusal :=
  next (if s.host.tsEn then { s with array := { s.array with expired := true } } else s)

/-- Bytes of a half of a quarter's staging region in one slice. -/
def halfBytes : Nat := 0x2_0000

/-- Where the context area keeps slice `sl` of quarter `q`: quarter by quarter, slice by slice (DESIGN CHOICE). -/
def contextAddr (s : State) (p : Part) (q : Qtr) (sl : Nat) : Nat :=
  (s.part p).bench.ctxBase.toNat + (q.val * 64 + sl) * halfBytes

/-- The outbound halves go to the partition's context area, or the area to the inbound halves (R138). -/
def moveContext (p : Part) (inbound : Bool) (s : State) : State :=
  let one (q : Qtr) (s : State) (sl : Nat) : State :=
    let a := contextAddr s p q sl
    if inbound then
      putMem (sliceKey q sl (stagingOff 1 0)) (readMem s p (benchMaster p) a halfBytes) (touchRead p a halfBytes s)
    else writeMem p a (getMem s (sliceKey q sl (stagingOff 0 0)) halfBytes) s
  four.foldl (fun s q => (List.range 64).foldl (one q) s) s

/-- CONTEXT_COPY (R138): a saved context has reached its area, or has come back from it. -/
def copyContext (p : Part) (inbound : Bool) (s : State) : State :=
  if inbound then
    if (s.part p).bench.context.isSome && s.array.copyOut ≠ some p && s.array.holder ≠ p then
      let s := moveContext p true s
      { s with array := { s.array with copyIn := some p } }
    else s
  else if s.array.copyOut = some p then
    let s := moveContext p false s
    { s with array := { s.array with copyOut := none } }
  else s

/-- CONTEXT_COPY. -/
def execContextCopy (p : Part) (inbound : Bool) (s : State) : Host.Outcome State Fault Refusal :=
  next (settle p s (copyContext p inbound s))

/-! ## A lost quarter (R140 to R144) -/

/-- What a fence of `q` leaves in the quarters of one context: nothing on the lost quarter, and elsewhere no bank of a lost
operation, nor a HELD one of a chain that the lost quarter held too (R141, R142); and the chains that it breaks. The
operation's bank that is fed becomes FREE before the others, and bank 0 before bank 1. -/
def fenceContext (q : Qtr) (lost : List Nat) (c : Quad QuarterArr) : Quad QuarterArr × List (Nat × B32) :=
  let heldOn (b : Fin 2) : List (Nat × B32) :=
    let k := (c.get q).bank b
    match k.state, k.holder with
    | .held, some t => [(b.val + 1, t)]
    | _, _ => []
  let chains := heldOn 0 ++ heldOn 1
  let cut (x : QuarterArr) (b : Fin 2) : QuarterArr :=
    let k := x.bank b
    if k.state = .held && chains.any (fun e => e.1 = b.val + 1 && some e.2 = k.holder) then x.free b else x
  let fix (i : Qtr) (x : QuarterArr) : QuarterArr :=
    if i = q then {} else cut (cut (lost.foldl (fun x n => x.dropOp n) x) 0) 1
  (c.mapIdx fix, chains)

/-- The operations of a partition after a fence of `q`: those with a share there are lost and feed no more (R140), and so
is one already taken that continues a chain the fence breaks (R142). -/
def ArrayOp.fenced (q : Qtr) (chains : List (Nat × B32)) (o : ArrayOp) : ArrayOp :=
  let broken := o.phase = .taken && o.round = 0 && o.desc.cont && chains.contains (o.desc.bank.toNat, o.desc.predTag)
  if o.shares.get q ≠ 0 || broken then
    { o with lost := true, phase := if o.phase = .taken then .fed else o.phase }
  else o

/-- The array loses quarter `q`: operations with a share there are lost (R140), banks become FREE (R141, R142), and plate
contexts are incomplete. -/
def loseArray (q : Qtr) (s : State) : State :=
  four.foldl (fun s p =>
    let here := arrayPart s = p
    let ops := (s.part p).bench.arrayQ
    let lost := (ops.filter fun o => o.shares.get q ≠ 0).map ArrayOp.ident
    let held := if here then some s.array.quarters else (s.part p).bench.context.map Context.quarters
    let (qs, chains) := match held with
      | some c => fenceContext q lost c
      | none => (.all {}, [])
    let taken := (ops.filter fun o => o.phase = .taken && o.round = 0 && o.desc.cont).map fun o =>
      (o.desc.bank.toNat, o.desc.predTag)
    let s := s.updBench p fun y => { y with
      arrayQ := y.arrayQ.map (ArrayOp.fenced q chains)
      latches := y.latches.map fun l => if l.shares.get q ≠ 0 then { l with lost := true } else l
      lostChains := y.lostChains ++ chains.filter fun e => !taken.contains e
      context := if here then y.context else y.context.map fun _ => { quarters := qs, incomplete := true } }
    let s := loseRuns q here p s
    if here then feedOn p { s with array := { s.array with quarters := qs } } else s) s

end Sys2Proof.Machine
end

