-- ==== Sys2Proof/Machine/Stitches.lean ====
section
/-!
DEFINITION. The host's stitch commands (R442, R444, R447, R448, R454, R644).
-/
namespace Sys2Proof.Machine

/-- The stitch of the partition's own range that an index names, if the host port may configure it there (R454, R644). -/
def ownStitch (s : State) (p : Part) (i : Nat) : Except (Option Nat) Nat :=
  match stitchAt s p i with
  | some (g, none) => if aclGrants s (56 + g / 4096) p.val .c then .ok g else .error (some (56 + g / 4096))
  | _ => .error none

/-- Counts a denial of right C at a bank. -/
def denyOwn (p : Part) (i : Nat) (t : Option Nat) (s : State) : State :=
  match t with
  | some t => denied p t p.val .c ((stitchAt s p i).elim 0 fun e => e.1) s
  | none => s

/-- ST_SET: sets COUNT and REMOTE and clears SAT; the registered waits are checked again. -/
def actStSet (p : Part) (i remote : Nat) (count : B32) (s : State) : CmdOut × State :=
  if remote > 1 then (.done stBadParam, s)
  else match ownStitch s p i with
    | .error t => (.done stNoAccess, denyOwn p i t s)
    | .ok g =>
      (cmdOk, checkWaits g (putStitch g { s.stitch g with count, remote := remote == 1, sat := false } s))

/-- ST_SET. -/
def execStSet (h : CmdHdr) (idx : B16) (remote : Byte) (count : B32) (s : State) : Host.Outcome State Fault Refusal :=
  next (hostCmd { opcode := 0x0306 } (.stSet h idx remote count) h [] false
    (actStSet h.fn idx.toNat remote.toNat count) s)

/-- ST_REPAIR (R454): a BROKEN stitch becomes OPEN, COUNT and EPOCH staying. -/
def actStRepair (p : Part) (i : Nat) (s : State) : CmdOut × State :=
  match ownStitch s p i with
  | .error t => (.done stNoAccess, denyOwn p i t s)
  | .ok g =>
    let x := s.stitch g
    if x.state ≠ .broken then (.done stBadParam, s)
    else (cmdOk, putStitch g { x with state := .opened, owner := 0xFF, stream := 0 } s)

/-- ST_REPAIR. -/
def execStRepair (h : CmdHdr) (idx : B16) (s : State) : Host.Outcome State Fault Refusal :=
  next (hostCmd { opcode := 0x0307 } (.stRepair h idx) h [] false (actStRepair h.fn idx.toNat) s)

/-- The status of a host command that meets `b` (R447, R448). -/
def StBad.status : StBad → B16
  | .broken => stStitchBroken
  | .access => stNoAccess
  | .busy => stBusy

/-- ST_LOCK by a host (R447): never waits. -/
def actStLock (p : Part) (i : Nat) (s : State) : CmdOut × State :=
  match reachStitch s p p.val .lock i with
  | .error t => (.done stNoAccess, denyStitch p p.val .lock i t s)
  | .ok g => match lockStitch g p.val 0 s with
    | .error b => (.done b.status, s)
    | .ok s => (.done stOk (res 64 (s.stitch g).word.toNat), s)

/-- ST_LOCK_CMD. -/
def execStLockCmd (h : CmdHdr) (idx : B16) (s : State) : Host.Outcome State Fault Refusal :=
  next (hostCmd { opcode := 0x0308 } (.stLockCmd h idx) h [] false (actStLock h.fn idx.toNat) s)

/-- ST_UNLOCK by a host (R448). -/
def actStUnlock (p : Part) (i : Nat) (e : Byte) (s : State) : CmdOut × State :=
  match reachStitch s p p.val .unlock i with
  | .error t => (.done stNoAccess, denyStitch p p.val .unlock i t s)
  | .ok g => match unlockStitch g p.val 0 e s with
    | .error b => (.done b.status, s)
    | .ok s => (cmdOk, s)

/-- ST_UNLOCK_CMD. -/
def execStUnlockCmd (h : CmdHdr) (idx : B16) (epoch : Byte) (s : State) : Host.Outcome State Fault Refusal :=
  next (hostCmd { opcode := 0x0309 } (.stUnlockCmd h idx epoch) h [] false (actStUnlock h.fn idx.toNat epoch) s)

/-- ST_SIGNAL by a host (R444). -/
def actStSignal (p : Part) (i v : Nat) (s : State) : CmdOut × State :=
  match reachStitch s p p.val .signal i with
  | .error t => (.done stNoAccess, denyStitch p p.val .signal i t s)
  | .ok g => (cmdOk, signalStitch g v s)

/-- ST_SIGNAL_CMD. -/
def execStSignalCmd (h : CmdHdr) (idx : B16) (value : B32) (s : State) : Host.Outcome State Fault Refusal :=
  next (hostCmd { opcode := 0x030A } (.stSignalCmd h idx value) h [] false
    (actStSignal h.fn idx.toNat value.toNat) s)

/-- ST_READ by a host (R444). -/
def actStRead (p : Part) (i : Nat) (s : State) : CmdOut × State :=
  match reachStitch s p p.val .read i with
  | .error t => (.done stNoAccess, denyStitch p p.val .read i t s)
  | .ok g => (.done stOk (res 0 (s.stitch g).word.toNat), s)

/-- ST_READ_CMD. -/
def execStReadCmd (h : CmdHdr) (idx : B16) (s : State) : Host.Outcome State Fault Refusal :=
  next (hostCmd { opcode := 0x030B } (.stReadCmd h idx) h [] false (actStRead h.fn idx.toNat) s)

/-- ST_EXPORT (R442): sets, replaces or clears an import window of another partition. -/
def actStExport (p : Part) (importer window first count ops : Nat) (s : State) : CmdOut × State :=
  if importer > 3 || importer = p.val || window > 7 || ops > 15 then (.done stBadParam, s)
  else
    let q : Part := Fin.ofNat 4 importer
    let old := Map.find? (s.part q).stc.imports window
    let r := (s.part p).stc
    if old.any fun w => w.src ≠ p then (.done stBusy, s)
    else if count = 0 then (cmdOk, s.updStc q fun x => { x with imports := Map.erase x.imports window })
    else if count > 4096 || r.count.toNat * 256 < first + count then (.done stBadParam, s)
    else
      let w : ImportWin :=
        { src := p, ops := BitVec.ofNat 4 ops, base := BitVec.ofNat 16 (r.base.toNat * 256 + first), count }
      (cmdOk, s.updStc q fun x => { x with imports := Map.insert x.imports window w })

/-- ST_EXPORT. -/
def execStExport (h : CmdHdr) (importer window : Byte) (first count : B16) (ops : Byte) (s : State) :
    Host.Outcome State Fault Refusal :=
  next (hostCmd { opcode := 0x030C } (.stExport h importer window first count ops) h [] false
    (actStExport h.fn importer.toNat window.toNat first.toNat count.toNat ops.toNat) s)

end Sys2Proof.Machine
end

