-- ==== Sys2Proof/Machine/Veto.lean ====
section
/-!
DEFINITION. VETO (R282 to R295, R334): closing a group's buffers, the local verdict, verdicts and results between leader and
followers, and the application of a result.
-/
namespace Sys2Proof.Machine

/-! ## The record and issue (R237, R253, R285) -/

/-- The record that 512 bits spell; none where a reserved bit is set. -/
def VetoRec.ofNat (v : Nat) : Option VetoRec :=
  if field v 421 418 ≠ 0 || field v 359 0 ≠ 0 then none
  else some {
    group := field v 511 480, step := field v 479 440, stitch := field v 439 424, sig := v.testBit 423
    closeOnly := v.testBit 422, vlane := v.testBit 417, rim := v.testBit 416, result := field v 415 360 }

/-- NONFINITE, RANGE and TORN of a buffer as REASON bits; a broken one counts as TORN (R783, R294). -/
def bufReason (s : State) (p : Part) (o : Obj) : Nat :=
  if bufBroken s p o then 4
  else let b := bufHdr s p o; bit b.nonfinite + 2 * bit b.range + 4 * bit b.torn

/-- Changes a pending VETO. -/
def updPending (p : Part) (ident : Nat) (f : PendingVeto → PendingVeto) (s : State) : State :=
  s.updVeto p fun v => { v with pending := v.pending.map fun x => if x.ident = ident then f x else x }

/-! ## Applying (R291, R292, R295, R334) -/

/-- A resolved step enters the verdict history: in place of the entry of its step, else in a free register, else in place
of the oldest (R334). -/
def recordVerdict (p : Part) (step : Nat) (skip : Bool) (reason : Nat) (s : State) : State :=
  s.updPln p fun y =>
    let h := y.hist
    let st : BitVec 40 := BitVec.ofNat 40 step
    let slot := match h.find? fun e => e.step = st with
      | some e => e.slot
      | none => match firstBelow 16 fun i => !h.any fun e => e.slot = i with
        | some i => i
        | none => (h.head?.map fun e => e.slot).getD 0
    { y with hist := (h.filter fun e => e.slot ≠ slot) ++ [{ slot, step := st, reason := BitVec.ofNat 8 reason, skip }] }

/-- The verdict record (R294). -/
def verdictBytes (x : PendingVeto) (code reason firstPos reported : Nat) : List Byte :=
  leBytes 32 (x.record.step * 2 ^ 216 + code * 2 ^ 208 + reason * 2 ^ 200 + reported % 2 ^ 40 * 2 ^ 160 +
    firstPos * 2 ^ 152 + x.dropped.toNat * 2 ^ 64 + x.partially.toNat)

/-- A stitch that a record's SIG asks for is signalled; the fault where it is refused. -/
def sigStitch (p : Part) (m : Nat) (sig : Bool) (idx : Nat) (s : State) : Option Nat × State :=
  if !sig then (none, s)
  else
    let (ok, s) := engineSignal p m idx s
    (if ok then none else some ftAccess, s)

/-- A VETO writes its verdict record, signals its stitch, and completes (R291, R292, R295). -/
def endVeto (p : Part) (x : PendingVeto) (code reason firstPos reported : Nat) (s : State) : State :=
  let (f1, s) : Option Nat × State := match benchAccess s p .w x.record.result 32 with
    | (some c, acc) => (some c, noteDenied p (benchMaster p) .w acc s)
    | (none, _) => (none, writeMem p x.record.result (verdictBytes x code reason firstPos reported) s)
  let (f2, s) := sigStitch p (benchMaster p) x.record.sig x.record.stitch s
  let s := s.updVeto p fun v => { v with
    closedOnly := decide (code = 2), pending := v.pending.filter fun y => y.ident ≠ x.ident }
  completeOp p x.ident ((f1.orElse fun _ => f2).map fun c => (c, 0, 0)) s

/-- The pending voting VETOs of a step. -/
def votingFor (s : State) (p : Part) (step : Nat) : List PendingVeto :=
  (s.part p).veto.pending.filter fun x => !x.record.closeOnly && x.record.step = step

/-- A result is applied (R291): registers, journal, history, and each voting VETO of the step. -/
def applyResult (p : Part) (r : VetoResult) (s : State) : State :=
  let xs := votingFor s p r.step
  let s := s.updVeto p fun v => { v with
    vstep := BitVec.ofNat 40 r.step, reason := BitVec.ofNat 8 r.reason, skip := r.skip
    skips := if r.skip then satAdd v.skips 1 else v.skips }
  let dropped := xs.foldl (fun a x => a ||| x.dropped) 0
  let partially := xs.foldl (fun a x => a ||| x.partially) 0
  let s := if r.skip then
      note p 0x0012 stVeto (place 224 184 (r.step % 2 ^ 40) ||| place 224 176 r.reason ||| place 224 112 dropped.toNat |||
        place 224 48 partially.toNat) s
    else s
  let s := recordVerdict p r.step r.skip r.reason s
  xs.foldl (fun s x => endVeto p x (bit r.skip) r.reason r.firstPos r.reported s) s

/-! ## The leader (R288 to R290) -/

/-- The leader resolves a step once its own verdict and those awaited are held. -/
def leaderTry (p : Part) (step : Nat) (s : State) : State :=
  let xs := votingFor s p step
  let v := (s.part p).veto
  let r := (s.part p).res
  let held := v.verdicts.filter fun x => x.step = step
  let own := s.vesin.myPos.toNat
  let awaited (x : PendingVeto) : List Nat := (List.range 40).filter fun d =>
    d ≠ own && x.awaited.getLsbD d && r.members.getLsbD d && !r.removed.contains d
  let ready := !xs.isEmpty && xs.all (fun x => x.judged) &&
    (xs.flatMap awaited).all fun d => held.any fun y => y.pos = d
  if !ready then s
  else
    let mine : Verdict := { step, pos := own, skip := xs.any fun x => x.skip
                            reason := xs.foldl (fun a x => a ||| x.reason) 0 }
    let votes := mine :: held
    let skips := (votes.filter fun y => y.skip).map fun y => y.pos
    let res : VetoResult := {
      step, skip := !skips.isEmpty, reason := votes.foldl (fun a y => a ||| y.reason) 0
      firstPos := skips.foldl min 0xFF
      reported := votes.foldl (fun a y => a ||| 2 ^ y.pos) 0 }
    let s := s.updVeto p fun v => { v with verdicts := v.verdicts.filter fun y => y.step ≠ step }
    applyResult p res (sendAll (held.map fun y => y.pos) (.result res) s)

/-- A VERDICT reaches the folio partition (R290). -/
def onVerdict (p : Part) (x : Verdict) (s : State) : State :=
  let v := (s.part p).veto
  let deciding := match v.pending.find? fun y => !y.record.closeOnly with
    | some y => y.record.step
    | none => posStep (s.part p).cad.pos
  if (s.part p).cad.role ≠ .leader || !(x.step = deciding || x.step = deciding + 1) then
    s.updVeto p fun v => { v with late := satAdd v.late 1 }
  else
    leaderTry p x.step (s.updVeto p fun v => { v with
      verdicts := v.verdicts.filter (fun y => !(y.step = x.step && y.pos = x.pos)) ++ [x] })

/-- A new leader sends the result that a member had already applied, and applies it. -/
def adoptResult (p : Part) (r : VetoResult) (s : State) : State :=
  let own := s.vesin.myPos.toNat
  let ds := (List.range 40).filter fun d => d ≠ own && (s.part p).res.members.getLsbD d
  applyResult p r (sendAll ds (.result r) (s.updVeto p fun v => { v with kept := v.kept.filter fun k => k.step ≠ r.step }))

/-- A RESULT reaches the folio partition (R287, R291); one that reaches a leader tells of a step resolved before it led. -/
def onResult (p : Part) (r : VetoResult) (s : State) : State :=
  let xs := votingFor s p r.step
  let held := xs.any fun x => x.judged
  -- one that comes while the step's VETO still closes its buffers is held with that VETO, and applied once it is judged
  let wait (s : State) : State :=
    if xs.isEmpty then s.updVeto p fun v => { v with kept := some r }
    else xs.foldl (fun s x => updPending p x.ident (fun y => { y with early := some r }) s) s
  match (s.part p).cad.role with
  | .standalone => s
  | .follower => if held then applyResult p r s else wait s
  | .leader => if held then adoptResult p r s else wait s

/-! ## The local verdict (R286, R287, R292, R293) -/

/-- A close-only VETO ends (R292, R293). -/
def endCloseOnly (p : Part) (x : PendingVeto) (s : State) : State :=
  let s := s.updVeto p fun v =>
    { v with carried := (if v.carriedStep = x.record.step then v.carried else 0) ||| BitVec.ofNat 3 x.reason
             carriedStep := x.record.step }
  endVeto p x 2 x.reason 0xFF 0 s

/-- A voting VETO forms its verdict and resolves, sends it, or waits. -/
def judgeVeto (p : Part) (x : PendingVeto) (s : State) : State :=
  let v := (s.part p).veto
  let b := (s.part p).bench
  let used := if v.carriedStep = x.record.step then v.carried.toNat else 0
  let reason := x.reason ||| used ||| (if x.record.rim && b.rimFlags.invalid then 8 else 0) |||
    (if x.record.vlane && b.vflags.invalid then 16 else 0)
  let skip := decide (reason ≠ 0)
  let step := x.record.step
  let s := s.updVeto p fun v => if v.carriedStep = step then { v with carried := 0 } else v
  let s := updPending p x.ident (fun y => { y with judged := true, reason, skip }) s
  let known := x.early.orElse fun _ => v.kept.filter fun r => r.step = step
  match (s.part p).cad.role, known with
  | .standalone, _ => applyResult p { step, skip, reason, firstPos := 0xFF, reported := 0 } s
  | .leader, some r => adoptResult p r s
  | .leader, none => leaderTry p step s
  | .follower, some r =>
    applyResult p r (s.updVeto p fun v => { v with kept := v.kept.filter fun r => r.step ≠ step })
  | .follower, none => sendMsg 0 (.verdict step skip reason) .none s

/-- The journal entry of a closed group with dropped or partial leaves. -/
def noteClosed (p : Part) (x : PendingVeto) (s : State) : State :=
  if x.dropped = 0 && x.partially = 0 then s
  else note p 0x0012 stOk (place 224 184 x.record.step ||| place 224 176 x.reason ||| place 224 112 x.dropped.toNat |||
    place 224 48 x.partially.toNat ||| place 224 16 x.record.group) s

/-- A VETO whose buffers are all CLOSED goes on. -/
def vetoClosed (p : Part) (s : State) (ident : Nat) : State :=
  match (s.part p).veto.pending.find? fun x => x.ident = ident with
  | none => s
  | some x =>
    if !x.toClose.isEmpty || x.judged then s
    else
      let s := noteClosed p x s
      if x.record.closeOnly then endCloseOnly p x s else judgeVeto p x s

/-- VETO at issue. -/
def runVeto (b : BenchHdr) (record : Addr) (s : State) : Except Halt State :=
  match fetchRec s b.p record.toNat 64 64 with
  | .error e => .error e
  | .ok bytes => match VetoRec.ofNat (leNat bytes) with
    | none => .error { code := ftWordRsvd }
    | some r =>
      if r.result % 32 ≠ 0 then .error { code := ftProgramAddr }
      else if (s.obj? b.p r.group).isNone then .error { code := ftAccess }
      else
        let toClose := ((groupBufs s b.p r.group).filter fun e =>
          bufBroken s b.p e.2 || (bufHdr s b.p e.2).step = r.step).map Prod.fst
        let addr := (s.stream b.p b.st).head
        let (n, s) := takeFlight b addr .veto 0 { writes := [(r.result, 32)] } (issueHead b (afterHead b s) s)
        let s := s.updVeto b.p fun v => { v with pending := v.pending ++
          [{ ident := n, record := r, toClose, awaited := (s.part b.p).res.members }] }
        .ok (vetoClosed b.p (touchRead b.p record.toNat 64 s) n)

/-- VETO. -/
def execVeto (b : BenchHdr) (record : Addr) (s : State) : Host.Outcome State Fault Refusal :=
  next (settle b.p s (benchOp b (fun _ => true) (runVeto b record) s))

/-! ## Closing (R282, R283) -/

/-- Whether an instance that still runs has had a contribution to the buffer admitted: its adds are not all applied. -/
def addsToCome (s : State) (p : Part) (h : Nat) : Bool :=
  (s.part p).bench.insts.any fun e => e.2.any fun i => i.sheets.any fun x => x.2 && decide (x.1 / 2 ^ 40 = h)

/-- Whether the buffer of a handle is still to be moved to CLOSED, and is not broken. -/
def closable (s : State) (p : Part) (h : Nat) : Bool :=
  match s.obj? p h with
  | some o => !bufBroken s p o && decide ((bufHdr s p o).state < 2)
  | none => false

/-- A buffer that VETOs are closing moves to CLOSED, every contribution admitted to it having been applied (R282). -/
def closeFor (p : Part) (h : Nat) (s : State) : State :=
  let waiting := (s.part p).veto.pending.filter fun x => x.toClose.contains h
  -- a buffer that has another step by now is not affected by a VETO's record (R284)
  let fits (x : PendingVeto) : Bool := match s.obj? p h with
    | some o => bufBroken s p o || (bufHdr s p o).step = x.record.step
    | none => true
  if waiting.isEmpty || (waiting.any fits && closable s p h && addsToCome s p h) then s
  else
    let drop (f : PendingVeto → PendingVeto) (s : State) : State :=
      waiting.foldl (fun s x => updPending p x.ident (fun y =>
        let y := { y with toClose := y.toClose.erase h }
        if fits x then f y else y) s) s
    let s := match (s.obj? p h).filter fun _ => waiting.any fits with
      | none => drop id s
      | some o =>
        if bufBroken s p o then drop (fun y => { y with reason := y.reason ||| 4 }) s
        else
          let fresh := decide ((bufHdr s p o).state < 2)
          let s := if fresh then closeBuf p o s else s
          let b := bufHdr s p o
          let d := BitVec.ofNat 64 b.dropped
          let q := BitVec.ofNat 64 b.partially
          let s := if fresh then
              s.updVeto p fun v => { v with dropped := v.dropped ||| d, partially := v.partially ||| q } else s
          let why := bufReason s p o
          drop (fun y => { y with reason := y.reason ||| why, dropped := y.dropped ||| d, partially := y.partially ||| q }) s
    waiting.foldl (fun s x => vetoClosed p s x.ident) s

/-- BUFFER_CLOSE. -/
def execBufferClose (p : Part) (handle : B32) (s : State) : Host.Outcome State Fault Refusal :=
  next (settle p s (closeFor p handle.toNat s))

end Sys2Proof.Machine
end

