-- ==== Sys2Proof/Machine/Vesin.lean ====
section
/-!
DEFINITION. Messages received and answered (R508 to R516, R523, R590): numbering and duplicates, SEND, ADD, SIGNAL and their
replies, marks, verdicts, results and timeouts.
-/
namespace Sys2Proof.Machine

/-! ## Acceptance (R514, R523, R590) -/

/-- Changes the folio registers and message layer. -/
def updVesin (f : Vesin → Vesin) (s : State) : State := { s with vesin := f s.vesin }

/-- Whether a message is discarded under R523 or R590. -/
def misrouted (m : MsgHdr) (s : State) : Bool :=
  let x := s.vesin
  let res := (s.part x.fpart).res
  !x.fvalid || m.dst ≠ x.myPos || m.src = x.myPos || x.mask m.src.toNat = 0 || res.removed.contains m.src.toNat ||
    (res.recommitted.contains m.src.toNat && !(x.mask m.src.toNat).getLsbD m.port.val)

/-- Counts a message that is discarded as misrouted. -/
def noteMisroute (s : State) : State := updVesin (fun x => { x with misroute := satAdd x.misroute 1 }) s

/-- The numbers accepted from a source. -/
def srcRecord (s : State) (d : Nat) : SrcRecord := Map.getD s.vesin.seqIn d {}

/-- Records a number as accepted, with the status its sender is given; numbers out of the window are forgotten. -/
def recordSeq (d n : Nat) (status : B16) (s : State) : State :=
  let r := srcRecord s d
  let h := max r.highest n
  updVesin (fun x => { x with
    seqIn := Map.insert x.seqIn d ⟨h, (Map.insert r.seen n status).filter fun e => decide (h ≤ e.1 + 8192)⟩ }) s

/-- Whether a number is in the window and new (R514). -/
def seqNew (s : State) (d n : Nat) : Bool :=
  let r := srcRecord s d
  decide (n ≤ r.highest + 8192) && decide (r.highest ≤ n + 8192) && (Map.find? r.seen n).isNone

/-- Whether an earlier copy of a message is still being applied (R514). -/
def stillApplied (m : MsgHdr) (s : State) : Bool := s.vesin.applying.any fun x => x.src = m.src && x.seq = m.seq

/-- A message discarded under R514: a duplicate of one with a reply is answered again, with BUSY while that one is still being
applied. -/
def discardDup (m : MsgHdr) (reply : Option (B16 → MsgBody)) (s : State) : State :=
  let first := if stillApplied m s then some stBusy else Map.find? (srcRecord s m.src.toNat).seen m.seq.toNat
  let s := updVesin (fun x => { x with dup := satAdd x.dup 1 }) s
  match reply, first with
  | some r, some st => sendMsg m.src.toNat (r st) .none s
  | _, _ => s

/-- A message arrives: discarded, or `act` applies it and gives the status its sender is answered. -/
def receive (m : MsgHdr) (reply : Option (B16 → MsgBody)) (act : Part → State → B16 × State) (s : State) : State :=
  if misrouted m s then noteMisroute s
  else if !seqNew s m.src.toNat m.seq.toNat || stillApplied m s then discardDup m reply s
  else
    let (st, s) := act s.vesin.fpart s
    let s := recordSeq m.src.toNat m.seq.toNat st s
    match reply with
    | some r => sendMsg m.src.toNat (r st) .none s
    | none => s

/-- A message without a reply arrives. -/
def receivePlain (m : MsgHdr) (act : Part → State → State) (s : State) : State :=
  receive m none (fun p s => (stOk, act p s)) s

/-! ## SEND, ADD, SIGNAL (R275, R457, R458, R510, R511) -/

/-- The master id of a port (R40). -/
def portMaster (v : Port) : Nat := 0x30 + v.val

/-- The check of a destination sheet (R510). -/
def landing (p : Part) (v : Port) (g : Right) (a : Nat) (s : State) : Bool × State :=
  if a % sheetBytes ≠ 0 || winLo ≤ a then (false, s)
  else match checkMem s p (portMaster v) g a sheetBytes with
    | .ok => (true, s)
    | acc => (false, noteDenied p (portMaster v) g acc s)

/-- SEND: the sheet is written, or refused. -/
def applySend (v : Port) (a : Nat) (data : List Byte) (p : Part) (s : State) : B16 × State :=
  match landing p v .w a s with
  | (true, s) => (stOk, writeMem p a data s)
  | (false, s) => (stNoAccess, s)

/-- SEND. -/
def execSend (m : MsgHdr) (addr : Addr) (sheet : List Byte) (s : State) : Host.Outcome State Fault Refusal :=
  next (settleMsg m (.send m addr sheet) s (receive m (some (.ack m.seq)) (applySend m.port addr.toNat sheet) s))

/-- ADD: the sheet is admitted and added, or counted as late or stale, or refused. -/
def applyAdd (v : Port) (a step : Nat) (mask : B64) (torn : Bool) (data : List Byte) (p : Part) (s : State) : B16 × State :=
  match landing p v .a a s with
  | (true, s) => (stOk, addSheet p a step mask.toNat torn data s)
  | (false, s) => (stNoAccess, s)

/-- ADD. -/
def execAdd (m : MsgHdr) (addr : Addr) (mask : B64) (step : BitVec 40) (torn : Bool) (sheet : List Byte) (s : State) :
    Host.Outcome State Fault Refusal :=
  next (settleMsg m (.add m addr mask step torn sheet) s
    (receive m (some (.ack m.seq)) (applyAdd m.port addr.toNat step.toNat mask torn sheet) s))

/-- Counts a refused remote signal (R458). -/
def noteRemoteDenied (p : Part) (s : State) : State := s.updStc p fun r => { r with remoteDenied := satAdd r.remoteDenied 1 }

/-- SIGNAL: applied within the own range to a stitch open to remote signals, or refused. -/
def applySignal (v : Port) (i : Nat) (value : B32) (p : Part) (s : State) : B16 × State :=
  if 0x8000 ≤ i then (stNoAccess, noteRemoteDenied p s)
  else match reachStitch s p (portMaster v) .signal i with
    | .error t => (stNoAccess, noteRemoteDenied p (denyStitch p (portMaster v) .signal i t s))
    | .ok g =>
      if (s.stitch g).remote then
        (stOk, signalStitch g value.toNat (s.updStc p fun r => { r with remoteIn := satAdd r.remoteIn 1 }))
      else (stNoAccess, noteRemoteDenied p s)

/-- SIGNAL. -/
def execSignal (m : MsgHdr) (stitch : B16) (value : B32) (s : State) : Host.Outcome State Fault Refusal :=
  next (receive m (some (.sigReply m.seq)) (applySignal m.port stitch.toNat value) s)

/-! ## Replies (R512, R515, R516) -/

/-- What waited for a message's reply goes on: a copy has one sheet fewer to wait for, a signal completes. -/
def endWaiter (m : OutMsg) (fault : Option Nat) (s : State) : State :=
  match m.waiter with
  | .none => s
  | .copy p ident => updCopy p ident (fun c => { c with
      waits := c.waits.erase m.seq.toNat
      fault := match fault with
        | some f => joinFault c.fault f
        | none => c.fault }) s
  | .signal p ident =>
    let idx := match m.body with
      | .signal i _ => i.toNat
      | _ => 0
    let s := s.updBench p fun y => { y with signals := y.signals.filter fun x => x.ident ≠ ident }
    completeOp p ident (fault.map fun f => (f, idx, 0)) s

/-- Whether two entries are one message. -/
def OutMsg.same (m n : OutMsg) : Bool := m.dst = n.dst && m.seq = n.seq

/-- The partition and master that ask for a message, where its port checks them (R524). -/
def OutMsg.asker (s : State) (m : OutMsg) : Option (Part × Nat) :=
  match m.waiter with
  | .copy p _ => some (p, benchMaster p)
  | .signal p _ => some (p, benchMaster p)
  | .none => m.master.map fun x => (s.vesin.fpart, x)

/-- Messages that waited go out where a port is UP and room is; one that its port denies ends with ACCESS (R524). -/
def retryWaiting (s : State) : State :=
  let w := s.vesin.waiting
  let one (s : State) (m : OutMsg) : State :=
    match (m.asker s).bind fun a => (portDenies s m.dst.toNat m.body a.2).map fun v => (a, v) with
    | some (a, v) => endWaiter m (some ftAccess) (noteSendDenied a.1 v a.2 m.body s)
    | none => dispatchMsg m s
  w.foldl one (updVesin (fun x => { x with waiting := [] }) s)

/-- A message has its reply, or ends without one. -/
def endMessage (m : OutMsg) (fault : Option Nat) (s : State) : State :=
  let s := updVesin (fun x => { x with
    awaiting := x.awaiting.filter fun n => !n.same m
    waiting := x.waiting.filter fun n => !n.same m }) s
  retryWaiting (endWaiter m fault s)

/-- An ACK or SIG_REPLY arrives for a message that `fits`; BUSY only starts its wait again. -/
def onReply (src : BitVec 6) (answered : B64) (status : B16) (fits : MsgBody → Bool) (s : State) : State :=
  match s.vesin.awaiting.find? fun a => a.dst = src && a.seq = answered && fits a.body with
  | none => s
  | some a =>
    if status = stBusy then s else endMessage a (if status = stNoAccess then some ftAccess else none) s

/-- ACK. -/
def execAck (m : MsgHdr) (answered : B64) (status : B16) (s : State) : Host.Outcome State Fault Refusal :=
  next (receivePlain m (fun _ s => onReply m.src answered status MsgBody.isData s) s)

/-- SIG_REPLY. -/
def execSigReply (m : MsgHdr) (answered : B64) (status : B16) (s : State) : Host.Outcome State Fault Refusal :=
  next (receivePlain m (fun _ s => onReply m.src answered status (fun b => !b.isData) s) s)

/-- A message to a removed position completes as though answered OK (R573). -/
def dropMessage (m : OutMsg) (s : State) : State := endMessage m none (noteDropped m.body s)

/-- A message ends as a timeout (R516). -/
def timeOut (m : OutMsg) (s : State) : State :=
  endMessage m (some ftPosition) (updVesin (fun x => { x with timeouts := satAdd x.timeouts 1 }) s)

/-- Sends a message again (R516, R533). -/
def resend (m : OutMsg) (s : State) : State :=
  if isRemoved s m.dst.toNat then dropMessage m s
  else dispatchMsg m (updVesin (fun x => { x with
    resent := satAdd x.resent 1, awaiting := x.awaiting.filter fun n => !n.same m }) s)

/-- MESSAGE_TIMEOUT: the message goes out again, at most three times. -/
def execMessageTimeout (dst : BitVec 6) (seq : B64) (s : State) : Host.Outcome State Fault Refusal :=
  match s.vesin.awaiting.find? fun a => a.dst = dst && a.seq = seq with
  | none => next s
  | some m => next (if m.tries ≥ 4 && !isRemoved s dst.toNat then timeOut m s else resend m s)

/-! ## Marks, verdicts, results (R59, R61, R53, R287 to R291) -/

/-- A mark from the leader. A malformed one counts in CAD_STALE whoever sent it (R53). A well-formed one from a position other
than 0, or at a partition that is no FOLLOWER, is dropped and not counted: R52 and R53 name neither case (DESIGN CHOICE). -/
def onMark (src : BitVec 6) (pos : B64) (p : Part) (s : State) : State :=
  if malformed pos then noteStale p s
  else if src ≠ 0 || (s.part p).cad.role ≠ .follower then s
  else if pos ≤ (s.part p).cad.pos then noteStale p s
  else applyPos p pos s

/-- MARK. -/
def execMark (m : MsgHdr) (pos : B64) (s : State) : Host.Outcome State Fault Refusal :=
  next (receivePlain m (onMark m.src pos) s)

/-- VERDICT. -/
def execVerdict (m : MsgHdr) (step : BitVec 40) (verdict reason : Byte) (s : State) : Host.Outcome State Fault Refusal :=
  next (receivePlain m (fun p s => onVerdict p ⟨step.toNat, m.src.toNat, verdict ≠ 0, reason.toNat⟩ s) s)

/-- RESULT. -/
def execResult (m : MsgHdr) (step : BitVec 40) (verdict reason firstPos : Byte) (reported : BitVec 40) (s : State) :
    Host.Outcome State Fault Refusal :=
  next (receivePlain m
    (fun p s => onResult p ⟨step.toNat, verdict ≠ 0, reason.toNat, firstPos.toNat, reported.toNat⟩ s) s)

end Sys2Proof.Machine
end

