-- ==== Sys2Proof/Machine/Checkpoint.lean ====
section
/-!
DEFINITION. Checkpoints: images and their slots (R537 to R545), capture (R546 to R551), mirrors (R552, R553), commits (R554),
and restores (R555 to R558).
-/
namespace Sys2Proof.Machine

/-- The checkpoint engine's master id (R37). -/
abbrev ckptMaster : Nat := 0x23

/-! ## Sets and slots (R537 to R539) -/

/-- The key of a set's first slot. -/
def setKey (o : Obj) : Option Nat := (Map.find? o.map 0).map fun x => x.region * 2 ^ 48 + x.frames.headD 0 * 2

/-- A set, as the partition's handle names it: its slots' key, and what its option block stated. -/
structure CkptSet where
  handle   : Nat
  key      : Nat
  capacity : Nat
  peer     : Nat
  atMirror : Bool

/-- The set that an object is, attached or created as one (R381, R537, R552). -/
def asSet (s : State) (h : Nat) (o : Obj) : Option CkptSet :=
  match o.kind, setKey o with
  | .ckptSet c m, some k => some ⟨h, k, c, m, false⟩
  | .mirrorSet c m, some k => some ⟨h, k, c, m, true⟩
  | .attach .., some k => match Map.find? s.images k with
    | some g => if 1 + 2 * g.capacity ≤ o.sheets then some ⟨h, k, g.capacity, g.peer, g.atMirror⟩ else none
    | none => none
  | _, _ => none

/-- The set that a handle names. -/
def setOf (s : State) (p : Part) (h : Nat) : Option CkptSet := (s.obj? p h).bind (asSet s h)

/-- The mirror set of a partition for a source position. -/
def mirrorFor (s : State) (p : Part) (src : Nat) : Option CkptSet :=
  (s.part p).tier.objects.findSome? fun e => (asSet s e.1 e.2).filter fun c => c.atMirror && c.peer = src

/-- The image of a slot. -/
def CkptSet.image (c : CkptSet) (s : State) (slot : Nat) : Image := Map.getD s.images (c.key + slot) {}

/-- Codes of STATE. -/
def ImgState.code : ImgState → Nat
  | .empty => 0
  | .writing => 1
  | .sealed => 2

/-- The bytes of an image header (R538). -/
def Image.headerBytes (g : Image) : List Byte :=
  leBytes 64 (g.imgNo % 2 ^ 32 * 2 ^ 480 + g.step % 2 ^ 40 * 2 ^ 440 + g.state.code * 2 ^ 438 + bit g.committed * 2 ^ 437 +
    g.source % 64 * 2 ^ 431 + g.slices.length % 2 ^ 16 * 2 ^ 400 + g.folioId.toNat * 2 ^ 352 + g.sealDig.toNat)

/-- The frame of sheet `i` of a slot, in the set's region. -/
def CkptSet.frame (c : CkptSet) (slot i : Nat) : Nat := c.key % 2 ^ 48 / 2 + 1 + slot * c.capacity + i

/-- The engine writes sheet `i` of a slot (R382, R383). But for the header no rule gives an image's bytes in its slot, so what
the sheet reads as is free. -/
def CkptSet.programSheet (c : CkptSet) (slot i : Nat) (s : State) : State :=
  let f := c.frame slot i
  putMem (frameKey .managed (c.key / 2 ^ 48) f) ((List.range sheetBytes).map (Config.freeByte s.freeCtr))
    (writeManaged (c.key / 2 ^ 48) f s).tick

/-- The engine writes `n` sheets of a slot from sheet `i` on. -/
def CkptSet.program (c : CkptSet) (slot i n : Nat) (s : State) : State :=
  (List.range n).foldl (fun s k => c.programSheet slot (i + k) s) s

/-- Puts an image into a slot; its header begins the slot's first sheet. -/
def CkptSet.put (c : CkptSet) (slot : Nat) (g : Image) (s : State) : State :=
  let g := { g with capacity := c.capacity, peer := c.peer, atMirror := c.atMirror }
  putMem (frameKey .managed (c.key / 2 ^ 48) (c.frame slot 0)) g.headerBytes
    (c.program slot 0 1 { s with images := Map.insert s.images (c.key + slot) g })

/-- The slot that holds the image with the highest number among those that `f` takes. -/
def CkptSet.newest (c : CkptSet) (s : State) (f : Image → Bool) : Option Nat :=
  match f (c.image s 0), f (c.image s 1) with
  | true, true => some (if (c.image s 1).imgNo > (c.image s 0).imgNo then 1 else 0)
  | true, false => some 0
  | false, true => some 1
  | false, false => none

/-- The slot in which a new image opens (R539). -/
def CkptSet.nextSlot (c : CkptSet) (s : State) : Nat :=
  match c.newest s fun g => g.state = .sealed && g.committed with
  | some i => 1 - i
  | none => match c.newest s fun g => g.state = .sealed with
    | some i => 1 - i
    | none => 0

/-- The slot with the WRITING image. -/
def CkptSet.writing (c : CkptSet) (s : State) : Option Nat := c.newest s fun g => g.state = .writing

/-- A RESILIENCE entry about an image (R593, R778). -/
def imgNote (p : Part) (event : Nat) (status : B16) (c : CkptSet) (g : Image) (cause : Nat) (s : State) : State :=
  resNote p event status (place 224 184 c.handle ||| place 224 152 (g.imgNo % 2 ^ 32) ||| place 224 112 (g.step % 2 ^ 40) |||
    BitVec.ofNat 224 cause) s

/-- The WRITING image is abandoned (R541). -/
def abandonImage (p : Part) (c : CkptSet) (slot cause : Nat) (s : State) : State :=
  let g := c.image s slot
  imgNote p 2 stOk c g cause ((c.put slot {} s).updRes p fun r => { r with abandons := satAdd r.abandons 1 })

/-! ## Hallmarks (R550, R551) -/

/-- A list in pieces of 64. -/
def by64 {α : Type} (l : List α) : List (List α) :=
  (List.range ((l.length + 63) / 64)).map fun i => (l.drop (64 * i)).take 64

/-- The root above a level of hallmarks. -/
def rootOf : Nat → List B256 → B256
  | 0, l => l.headD 0
  | n + 1, l => if l.length ≤ 1 then l.headD 0 else rootOf n ((by64 l).map fun g => sha256Val (g.flatMap digestBytes))

/-- The root of an object's hallmark tree; 2^56 bytes have at most eight levels. -/
def hallmarkRoot (marks : List B256) : B256 := rootOf 8 marks

/-- A sheet's hallmark. -/
def hallmark (data : List Byte) : B256 := sha256Val data

/-- The bytes of an object's sheet `i`. -/
def objSheet (s : State) (o : Obj) (i : Nat) : List Byte :=
  match Map.find? o.map i with
  | some x => sheetData s x
  | none => List.replicate sheetBytes 0

/-- The root of an object as it stands. -/
def objRoot (s : State) (o : Obj) : B256 := hallmarkRoot ((List.range o.sheets).map fun i => hallmark (objSheet s o i))

/-! ## Capture (R540 to R549) -/

/-- The export id of an object: the lowest that names it (R545, R581). -/
def exportId (s : State) (p : Part) (h : Nat) : Option Nat :=
  (List.find? (fun e => e.2 = h) (s.part p).res.exports).map Prod.fst

/-- The fields of a checkpoint slice's ARG (R540). -/
structure SliceArg where
  set    : Nat
  slice  : Nat
  final  : Bool
  staged : Bool
  stitch : Nat
  sig    : Bool

/-- Reads an ARG. -/
def sliceArg (e : Event) : SliceArg :=
  let v := e.arg.toNat
  ⟨field v 127 96, field v 95 84, v.testBit 83, v.testBit 82, field v 71 56, v.testBit 55⟩

/-- The slots that a packed object's headers name, with generation and image (R431). -/
def punchOf (s : State) (p : Part) (o : Obj) : List PunchRec :=
  (namedSlots s p o).map fun i => ⟨i, (s.slot i).gen, (s.slot i).image⟩

/-- Punch records joined, each slot once. -/
def joinPunch (a b : List PunchRec) : List PunchRec := a ++ b.filter fun x => !a.any fun y => y.slot = x.slot

/-- Whether the images of a set go to a mirror that can be reached by its position (R552, R553). -/
def mirrored (s : State) (p : Part) (c : CkptSet) : Bool :=
  s.folioPart = some p && c.peer ≠ 63 && s.vesin.mask c.peer ≠ 0 && c.peer ≠ s.vesin.myPos.toNat && !isRemoved s c.peer

/-- The checkpoint engine signals a slice's stitch. -/
def sliceSignal (p : Part) (a : SliceArg) (s : State) : State :=
  if a.sig then (engineSignal p ckptMaster a.stitch s).2 else s

/-- The partition record of a FINAL firing, as captured when it fired. -/
def finalRecord (s : State) (p : Part) (f : Firing) : PartRecord :=
  match (s.part p).res.finals.find? fun x => x.1 = f.idx && x.2.1 = f.pos with
  | some x => x.2.2
  | none => partRecord s p f.pos

/-- A FINAL slice has been captured: the image awaits its seal. -/
def markFinal (p : Part) (c : CkptSet) (slot : Nat) (f : Firing) (s : State) : State :=
  let g := c.image s slot
  let r := finalRecord s p f
  let s := s.updRes p fun x => { x with finals := x.finals.filter fun y => !(y.1 = f.idx && y.2.1 = f.pos) }
  c.put slot { g with final := true, partRec := some { r with punch := g.punch } } s

/-- The end of a slice: its FINAL mark, its firing. -/
def endSlice (p : Part) (c : CkptSet) (slot : Nat) (f : Firing) (s : State) : State :=
  let s := if (sliceArg f.entry).final then markFinal p c slot f s else s
  doneFiring p f s

/-- Sheets of an image's slot in use: the header's and the slices'. -/
def Image.used (g : Image) : Nat := 1 + (g.slices.map fun x => x.sheets).sum

/-- A slice's sheets go into the image, and to its mirror. -/
def captureSlice (p : Part) (c : CkptSet) (slot : Nat) (f : Firing) (h : Nat) (o : Obj) (data : Map (List Byte))
    (punch : List PunchRec) (s : State) : State :=
  let a := sliceArg f.entry
  let g := c.image s slot
  let marks : Map B256 := data.map fun e => (e.1, hallmark e.2)
  let root := hallmarkRoot (Map.values marks)
  let x : SliceRec := {
    slice := a.slice, exportId := (exportId s p h).getD 0xFFFF, object := h, sheets := o.sheets, policy := o.policy, root
    data, marks }
  let s := c.program slot g.used o.sheets (touchRead p o.base (o.sheets * sheetBytes) s)
  let s := c.put slot { g with slices := g.slices ++ [x], punch := joinPunch g.punch punch } s
  let s := s.updRes p fun r => { r with slices := satAdd r.slices 1 }
  let s := if mirrored s p c then
      data.foldl (fun s e => engineSend ckptMaster c.peer
        (.fill 1 a.slice g.imgNo e.1 (e.2 ++ digestBytes (hallmark e.2))) s) s
    else s
  endSlice p c slot f s

/-- The image into which a slice goes, and whether it takes the slice (R539, R541). -/
def openFor (p : Part) (c : CkptSet) (step : Nat) (s : State) : Nat × State :=
  let s := match c.writing s with
    | some i => if (c.image s i).step ≠ step then abandonImage p c i 1 s else s
    | none => s
  match c.writing s with
  | some i => (i, s)
  | none =>
    let i := c.nextSlot s
    let n := max (c.image s 0).imgNo (c.image s 1).imgNo + 1
    (i, c.put i { imgNo := n, step, state := .writing, source := s.vesin.myPos.toNat, folioId := s.vesin.folioId } s)

/-- Whether the staging regions are claimed for hallmark capture by the partition (R547). -/
def stagedFor (s : State) (p : Part) : Bool :=
  match s.host.staging with
  | .capture q => q = p
  | _ => false

/-- A slice begins: captured at once, or its sheets marked pending. An object that is not the partition's is refused before
anything is written (R39). -/
def startSlice (p : Part) (c : CkptSet) (f : Firing) (s : State) : State :=
  let a := sliceArg f.entry
  let h := f.entry.object.toNat
  if h ≠ 0 && (s.obj? p h).isNone then doneFiring p f s
  else
  let (slot, s) := openFor p c (posStep f.pos) s
  let g := c.image s slot
  if h = 0 then
    if a.final then endSlice p c slot f (sliceSignal p a s) else doneFiring p f s
  else match s.obj? p h with
    | none => doneFiring p f s
    | some o =>
      let acc := checkMem s p ckptMaster .r o.base (o.sheets * sheetBytes)
      if g.slices.any fun x => x.slice = a.slice then doneFiring p f (abandonImage p c slot 2 s)
      else if g.used + o.sheets > c.capacity then doneFiring p f (abandonImage p c slot 3 s)
      else if acc ≠ .ok then doneFiring p f (noteDenied p ckptMaster .r acc s)
      else if a.staged && stagedFor s p then
        let s := s.updRes p fun r => { r with
          snap := some { firing := f, handle := h, pending := List.range o.sheets, punch := punchOf s p o } }
        sliceSignal p a s
      else
        let s := if a.staged then s.updRes p fun r => { r with unstaged := satAdd r.unstaged 1 } else s
        let data := numbered ((List.range o.sheets).map (objSheet s o))
        let s := captureSlice p c slot f h o data (punchOf s p o) s
        sliceSignal p a s

/-- The staged slice under way goes into the image, each sheet from its staging copy when it has one (R548). -/
def endStaged (p : Part) (x : Snap) (s : State) : State :=
  let s := s.updRes p fun r => { r with snap := none }
  match setOf s p (sliceArg x.firing.entry).set, s.obj? p x.handle with
  | some c, some o => match c.writing s with
    | some slot =>
      let sheet (i : Nat) : List Byte := (Map.find? x.staged i).getD (objSheet s o i)
      captureSlice p c slot x.firing x.handle o (numbered ((List.range o.sheets).map sheet)) x.punch s
    | none => doneFiring p x.firing s
  | _, _ => doneFiring p x.firing s

/-- CHECKPOINT_SLICE: the engine ends the staged slice under way, or takes the next firing. -/
def checkpointStep (p : Part) (s : State) : State :=
  match (s.part p).res.snap, (s.part p).cad.ckptQ with
  | some x, _ => endStaged p x s
  | none, [] => s
  | none, f :: rest =>
    let s := takenFiring p f (s.updCad p fun c => { c with ckptQ := rest })
    match setOf s p (sliceArg f.entry).set with
    | some c => if c.atMirror then doneFiring p f s else startSlice p c f s
    | none => doneFiring p f s

/-- CHECKPOINT_SLICE. -/
def execCheckpointSlice (p : Part) (s : State) : Host.Outcome State Fault Refusal := next (checkpointStep p s)

/-! ## Records as bytes (R340, R343, R344, R544, R545) -/

/-- A directory entry. -/
def SliceRec.bytes (x : SliceRec) : List Byte :=
  leBytes 64 (x.slice % 2 ^ 12 * 2 ^ 500 + x.exportId % 2 ^ 16 * 2 ^ 484 + x.object % 2 ^ 32 * 2 ^ 452 +
    x.sheets % 2 ^ 40 * 2 ^ 412 + x.policy.toNat * 2 ^ 256 + x.root.toNat)

/-- Reads a directory entry. -/
def SliceRec.ofBytes (l : List Byte) : SliceRec :=
  let v := leNat l
  { slice := field v 511 500, exportId := field v 499 484, object := field v 483 452, sheets := field v 451 412
    policy := BitVec.ofNat 128 (field v 383 256), root := BitVec.ofNat 256 (field v 255 0) }

/-- The directory. -/
def Image.dirBytes (g : Image) : List Byte := g.slices.flatMap SliceRec.bytes

/-- A register of BNC_PLN_HIST (R344). -/
def histWord (h : List HistEntry) (i : Nat) : B64 :=
  match h.find? fun e => e.slot = i with
  | some e => place 64 24 e.step.toNat ||| place 64 16 e.reason.toNat ||| BitVec.ofNat 64 (bit e.skip)
  | none => 3

/-- The partition record. -/
def PartRecord.bytes (r : PartRecord) : List Byte :=
  leBytes 8 r.pos.toNat ++
    leBytes 16 0 ++ leBytes 8 r.seeds.toNat ++ (r.draws.reverse.flatMap fun d => leBytes 8 d.toNat) ++ leBytes 8 r.pos.toNat ++
    ((List.range 16).flatMap fun i => leBytes 8 (histWord r.hist i).toNat) ++
    ((List.range 1024).flatMap fun i => leBytes 32 (match Map.find? r.events i with
      | some e => e.bits.toNat
      | none => 0)) ++
    r.punch.flatMap fun x => [BitVec.ofNat 8 x.slot, x.gen] ++ List.replicate 6 0 ++ takePad 256 0 x.image

/-- Reads a partition record; entries of the verdict history count as older the lower their STEP. -/
def PartRecord.ofBytes (l : List Byte) : PartRecord :=
  let n (i k : Nat) : Nat := leNat ((l.drop i).take k)
  let hist : List HistEntry := (List.range 16).filterMap fun i =>
    let v := n (72 + 8 * i) 8
    if field v 1 0 = 3 then none
    else some ⟨i, BitVec.ofNat 40 (field v 63 24), BitVec.ofNat 8 (field v 23 16), decide (field v 1 0 = 1)⟩
  let events : Map Event := (List.range 1024).filterMap fun i =>
    let e := Event.ofBits (BitVec.ofNat 256 (n (200 + 32 * i) 32))
    if e.kind = 0 then none else some (i, e)
  let punch : List PunchRec := (List.range ((l.length - 32968) / 264)).map fun i =>
    ⟨n (32968 + 264 * i) 1, BitVec.ofNat 8 (n (32969 + 264 * i) 1), (l.drop (32976 + 264 * i)).take 256⟩
  { pos := BitVec.ofNat 64 (n 0 8), seeds := BitVec.ofNat 64 (n 24 8)
    draws := [56, 48, 40, 32].map fun i => BitVec.ofNat 64 (n i 8)
    hist := sortBy (fun a b => decide (a.step ≤ b.step)) hist, events, punch }

/-- SEAL (R538). -/
def Image.digest (g : Image) : B256 :=
  sha256Val (g.dirBytes ++ match g.partRec with
    | some r => r.bytes
    | none => [])

/-! ## Sealing (R543, R552, R553) -/

/-- An image seals. -/
def sealImage (p : Part) (c : CkptSet) (slot : Nat) (g : Image) (s : State) : State :=
  let g := { g with state := .sealed }
  imgNote p 1 stOk c g 0 ((c.put slot g s).updRes p fun r => { r with seals := satAdd r.seals 1 })

/-- The last parts of an image go to its mirror: directory, record, header. -/
def sendRecords (c : CkptSet) (g : Image) (s : State) : State :=
  let part (n : Nat) (d : List Byte) (s : State) : State := engineSend ckptMaster c.peer (.fill 4 0 g.imgNo n d) s
  part 0 g.headerBytes (part 2 ((g.partRec.map PartRecord.bytes).getD []) (part 1 g.dirBytes s))

/-- IMAGE_SEAL: every slice is in flash. -/
def sealStep (p : Part) (set : Nat) (s : State) : State :=
  match setOf s p set with
  | none => s
  | some c => match c.writing s with
    | none => s
    | some slot =>
      let g := c.image s slot
      let busy : Bool := match (s.part p).res.snap with
        | some x => decide ((sliceArg x.firing.entry).set = set)
        | none => false
      if c.atMirror || !g.final || busy then s
      else
        let s := sealImage p c slot { g with sealDig := g.digest } s
        let g := c.image s slot
        if mirrored s p c then sendRecords c g s
        else if c.peer ≠ 63 then imgNote p 5 stOk c g 0 s else s

/-- IMAGE_SEAL. -/
def execImageSeal (p : Part) (set : B32) (s : State) : Host.Outcome State Fault Refusal := next (sealStep p set.toNat s)

/-! ## Mirrors (R552) -/

/-- A STATUS message: STEP, code, and the cadence position (R583). -/
def statusBody (s : State) (step : Nat) (code : B16) : MsgBody :=
  .fillCtrl 0x0C step code.toNat 0 (leBytes 8 (s.part s.vesin.fpart).cad.pos.toNat)

/-- An image's copy is committed, and its owner told (R554). -/
def commitMirror (p : Part) (c : CkptSet) (slot src : Nat) (s : State) : State :=
  let g := c.image s slot
  let s := if g.committed then s else imgNote p 3 stOk c g 0 (c.put slot { g with committed := true } s)
  sendMsg src (statusBody s g.step stOk) .none s

/-- Whether every part of a mirror's image has arrived. -/
def Image.whole (g : Image) : Bool :=
  g.gotHead && g.gotDir && g.partRec.isSome && g.slices.all fun x => x.data.length = x.sheets

/-- A mirror's image seals when its header arrives after all its other parts (R552); an answer that waited for it goes out. -/
def tryMirrorSeal (p : Part) (c : CkptSet) (slot : Nat) (s : State) : State :=
  let g := c.image s slot
  if g.state ≠ .writing || !g.whole || g.sealDig ≠ g.digest then s
  else
    let s := sealImage p c slot g s
    let due (x : Nat × Nat × Nat) : Bool := x.1 = c.peer && x.2.2 = g.imgNo
    if (s.part p).res.deferred.any due then
      commitMirror p c slot c.peer (s.updRes p fun r => { r with deferred := r.deferred.filter fun x => !due x })
    else s

/-- The slot for a part of image `img`; none when that image is already sealed. -/
def mirrorSlot (c : CkptSet) (src img : Nat) (s : State) : Option (Nat × State) :=
  if [0, 1].any fun i => (c.image s i).imgNo = img && (c.image s i).state = .sealed then none
  else
    let s := match c.writing s with
      | some i => if (c.image s i).imgNo ≠ img then c.put i {} s else s
      | none => s
    match c.writing s with
    | some i => some (i, s)
    | none =>
      let i := c.nextSlot s
      some (i, c.put i { imgNo := img, state := .writing, source := src } s)

/-- The address in the set's object of sheet `i` of a slot. -/
def CkptSet.slotAddr (c : CkptSet) (o : Obj) (slot i : Nat) : Nat := o.base + (1 + slot * c.capacity + i) * sheetBytes

/-- The sheets of data that an image holds. -/
def Image.heldSheets (g : Image) : Nat := (g.slices.map fun x => x.data.length).sum

/-- A part of an image arrives at its mirror set. It is written as the port it came by (R40): at the slot's first sheet, or
for a sheet of data at the next one free, in the order of arrival (DESIGN CHOICE). -/
def onMirror (v : Port) (p : Part) (src img : Nat) (data head : Bool) (f : Image → Image) (s : State) : State :=
  match mirrorFor s p src with
  | none => s
  | some c => match s.obj? p c.handle, mirrorSlot c src img s with
    | some o, some (slot, t) =>
      let i := if data then 1 + (c.image t slot).heldSheets else 0
      match landing p v .w (c.slotAddr o slot i) s with
      | (false, s) => s
      | (true, _) =>
        let t := c.put slot (f (c.image t slot)) (if data then c.program slot i 1 t else t)
        if head then tryMirrorSeal p c slot t else t
    | _, _ => s

/-- The image with one more sheet of a slice. -/
def Image.withSheet (g : Image) (n i : Nat) (data : List Byte) (mark : B256) : Image :=
  let new : SliceRec := { slice := n, exportId := 0, object := 0, sheets := 0, policy := 0, root := 0 }
  let g := if g.slices.any fun c => c.slice = n then g else { g with slices := g.slices ++ [new] }
  g.addSheet n i data mark

/-- FILL_MIRROR: a sheet whose hallmark holds goes into the image. -/
def execFillMirror (m : MsgHdr) (slice : B16) (img : B32) (sheet : Nat) (data : List Byte) (mark : B256) (s : State) :
    Host.Outcome State Fault Refusal :=
  next (receivePlain m (fun p s =>
    if hallmark data = mark then
      onMirror m.port p m.src.toNat img.toNat true false (fun g => g.withSheet slice.toNat sheet data mark) s
    else s) s)

/-- The directory's slices, with the sheets received. -/
def Image.withDir (g : Image) (l : List Byte) : Image :=
  let dir := (List.range (l.length / 64)).map fun i => SliceRec.ofBytes ((l.drop (64 * i)).take 64)
  { g with
    gotDir := true
    slices := dir.map fun x => match g.slices.find? fun y => y.slice = x.slice with
      | some y => { x with data := y.data, marks := y.marks }
      | none => x }

/-- The header of the owner's image. -/
def Image.withHeader (g : Image) (l : List Byte) : Image :=
  let v := leNat (l.take 64)
  { g with
    gotHead := true, step := field v 479 440, source := field v 436 431, folioId := BitVec.ofNat 32 (field v 383 352)
    sealDig := BitVec.ofNat 256 (field v 255 0) }

/-- FILL_RECORD: the header, the directory or the partition record of an image. -/
def execFillRecord (m : MsgHdr) (img : B32) (part : Fin 3) (data : List Byte) (s : State) : Host.Outcome State Fault Refusal :=
  let f (g : Image) : Image :=
    if part = 0 then g.withHeader data else if part = 1 then g.withDir data
    else { g with partRec := some (PartRecord.ofBytes data) }
  next (receivePlain m (fun p s => onMirror m.port p m.src.toNat img.toNat false (decide (part = 0)) f s) s)

/-! ## Committing (R554) -/

/-- The image of a slot is committed. -/
def commitImage (p : Part) (c : CkptSet) (slot : Nat) (s : State) : State :=
  let g := { c.image s slot with committed := true }
  imgNote p 3 stOk c g 0 (c.put slot g s)

/-- STANDBY_COMMIT: the newest sealed image not yet committed. -/
def commitStep (p : Part) (s : State) : State :=
  match (s.part p).cad.commitQ with
  | [] => s
  | f :: rest =>
    let s := takenFiring p f (s.updCad p fun c => { c with commitQ := rest })
    match setOf s p f.entry.object.toNat with
    | none => doneFiring p f s
    | some c => match c.newest s fun g => g.state = .sealed && !g.committed with
      | none => doneFiring p f s
      | some slot =>
        let g := c.image s slot
        if c.peer = 63 then doneFiring p f (commitImage p c slot s)
        else
          let s := s.updRes p fun r => { r with commits := r.commits ++
            [{ firing := f, set := c.handle, slot, imgNo := g.imgNo, step := g.step, mirror := c.peer }] }
          if s.folioPart = some p then sendMsg c.peer (.fillCtrl 0x09 g.step g.imgNo 0 []) .none s else s

/-- STANDBY_COMMIT. -/
def execStandbyCommit (p : Part) (s : State) : Host.Outcome State Fault Refusal := next (commitStep p s)

/-- A mirror answers a COMMIT_IMG. -/
def commitAnswered (p : Part) (src step : Nat) (s : State) : State :=
  match (s.part p).res.commits.find? fun w => w.mirror = src && w.step = step with
  | none => s
  | some w =>
    let s := s.updRes p fun r => { r with commits := r.commits.erase w }
    let s := match setOf s p w.set with
      | some c => if (c.image s w.slot).imgNo = w.imgNo && (c.image s w.slot).state = .sealed then
          commitImage p c w.slot s else s
      | none => s
    doneFiring p w.firing s

/-- MIRROR_COMMIT_TIMEOUT: an answer has not come within 10 s. -/
def commitTimeout (p : Part) (set : Nat) (s : State) : State :=
  match (s.part p).res.commits.find? fun w => w.set = set with
  | none => s
  | some w =>
    let s := s.updRes p fun r => { r with commits := r.commits.erase w }
    let s := match setOf s p w.set with
      | some c => imgNote p 4 stBusy c (c.image s w.slot) 0 s
      | none => s
    doneFiring p w.firing s

/-- MIRROR_COMMIT_TIMEOUT. -/
def execMirrorCommitTimeout (p : Part) (set : B32) (s : State) : Host.Outcome State Fault Refusal :=
  next (commitTimeout p set.toNat s)

/-- COMMIT_IMG reaches the mirror, which answers once the image is sealed there. -/
def onCommitImg (src step img : Nat) (p : Part) (s : State) : State :=
  match mirrorFor s p src with
  | none => s
  | some c => match c.newest s fun g => g.state = .sealed && g.imgNo = img && g.step = step with
    | some slot => commitMirror p c slot src s
    | none => s.updRes p fun r => { r with deferred := r.deferred ++ [(src, step, img)] }

/-- COMMIT_IMG. -/
def execCommitImg (m : MsgHdr) (step img : BitVec 40) (s : State) : Host.Outcome State Fault Refusal :=
  next (receivePlain m (onCommitImg m.src.toNat step.toNat img.toNat) s)

/-! ## Restoring (R341 to R343, R431, R555 to R558) -/

/-- The object handles of a list at an address. -/
def handleList (s : State) (p : Part) (m a n : Nat) : List Nat := (List.range n).map fun i => readNat s p m (a + 4 * i) 4

/-- Why an image cannot be restored into a list of objects (R555). -/
def restoreBad (s : State) (p : Part) (g : Image) (hs : List Nat) : Option B16 :=
  if g.state ≠ .sealed || hs.length ≠ g.slices.length || g.sealDig ≠ g.digest then some stBadParam
  else if hs.any fun h => (s.obj? p h).isNone then some stNoAccess
  else if (g.slices.zip hs).any fun e => (s.obj? p e.2).any fun o => o.sheets ≠ e.1.sheets then some stBadParam
  else none

/-- CKPT_RESTORE at its start. -/
def actRestore (p : Part) (set slot list count : Nat) (s : State) : CmdOut × State :=
  if slot > 1 then (.done stBadParam, s)
  else match s.obj? p set with
  | none => (.done stNoAccess, s)
  | some _ => match setOf s p set with
    | none => (.done stBadParam, s)
    | some c =>
      if anyRunning s p then (.done stBusy, s)
      else match hostRead p list (4 * count) s with
        | (some e, s) => (.done e, s)
        | (none, s) =>
          let hs := handleList s p p.val list count
          match restoreBad s p (c.image s slot) hs with
          | some e => (.done e, s)
          | none => (.started (.restore set slot hs 0), s)

/-- CKPT_RESTORE. -/
def execCkptRestore (h : CmdHdr) (set : B32) (slot : Byte) (list : B64) (count : B16) (s : State) :
    Host.Outcome State Fault Refusal :=
  next (hostCmd { opcode := 0x0500, long := true } (.ckptRestore h set slot list count) h
    (leBytes 4 set.toNat ++ leBytes 4 slot.toNat ++ leBytes 8 list.toNat ++ leBytes 2 count.toNat) false
    (actRestore h.fn set.toNat slot.toNat list.toNat count.toNat) s)

/-- Whether each punch set recorded can be had (R431). -/
def punchFree (s : State) (r : PartRecord) : Bool :=
  r.punch.all fun x =>
    let y := s.slot x.slot
    y.state = .free || (y.gen = x.gen && y.image = x.image)

/-- The recorded punch sets whose slots are FREE are loaded again. -/
def reloadPunch (p : Part) (r : PartRecord) (s : State) : State :=
  r.punch.foldl (fun s x =>
    if (s.slot x.slot).state = .free then
      updSlot x.slot (fun _ => { state := .loaded, owner := p, fmt := BitVec.ofNat 2 (x.image.getD 128 0).toNat, gen := x.gen
                                 refs := 0, image := x.image }) s
    else s) s

/-- The first sheet of a slice whose hallmark differs, or the slice's sheet count where the root differs. -/
def sliceBad (x : SliceRec) : Option Nat :=
  match (List.range x.sheets).find? fun i => Map.find? x.marks i ≠ (Map.find? x.data i).map hallmark with
  | some i => some i
  | none => if hallmarkRoot (Map.values x.marks) = x.root then none else some x.sheets

/-- Writes a slice into its object. -/
def writeSlice (p : Part) (x : SliceRec) (o : Obj) (s : State) : State :=
  x.data.foldl (fun s e => writeMem p (o.base + e.1 * sheetBytes) e.2 s) s

/-- The contents of an object are undefined from here on. -/
def spoilObject (p : Part) (h : Nat) (s : State) : State :=
  match s.obj? p h with
  | none => s
  | some o => (List.range o.sheets).foldl (fun s i =>
      writeMem p (o.base + i * sheetBytes) ((List.range sheetBytes).map (Config.freeByte s.freeCtr)) s.tick) s

/-- The draw positions of a record are restored; a stream that was one draw ahead is realigned (R342, R343). -/
def restoreDraws (p : Part) (r : PartRecord) (s : State) : State :=
  four.foldl (fun s st =>
    let d := r.draws.getD st.val 0
    let ahead := decide (r.pos < d)
    let s := s.updStream p st fun x => { x with state := .idle, tags := [], drawPos := if ahead then r.pos else d }
    let s := unregister p st s
    if ahead then
      note p 0x0013 stRealigned (place 224 222 st.val ||| place 224 158 d.toNat ||| place 224 94 r.pos.toNat)
        (s.updPln p fun y => { y with realigned := satAdd y.realigned 1 })
    else s) s

/-- The partition record is applied (R64, R339, R558). Entries whose target is not later than the position stay in the table
and fire no more (R65). -/
def applyRecord (p : Part) (r : PartRecord) (s : State) : State :=
  let past := (r.events.filter fun e => e.2.kind ≠ 0 && decide (e.2.target ≤ r.pos)).map Prod.fst
  let s := s.updCad p fun c => { c with
    pos := r.pos, events := r.events, busy := [], lastShot := past, ckptQ := [], assayQ := [], lateQ := [], commitQ := [] }
  let s := s.updPln p fun y => { y with hist := r.hist }
  let s := s.updVeto p fun v => { v with kept := none, carried := 0 }
  restoreDraws p r (s.updRes p fun x => { x with finals := [] })

/-- Copies slices into objects until a hallmark differs; the objects written are spoiled then (R556, R557). -/
def copySlices (p : Part) : List (SliceRec × Nat) → List Nat → State → Bool × State
  | [], _, s => (true, s)
  | (x, h) :: rest, done, s =>
    match s.obj? p h, sliceBad x with
    | some o, none => copySlices p rest (h :: done) (writeSlice p x o s)
    | _, bad =>
      let s := resNote p 6 stDigest (place 224 184 h ||| place 224 152 x.slice ||| place 224 56 (bad.getD 0)) s
      (false, (h :: done).foldl (fun s h => spoilObject p h s) s)

/-- An image is restored (R556 to R558): the status, and whether the record was applied. -/
def restoreImage (p : Part) (g : Image) (hs : List Nat) (s : State) : B16 × State :=
  match g.partRec with
  | none => (stBadParam, s)
  | some r =>
    if (partRecord s p 0).seeds ≠ r.seeds then (stDigest, s)
    else if !punchFree s r then (stTableInUse, s)
    else
      let denied := hs.findSome? fun h => (s.obj? p h).bind fun o =>
        let acc := checkMem s p ckptMaster .w o.base (o.sheets * sheetBytes)
        if acc = .ok then none else some acc
      match denied with
      | some acc => (stNoAccess, noteDenied p ckptMaster .w acc s)
      | none =>
        let (ok, s) := copySlices p (g.slices.zip hs) [] (reloadPunch p r s)
        if ok then (stOk, applyRecord p r s) else (stDigest, s)

/-- The end of CKPT_RESTORE. -/
def endRestore (p : Part) (set slot : Nat) (hs : List Nat) (s : State) : B16 × B128 × State :=
  match setOf s p set with
  | none => (stBadParam, 0, s)
  | some c => match restoreBad s p (c.image s slot) hs with
    | some e => (e, 0, s)
    | none =>
      let (st, s) := restoreImage p (c.image s slot) hs s
      (st, 0, s)

/-- The STEPs of the committed images of the rollback set, slot by slot (R583, R592). -/
def rollbackSteps (s : State) (p : Part) : List (Option Nat) :=
  match setOf s p (s.part p).res.rbSet.toNat with
  | none => [none, none]
  | some c => [0, 1].map fun i =>
      let g := c.image s i
      if g.state = .sealed && g.committed then some g.step else none

end Sys2Proof.Machine
end

