-- ==== Sys2Proof/Machine/Ports.lean ====
section
/-!
DEFINITION. Vesin ports: states and training (R526 to R534, R669), session keys (R504 to R506), and received flits (R491 to
R502).
-/
namespace Sys2Proof.Machine

/-! ## Lanes -/

/-- The largest width of 8, 6, 4, 2 that a mask's population reaches; 0 with fewer than 2 lanes (R530). -/
def widthOf (mask : Nat) : Nat :=
  let n := popcount mask
  if n = 8 then 8 else if 6 ≤ n then 6 else if 4 ≤ n then 4 else if 2 ≤ n then 2 else 0

/-- The lowest-numbered `w` lanes of a mask. -/
def lowLanes (mask w : Nat) : Nat :=
  (((List.range 8).filter fun i => mask.testBit i).take w).foldl (fun a i => a + 2 ^ i) 0

/-! ## Leaving a session -/

/-- The partition whose journal records what ports do (R531). -/
def linkPart (s : State) : Part := s.folioPart.getD 0

/-- A LINK entry (R778). -/
def linkNote (cause : Nat) (v : Port) (old new lanes : Nat) (s : State) : State :=
  note (linkPart s) 0x0040 stLinkDegraded
    (place 224 216 cause ||| place 224 212 v.val ||| place 224 208 old ||| place 224 204 new ||| place 224 196 lanes) s

/-- A port without a session: what its registers keep. -/
def VPort.closed (q : VPort) (st : PortSt) : VPort :=
  { state := st, good := q.good, peerSerial := q.peerSerial, fecCorr := q.fecCorr, fecUncorr := q.fecUncorr
    replays := q.replays, authFail := q.authFail, retrains := q.retrains, downs := q.downs, txBytes := q.txBytes
    rxBytes := q.rxBytes, laserFail := q.laserFail }

/-- The messages a port carried that are not acknowledged, and those sent on it that await a reply (R533), each once. -/
def carried (s : State) (v : Port) : List OutMsg :=
  let all := (s.vesin.port v).carrying.map Prod.fst ++ s.vesin.awaiting.filter fun m => m.port = some v
  all.foldl (fun l m => if l.any fun n => n.same m then l else l ++ [m]) []

/-- A port's session ends: what it carried goes out on other ports. -/
def closePort (v : Port) (st : PortSt) (s : State) : State :=
  let ms := carried s v
  ms.foldl (fun s m => resend m s) (updPort v (fun q => q.closed st) s)

/-- A port goes DOWN (R533). -/
def portDown (v : Port) (s : State) : State :=
  let q := s.vesin.port v
  if q.state = .down || q.state = .off then s
  else
    let s := updPort v (fun q => { q with downs := satAdd q.downs 1 }) s
    linkNote 2 v q.width 0 0 (closePort v .down s)

/-- A port goes ISOLATED (R505, R528). -/
def isolate (v : Port) (reason : Nat) (s : State) : State :=
  let q := s.vesin.port v
  updPort v (fun r => { r with
    isoReason := BitVec.ofNat 4 reason, width := q.width, lanes := q.lanes, peerPos := q.peerPos }) (closePort v .isolated s)

/-- A port is UP: positions it reaches are reachable again, and messages that waited go out (R534). -/
def portUp (v : Port) (s : State) : State :=
  let s := updPort v (fun q => { q with state := .up, isoReason := 0, linkReq := none, peerMask := none }) s
  retryWaiting (updVesin (fun x => { x with expired := x.expired.filter fun d => !(x.mask d).getLsbD v.val }) s)

/-! ## Keys (R504, R506) -/

/-- The installed folio key with an identifier. -/
def folioKey (s : State) (ident : Byte) : Option B256 :=
  ([s.vesin.curKey, s.vesin.nextKey].filterMap id).findSome? fun k => if k.1 = ident then some k.2 else none

/-- The session key of a port with a folio key, from both ends' nonces. -/
def portKey (s : State) (q : VPort) (key : B256) (ident : Byte) (peerNonce : B128) : B256 :=
  sessionKey key ident s.serial q.nonce q.peerSerial peerNonce

/-- The body of a REKEY flit. -/
def rekeyBody (ident : Byte) (nonce : B128) : List Byte := linkBody 3 [(10, [ident]), (16, leBytes 16 nonce.toNat)]

/-- A port sends REKEY for a folio key, with a fresh nonce. -/
def startRekey (v : Port) (ident : Byte) (s : State) : State :=
  let n := Config.nonce s.freeCtr
  sendLink v (rekeyBody ident n) (updPort v (fun q => { q with nonce := n, rekeying := true, rekeyed := false }) s.tick)

/-- Whether a key switch is in progress. -/
def switching (s : State) : Bool :=
  four.any fun p => (s.part p).host.longs.any fun e => e.2.work = .keySwitch

/-- The body of a HELLO flit (R500). -/
def helloBody (s : State) (v : Port) (nonce : B128) : List Byte :=
  let ident := match s.vesin.curKey, s.vesin.nextKey with
    | some k, _ => k.1
    | none, some k => k.1
    | none, none => 0
  linkBody 4 [(16, leBytes 8 s.serial.toNat), (24, leBytes 4 s.vesin.folioId.toNat), (28, [s.vesin.myPos.setWidth 8]),
    (29, [BitVec.ofNat 8 v.val]), (30, [ident]), (32, leBytes 16 nonce.toNat)]

/-! ## Full training (R526 to R528) -/

/-- LANE_LOCK: a port in DETECT with at least 2 locked lanes goes to TRAIN. -/
def execLaneLock (port : Port) (lanes : Byte) (s : State) : Host.Outcome State Fault Refusal :=
  next (if (s.vesin.port port).state = .detect && 2 ≤ popcount lanes.toNat then
    updPort port (fun q => q.closed .train) s else s)

/-- The reason for which a trained port does not accept its neighbour (R528). -/
def isoReasonOf (s : State) (v : Port) : Option Nat :=
  let q := s.vesin.port v
  if q.peerFolio ≠ s.vesin.folioId then some 1
  else if (folioKey s q.peerKeyId).isNone then some 2
  else if q.peerPos = s.vesin.myPos then some 3
  else if q.peerPos.toNat < 40 && !(s.vesin.mask q.peerPos.toNat).getLsbD v.val then some 4
  else none

/-- The end of TRAIN, once the lanes are trained and the neighbour's HELLO is in: UP with a session key, or ISOLATED. -/
def endTrain (v : Port) (s : State) : State :=
  let q := s.vesin.port v
  if q.state ≠ .train || !q.trained || !q.helloIn then s
  else match isoReasonOf s v with
    | some r => isolate v r s
    | none =>
      let key := (folioKey s q.peerKeyId).map fun k => portKey s q k q.peerKeyId q.peerNonce
      let s := portUp v (updPort v (fun q => { q with keyTx := key, keyRx := key }) s)
      match s.vesin.nextKey with
      | some k =>
        if switching s && q.peerKeyId ≠ k.1 then startRekey v k.1 s
        else updPort v (fun q => { q with rekeyed := true }) s
      | none => s

/-- FULL_TRAINING: the width is chosen, and HELLO is sent. -/
def trainPort (v : Port) (good peerGood : Byte) (s : State) : State :=
  let both := (good &&& peerGood).toNat
  let w := widthOf both
  if (s.vesin.port v).state ≠ .train then s
  else if w = 0 then portDown v (updPort v (fun q => { q with good, peerGood }) s)
  else
    let n := Config.nonce s.freeCtr
    let s := updPort v (fun q => { q with
      width := w, lanes := BitVec.ofNat 8 (lowLanes both w), good, peerGood, nonce := n, trained := true }) s.tick
    endTrain v (sendLink v (helloBody s v n) s)

/-- FULL_TRAINING. -/
def execFullTraining (port : Port) (good peerGood : Byte) (s : State) : Host.Outcome State Fault Refusal :=
  next (trainPort port good peerGood s)

/-- HELLO: what the neighbour says of itself. -/
def execHello (port : Port) (serial : B64) (folio : B32) (pos : BitVec 6) (peerPort keyId : Byte) (nonce : B128)
    (s : State) : Host.Outcome State Fault Refusal :=
  let _ := peerPort
  if (s.vesin.port port).state ≠ .train then next s
  else
    next (endTrain port (updPort port (fun q => { q with
      peerSerial := serial, peerFolio := folio, peerPos := pos, peerKeyId := keyId, peerNonce := nonce, helloIn := true }) s))

/-- DOWN_RETRY: an enabled port in DOWN goes to DETECT, unless its laser source has failed (R669). -/
def execDownRetry (port : Port) (s : State) : Host.Outcome State Fault Refusal :=
  let q := s.vesin.port port
  next (if q.state = .down && s.vesin.portEn.getLsbD port.val && !q.laserFail then
    updPort port (fun q => q.closed .detect) s else s)

/-- LASER_SOURCE_FAIL: the port goes DOWN and does not train again (R669). -/
def failLaser (v : Port) (s : State) : State :=
  let q := s.vesin.port v
  let s := updPort v (fun q => { q with
    laserFail := true, downs := if q.state = .down || q.state = .off then q.downs else satAdd q.downs 1 }) s
  linkNote 3 v q.width 0 0 (if q.state = .off then s else closePort v .down s)

/-- LASER_SOURCE_FAIL. -/
def execLaserSourceFail (port : Port) (s : State) : Host.Outcome State Fault Refusal := next (failLaser port s)

/-! ## Fast retrain (R496, R529 to R531) -/

/-- A fast retrain begins: this end sends RETRAIN. -/
def startRetrain (v : Port) (s : State) : State :=
  let q := s.vesin.port v
  if q.state ≠ .up then s
  else
    let s := updPort v (fun q => { q with state := .retrain, retrains := satAdd q.retrains 1 }) s
    sendLink v (linkBody 2 [(10, [q.good])]) s

/-- LANE_DROP: a lane in use is no longer good. -/
def execLaneDrop (port : Port) (lane : Fin 8) (s : State) : Host.Outcome State Fault Refusal :=
  let q := s.vesin.port port
  if !q.lanes.getLsbD lane.val || !(q.state == .up || q.state == .retrain) then next s
  else
    let s := updPort port (fun q => { q with good := q.good &&& ~~~(1#8 <<< lane.val) }) s
    if q.state = .up then next (startRetrain port s)
    else next (sendLink port (linkBody 2 [(10, [(s.vesin.port port).good])]) s)

/-- RETRAIN: the neighbour's mask of good lanes; this end retrains with it. -/
def execRetrain (port : Port) (mask : Byte) (s : State) : Host.Outcome State Fault Refusal :=
  let q := s.vesin.port port
  if !(q.state == .up || q.state == .retrain) then next s
  else next (startRetrain port (updPort port (fun q => { q with peerMask := some mask, peerGood := mask }) s))

/-- RETRY_LIMIT: a flit sent three times is still not acknowledged. -/
def execRetryLimit (port : Port) (s : State) : Host.Outcome State Fault Refusal :=
  next (if (s.vesin.port port).retry.any (fun f => decide (f.2.2 ≥ 3)) then startRetrain port s else s)

/-! ## Replay (R495) -/

/-- A kept flit as it is sent again: the same bytes with current ACK and credits, and a new CRC. -/
def flitAgain (q : VPort) (bytes : List Byte) : List Byte :=
  let h := leNat (bytes.take 8)
  flitBytes q (h - field h 55 22 * 2 ^ 22) ((bytes.drop 8).take 244)

/-- Sends the kept flits from number `seq` on; `anew` starts the counts of their sends again. -/
def replayFrom (v : Port) (seq : B16) (anew : Bool) (s : State) : State :=
  let q := s.vesin.port v
  let later (f : B16 × List Byte × Nat) : Bool := decide ((f.1 - seq).toNat < 32768)
  let again (f : B16 × List Byte × Nat) : B16 × List Byte × Nat :=
    if later f then (f.1, flitAgain q f.2.1, if anew then 1 else f.2.2 + 1) else f
  let q' := { q with retry := q.retry.map again }
  let s := updPort v (fun _ => q') s
  (q'.retry.filter later).foldl (fun s f => putFlit v f.2.1 s) s

/-- REPLAY: the neighbour wants the flits from a number on. -/
def execReplay (port : Port) (seq : B16) (s : State) : Host.Outcome State Fault Refusal :=
  next (if (s.vesin.port port).state = .up then
    replayFrom port seq false (updPort port (fun q => { q with replays := satAdd q.replays 1 }) s) else s)

/-- The end of a fast retrain, when both masks are known. -/
def endRetrain (v : Port) (s : State) : State :=
  let q := s.vesin.port v
  match q.state, q.peerMask with
  | .retrain, some m =>
    let both := (q.good &&& m).toNat
    let w := min (widthOf both) q.width
    if w = 0 then portDown v s
    else
      let lanes := lowLanes both w
      -- on other lanes both directions begin a new codeword
      let s := portUp v (updPort v (fun q => { q with width := w, lanes := BitVec.ofNat 8 lanes, txBits := [], rxBits := [] }) s)
      let s := match q.retry with
        | [] => s
        | f :: _ => replayFrom v f.1 true s
      let s := pump v 4160 s
      if w < q.width then raiseAlert (linkNote 1 v q.width w lanes s) else s
  | _, _ => s

/-- FAST_RETRAIN_DONE. -/
def execFastRetrainDone (port : Port) (s : State) : Host.Outcome State Fault Refusal := next (endRetrain port s)

/-- LINK_FLIT_REPEAT: a request not yet met goes out again (R500). -/
def execLinkFlitRepeat (port : Port) (s : State) : Host.Outcome State Fault Refusal :=
  match (s.vesin.port port).linkReq with
  | some b => next (sendLink port b s)
  | none => next s

/-! ## Key switch (R506) -/

/-- Both nonces are known: the next run goes under the new session key with KSEL inverted. -/
def switchKey (v : Port) (key : B256) (s : State) : State :=
  updPort v (fun q => { q with
    keyTx := some key, ksel := !q.ksel, txRun := 0, keyRx := some key
    keyPrev := if q.keyPrev.isSome then q.keyPrev else q.keyRx
    rekeying := false, rekeyed := true, linkReq := none }) s

/-- REKEY: the neighbour's nonce for a new session key; this end answers with its own. -/
def onRekey (v : Port) (ident : Byte) (nonce : B128) (s : State) : State :=
  let q := s.vesin.port v
  match folioKey s ident with
  | none => s
  | some key =>
    if q.state ≠ .up then s
    else if nonce = q.peerNonce then putFlit v (flitBytes q (2 * 2 ^ 60) (rekeyBody ident q.nonce)) s
    else
      let s := if q.rekeying then s else startRekey v ident s
      let s := updPort v (fun q => { q with peerNonce := nonce }) s
      switchKey v (portKey s (s.vesin.port v) key ident nonce) s

/-- REKEY. -/
def execRekey (port : Port) (keyId : Byte) (nonce : B128) (s : State) : Host.Outcome State Fault Refusal :=
  next (onRekey port keyId nonce s)

/-- KEY_SWITCH starts: every UP port sends REKEY for NEXT. -/
def actKeySwitch (s : State) : CmdOut × State :=
  match s.vesin.nextKey with
  | none => (.done stBadParam, s)
  | some k =>
    (.started .keySwitch,
      eight.foldl (fun s v => if (s.vesin.port v).state = .up then startRekey v k.1 s else s) s)

/-- KEY_SWITCH. -/
def execKeySwitch (h : CmdHdr) (s : State) : Host.Outcome State Fault Refusal :=
  next (hostCmd { opcode := 0x0605, long := true, issuer := .folio } (.keySwitch h) h [] false actKeySwitch s)

/-- Once every UP port has switched, NEXT becomes CUR; none before. -/
def endKeySwitch (s : State) : Option State :=
  if eight.all (fun v => (s.vesin.port v).state ≠ .up || (s.vesin.port v).rekeyed) then
    some (updVesin (fun x => { x with curKey := x.nextKey, nextKey := none }) s)
  else none

/-! ## Commands (R532, R647) -/

/-- PORT_CFG: ports are enabled and disabled, and LINK_HOLD is set. -/
def actPortCfg (enable : Byte) (hold : Nat) (s : State) : CmdOut × State :=
  if hold = 0 || 1000 < hold then (.done stBadParam, s)
  else
    let s := updVesin (fun x => { x with portEn := enable, linkHold := BitVec.ofNat 10 hold }) s
    let one (s : State) (v : Port) : State :=
      let q := s.vesin.port v
      if !enable.getLsbD v.val then (if q.state = .off then s else closePort v .off s)
      else if q.state = .off && !q.laserFail then updPort v (fun q => q.closed .detect) s
      else s
    (cmdOk, eight.foldl one s)

/-- PORT_CFG. -/
def execPortCfg (h : CmdHdr) (enable : Byte) (linkHold : B16) (s : State) : Host.Outcome State Fault Refusal :=
  next (hostCmd { opcode := 0x0603, issuer := .p0 } (.portCfg h enable linkHold) h [] false
    (actPortCfg enable linkHold.toNat) s)

/-- A port trains in full again. -/
def retrainPort (s : State) (v : Port) : State :=
  let st := (s.vesin.port v).state
  if st = .up || st = .retrain || st = .isolated then closePort v .train s else s

/-- PORT_RETRAIN. -/
def execPortRetrain (h : CmdHdr) (mask : Byte) (s : State) : Host.Outcome State Fault Refusal :=
  next (hostCmd { opcode := 0x0604, long := true, issuer := .p0OrFolio } (.portRetrain h mask) h
    (leBytes 20 mask.toNat) false
    (fun s => (.started (.report stOk 0), (eight.filter fun v => mask.getLsbD v.val).foldl retrainPort s)) s)

/-- The folio registers have changed: ISOLATED ports that are enabled train again (R526). -/
def folioChanged (s : State) : State :=
  eight.foldl (fun s v =>
    if (s.vesin.port v).state = .isolated && s.vesin.portEn.getLsbD v.val then closePort v .train s else s) s

/-! ## Flits received (R492 to R502, R505) -/

/-- This end wants the flits from the next number on. -/
def askReplay (v : Port) (s : State) : State :=
  let q := s.vesin.port v
  if q.discarding then s
  else
    sendLink v (linkBody 1 [(10, leBytes 2 q.rxSeq.toNat)]) (updPort v (fun q => { q with discarding := true }) s)

/-- The ACK and credits of a header: flits and messages acknowledged are done with, and freed slots may be used again. -/
def takeAck (v : Port) (h : Nat) (s : State) : State :=
  let ack : B16 := BitVec.ofNat 16 (field h 37 22)
  let upTo (x : B16) : Bool := decide ((ack - x).toNat < 32768)
  let d : BitVec 12 := BitVec.ofNat 12 (field h 55 44)
  let c : BitVec 6 := BitVec.ofNat 6 (field h 43 38)
  let s := updPort v (fun q => { q with
    retry := q.retry.filter fun f => !upTo f.1
    carrying := q.carrying.filter fun m => match m.2 with
      | some x => !upTo x
      | none => true
    outD := q.outD - (d - q.creditD).toNat
    outC := q.outC - (c - q.creditC).toNat
    creditD := d, creditC := c }) s
  pump v 4160 s

/-- The command that a LINK flit's body carries. -/
def linkInstr (v : Port) (b : List Byte) : Option Instr :=
  let f (i n : Nat) : Nat := leNat ((b.drop i).take n)
  match f 8 1 with
  | 1 => some (.replay v (BitVec.ofNat 16 (f 10 2)))
  | 2 => some (.retrain v (BitVec.ofNat 8 (f 10 1)))
  | 3 => some (.rekey v (BitVec.ofNat 8 (f 10 1)) (BitVec.ofNat 128 (f 16 16)))
  | 4 => some (.hello v (BitVec.ofNat 64 (f 16 8)) (BitVec.ofNat 32 (f 24 4)) (BitVec.ofNat 6 (f 28 1))
      (BitVec.ofNat 8 (f 29 1)) (BitVec.ofNat 8 (f 30 1)) (BitVec.ofNat 128 (f 32 16)))
  | _ => none

/-- A command joins those that the messages received have made. -/
def deliverInstr (i : Option Instr) (s : State) : State :=
  match i with
  | some i => updVesin (fun x => { x with inbox := x.inbox ++ [i] }) s
  | none => s

/-- A whole message has arrived: it is delivered, or its TYPE is reserved (R508). -/
def deliverMsg (v : Port) (bytes : List Byte) (s : State) : State :=
  let s := updPort v (fun q => { q with rxBytes := satAdd q.rxBytes bytes.length }) s
  match readMsg v bytes with
  | some i => deliverInstr (some i) s
  | none => noteMisroute s

/-- The bytes of a message without what follows its payload in the last flit. -/
def trimMsg (l : List Byte) : List Byte := l.take (32 + field (leNat (l.take 32)) 231 208)

/-- The plaintext of one flit of a verified run is delivered, and its slot is freed. -/
def deliverFlit (v : Port) (s : State) (e : Nat × List Byte) : State :=
  let h := FlitHdr.ofNat e.1
  let q := s.vesin.port v
  let l := (if h.som then [] else if h.vc then q.partial1 else q.partial0) ++ e.2
  let left := if h.eom then [] else l
  let s := updPort v (fun q => if h.vc then { q with partial1 := left, freedD := q.freedD + 1 }
    else { q with partial0 := left, freedC := q.freedC + 1 }) s
  if h.eom then deliverMsg v (trimMsg l) s else s

/-- The key and counter under which a run was encrypted, and whether it is the first run under a new key. -/
def runKey (q : VPort) (ksel : Bool) : Option (B256 × Nat × Bool) :=
  match q.keyPrev with
  | some k => if ksel = q.rxKsel then some (k, q.rxRun, false) else q.keyRx.map fun k => (k, 0, true)
  | none => if ksel = q.rxKsel then q.keyRx.map fun k => (k, q.rxRun, false) else none

/-- The plaintext of a run, flit by flit with headers; none when its tag fails. -/
def openRun (s : State) (q : VPort) (key : B256) (run : Nat) : Option (List (Nat × List Byte)) :=
  let hs := q.rxFlits.map fun f => leNat (f.take 8)
  let body := q.rxFlits.flatMap fun f => (f.drop 8).take 244
  let n := body.length - 16
  let aad := hs.flatMap fun h => leBytes 8 (h - field h 55 22 * 2 ^ 22)
  (gcmDecrypt (digestBytes key) (runIv (decide (s.serial < q.peerSerial)) run) aad (body.take n) (body.drop n)).map
    fun text => hs.zipIdx.map fun e => (e.1, (text.drop (244 * e.2)).take 244)

/-- A run whose tag fails is discarded and replayed; sixteen within a second isolate the port (R495, R505). -/
def failRun (v : Port) (t : Nat) (s : State) : State :=
  let q := s.vesin.port v
  let times := (q.failTimes.filter fun x => decide (t < x + 1000000000)) ++ [t]
  let s := updPort v (fun q => { q with
    authFail := satAdd q.authFail 1, failTimes := times, rxFlits := []
    rxSeq := q.rxSeq - BitVec.ofNat 16 q.rxFlits.length }) s
  if times.length ≥ 16 then isolate v 5 s else askReplay v s

/-- The run that has ended is verified and delivered (R502). -/
def endRun (v : Port) (ksel : Bool) (t : Nat) (s : State) : State :=
  let q := s.vesin.port v
  match runKey q ksel with
  | none => failRun v t s
  | some (key, run, first) => match openRun s q key run with
    | none => failRun v t s
    | some fs =>
      let s := updPort v (fun q => { q with
        rxFlits := [], rxRun := run + 1, keyPrev := if first then none else q.keyPrev
        rxKsel := if first then !q.rxKsel else q.rxKsel }) s
      fs.foldl (deliverFlit v) s

/-- A DATA flit with a good CRC. -/
def takeData (v : Port) (bytes : List Byte) (t : Nat) (s : State) : State :=
  let h := FlitHdr.ofNat (leNat (bytes.take 8))
  let q := s.vesin.port v
  if h.seq ≠ q.rxSeq then (if (h.seq - q.rxSeq).toNat < 32768 then askReplay v s else s)
  else
    let s := updPort v (fun q => { q with
      discarding := false, linkReq := if q.discarding then none else q.linkReq
      rxSeq := q.rxSeq + 1, rxFlits := q.rxFlits ++ [bytes] }) s
    if h.eor || q.rxFlits.length + 1 = 32 then endRun v h.ksel t s else s

/-- After a flit that changed the ACK or the credits of a port that has sent nothing since, an IDLE flit carries them. Between
these a port sends IDLE flits without end (R493): the model keeps those alone that bring something new (DESIGN CHOICE). -/
def idleAfter (v : Port) (s t : State) : State :=
  if (t.vesin.port v).state = .up && (t.vesin.port v).live ≠ (s.vesin.port v).live &&
    t.vesin.wire.length = s.vesin.wire.length then sendIdle v t else t

/-- A flit arrives. -/
def takeFlit (v : Port) (bytes : List Byte) (t : Nat) (s : State) : State :=
  let st := (s.vesin.port v).state
  if !(st == .train || st == .up || st == .retrain || st == .isolated) then s
  else if bytes.length ≠ 256 || crc32c (bytes.take 252) ≠ BitVec.ofNat 32 (leNat (bytes.drop 252)) then
    if st = .up then askReplay v s else s
  else
    let h := leNat (bytes.take 8)
    let s := if st = .up || st = .retrain then takeAck v h s else s
    match field h 63 60 with
    | 1 => if st = .up then idleAfter v s (takeData v bytes t s) else s
    | 2 => deliverInstr (linkInstr v ((bytes.drop 8).take 244)) s
    | _ => s

/-- A codeword arrives: its data follows what came before it, corrected where it can be, and else as it came (R490). -/
def hearWord (v : Port) (s : State) (lanes : List (List Nat)) : State :=
  let r := rsDecode (gatherLanes lanes)
  updPort v (fun q => { q with
    rxBits := q.rxBits ++ r.1.flatMap (lowBits 10)
    fecCorr := satAdd q.fecCorr (r.2.getD 0)
    fecUncorr := satAdd q.fecUncorr (bit r.2.isNone) })
    (updVesin (fun x => { x with unsampled := satAdd x.unsampled (bit r.2.isNone) }) s)

/-- The next flit in the codeword data is taken, if all of it has arrived. -/
def nextFlit (v : Port) (t : Nat) (s : State) : State :=
  let l := (s.vesin.port v).rxBits
  if l.length < 2048 then s
  else takeFlit v ((cutBits 8 256 l).map (BitVec.ofNat 8)) t (updPort v (fun q => { q with rxBits := q.rxBits.drop 2048 }) s)

/-- FLIT; a port that is not training or trained hears nothing. -/
def execFlit (port : Port) (words : List (List (List Nat))) (t : Nat) (s : State) : Host.Outcome State Fault Refusal :=
  let st := (s.vesin.port port).state
  next (if st == .train || st == .up || st == .retrain || st == .isolated then
    nextFlit port t (words.foldl (hearWord port) s) else s)

end Sys2Proof.Machine
end

