-- ==== Sys2Proof/Machine/Standby.lean ====
section
/-!
DEFINITION. Membership, group hold and folio rollback (R570 to R576, R590), stand-by states, fills and take-overs (R577 to
R589, R591), LINK_HOLD (R534), and the commands of R646 to R648.
-/
namespace Sys2Proof.Machine

/-! ## Positions -/

/-- The module's own position. -/
def ownPos (s : State) : Nat := s.vesin.myPos.toNat

/-- The members, ascending. -/
def memberList (s : State) (p : Part) : List Nat := (List.range 40).filter fun d => (s.part p).res.members.getLsbD d

/-- The standby positions in the map. -/
def standbyList (s : State) : List Nat := ((List.range 8).map (· + 32)).filter fun d => s.vesin.mask d ≠ 0

/-- Every other member and standby. -/
def allOthers (s : State) (p : Part) : List Nat :=
  (memberList s p ++ standbyList s).eraseDups.filter fun d => d ≠ ownPos s

/-- Whether a position is unreachable (R534). -/
def unreachable (s : State) (d : Nat) : Bool :=
  s.vesin.fvalid && d ≠ ownPos s && s.vesin.mask d ≠ 0 && (upPorts s d).isEmpty

/-- Whether this module is the coordinator (R570). -/
def isCoord (s : State) (p : Part) : Bool :=
  s.folioPart = some p && (s.part p).res.members.getLsbD (ownPos s) &&
    (memberList s p).all fun d => decide (ownPos s ≤ d) || s.vesin.expired.contains d

/-- The coordinator as this module knows it. -/
def coordPos (s : State) (p : Part) : Option Nat := (memberList s p).find? fun d => !s.vesin.expired.contains d

/-- The removed positions that no standby is taking. -/
def unassigned (s : State) (p : Part) : List Nat :=
  let r := (s.part p).res
  r.removed.filter fun d => decide (d < 32) && !r.takeovers.any fun t => t.d = d

/-- Hold reasons of R592. -/
abbrev hdTakeover : Nat := 0
abbrev hdDiverged : Nat := 1
abbrev hdNoStandby : Nat := 2
abbrev hdNoSource : Nat := 3
abbrev hdNoCommon : Nat := 4
abbrev hdHost : Nat := 5

/-- A RESILIENCE entry about a position (R778). -/
def posNote (p : Part) (event d sb : Nat) (s : State) : State :=
  resNote p event stOk (place 224 50 d ||| place 224 44 sb) s

/-- A RESILIENCE entry about a fill that failed. -/
def fillNote (p : Part) (status : B16) (ident source sheet : Nat) (s : State) : State :=
  resNote p 13 status (place 224 184 ident ||| place 224 56 sheet ||| place 224 50 source) s

/-- A control message of R583 with fields A, B and C. -/
def ctrl (op a b c : Nat) : MsgBody := .fillCtrl op a b c []

/-! ## Leaving the folio (R571, R590) -/

/-- The resilience state that a partition keeps when it belongs to no folio any more (R592). -/
def Res.kept (r : Res) : Res :=
  { autoRollback := r.autoRollback, armEn := r.armEn, assayWait := r.assayWait, rbSet := r.rbSet, rbList := r.rbList
    exports := r.exports, assayLast := r.assayLast, diverged := r.diverged, slices := r.slices, seals := r.seals
    abandons := r.abandons, unstaged := r.unstaged, snapHolds := r.snapHolds, repairs := r.repairs, dropped := r.dropped
    fillRetries := r.fillRetries, snap := r.snap, finals := r.finals, commits := r.commits }

/-- Every message that awaits something ends as a timeout. -/
def failMessages (s : State) : State :=
  let ms := s.vesin.awaiting ++ s.vesin.waiting
  let s := updVesin (fun x => { x with awaiting := [], waiting := [] }) s
  ms.foldl (fun s m => timeOut m s) s

/-- Assay comparisons of a partition that leaves end undecided. -/
def dropAssays (p : Part) (s : State) : State :=
  (s.part p).res.assays.foldl (fun s a => doneFiring p a.firing s) (s.updRes p fun r => { r with assays := [] })

/-- The module is out of the folio, its registers but FVALID kept (R590). -/
def leaveFolio (p : Part) (s : State) : State :=
  let s := dropAssays p (failMessages s)
  let s := s.updRes p Res.kept
  let s := s.updCad p fun c => { c with role := .standalone }
  let s := s.updVeto p fun v => { v with kept := none, verdicts := [] }
  folioChanged (updVesin (fun x => { x with fvalid := false, expired := [] }) s)

/-- The own position has been removed, or is taken by a standby (R590). -/
def ownTaken (p : Part) (d : Nat) (s : State) : State := leaveFolio p (posNote p 15 d 0 s)

/-- LEAVE goes to the coordinator (R571). -/
def sendLeave (p : Part) (reason : Nat) (s : State) : State :=
  match coordPos s p with
  | some d => sendMsg d (ctrl 8 0 reason 0) .none s
  | none => s

/-! ## Folio rollback (R575, R576, R588) -/

/-- The slot of a set whose committed image has a STEP. -/
def committedAt (c : CkptSet) (step : Nat) (s : State) : Option Nat :=
  c.newest s fun g => g.state = .sealed && g.committed && g.step = step

/-- Ends a ROLLBACK command with a status. -/
def endRollbackCmd (p : Part) (status : B16) (result : Nat) (s : State) : State :=
  s.updHost p fun h => { h with longs := Map.mapVal h.longs fun _ c => match c.work with
    | .rollback _ => { c with work := .report status (BitVec.ofNat 128 result) }
    | _ => c }

/-- A standby's fills from its mirror image of the position it takes (R588). -/
def refill (p : Part) (step : Nat) (s : State) : State :=
  let r := (s.part p).res
  match mirrorFor s p r.takes.toNat with
  | none => s
  | some c => match committedAt c step s with
    | none => s
    | some slot =>
      let g := c.image s slot
      let s := r.filled.foldl (fun s f =>
        match List.find? (fun x => x.exportId = f.ident) g.slices, s.obj? p f.dest with
        | some x, some o => writeSlice p x o s
        | _, _ => s) s
      match g.partRec with
      | some rec => applyRecord p rec s
      | none => s

/-- A member restores the rollback set's image of a STEP into the objects of its list. -/
def restoreOwn (p : Part) (step : Nat) (s : State) : B16 × State :=
  let r := (s.part p).res
  match setOf s p r.rbSet.toNat with
  | none => (stNoAccess, s)
  | some c => match committedAt c step s with
    | none => (stBadParam, s)
    | some slot =>
      let g := c.image s slot
      let n := g.slices.length
      let acc := checkMem s p ckptMaster .r r.rbList.toNat (4 * n)
      if acc ≠ .ok then (stNoAccess, noteDenied p ckptMaster .r acc s)
      else
        let hs := handleList s p ckptMaster r.rbList.toNat n
        match restoreBad s p g hs with
        | some e => (e, s)
        | none => restoreImage p g hs s

/-- A new map: a signal that waits for a port or for its reply ends with POSITION where its target has left the map, and is
not sent again (R460). -/
def dropUnmapped (s : State) : State :=
  let gone (m : OutMsg) : Bool := s.vesin.mask m.dst.toNat = 0 && match m.body with
    | .signal .. => true
    | _ => false
  ((s.vesin.waiting ++ s.vesin.awaiting).filter gone).foldl (fun s m => endMessage m (some ftPosition) s) s

/-! ## Commits (R587, R589, R590) -/

/-- A change of the folio registers discards a kept result (R287). -/
def dropKept (s : State) (p : Part) : State :=
  s.updVeto p fun v => { v with kept := none, pending := v.pending.map fun x => { x with early := none } }

/-- A follower tells a new leader its verdict, or the result it has applied (R288, R290). -/
def reportVeto (p : Part) (s : State) : State :=
  let v := (s.part p).veto
  let open' := v.pending.filter fun x => !x.record.closeOnly && x.judged
  let s := open'.foldl (fun s x => sendMsg 0 (.verdict x.record.step x.skip x.reason) .none s) s
  match (s.part p).pln.hist.getLast? with
  | some e => sendMsg 0 (.result ⟨e.step.toNat, e.skip, e.reason.toNat, 0xFF, 0⟩) .none s
  | none => s

/-- The standby serves: its role, and for position 0 the highest position that a member reported (R67, R590). -/
def serve (p : Part) (d : Nat) (s : State) : State :=
  let s := updVesin (fun x => { x with myPos := BitVec.ofNat 6 d, seqOut := [], seqIn := [] }) s
  let s := s.updRes p fun r => { r with sbState := 4, takes := BitVec.ofNat 6 d, fills := [], filled := [] }
  if d ≠ 0 then s.updCad p fun c => { c with role := .follower }
  else
    let s := s.updCad p fun c => { c with role := .leader }
    let h := (s.part p).res.highest
    if (s.part p).cad.pos < h && !malformed h then applyPos p h s else s

/-- The coordinator clears the hold reasons that no longer hold. -/
def settleHolds (p : Part) (s : State) : State :=
  let r := (s.part p).res
  let s := if (unassigned s p).isEmpty then holdReason p hdNoStandby false s else s
  if r.takeovers.isEmpty && (r.removed.filter fun d => decide (d < 32)).isEmpty then
    holdReason p hdTakeover false (holdReason p hdNoSource false s)
  else s

/-- COMMIT_POS(sp, d) at any module. -/
def commitPosition (p : Part) (sp d : Nat) (s : State) : State :=
  if d = ownPos s && sp ≠ ownPos s then ownTaken p d s
  else
    let mask := s.vesin.mask sp
    let s := dropKept s p
    let s := updVesin (fun x => { x with
      vmap := Map.setD 0 (Map.setD 0 x.vmap d mask) sp 0
      seqOut := Map.erase x.seqOut d, seqIn := Map.erase x.seqIn d }) s
    let s := s.updRes p fun r => { r with
      members := r.members ||| (1#40 <<< d), removed := r.removed.erase d
      recommitted := if r.recommitted.contains d then r.recommitted else d :: r.recommitted
      takeovers := r.takeovers.filter fun t => t.d ≠ d
      standbys := Map.adjust r.standbys sp fun b => { b with state := 4, takes := BitVec.ofNat 6 d } }
    let s := posNote p 11 d sp s
    let s := if sp = ownPos s then serve p d s else s
    let s := if d = 0 && (s.part p).cad.role = .follower then reportVeto p s else s
    settleHolds p (folioChanged (dropUnmapped s))

/-- The coordinator commits a take-over everywhere. -/
def commitTakeover (p : Part) (t : Takeover) (s : State) : State :=
  let s := sendAll ((allOthers s p ++ [t.standby]).eraseDups) (ctrl 6 t.standby t.d 0) s
  commitPosition p t.standby t.d s

/-- COMMIT_POS. -/
def execCommitPos (m : MsgHdr) (sp d : BitVec 6) (s : State) : Host.Outcome State Fault Refusal :=
  next (receivePlain m (fun p s => commitPosition p sp.toNat d.toNat s) s)

/-! ## Running a rollback -/

/-- Take-overs that waited for the rollback commit. -/
def commitReady (p : Part) (s : State) : State :=
  ((s.part p).res.takeovers.filter fun t => t.isReady && t.mirror.isSome).foldl (fun s t => commitTakeover p t s) s

/-- The restore of a folio rollback, once nothing is in flight (R576). -/
def runRollback (p : Part) (s : State) : State :=
  match (s.part p).res.rollTo with
  | none => s
  | some step =>
    if !(s.part p).bench.flight.isEmpty then s
    else
      let s := s.updRes p fun r => { r with rollTo := none }
      let taking := decide ((s.part p).res.sbState.toNat = 2) || decide ((s.part p).res.sbState.toNat = 3)
      let (st, s) := if taking then (stOk, refill p step s) else restoreOwn p step s
      let s := if st = stOk then resNote p 12 stOk (place 224 112 step) s else s
      if (s.part p).cad.role ≠ .leader then s
      else
        let s := s.updRes p fun r => { r with rollback := none, holdMark := 0 }
        let s := holdReason p hdNoCommon false (holdReason p hdDiverged false s)
        commitReady p (endRollbackCmd p st step s)

/-- The greatest STEP that every answer and every mirror under rollback take-over holds. -/
def commonStep (r : Res) (b : Rollback) : Option Nat :=
  let mirrors := r.takeovers.filterMap fun t => t.mirror
  let ok (st : Nat) : Bool := (b.answers.all fun l => l.contains st) && mirrors.all fun m => m = st
  ((b.answers.flatten ++ mirrors).filter ok).foldl (fun a st => match a with
    | none => some st
    | some x => some (max x st)) none

/-- Once every member has answered, the leader chooses the STEP. -/
def tryRollback (p : Part) (s : State) : State :=
  match (s.part p).res.rollback with
  | none => s
  | some b =>
    if !b.waiting.isEmpty then s
    else match commonStep (s.part p).res b with
      | none => endRollbackCmd p stBusy 0 (holdReason p hdNoCommon true (s.updRes p fun r => { r with rollback := none }))
      | some st =>
        let s := sendAll (allOthers s p) (ctrl 0x0B st 0 0) s
        runRollback p (s.updRes p fun r => { r with rollTo := some st })

/-- The leader asks every member for its committed STEPs. -/
def startRollback (p : Part) (command : Bool) (s : State) : State :=
  match (s.part p).res.rollback with
  | some _ => s
  | none =>
    let ds := (memberList s p).filter fun d => d ≠ ownPos s
    let s := s.updRes p fun r => { r with
      rollback := some { waiting := ds, answers := [(rollbackSteps s p).filterMap id], command } }
    tryRollback p (sendAll ds (ctrl 0x0A 0 0 0) s)

/-- Replicas have diverged: the leader holds, and rolls back unless the host is to ask for it (R568, R576). -/
def divergeHold (p : Part) (s : State) : State :=
  if (s.part p).cad.role ≠ .leader then s
  else
    let s := holdReason p hdDiverged true s
    if (s.part p).res.autoRollback then startRollback p false s else s

/-- ROLLBACK. -/
def execRollback (h : CmdHdr) (s : State) : Host.Outcome State Fault Refusal :=
  let act (s : State) : CmdOut × State :=
    if (s.part h.fn).cad.role ≠ .leader then (.done stNoAccess, s) else (.started (.rollback 0), startRollback h.fn true s)
  next (hostCmd { opcode := 0x0506, long := true, issuer := .folio } (.rollback h) h [] false act s)

/-- A member answers QUERY_CKPT (R583). -/
def answerQuery (src : Nat) (p : Part) (s : State) : State :=
  let word (o : Option Nat) : List Byte := leBytes 8 (match o with
    | some st => 2 ^ 63 + st
    | none => 0)
  let body := leBytes 8 (s.part p).cad.pos.toNat ++ (rollbackSteps s p).flatMap word
  sendMsg src (.fillCtrl 0x0C 0 0 0 body) .none s

/-- QUERY_CKPT. -/
def execQueryCkpt (m : MsgHdr) (s : State) : Host.Outcome State Fault Refusal :=
  next (receivePlain m (answerQuery m.src.toNat) s)

/-- ROLLBACK_MSG, from the leader: issue stops, and the restore follows what is in flight. -/
def execRollbackMsg (m : MsgHdr) (step : BitVec 40) (s : State) : Host.Outcome State Fault Refusal :=
  next (receivePlain m (fun p s =>
    if m.src ≠ 0 then s else runRollback p (s.updRes p fun r => { r with rollTo := some step.toNat })) s)

/-! ## Assignments (R579, R580, R591) -/

/-- The standby for a failed position: the lowest ARMED one whose COVER has it, else the lowest ARMED one. -/
def pickStandby (s : State) (p : Part) (d : Nat) : Option Nat :=
  let armed := (s.part p).res.standbys.filter fun e => e.2.state.toNat = 1
  match List.find? (fun e => e.2.cover.getLsbD d) armed with
  | some e => some e.1
  | none => (armed.head?).map Prod.fst

/-- The coordinator gives a failed position a standby, or holds with NO_STANDBY. -/
def assignOne (p : Part) (s : State) (d : Nat) : State :=
  let s := holdReason p hdTakeover true s
  match pickStandby s p d with
  | none => holdReason p hdNoStandby true s
  | some b =>
    let s := s.updRes p fun r => { r with
      takeovers := r.takeovers ++ [{ d, standby := b }]
      standbys := Map.adjust r.standbys b fun x => { x with state := 2, takes := BitVec.ofNat 6 d } }
    sendMsg b (ctrl 2 0 d 0) .none (posNote p 10 d b s)

/-- The coordinator assigns every position that waits for a standby. -/
def assignAll (p : Part) (s : State) : State :=
  if !isCoord s p then s
  else
    let s := (unassigned s p).foldl (assignOne p) s
    if (unassigned s p).isEmpty then holdReason p hdNoStandby false s else s

/-- A standby has failed: its assignment is dropped, and its position gets the next one. -/
def dropStandby (p : Part) (b : Nat) (s : State) : State :=
  let s := s.updRes p fun r => { r with
    standbys := Map.adjust r.standbys b fun x => { x with state := 0, takes := 0 }
    takeovers := r.takeovers.filter fun t => t.standby ≠ b }
  assignAll p (posNote p 9 b b s)

/-- ARMED reaches the coordinator. -/
def onArmed (src : Nat) (cover : B32) (p : Part) (s : State) : State :=
  if !isCoord s p || src < 32 then s
  else
    let s := s.updRes p fun r => { r with
      standbys := Map.insert r.standbys src { state := 1, cover }
      takeovers := r.takeovers.filter fun t => t.standby ≠ src }
    assignAll p s

/-- ARMED. -/
def execArmed (m : MsgHdr) (cover : B32) (s : State) : Host.Outcome State Fault Refusal :=
  next (receivePlain m (onArmed m.src.toNat cover) s)

/-- STANDBY_SILENCE: a standby not heard for 1 s does not count as ARMED. -/
def execStandbySilence (b : Fin 8) (s : State) : Host.Outcome State Fault Refusal :=
  match s.folioPart with
  | none => next s
  | some p =>
    if !isCoord s p then next s
    else next (s.updRes p fun r => { r with
      standbys := Map.adjust r.standbys (32 + b.val) fun x => if x.state = 1 then { x with state := 0 } else x })

/-! ## Standby states (R577 to R579) -/

/-- Whether a partition's standby may be ARMED (R578). -/
def mayArm (s : State) (p : Part) : Bool :=
  decide (32 ≤ ownPos s) && s.vesin.curKey.isSome && ((memberList s p).all fun d => !(upPorts s d).isEmpty) &&
    !anyRunning s p && (s.part p).res.armEn

/-- STANDBY_ARM: the warden arms a standby, or disarms one whose conditions have failed. -/
def execStandbyArm (s : State) : Host.Outcome State Fault Refusal :=
  match s.folioPart with
  | none => next s
  | some p =>
    let st := (s.part p).res.sbState
    if st = 0 && mayArm s p then next (s.updRes p fun r => { r with sbState := 1 })
    else if st = 1 && !mayArm s p then next (s.updRes p fun r => { r with sbState := 0 })
    else next s

/-- COVER: the members whose committed mirror image the standby holds (R579). -/
def coverMask (s : State) (p : Part) : Nat :=
  ((List.range 32).filter fun d => match mirrorFor s p d with
    | some c => (c.newest s fun g => g.state = .sealed && g.committed).isSome
    | none => false).foldl (fun a d => a + 2 ^ d) 0

/-- ARMED_REPORT_TIMER: an ARMED standby reports to the coordinator. -/
def execArmedReportTimer (s : State) : Host.Outcome State Fault Refusal :=
  match s.folioPart with
  | none => next s
  | some p =>
    if (s.part p).res.sbState ≠ 1 then next s
    else match coordPos s p with
      | some d => next (sendMsg d (ctrl 1 0 (coverMask s p) 0) .none s)
      | none => next s

/-- ASSIGN reaches an ARMED standby. -/
def execAssign (m : MsgHdr) (d : BitVec 6) (s : State) : Host.Outcome State Fault Refusal :=
  next (receivePlain m (fun p s => s.updRes p fun r =>
    if r.sbState = 1 then { r with sbState := 2, takes := d, filled := [], collected := [], highest := 0 } else r) s)

/-! ## Fills (R581 to R586) -/

/-- The standby's committed mirror image of the position it takes, and its slice with an export id. -/
def mirrorSlice (s : State) (p : Part) (ident : Nat) : Option (Nat × SliceRec) :=
  (mirrorFor s p (s.part p).res.takes.toNat).bind fun c =>
    (c.newest s fun g => g.state = .sealed && g.committed).bind fun i =>
      let g := c.image s i
      (List.find? (fun x => x.exportId = ident) g.slices).map fun x => (g.step, x)

/-- The standby tells the coordinator that its take-over reads a mirror image of a STEP, or that it has no source left. -/
def tellCoord (p : Part) (step : Nat) (code : B16) (s : State) : State :=
  match coordPos s p with
  | some d => sendMsg d (statusBody s step code) .none s
  | none => s

/-- A fill from the mirror image (R582, R588). -/
def fillFromMirror (p : Part) (dest ident : Nat) (s : State) : B16 × State :=
  match s.obj? p dest, mirrorSlice s p ident with
  | some o, some (step, x) =>
    if o.sheets ≠ x.sheets then (stBadParam, s)
    else if (sliceBad x).isSome then (stDigest, fillNote p stDigest ident 0xFE 0 s)
    else
      let s := writeSlice p x o s
      let s := s.updRes p fun r => { r with
        filled := r.filled.filter (fun f => f.dest ≠ dest) ++ [{ dest, ident, source := 0xFE, root := some x.root }] }
      (stOk, tellCoord p step stOk s)
  | _, _ => (stNoAccess, s)

/-- FILL at its start; an unlisted source comes before the command's own checks (R19, R631). -/
def actFill (p : Part) (dest ident source : Nat) (s : State) : CmdOut × State :=
  if source > 39 && source ≠ 0xFE then (.done stBadParam, s)
  else match s.obj? p dest with
  | none => (.done stNoAccess, s)
  | some o =>
    if source = 0xFE then
      if (s.part p).res.sbState ≠ 2 then (.done stBadParam, s)
      else
        let (st, s) := fillFromMirror p dest ident s
        if st = stOk then (.started (.report stOk (BitVec.ofNat 128 o.sheets)), s) else (.done st, s)
    else if s.vesin.mask source = 0 || source = ownPos s || isRemoved s source then (.done stNoAccess, s)
    else
      let s := s.updRes p fun r => { r with fills := r.fills ++ [{ dest, ident, source, wanted := List.range o.sheets }] }
      (.started (.fill dest ident source), sendMsg source (ctrl 3 o.sheets ident 0) .none s)

/-- FILL. -/
def execFill (h : CmdHdr) (dest : B32) (ident : B16) (source : Byte) (s : State) : Host.Outcome State Fault Refusal :=
  next (hostCmd { opcode := 0x0501, long := true, issuer := .folio } (.fill h dest ident source) h
    (leBytes 4 dest.toNat ++ leBytes 2 ident.toNat ++ leBytes 1 source.toNat) false
    (actFill h.fn dest.toNat ident.toNat source.toNat) s)

/-- Changes the fills that `f` takes. -/
def updFills (p : Part) (f : Fill → Bool) (g : Fill → Fill) (s : State) : State :=
  s.updRes p fun r => { r with fills := r.fills.map fun x => if f x then g x else x }

/-- Whether a fill still receives. -/
def Fill.live (x : Fill) : Bool := x.bad.isNone && !x.wanted.isEmpty

/-- A sheet of a fill arrives: written, as the port it came by (R40), when its hallmark holds, else requested again up to
three times (R585). -/
def onFillSheet (v : Port) (src ident sheet : Nat) (data : List Byte) (mark : B256) (p : Part) (s : State) : State :=
  let mine (x : Fill) : Bool := x.live && x.source = src && x.ident = ident && x.wanted.contains sheet
  match (s.part p).res.fills.find? mine with
  | none => s
  | some x => match s.obj? p x.dest with
    | none => updFills p (fun y => y = x) (fun y => { y with bad := some stNoAccess }) s
    | some o =>
      let tries := Map.getD x.retries sheet 0
      match landing p v .w (o.base + sheet * sheetBytes) s with
      | (false, s) => updFills p (fun y => y = x) (fun y => { y with bad := some stNoAccess }) s
      | (true, s) =>
      if hallmark data = mark then
        updFills p (fun y => y = x) (fun y => { y with wanted := y.wanted.erase sheet })
          (writeMem p (o.base + sheet * sheetBytes) data s)
      else if tries ≥ 3 then
        fillNote p stDigest ident src sheet (updFills p (fun y => y = x) (fun y => { y with bad := some stDigest }) s)
      else
        let s := s.updRes p fun r => { r with fillRetries := satAdd r.fillRetries 1 }
        let s := updFills p (fun y => y = x) (fun y => { y with retries := Map.insert y.retries sheet (tries + 1) }) s
        sendMsg src (ctrl 3 1 ident sheet) .none s

/-- FILL_SHEET. -/
def execFillSheet (m : MsgHdr) (ident : B16) (sheet : Nat) (data : List Byte) (mark : B256) (s : State) :
    Host.Outcome State Fault Refusal :=
  next (settleMsg m (.fillSheet m ident sheet data mark) s
    (receivePlain m (onFillSheet m.port m.src.toNat ident.toNat sheet data mark) s))

/-- The end of a FILL command: none while sheets are still to come. -/
def endFill (p : Part) (dest ident source : Nat) (s : State) : Option (B16 × B128 × State) :=
  match (s.part p).res.fills.find? fun x => x.dest = dest && x.ident = ident && x.source = source with
  | none => some (stNoAccess, 0, s)
  | some x =>
    let out := s.updRes p fun r => { r with fills := r.fills.erase x }
    match x.bad with
    | some e => some (e, 0, out)
    | none =>
      if !x.wanted.isEmpty then none
      else
        let n := ((s.obj? p dest).map fun o => o.sheets).getD 0
        some (stOk, BitVec.ofNat 128 n, out.updRes p fun r => { r with
          filled := r.filled.filter (fun f => f.dest ≠ dest) ++ [{ dest, ident, source, root := x.root }] })

/-- A source answers PULL: the sheets, then for a whole object its root, then STATUS (R582 to R584). A standby's PULL is a
fill's, a member's a repair's (R567). -/
def answerPull (src count ident first : Nat) (p : Part) (s : State) : State :=
  match Map.find? (s.part p).res.exports ident with
  | none => sendMsg src (statusBody s 0 stNoAccess) .none s
  | some h => match s.obj? p h with
    | none => sendMsg src (statusBody s 0 stNoAccess) .none s
    | some o =>
      let repair := decide (src < 32)
      let m := if repair then 0x24 else ckptMaster
      let acc := checkMem s p m .r (o.base + first * sheetBytes) (count * sheetBytes)
      if first + count > o.sheets || (first = 0 && count ≠ o.sheets && count ≠ 1) then
        sendMsg src (statusBody s 0 stBadParam) .none s
      else if acc ≠ .ok then sendMsg src (statusBody s 0 stNoAccess) .none (noteDenied p m .r acc s)
      else
        let one (s : State) (i : Nat) : State :=
          let d := objSheet s o (first + i)
          engineSend m src (.fill (if repair then 3 else 2) ident 0 (first + i) (d ++ digestBytes (hallmark d))) s
        let s := (List.range count).foldl one (touchRead p (o.base + first * sheetBytes) (count * sheetBytes) s)
        let s := if count = o.sheets then
            sendMsg src (.fillCtrl 4 0 ident 0 (digestBytes (objRoot s o))) .none s else s
        sendMsg src (statusBody s 0 stOk) .none s

/-- PULL. -/
def execPull (m : MsgHdr) (count : BitVec 40) (ident : B16) (first : Nat) (s : State) : Host.Outcome State Fault Refusal :=
  next (receivePlain m (answerPull m.src.toNat count.toNat ident.toNat first) s)

/-! ## Verifying (R586, R589) -/

/-- The members whose positions VERIFYING has still to collect (R586). -/
def uncollected (s : State) (p : Part) : List Nat :=
  (memberList s p).filter fun d => d ≠ ownPos s && d ≠ (s.part p).res.takes.toNat && !(s.part p).res.collected.contains d

/-- A standby whose filled objects all match its sources is ready. One that takes position 0 serves at the end of VERIFYING,
which is not before every surviving member has reported its position (R67, R586, R589). -/
def beReady (p : Part) (s : State) : State :=
  let d := (s.part p).res.takes.toNat
  if d = 0 && !(uncollected s p).isEmpty then s
  else if d = 0 then
    let own := ownPos s
    let others := (allOthers s p).filter fun x => x ≠ 0
    commitPosition p own 0 (sendAll others (ctrl 6 own 0 0) s)
  else match coordPos s p with
    | some c => sendMsg c (ctrl 5 0 d 0) .none s
    | none => s

/-- VERIFYING compares the roots once all are known. -/
def tryVerify (p : Part) (s : State) : State :=
  let r := (s.part p).res
  let differs (f : Filled) : Bool := match s.obj? p f.dest with
    | some o => f.root ≠ some (objRoot s o)
    | none => true
  if r.sbState ≠ 3 || r.filled.any (fun f => f.root.isNone) then s
  else match r.filled.find? differs with
    | some f => fillNote p stDigest f.ident f.source 0 (s.updRes p fun r => { r with sbState := 2 })
    | none => beReady p s

/-- VERIFYING begins. The standby asks every member for its position with QUERY_CKPT, the one message of R583 that any member
answers with it (DESIGN CHOICE: R586 names no message). -/
def startVerify (p : Part) (s : State) : State :=
  let s := s.updRes p fun r => { r with sbState := 3, collected := [] }
  tryVerify p (sendAll (uncollected s p) (ctrl 0x0A 0 0 0) s)

/-- FILL_DONE. -/
def execFillDone (h : CmdHdr) (s : State) : Host.Outcome State Fault Refusal :=
  let act (s : State) : CmdOut × State :=
    let r := (s.part h.fn).res
    if r.sbState ≠ 2 then (.done stBadParam, s)
    else if !r.fills.isEmpty then (.done stBusy, s)
    else (cmdOk, startVerify h.fn s)
  next (hostCmd { opcode := 0x0502, issuer := .folio } (.fillDone h) h [] false act s)

/-- FILL_CANCEL: the standby is ARMED again, and its fills end. -/
def execFillCancel (h : CmdHdr) (s : State) : Host.Outcome State Fault Refusal :=
  let act (s : State) : CmdOut × State :=
    if (s.part h.fn).res.sbState ≠ 2 then (.done stBadParam, s)
    else (cmdOk, updFills h.fn (fun _ => true) (fun x => { x with bad := some stNoAccess })
      (s.updRes h.fn fun r => { r with sbState := 1, takes := 0, filled := [] }))
  next (hostCmd { opcode := 0x0503, issuer := .folio } (.fillCancel h) h [] false act s)

/-- FILL_ROOT: the root of a source's object. -/
def onFillRoot (src ident : Nat) (root : B256) (p : Part) (s : State) : State :=
  let s := updFills p (fun x => x.source = src && x.ident = ident) (fun x => { x with root := some root }) s
  tryVerify p (s.updRes p fun r => { r with
    filled := r.filled.map fun f => if f.source = src && f.ident = ident then { f with root := some root } else f })

/-- FILL_ROOT. -/
def execFillRoot (m : MsgHdr) (ident : B16) (root : B256) (s : State) : Host.Outcome State Fault Refusal :=
  next (receivePlain m (onFillRoot m.src.toNat ident.toNat root) s)

/-- READY: the coordinator commits, after a folio rollback if the fill read a mirror image (R587, R588). -/
def onReady (src d : Nat) (p : Part) (s : State) : State :=
  if !isCoord s p then s
  else match (s.part p).res.takeovers.find? fun t => t.d = d && t.standby = src with
    | none => if isRemoved s d then commitTakeover p { d, standby := src } s else s
    | some t =>
      if t.mirror.isNone then commitTakeover p t s
      else
        let s := s.updRes p fun r => { r with
          takeovers := r.takeovers.map fun x => if x.d = d then { x with isReady := true } else x }
        if (s.part p).cad.role = .leader then startRollback p false s else s

/-- READY. -/
def execReady (m : MsgHdr) (d : BitVec 6) (s : State) : Host.Outcome State Fault Refusal :=
  next (receivePlain m (onReady m.src.toNat d.toNat) s)

/-! ## STATUS (R554, R576, R582, R586) -/

/-- A member's answer to QUERY_CKPT. -/
def onAnswer (src : Nat) (words : List B64) (p : Part) (s : State) : State :=
  let steps := (words.drop 1).filterMap fun w => if w.getLsbD 63 then some (field w.toNat 39 0) else none
  let take (b : Rollback) : Rollback :=
    if b.waiting.contains src then { b with waiting := b.waiting.erase src, answers := b.answers ++ [steps] } else b
  tryRollback p (s.updRes p fun r => { r with rollback := r.rollback.map take })

/-- A position that a member reports to a standby that fills or verifies (R67, R586); a malformed one is never applied (R53),
so it raises nothing. The last one that VERIFYING waited for lets it end. -/
def notePosition (src : Nat) (pos : B64) (p : Part) (s : State) : State :=
  let r := (s.part p).res
  if r.sbState ≠ 2 && r.sbState ≠ 3 then s
  else
    let s := s.updRes p fun r => { r with
      collected := if r.sbState = 3 && !r.collected.contains src then src :: r.collected else r.collected
      highest := if r.highest < pos && !malformed pos then pos else r.highest }
    if (s.part p).res.sbState = 3 && (s.part p).res.takes = 0 then tryVerify p s else s

/-- A position and, from a standby of a take-over, where its fill stands. -/
def onStatus (src step : Nat) (code : B16) (words : List B64) (p : Part) (s : State) : State :=
  let s := notePosition src (words.headD 0) p s
  if words.length = 3 then onAnswer src words p s
  else
    let s := if code = stOk then commitAnswered p src step s
      else updFills p (fun x => x.live && x.source = src) (fun x => { x with bad := some code }) s
    if !isCoord s p || !(s.part p).res.takeovers.any fun t => t.standby = src then s
    else if code = stOk then s.updRes p fun r => { r with
      takeovers := r.takeovers.map fun t => if t.standby = src then { t with mirror := some step } else t }
    else if code = stNoAccess then holdReason p hdNoSource true s
    else s

/-- STATUS. -/
def execStatus (m : MsgHdr) (step : BitVec 40) (code : B16) (words : List B64) (s : State) : Host.Outcome State Fault Refusal :=
  next (receivePlain m (onStatus m.src.toNat step.toNat code words) s)

/-! ## Removal (R289, R571 to R573, R591) -/

/-- The fills from a lost source go on from the mirror image, or stop (R591). -/
def loseSource (p : Part) (d : Nat) (s : State) : State :=
  ((s.part p).res.fills.filter fun x => x.live && x.source = d).foldl (fun s x =>
    let s := fillNote p stNoAccess x.ident d 0 s
    let (st, s) := fillFromMirror p x.dest x.ident s
    if st = stOk then updFills p (fun y => y = x) (fun y => { y with wanted := [] }) s
    else tellCoord p 0 stNoAccess (updFills p (fun y => y = x) (fun y => { y with bad := some stNoAccess }) s)) s

/-- REMOVE(d) at any module. -/
def applyRemove (p : Part) (d : Nat) (s : State) : State :=
  if d = ownPos s then ownTaken p d s
  else
    let coord := coordPos s p
    let s := s.updRes p fun r => { r with
      members := r.members &&& ~~~(1#40 <<< d)
      removed := if r.removed.contains d then r.removed else r.removed ++ [d]
      rollback := r.rollback.map fun b => { b with waiting := b.waiting.erase d } }
    let s := s.updVeto p fun v => { v with
      pending := v.pending.map fun x => { x with awaited := x.awaited &&& ~~~(1#40 <<< d) } }
    let s := posNote p 9 d 0 s
    let s := ((s.vesin.awaiting ++ s.vesin.waiting).filter fun m => m.dst.toNat = d).foldl (fun s m => dropMessage m s) s
    let s := if (s.part p).cad.role = .leader then
        (((s.part p).veto.pending.map fun x => x.record.step).eraseDups).foldl (fun s st => leaderTry p st s) s
      else s
    let s := tryRollback p (loseSource p d s)
    if (s.part p).res.sbState = 3 && (coord = some d || (s.part p).res.takes = 0) then tryVerify p s else s

/-- The coordinator declares a position failed (R571, R572, R580). -/
def declareFailed (p : Part) (d : Nat) (s : State) : State :=
  let s := sendAll ((allOthers s p).filter fun x => x ≠ d) (ctrl 7 0 d 0) s
  let s := applyRemove p d s
  if 32 ≤ d then dropStandby p d s else assignAll p s

/-- REMOVE_MSG. -/
def execRemoveMsg (m : MsgHdr) (d : BitVec 6) (s : State) : Host.Outcome State Fault Refusal :=
  next (receivePlain m (fun p s => applyRemove p d.toNat s) s)

/-- LEAVE: the coordinator declares its sender failed. -/
def execLeave (m : MsgHdr) (reason : BitVec 40) (s : State) : Host.Outcome State Fault Refusal :=
  let _ := reason
  next (receivePlain m (fun p s =>
    if isCoord s p && (s.part p).res.members.getLsbD m.src.toNat then declareFailed p m.src.toNat s else s) s)

/-- REMOVE. -/
def execRemove (h : CmdHdr) (pos : Byte) (s : State) : Host.Outcome State Fault Refusal :=
  let act (s : State) : CmdOut × State :=
    if pos.toNat > 39 then (.done stBadParam, s)
    else if !isCoord s h.fn then (.done stNoAccess, s)
    else if !(s.part h.fn).res.members.getLsbD pos.toNat then (.done stBadParam, s)
    else (cmdOk, declareFailed h.fn pos.toNat s)
  next (hostCmd { opcode := 0x0507, issuer := .folio } (.remove h pos) h [] false act s)

/-- LINK_HOLD_EXPIRY: no port to a position has been UP within LINK_HOLD; its messages end as timeouts, and a coordinator
declares it failed (R534, R570, R571). -/
def holdExpired (d : Nat) (s : State) : State :=
  if !unreachable s d then s
  else
    let s := updVesin (fun x => { x with expired := if x.expired.contains d then x.expired else d :: x.expired }) s
    let s := (s.vesin.waiting.filter fun m => m.dst.toNat = d).foldl (fun s m => timeOut m s) s
    let p := s.vesin.fpart
    if !isCoord s p then s
    else
      let r := (s.part p).res
      let failed := s.vesin.expired.filter fun x => unreachable s x && (r.members.getLsbD x || (32 ≤ x && !r.removed.contains x))
      failed.foldl (fun s x => declareFailed p x s) s

/-- LINK_HOLD_EXPIRY. -/
def execLinkHoldExpiry (pos : BitVec 6) (s : State) : Host.Outcome State Fault Refusal := next (holdExpired pos.toNat s)

/-! ## Commands (R646 to R648) -/

/-- RES_CFG (R547, R592, R650 to R652). -/
def actResCfg (p : Part) (armEn autoRollback claim wait : Nat) (s : State) : CmdOut × State :=
  if armEn > 1 || autoRollback > 1 || claim > 1 || wait = 0 || wait > 1000 then (.done stBadParam, s)
  else
    let set (s : State) : State := s.updRes p fun r => { r with
      armEn := armEn = 1, autoRollback := autoRollback = 1, assayWait := BitVec.ofNat 10 wait }
    let put (x : StagingUse) (s : State) : State := { s with host := { s.host with staging := x } }
    match claim, s.host.staging with
    | 0, .capture q => (cmdOk, set (if q = p then put .free s else s))
    | 0, _ => (cmdOk, set s)
    | _, .free => (cmdOk, set (put (.capture p) s))
    | _, .capture q => if q = p then (cmdOk, set s) else (.done stConflict (heldBy 3 0 0x21 q.val), s)
    | _, .save => (.done stConflict (heldBy 3 0 0x20 0xFF), s)

/-- RES_CFG. -/
def execResCfg (h : CmdHdr) (armEn autoRollback snapClaim : Byte) (wait : B16) (s : State) :
    Host.Outcome State Fault Refusal :=
  next (hostCmd { opcode := 0x0504, issuer := .folio } (.resCfg h armEn autoRollback snapClaim wait) h [] false
    (actResCfg h.fn armEn.toNat autoRollback.toNat snapClaim.toNat wait.toNat) s)

/-- RB_SET. -/
def actRbSet (p : Part) (set : B32) (list : B64) (s : State) : CmdOut × State :=
  if (s.obj? p set.toNat).isNone then (.done stNoAccess, s)
  else match setOf s p set.toNat with
    | none => (.done stBadParam, s)
    | some _ => (cmdOk, s.updRes p fun r => { r with rbSet := set, rbList := list })

/-- RB_SET. -/
def execRbSet (h : CmdHdr) (set : B32) (list : B64) (s : State) : Host.Outcome State Fault Refusal :=
  next (hostCmd { opcode := 0x0505, issuer := .folio } (.rbSet h set list) h [] false (actRbSet h.fn set list) s)

/-- HOLD. -/
def execHold (h : CmdHdr) (set : Byte) (s : State) : Host.Outcome State Fault Refusal :=
  let act (s : State) : CmdOut × State :=
    if set.toNat > 1 then (.done stBadParam, s)
    else if (s.part h.fn).cad.role ≠ .leader then (.done stNoAccess, s)
    else (cmdOk, holdReason h.fn hdHost (set = 1) s)
  next (hostCmd { opcode := 0x0508, issuer := .folio } (.hold h set) h [] false act s)

/-- A port map from a list of masks, from a first position on. -/
def putMasks (first : Nat) (masks : List Byte) (m : Map Byte) : Map Byte :=
  masks.zipIdx.foldl (fun m e => Map.setD 0 m (first + e.2) e.1) m

/-- GROUP_SET (R513, R517, R570, R648). -/
def actGroupSet (p : Part) (folio : B32) (pos : Nat) (masks : List Byte) (s : State) : CmdOut × State :=
  if pos > 39 then (.done stBadParam, s)
  else if (s.folioPart.any fun q => q ≠ p) || anyRunning s p then (.done stBusy, s)
  else
    let s := if s.vesin.fvalid then leaveFolio p s else s
    let vmap := putMasks 0 (takePad 40 0 masks) []
    let members := ((List.range 32).filter fun d => d = pos || Map.getD vmap d 0 ≠ 0).foldl (fun a d => a + 2 ^ d) 0
    let s := updVesin (fun x => { x with
      folioId := folio, fpart := p, fvalid := true, myPos := BitVec.ofNat 6 pos, vmap, seqOut := [], seqIn := []
      expired := [] }) s
    let s := s.updRes p fun r => { r.kept with members := BitVec.ofNat 40 members }
    let s := s.updCad p fun c => { c with role := if pos = 0 then .leader else .follower }
    (cmdOk, folioChanged s)

/-- GROUP_SET. -/
def execGroupSet (h : CmdHdr) (folio : B32) (pos : Byte) (masks : List Byte) (s : State) : Host.Outcome State Fault Refusal :=
  next (hostCmd { opcode := 0x0600 } (.groupSet h folio pos masks) h [] false (actGroupSet h.fn folio pos.toNat masks) s)

/-- The folio registers and keys as after reset (R536, R748). -/
def clearFolio (s : State) : State :=
  let s := updVesin (fun x => { x with
    folioId := 0, fpart := 0, fvalid := false, myPos := 0, vmap := [], curKey := none, nextKey := none
    misroute := 0, dup := 0, resent := 0, timeouts := 0, seqOut := [], seqIn := [], expired := [] }) s
  { s with power := { s.power with assayKey := none } }

/-- GROUP_LEAVE: LEAVE goes to the coordinator, and the module is in no folio (R571, R647). -/
def execGroupLeave (h : CmdHdr) (s : State) : Host.Outcome State Fault Refusal :=
  let act (s : State) : CmdOut × State := (cmdOk, folioChanged (clearFolio (leaveFolio h.fn (sendLeave h.fn 3 s))))
  next (hostCmd { opcode := 0x0601, issuer := .folio } (.groupLeave h) h [] false act s)

/-- MAP_SET (R522). -/
def execMapSet (h : CmdHdr) (first count : Byte) (masks : List Byte) (s : State) : Host.Outcome State Fault Refusal :=
  let act (s : State) : CmdOut × State :=
    if first.toNat + count.toNat > 40 then (.done stBadParam, s)
    else
      let s := dropKept s h.fn
      let s := updVesin (fun x => { x with vmap := putMasks first.toNat (takePad count.toNat 0 masks) x.vmap }) s
      (cmdOk, folioChanged (retryWaiting (dropUnmapped s)))
  next (hostCmd { opcode := 0x0602, issuer := .folio } (.mapSet h first count masks) h [] false act s)

end Sys2Proof.Machine
end

