-- ==== Sys2Proof/Machine/Assay.lean ====
section
/-!
DEFINITION. Assay comparisons of replicas (R559 to R569).
-/
namespace Sys2Proof.Machine

/-- The assay engine's master id (R37). -/
abbrev assayMaster : Nat := 0x24

/-! ## Digests (R559 to R561) -/

/-- H for a step and an export id (R560). -/
def assayH (key : B256) (step ident : Nat) : B128 :=
  let v := BitVec.ofNat 128 (leNat ((sha256 (digestBytes key ++ leBytes 8 step ++ leBytes 2 ident)).take 16))
  if v = 0 then 1 else v

/-- The digests of a sheet's sixteen 4 KiB blocks. -/
def blockDigests (h : B128) (data : List Byte) : List B128 :=
  (List.range 16).map fun i => assayP h (words16 ((data.drop (4096 * i)).take 4096))

/-- A list in pieces of 16. -/
def by16 {α : Type} (l : List α) : List (List α) :=
  (List.range ((l.length + 15) / 16)).map fun i => (l.drop (16 * i)).take 16

/-- The levels from a level of digests up to the root. -/
def upLevels (h : B128) : Nat → List B128 → List (List B128)
  | 0, l => [l]
  | n + 1, l => if l.length ≤ 1 then [l] else l :: upLevels h n ((by64 l).map (assayP h))

/-- The assay tree of an object, level 0 first (R561). -/
def assayTree (s : State) (o : Obj) (h : B128) : List (List B128) :=
  let blocks := (List.range o.sheets).flatMap fun i => blockDigests h (objSheet s o i)
  blocks :: upLevels h 8 ((by16 blocks).map (assayP h))

/-- The children's digests of a node. -/
def childDigests (tree : List (List B128)) (level node : Nat) : List B128 :=
  let l := tree.getD (level - 1) []
  if level = 1 then (l.drop (16 * node)).take 16 else (l.drop (64 * node)).take 64

/-- The level of the root. -/
def topLevel (tree : List (List B128)) : Nat := tree.length - 1

/-- A tree's digests in the digest table: level by level, leaves first. -/
def treeBytes (tree : List (List B128)) : List Byte := tree.flatten.flatMap fun d => leBytes 16 d.toNat

/-- The address of the digest table that a firing names (R562). -/
def dtabOf (f : Firing) : Nat := field f.entry.arg.toNat 55 16 * sheetBytes

/-- The root. -/
def treeRoot (tree : List (List B128)) : B128 := (tree.getD (topLevel tree) []).headD 0

/-! ## Deciding (R562 to R564, R568, R569) -/

/-- The comparison of an export id and step. -/
def assayOf (s : State) (p : Part) (ident step : Nat) : Option Assay :=
  (s.part p).res.assays.find? fun a => a.ident = ident && a.step = step

/-- Changes a comparison. -/
def updAssay (p : Part) (ident step : Nat) (f : Assay → Assay) (s : State) : State :=
  s.updRes p fun r => { r with assays := r.assays.map fun a => if a.ident = ident && a.step = step then f a else a }

/-- A DIGEST message (R565). -/
def digestMsg (op level : Nat) (a : Assay) (code node : Nat) (ds : List B128) : MsgBody :=
  .digest op level a.ident a.step code node (ds.flatMap fun d => leBytes 16 d.toNat)

/-- A decided comparison ends once its repairs are written: the stitch is signalled (R569). -/
def endAssay (p : Part) (ident step : Nat) (s : State) : State :=
  match assayOf s p ident step with
  | none => s
  | some a =>
    if a.result.isNone || !a.repairs.isEmpty then s
    else
      let s := s.updRes p fun r => { r with assays := r.assays.erase a }
      let s := if a.sig then (engineSignal p assayMaster a.stitch s).2 else s
      doneFiring p a.firing s

/-- What a replica reports of a decided comparison: RES_ASSAY_LAST and, for DIVERGED, address and journal (R568, R592). -/
def noteResult (p : Part) (ident step handle result block : Nat) (s : State) : State :=
  let s := s.updRes p fun r => { r with
    assayLast := place 64 48 ident ||| place 64 40 result ||| BitVec.ofNat 64 (step % 2 ^ 40) }
  if result ≠ 2 then s
  else
    let at' := ((s.obj? p handle).map fun o => o.base + block * 4096).getD 0
    let s := s.updRes p fun r => { r with diverged := BitVec.ofNat 64 at' }
    divergeHold p (resNote p 8 stDiverged (place 224 184 ident ||| place 224 56 at') s)

/-- A comparison is decided at this replica. -/
def decideAssay (p : Part) (ident step result block : Nat) (s : State) : State :=
  match assayOf s p ident step with
  | none => s
  | some a =>
    if a.result.isSome then s
    else
      let s := updAssay p ident step (fun a => { a with result := some (result, block) }) s
      endAssay p ident step (noteResult p ident step a.handle result block s)

/-! ## The descent (R566 to R568) -/

/-- The value that more than half of the answers hold, with the lowest position that holds it. -/
def majority (vs : Map B128) : Option Nat :=
  (List.find? (fun e => decide (2 * (List.filter (fun x => x.2 = e.2) vs).length > vs.length)) vs).map Prod.fst

/-- A differing sheet with its majority and minority positions. -/
def differEntry (sheet : Nat) (vs : Map B128) : Nat × Nat × Option Nat × List Nat :=
  match majority vs with
  | none => (sheet, 0, none, [])
  | some q => (sheet, 0, some q, (vs.filter fun e => e.2 ≠ Map.getD vs q 0).map Prod.fst)

/-- The referee asks every replica for the children of a node. -/
def askNode (p : Part) (ident step level node : Nat) (s : State) : State :=
  match assayOf s p ident step with
  | none => s
  | some a =>
    let own := ownPos s
    let s := updAssay p ident step (fun a => { a with
      queries := a.queries ++ [(level, node, [(own, childDigests a.tree level node)])] }) s
    (Map.keys a.roots).foldl (fun s d =>
      if d = own then s else engineSend assayMaster d (digestMsg 2 level a 0 node []) s) s

/-- The first repair request for a sheet goes to its source. -/
def startRepair (p : Part) (ident step sheet source : Nat) (s : State) : State :=
  let s := updAssay p ident step (fun a => { a with repairs := a.repairs ++ [(sheet, source, 0)] }) s
  sendMsg source (ctrl 3 1 ident sheet) .none s

/-- The members among a comparison's replicas. -/
def replicaMembers (s : State) (p : Part) (a : Assay) : List Nat :=
  a.replicas.filter fun d => (s.part p).res.members.getLsbD d

/-- The referee sends RESULT to every replica, and DIVERGED to the leader too, which is to hold (R568, R569). -/
def sendResult (p : Part) (a : Assay) (result block : Nat) (s : State) : State :=
  let ds := replicaMembers s p a ++ (if result = 2 && !a.replicas.contains 0 then [0] else [])
  (ds.filter fun d => d ≠ ownPos s).foldl (fun s d => engineSend assayMaster d (digestMsg 4 0 a result block []) s) s

/-- The referee's result, with the repairs before it. -/
def conclude (p : Part) (ident step : Nat) (s : State) : State :=
  match assayOf s p ident step with
  | none => s
  | some a =>
    let own := ownPos s
    let bad := decide (a.differ.length > 64) || a.differ.any fun e => e.2.2.1.isNone
    let first := a.differ.foldl (fun m e => min m (16 * e.1 + e.2.1)) (2 ^ 56 - 1)
    let block := if bad then first else 0
    let result := if bad then 2 else if a.differ.isEmpty then 0 else 1
    let repair (s : State) (e : Nat × Nat × Option Nat × List Nat) : State :=
      match e.2.2.1 with
      | none => s
      | some q => e.2.2.2.foldl (fun s d =>
          if d = own then startRepair p ident step e.1 q s
          else engineSend assayMaster d (digestMsg 5 1 a q e.1 []) s) s
    let s := if bad then s else a.differ.foldl repair s
    decideAssay p ident step result block (sendResult p a result block s)

/-- Every replica has answered for a node: its disagreeing children are followed. -/
def followNode (p : Part) (ident step level node : Nat) (answers : Map (List B128)) (s : State) : State :=
  let n := (answers.map fun e => e.2.length).foldl max 0
  let vals (c : Nat) : Map B128 := answers.map fun e => (e.1, e.2.getD c 0)
  let differs (c : Nat) : Bool := (vals c).any fun e => e.2 ≠ ((vals c).headD (0, 0)).2
  let cs := (List.range n).filter differs
  if level = 1 then
    updAssay p ident step (fun a => { a with
      differ := a.differ.map fun e => if e.1 = node then (e.1, cs.headD 0, e.2.2) else e }) s
  else
    cs.foldl (fun s c =>
      let child := 64 * node + c
      let s := if level = 2 then
          updAssay p ident step (fun a => { a with differ := a.differ ++ [differEntry child (vals c)] }) s
        else s
      askNode p ident step (level - 1) child s) s

/-- A node's answers are all in, or no more are awaited. -/
def closeQuery (p : Part) (ident step : Nat) (q : Nat × Nat × Map (List B128)) (s : State) : State :=
  let s := updAssay p ident step (fun a => { a with queries := a.queries.filter fun x => !(x.1 = q.1 && x.2.1 = q.2.1) }) s
  let s := followNode p ident step q.1 q.2.1 q.2.2 s
  match assayOf s p ident step with
  | some a => if a.queries.isEmpty then conclude p ident step s else s
  | none => s

/-- The referee compares the roots it has (R564, R566). -/
def compareRoots (p : Part) (ident step : Nat) (s : State) : State :=
  match assayOf s p ident step with
  | none => s
  | some a =>
    let s := updAssay p ident step (fun a => { a with descending := true }) s
    if a.roots.length < 2 then decideAssay p ident step 3 0 (sendResult p a 3 0 s)
    else if a.roots.all fun e => e.2 = (a.roots.headD (0, 0)).2 then conclude p ident step s
    else
      let s := if topLevel a.tree = 1 then
          updAssay p ident step (fun a => { a with differ := [differEntry 0 a.roots] }) s
        else s
      askNode p ident step (topLevel a.tree) 0 s

/-- The referee starts once every replica's root is in. -/
def tryCompare (p : Part) (ident step : Nat) (s : State) : State :=
  match assayOf s p ident step with
  | none => s
  | some a =>
    if a.referee && !a.descending && a.result.isNone &&
        (replicaMembers s p a).all fun d => (Map.find? a.roots d).isSome then compareRoots p ident step s else s

/-! ## Firing (R562 to R564) -/

/-- A comparison that decides at once. -/
def decideNow (p : Part) (f : Firing) (ident step result stitch : Nat) (sig : Bool) (s : State) : State :=
  let s := s.updRes p fun r => { r with
    assayLast := place 64 48 ident ||| place 64 40 result ||| BitVec.ofNat 64 (step % 2 ^ 40) }
  let s := if sig then (engineSignal p assayMaster stitch s).2 else s
  doneFiring p f s

/-- A comparison begins at a replica: digests go to the table, and the root to the referee. -/
def startAssay (p : Part) (f : Firing) (h ident : Nat) (o : Obj) (key : B256) (s : State) : State :=
  let v := f.entry.arg.toNat
  let step := posStep f.pos
  let dtab := dtabOf f
  let tree := assayTree s o (assayH key step ident)
  let bytes := treeBytes tree
  let rd := checkMem s p assayMaster .r o.base (o.sheets * sheetBytes)
  let wr := checkMem s p assayMaster .w dtab bytes.length
  if rd ≠ .ok then doneFiring p f (noteDenied p assayMaster .r rd s)
  else if wr ≠ .ok then doneFiring p f (noteDenied p assayMaster .w wr s)
  else
    let s := writeMem p dtab bytes (touchRead p o.base (o.sheets * sheetBytes) s)
    let replicas := (List.range 40).filter fun d => Nat.testBit v (88 + d)
    let own := ownPos s
    let ref := replicas.find? fun d => (s.part p).res.members.getLsbD d
    let early := (s.part p).res.earlyRoots.filter fun x => x.1 = ident && x.2.1 = step
    let roots := early.foldl (fun m x => Map.insert m x.2.2.1 x.2.2.2) [(own, treeRoot tree)]
    let a : Assay := {
      firing := f, ident, step, handle := h, replicas, stitch := field v 87 72, sig := v.testBit 71, tree
      referee := decide (ref = some own), roots }
    let s := s.updRes p fun r => { r with
      assays := r.assays ++ [a], earlyRoots := r.earlyRoots.filter fun x => !(x.1 = ident && x.2.1 = step) }
    match ref with
    | none => decideAssay p ident step 3 0 s
    | some d =>
      if d = own then tryCompare p ident step s
      else engineSend assayMaster d (digestMsg 1 0 a 0 0 [treeRoot tree]) s

/-- ASSAY_COMPARISON: the engine takes the next firing. -/
def assayStep (p : Part) (s : State) : State :=
  match (s.part p).cad.assayQ with
  | [] => s
  | f :: rest =>
    let s := takenFiring p f (s.updCad p fun c => { c with assayQ := rest })
    let v := f.entry.arg.toNat
    let h := f.entry.object.toNat
    let now (ident result : Nat) : State := decideNow p f ident (posStep f.pos) result (field v 87 72) (v.testBit 71) s
    if s.folioPart ≠ some p || !Nat.testBit v (88 + ownPos s) then doneFiring p f s
    else match s.obj? p h, exportId s p h, s.power.assayKey with
      | some o, some ident, some key => startAssay p f h ident o key s
      | some _, some ident, none => now ident 3
      | _, _, _ => now 0xFFFF 4

/-- ASSAY_COMPARISON. -/
def execAssayComparison (p : Part) (s : State) : Host.Outcome State Fault Refusal :=
  next (settle p s (assayStep p s))

/-! ## Messages -/

/-- ROOT reaches the referee, before or after its own firing. -/
def onRoot (src ident step : Nat) (root : B128) (p : Part) (s : State) : State :=
  match assayOf s p ident step with
  | some a =>
    if a.referee && !a.descending && a.replicas.contains src then
      tryCompare p ident step (updAssay p ident step (fun a => { a with roots := Map.insert a.roots src root }) s)
    else s
  | none => s.updRes p fun r => { r with
      earlyRoots := r.earlyRoots.filter (fun x => !(x.1 = ident && x.2.1 = step && x.2.2.1 = src)) ++
        [(ident, step, src, root)] }

/-- DIGEST_ROOT. -/
def execDigestRoot (m : MsgHdr) (ident : B16) (step : BitVec 40) (root : B128) (s : State) : Host.Outcome State Fault Refusal :=
  next (receivePlain m (onRoot m.src.toNat ident.toNat step.toNat root) s)

/-- DIGEST_QUERY: a replica returns a node's children. -/
def execDigestQuery (m : MsgHdr) (ident : B16) (step : BitVec 40) (level : BitVec 4) (node : Nat) (s : State) :
    Host.Outcome State Fault Refusal :=
  next (receivePlain m (fun p s => match assayOf s p ident.toNat step.toNat with
    | some a => engineSend assayMaster m.src.toNat
        (digestMsg 3 level.toNat a 0 node (childDigests a.tree level.toNat node)) s
    | none => s) s)

/-- REPLY reaches the referee. -/
def onDigests (src ident step level node : Nat) (ds : List B128) (p : Part) (s : State) : State :=
  match assayOf s p ident step with
  | none => s
  | some a => match a.queries.find? fun q => q.1 = level && q.2.1 = node with
    | none => s
    | some q =>
      let q' := (q.1, q.2.1, Map.insert q.2.2 src ds)
      let s := updAssay p ident step (fun a => { a with
        queries := a.queries.map fun x => if x.1 = level && x.2.1 = node then q' else x }) s
      if (Map.keys a.roots).all fun d => (Map.find? q'.2.2 d).isSome then closeQuery p ident step q' s else s

/-- DIGEST_REPLY. -/
def execDigestReply (m : MsgHdr) (ident : B16) (step : BitVec 40) (level : BitVec 4) (node : Nat) (digests : List B128)
    (s : State) : Host.Outcome State Fault Refusal :=
  next (receivePlain m (onDigests m.src.toNat ident.toNat step.toNat level.toNat node digests) s)

/-- RESULT reaches a replica, or the leader of a folio whose replicas have diverged. -/
def onAssayResult (ident step code node : Nat) (p : Part) (s : State) : State :=
  match assayOf s p ident step with
  | some _ => decideAssay p ident step code node s
  | none => if code = 2 then divergeHold p s else s

/-- DIGEST_RESULT. -/
def execDigestResult (m : MsgHdr) (ident : B16) (step : BitVec 40) (code : B16) (node : Nat) (s : State) :
    Host.Outcome State Fault Refusal :=
  next (receivePlain m (onAssayResult ident.toNat step.toNat code.toNat node) s)

/-- DIGEST_REPAIR: a minority replica fetches the sheet from the position named. -/
def execDigestRepair (m : MsgHdr) (ident : B16) (step : BitVec 40) (sheet : Nat) (source : BitVec 6) (s : State) :
    Host.Outcome State Fault Refusal :=
  next (receivePlain m (fun p s => match assayOf s p ident.toNat step.toNat with
    | some _ => startRepair p ident.toNat step.toNat sheet source.toNat s
    | none => s) s)

/-- The first 4 KiB block in which two sheets differ. -/
def firstDiff (a b : List Byte) : Nat :=
  ((List.range 16).find? fun i => (a.drop (4096 * i)).take 4096 ≠ (b.drop (4096 * i)).take 4096).getD 0

/-- A replica digests its object anew after a repair: its tree, and its digest table (R567). -/
def redigest (p : Part) (a : Assay) (s : State) : State :=
  match s.obj? p a.handle, s.power.assayKey with
  | some o, some key =>
    let s := touchRead p o.base (o.sheets * sheetBytes) s
    let tree := assayTree s o (assayH key a.step a.ident)
    let bytes := treeBytes tree
    let s := updAssay p a.ident a.step (fun a => { a with tree }) s
    match checkMem s p assayMaster .w (dtabOf a.firing) bytes.length with
    | .ok => writeMem p (dtabOf a.firing) bytes s
    | acc => noteDenied p assayMaster .w acc s
  | _, _ => s

/-- A repaired sheet arrives (R567, R585): written as the port it came by (R40), or requested again up to three times, after
which the replicas have diverged (R568), as they have where the port may not write the sheet (DESIGN CHOICE). -/
def onRepair (v : Port) (src ident sheet : Nat) (data : List Byte) (mark : B256) (p : Part) (s : State) : State :=
  let mine (a : Assay) : Bool := a.ident = ident && a.repairs.any fun r => r.1 = sheet && r.2.1 = src
  match (s.part p).res.assays.find? mine with
  | none => s
  | some a => match s.obj? p a.handle with
    | none => s
    | some o =>
      let tries := (((a.repairs.find? fun r => r.1 = sheet && r.2.1 = src).map fun r => r.2.2)).getD 0
      let done (s : State) : State := updAssay p ident a.step (fun a => { a with
        repairs := a.repairs.filter fun r => !(r.1 = sheet && r.2.1 = src) }) s
      let broken (s : State) : State := endAssay p ident a.step (noteResult p ident a.step a.handle 2 (16 * sheet) (done s))
      if hallmark data = mark then
        match landing p v .w (o.base + sheet * sheetBytes) s with
        | (false, s) => broken s
        | (true, s) =>
        let block := firstDiff (objSheet s o sheet) data
        let s := redigest p a (writeMem p (o.base + sheet * sheetBytes) data s)
        let s := (done s).updRes p fun r => { r with repairs := satAdd r.repairs 1 }
        endAssay p ident a.step (resNote p 7 stOk (place 224 184 ident ||| place 224 152 block ||| place 224 56 sheet |||
          place 224 4 (2 ^ ownPos s)) s)
      else if tries ≥ 3 then broken s
      else
        let s := s.updRes p fun r => { r with fillRetries := satAdd r.fillRetries 1 }
        let s := updAssay p ident a.step (fun a => { a with
          repairs := a.repairs.map fun r => if r.1 = sheet && r.2.1 = src then (r.1, r.2.1, r.2.2 + 1) else r }) s
        sendMsg src (ctrl 3 1 ident sheet) .none s

/-- FILL_REPAIR. -/
def execFillRepair (m : MsgHdr) (ident : B16) (sheet : Nat) (data : List Byte) (mark : B256) (s : State) :
    Host.Outcome State Fault Refusal :=
  next (settleMsg m (.fillRepair m ident sheet data mark) s
    (receivePlain m (onRepair m.port m.src.toNat ident.toNat sheet data mark) s))

/-! ## Waits (R564, R569) -/

/-- ASSAY_WAIT_EXPIRY: the referee goes on with the replicas that have answered. -/
def assayExpired (p : Part) (ident step : Nat) (s : State) : State :=
  match assayOf s p ident step with
  | none => s
  | some a =>
    if !a.referee || a.result.isSome then s
    else if !a.descending then compareRoots p ident step s
    else a.queries.foldl (fun s q => closeQuery p ident step q s) s

/-- ASSAY_WAIT_EXPIRY. -/
def execAssayWaitExpiry (ident : B16) (step : BitVec 40) (s : State) : Host.Outcome State Fault Refusal :=
  next (match s.folioPart with
    | some p => assayExpired p ident.toNat step.toNat s
    | none => s)

/-- REPLICA_ASSAY_TIMEOUT: a replica that holds no RESULT decides INCOMPLETE. -/
def execReplicaAssayTimeout (ident : B16) (step : BitVec 40) (s : State) : Host.Outcome State Fault Refusal :=
  next (match s.folioPart with
    | some p => match assayOf s p ident.toNat step.toNat with
      | some a => if a.referee then s else decideAssay p ident.toNat step.toNat 3 0 s
      | none => s
    | none => s)

end Sys2Proof.Machine
end

