-- ==== Sys2Proof/Machine/Registers.lean ====
section
/-!
DEFINITION. The register window (R600): what each block's registers read as, and what a read clears (R15). A block gives its
registers in words of 64 bits; a 32-bit register at an offset of 4 is the high half of its word.
-/
namespace Sys2Proof.Machine

/-- Two 32-bit registers in one word. -/
def two (lo hi : Nat) : Nat := lo % 2 ^ 32 + hi % 2 ^ 32 * 2 ^ 32

/-- Whether every state of a partition's stream is shown in two bits each (R664). -/
def streamStates (b : Bench) : Nat := (four.map fun st => (b.streams.get st).state.code * 4 ^ st.val).sum

/-- Codes of ROLE (R86). -/
def CadRole.code : CadRole → Nat
  | .standalone => 0
  | .leader => 1
  | .follower => 2

/-- The shares of the quarters, four bits each (R145). -/
def sharesWord (sh : Quad Nat) : Nat := (four.map fun q => sh.get q * 16 ^ q.val).sum

/-- A bit for each quarter. -/
def quarterBits (f : Qtr → Bool) : Nat := (four.map fun q => bit (f q) * 2 ^ q.val).sum

/-! ## The blocks -/

/-- Cadence (R86). -/
def cadWord (s : State) (p : Part) (o : Nat) : Nat :=
  let c := (s.part p).cad
  match o with
  | 0x00 => c.pos.toNat
  | 0x08 => two ((if c.settingsAt = s.cad.settings then 0 else s.cad.ioFunc.toNat) * 16 + c.role.code)
      (bit c.evtOverrun * 4 + bit (s.cad.ppsLost && c.lossesAt ≠ s.cad.losses) * 2 +
        bit (s.cad.wall ≠ 0 && c.loadsAt ≠ s.cad.loads))
  | 0x10 => two c.stale.toNat (1024 - c.events.length)
  | 0x18 => (s.timeOf p).toNat
  | _ => 0

/-- BNC_BANK_STATE: four bits a bank, bank 0 of quarter 0 lowest. -/
def bankStates (s : State) : Nat :=
  (four.map fun q =>
    let x := s.array.quarters.get q
    (x.bank0.state.code + x.bank1.state.code * 16) * 256 ^ q.val).sum

/-- Array (R145). -/
def arrayWord (s : State) (p : Part) (o : Nat) : Nat :=
  let b := (s.part p).bench
  match o with
  | 0x00 => two (sharesWord s.array.shares) (quarterBits s.array.live.get)
  | 0x08 => if arrayPart s = p then bankStates s else 0
  | 0x10 => b.rimFlags.bits
  | 0x18 => b.nfPos.toNat
  | 0x20 => b.rimFlushed.toNat
  | 0x28 => b.occCyc.toNat
  | 0x30 => b.lostCyc.toNat
  | 0x38 => b.ctxBase.toNat
  | 0x40 => b.switches.toNat
  | _ => 0

/-- BNC_SLOT_MIN (R256). -/
def slotMin (s : State) (p : Part) : Nat :=
  if arrayPart s ≠ p then 64
  else ((platesOf s.array.live.get).map fun k => 64 - slotsUsed s p k).foldl min 64

/-- One stream's registers (R255). -/
def streamWord (x : Stream) (o : Nat) : Nat :=
  match o with
  | 0x00 => x.head.toNat
  | 0x08 => x.fault.toNat * 2 ^ 24 + x.state.code * 2 ^ 16 + x.lc.toNat
  | 0x10 => x.faultPc.toNat
  | 0x18 => x.drawPos.toNat
  | 0x20 => x.issued.toNat
  | 0x28 => ((x.tags.filter fun e => e.2 ≠ 0).map fun e => 2 ^ e.1).sum
  | _ => 0

/-- Streams, bench and vector (R255, R256). -/
def benchRegs (s : State) (p : Part) (o : Nat) : Nat :=
  let b := (s.part p).bench
  if o < 0x100 then streamWord (s.stream p (Fin.ofNat 4 (o / 0x40))) (o % 0x40)
  else match o with
    | 0x100 => two (slotMin s p) b.slotWait.toNat
    | 0x108 => two b.vflags.bits (64 - b.latches.length)
    | 0x110 => 64 - b.copies.length
    | _ => 0

/-- Veto (R297). -/
def vetoWord (s : State) (p : Part) (o : Nat) : Nat :=
  let v := (s.part p).veto
  match o with
  | 0x00 => v.vstep.toNat * 2 ^ 24 + v.reason.toNat * 2 ^ 16 + v.carried.toNat * 2 ^ 8 + bit v.closedOnly * 4 +
      bit (v.pending.any fun x => !x.record.closeOnly) * 2 + bit v.skip
  | 0x08 => v.dropped.toNat
  | 0x10 => v.partially.toNat
  | 0x18 => two v.refused.toNat v.skips.toNat
  | 0x20 => v.late.toNat
  | _ => 0

/-- Planisher (R344). -/
def plnWord (s : State) (p : Part) (o : Nat) : Nat :=
  let y := (s.part p).pln
  if 0x40 ≤ o && o < 0xC0 then (histWord y.hist ((o - 0x40) / 8)).toNat
  else match o with
    | 0x00 => two (y.queue.length * 2 ^ 12 + bit (y.queue.any fun j => j.waiting) * 2 + bit (!y.queue.isEmpty && holdsArray s p)) y.flags.bits
    | 0x08 => two y.applied.toNat y.skipped.toNat
    | 0x10 => two y.zero.toNat y.mismatch.toNat
    | 0x18 => two y.resumed.toNat y.realigned.toNat
    | _ => 0

/-- Every sheet of a partition's objects. -/
def sheetsOf (s : State) (p : Part) : List Sheet := (s.part p).tier.objects.flatMap fun e => e.2.map.map Prod.snd

/-- Frames in use in a partition's flash regions (R399). -/
def flashUsed (s : State) (p : Part) : Nat :=
  (s.flash.regions.map fun e =>
    if e.2.mode ≠ 0 && e.2.owner = p then (usedFrames s e.2.tier e.1).length else 0).sum

/-- TIER_STATUS (R399). -/
def tierStatus (s : State) (p : Part) : Nat :=
  let mine := s.flash.moves.filter fun v => v.p = p
  let names := (sheetsOf s p).flatMap fun x => if x.tier = .striped then x.frames.map (overlayName x.region) else []
  bit (s.flash.stalled.contains p || s.flash.overlayWait.any fun n => names.contains n) * 8 + bit (mine.any fun v => v.holding) * 4 +
    bit (mine.any fun v => v.kind = .promotion) * 2 + bit (mine.any fun v => v.started)

/-- Tiers (R399). -/
def tierWord (s : State) (p : Part) (o : Nat) : Nat :=
  let t := (s.part p).tier
  match o with
  | 0x00 => two t.quotaHbm.toNat (framesOf s p .hbm 0).length
  | 0x08 => two t.quotaBulk.toNat (framesOf s p .bulk 0).length
  | 0x10 => two (t.stakeLimit.toNat * 256 + t.stakeBase.toNat)
      ((sheetsOf s p).map fun x => if x.tier = .stake then x.frames.length else 0).sum
  | 0x18 => two (flashUsed s p) (tierStatus s p)
  | 0x20 => two t.moves.toNat t.dirty.toNat
  | 0x28 => two t.holds.toNat t.fetchMiss.toNat
  | 0x30 => two ((sheetsOf s p).filter fun x => x.poison).length ((sheetsOf s p).filter Sheet.lost).length
  | 0x38 => t.stbMiss.toNat
  | 0x40 => t.movedBytes.toNat
  | _ => 0

/-- Flash (R400). -/
def flashWord (s : State) (o : Nat) : Nat :=
  let f := s.flash
  let stale := (f.stripes.filter fun e => e.2.stale).length
  if 0x40 ≤ o && o < 0xC0 then (regionWord (s.region ((o - 0x40) / 8))).toNat
  else match o with
    | 0x00 => two (bit (f.regions.any fun e => e.2.readOnly) * 16 + bit (decide (stale ≠ 0)) * 8 +
        bit (f.folding.isSome && !f.refreshing) * 4 + bit (f.refreshing || !f.rewrites.isEmpty) * 2 +
        bit (!f.formatting.isEmpty)) (maxWear f * 256 + avgWear f)
    | 0x08 => two f.badFactory.toNat f.badGrown.toNat
    | 0x10 => two f.uncorr.toNat f.retry.toNat
    | 0x18 => two f.overlay.length stale
    | 0x20 => f.sheetsWritten.toNat
    | _ => 0

/-- Codes of CMP_SLOT STATE. -/
def SlotState.code : SlotState → Nat
  | .free => 0
  | .loaded => 1
  | .retiring => 2

/-- Compression (R434). -/
def cmpWord (s : State) (p : Part) (o : Nat) : Nat :=
  let x := s.part p
  if o < 0x80 then
    let y := s.slot (o / 8)
    y.state.code * 2 ^ 62 + y.owner.val * 2 ^ 60 + (if y.state = .free then 0 else y.fmt.toNat) * 2 ^ 55 + y.gen.toNat * 2 ^ 40 +
      y.refs % 2 ^ 40
  else match o with
    | 0x80 => two x.packed.toNat x.packedRaw.toNat
    | 0x88 => two x.decodeErr.toNat x.tableRefused.toNat
    | 0x90 => x.saved.toNat
    | _ => 0

/-- One STC_IMPORT register. -/
def importWord (r : StcRegs) (w : Nat) : Nat :=
  match Map.find? r.imports w with
  | none => 0
  | some i => 2 ^ 63 + i.src.val * 2 ^ 61 + i.ops.toNat * 2 ^ 52 + i.base.toNat * 2 ^ 16 + i.count

/-- Stitches (R461). -/
def stcWord (s : State) (p : Part) (o : Nat) : Nat :=
  let r := (s.part p).stc
  if 0x08 ≤ o && o < 0x48 then importWord r ((o - 8) / 8)
  else match o with
    | 0x00 => r.count.toNat * 256 + r.base.toNat
    | 0x48 => two r.signals.toNat r.waitBroken.toNat
    | 0x50 => two r.breaks.toNat r.remoteIn.toNat
    | 0x58 => two r.remoteDenied.toNat (s.stitches.filter fun e => inRange r e.1 && e.2.state == .locked).length
    | 0x60 => r.lastBroken.toNat
    | _ => 0

/-- Arbiters (R484). -/
def arbWord (s : State) (o : Nat) : Nat :=
  if o / 0x20 ≥ 60 then 0
  else
    let x := s.arb (o / 0x20)
    match o % 0x20 with
    | 0x00 => x.map.toNat
    | 0x08 => x.shadow.toNat
    | 0x10 => two (bit x.mapErr * 2 ^ 17 + bit x.compat * 2 ^ 16 + x.burst.toNat * 256 + x.ageN.toNat) x.maxWait.toNat
    | 0x18 => two x.dead.toNat x.aged.toNat
    | _ => 0

/-- Access (R486). -/
def aclWord (s : State) (p : Part) (o : Nat) : Nat :=
  let a := (s.part p).acl
  if 0x100 ≤ o && o < 0x200 then
    leNat ((List.range 8).map fun i => aclRow s a.sel.toNat (o - 0x100 + i))
  else match o with
    | 0x00 => a.sel.toNat
    | 0x08 => a.denied.toNat
    | 0x10 => a.last.toNat
    | _ => 0

/-- A port's registers (R535). -/
def portWord (q : VPort) (o : Nat) : Nat :=
  match o with
  | 0x00 => two (q.state.code * 2 ^ 29 + q.width * 2 ^ 25 + q.lanes.toNat * 2 ^ 17 + q.good.toNat * 2 ^ 9 + bit q.ksel * 256 +
      q.peerPos.toNat) q.isoReason.toNat
  | 0x08 => q.peerSerial.toNat
  | 0x10 => two q.fecCorr.toNat q.fecUncorr.toNat
  | 0x18 => two q.replays.toNat q.authFail.toNat
  | 0x20 => two q.retrains.toNat q.downs.toNat
  | 0x28 => q.txBytes.toNat
  | 0x30 => q.rxBytes.toNat
  | _ => 0

/-- Vesin (R535, R536). -/
def vsnWord (s : State) (o : Nat) : Nat :=
  let x := s.vesin
  let ident (k : Option (Byte × B256)) : Nat := (k.map fun e => e.1.toNat).getD 0
  if o < 0x200 then portWord (x.port (Fin.ofNat 8 (o / 0x40))) (o % 0x40)
  else if 0x210 ≤ o && o < 0x238 then leNat ((List.range 8).map fun i => x.mask (o - 0x210 + i))
  else match o with
    | 0x200 => two (x.fpart.val * 2 ^ 14 + bit x.fvalid * 2 ^ 13 + x.myPos.toNat) x.folioId.toNat
    | 0x208 => two (bit x.nextKey.isSome * 2 ^ 17 + bit x.curKey.isSome * 2 ^ 16 + ident x.nextKey * 256 + ident x.curKey)
        (x.linkHold.toNat * 2 ^ 16 + x.portEn.toNat)
    | 0x238 => ((List.range 40).map fun d => bit (unreachable s d) * 2 ^ d).sum
    | 0x240 => two x.misroute.toNat x.dup.toNat
    | 0x248 => two x.resent.toNat x.timeouts.toNat
    | _ => 0

/-- RES_CKPT: the newest committed image of the rollback set. -/
def ckptWord (s : State) (p : Part) : Nat :=
  match setOf s p (s.part p).res.rbSet.toNat with
  | none => 0
  | some c => match c.newest s fun g => g.state = .sealed && g.committed with
    | none => 0
    | some slot => (c.image s slot).step % 2 ^ 40 * 2 ^ 24 + 1

/-- Whether a partition's resilience registers show its values: once there is a folio partition, its own alone (R592). -/
def showsRes (s : State) (p : Part) : Bool := s.folioPart.all fun q => q = p

/-- Resilience (R592). -/
def resWord (s : State) (p : Part) (o : Nat) : Nat :=
  let r := (s.part p).res
  if !showsRes s p then 0
  else if 0x80 ≤ o && o < 0xC0 then
    let b := Map.getD r.standbys (32 + (o - 0x80) / 8) {}
    b.state.toNat * 2 ^ 61 + b.takes.toNat * 2 ^ 55 + b.cover.toNat
  else match o with
    | 0x00 => two
        (bit r.autoRollback * 2 ^ 31 + bit r.armEn * 2 ^ 30 + bit (decide (s.host.staging = .capture p)) * 2 ^ 29 +
          r.assayWait.toNat * 2 ^ 16)
        (bit (isCoord s p) * 2 ^ 31 + r.sbState.toNat * 2 ^ 28 + r.takes.toNat * 2 ^ 22 + r.hold.toNat)
    | 0x08 => r.members.toNat
    | 0x10 => r.holdMark.toNat
    | 0x18 => r.rbSet.toNat
    | 0x20 => r.rbList.toNat
    | 0x28 => ckptWord s p
    | 0x30 => r.assayLast.toNat
    | 0x38 => r.diverged.toNat
    | 0x40 => two r.slices.toNat r.seals.toNat
    | 0x48 => two r.abandons.toNat r.unstaged.toNat
    | 0x50 => two r.snapHolds.toNat r.repairs.toNat
    | 0x58 => two r.dropped.toNat r.fillRetries.toNat
    | 0x60 => r.exports.length
    | _ => 0

/-- PKG_D2D (R705). -/
def D2d.word (d : D2d) : Nat :=
  d.state.code * 2 ^ 29 + d.width * 2 ^ 25 + d.groups.toNat * 2 ^ 17 + d.retired.toNat * 2 ^ 9 + d.disagree.toNat * 2 ^ 7 +
    d.round.toNat * 8 + d.fence.toNat

/-- Whether some live quarter's share is below 8. -/
def shed (s : State) : Bool := four.any fun q => s.array.live.get q && decide (s.array.shares.get q < 8)

/-- WDN_THERM (R705). -/
def thermWord (s : State) : Nat :=
  let limits := (four.map fun q => (if s.array.live.get q then (s.pkg.stakes.get q).fq / 100 else 0) * 16 ^ q.val).sum
  s.pkg.clockMhz * 2 ^ 36 + s.pkg.chosenMhz * 2 ^ 24 + limits * 256 + bit (shed s) * 2 + bit (decide (s.pkg.clockMhz < 1400))

/-- What the population record in force gives id 0x10 + i. -/
def State.guestAttr (s : State) (i : Fin 16) : Config.GuestAttr := Config.recGuest (s.signedRec 3) i

/-- A guest site's registers (R705). -/
def guestWord (s : State) (g : Fin 2) (o : Nat) : Nat :=
  let x := s.guest g
  let ids := ((List.range 16).map fun i =>
    let a := s.guestAttr (Fin.ofNat 16 i)
    bit (s.isMG && a.assigned && a.site = g) * 2 ^ i).sum
  match o with
  | 0x00 => two (x.state.code * 2 ^ 29 + x.fence.toNat * 2 ^ 26 + ids * 256) x.viol.toNat
  | 0x08 => two x.rateWait.toNat (Config.recViolLimit (s.signedRec 3) g).toNat
  | 0x10 => x.last.toNat
  | 0x18 => x.bytes.toNat
  | _ => 0

/-- PKG_GST_LIMIT (R705). -/
def limitWord (s : State) (i : Fin 16) : Nat :=
  let a := s.guestAttr i
  if !(s.isMG && a.assigned) then 0
  else 2 ^ 63 + a.site.val * 2 ^ 62 + a.partition.val * 2 ^ 60 + a.reqRate.toNat * 2 ^ 32 + a.byteRate.toNat * 2 ^ 16 +
    a.burst.toNat * 256

/-- WDN_BOOT (R752). -/
def bootWord (w : Power) : Nat :=
  let trial := match w.trial with
    | none => 0
    | some false => 1
    | some true => 2
  (Map.getD w.counters 1 0).toNat * 2 ^ 48 + w.runSvn.toNat * 2 ^ 32 + (w.reasons.headD 0).toNat * 2 ^ 24 + trial * 64 +
    bit w.active * 32 + bit w.runSlot * 16 + bit w.recovery * 8 + w.failCount.toNat

/-- Warden, package and power (R705, R752). -/
def wdnWord (s : State) (o : Nat) : Nat :=
  let w := s.power
  if o < 0x40 then
    let d := s.pkg.d2d.get (Fin.ofNat 4 (o / 0x10))
    if o % 0x10 = 0 then two d.word d.retrains.toNat else two d.replays.toNat d.disagrees.toNat
  else if 0x100 ≤ o && o < 0x180 then guestWord s (Fin.ofNat 2 ((o - 0x100) / 0x40)) (o % 0x40)
  else if 0x200 ≤ o && o < 0x280 then limitWord s (Fin.ofNat 16 ((o - 0x200) / 8))
  else
    let temp (q : Qtr) : Nat := (s.pkg.stakes.get q).sensor.toNat * 2 ^ 16 + (s.pkg.stakes.get q).temp.toNat
    let peak (q : Qtr) : Nat := (s.pkg.stakes.get q).peak.toNat
    match o with
    | 0x40 => two (temp 0) (temp 1)
    | 0x48 => two (temp 2) (temp 3)
    | 0x50 => two (peak 0) (peak 1)
    | 0x58 => two (peak 2) (peak 3)
    | 0x60 => thermWord s
    | 0x68 => two s.pkg.throttle.toNat s.pkg.changes.toNat
    | 0x400 => two (w.pinW.toNat * 2 ^ 16 + w.vinMv.toNat)
        (bit w.overvolt * 32 + bit w.thermtrip * 16 + bit w.undervolt * 8 + bit (decide (w.clockMhz < 1400)) * 4 +
          bit w.pwrGood * 2 + bit w.pwrEn)
    | 0x408 => two w.limit.toNat w.rails.toNat
    | 0x410 => two w.clockMhz w.peakW.toNat
    | 0x418 => two w.limitedMs.toNat w.railFaults.toNat
    | 0x420 => bootWord w
    | 0x428 => s.serial.toNat
    | _ => 0

/-- The 64-bit word of the register window at an offset that is a multiple of 8 (R600). -/
def windowWord (s : State) (p : Part) (o : Nat) : Nat :=
  let r := o % 0x1000
  match o / 0x1000 with
  | 0x0 => cadWord s p r
  | 0x1 => arrayWord s p r
  | 0x2 => benchRegs s p r
  | 0x3 => vetoWord s p r
  | 0x4 => plnWord s p r
  | 0x5 => tierWord s p r
  | 0x6 => flashWord s r
  | 0x7 => cmpWord s p r
  | 0x8 => stcWord s p r
  | 0x9 => arbWord s r
  | 0xA => aclWord s p r
  | 0xB => vsnWord s r
  | 0xC => resWord s p r
  | 0xD => wdnWord s r
  | _ => 0

/-- The 32-bit register, or half of a wider one, at an offset that is a multiple of 4. -/
def windowReg (s : State) (p : Part) (o : Nat) : Nat := windowWord s p (o / 8 * 8) / 2 ^ (32 * (o / 4 % 2)) % 2 ^ 32

/-! ## What a read clears (R15) -/

/-- Clears the fields of a 64-bit register that a read of one of its halves reaches: a field is cleared whole. No field but
the lowest lies in both halves, and its top bit is `top`. -/
def cutFields (top : Nat) (v : B64) (o : Nat) : B64 :=
  if o / 4 % 2 = 0 then BitVec.ofNat 64 (v.toNat / 2 ^ (max top 31 + 1) * 2 ^ (max top 31 + 1))
  else if top < 32 then v &&& 0xFFFF_FFFF
  else 0

/-- RC registers of the array block. -/
def clearArray (o : Nat) (b : Bench) : Bench :=
  match o / 8 * 8 with
  | 0x18 => { b with nfPos := cutFields 31 b.nfPos o }
  | 0x20 => if o = 0x20 then { b with rimFlushed := 0 } else b
  | 0x28 => { b with occCyc := 0 }
  | 0x30 => { b with lostCyc := 0 }
  | 0x40 => if o = 0x40 then { b with switches := 0 } else b
  | _ => b

/-- RC registers of the stream and bench block. -/
def clearBench (o : Nat) (b : Bench) : Bench :=
  if o = 0x104 then { b with slotWait := 0 }
  else if o < 0x100 && o % 0x40 = 0x20 then
    { b with streams := b.streams.modify (Fin.ofNat 4 (o / 0x40)) fun x => { x with issued := 0 } }
  else b

/-- RC registers of the veto block. -/
def clearVeto (o : Nat) (v : Veto) : Veto :=
  match o / 8 * 8 with
  | 0x08 => { v with dropped := 0 }
  | 0x10 => { v with partially := 0 }
  | 0x18 => if o = 0x18 then { v with refused := 0 } else { v with skips := 0 }
  | 0x20 => if o = 0x20 then { v with late := 0 } else v
  | _ => v

/-- RC registers of the planisher block. -/
def clearPln (o : Nat) (y : Planisher) : Planisher :=
  match o with
  | 0x08 => { y with applied := 0 }
  | 0x0C => { y with skipped := 0 }
  | 0x10 => { y with zero := 0 }
  | 0x14 => { y with mismatch := 0 }
  | 0x18 => { y with resumed := 0 }
  | 0x1C => { y with realigned := 0 }
  | _ => y

/-- RC registers of the tier block. -/
def clearTier (o : Nat) (t : TierRegs) : TierRegs :=
  match o with
  | 0x20 => { t with moves := 0 }
  | 0x24 => { t with dirty := 0 }
  | 0x28 => { t with holds := 0 }
  | 0x2C => { t with fetchMiss := 0 }
  | 0x38 => { t with stbMiss := 0 }
  | 0x40 => { t with movedBytes := 0 }
  | 0x44 => { t with movedBytes := 0 }
  | _ => t

/-- RC registers of the compression block. -/
def clearCmp (o : Nat) (x : PartState) : PartState :=
  match o with
  | 0x80 => { x with packed := 0 }
  | 0x84 => { x with packedRaw := 0 }
  | 0x88 => { x with decodeErr := 0 }
  | 0x8C => { x with tableRefused := 0 }
  | 0x90 => { x with saved := 0 }
  | 0x94 => { x with saved := 0 }
  | _ => x

/-- RC registers of the stitch block. -/
def clearStc (o : Nat) (r : StcRegs) : StcRegs :=
  match o with
  | 0x48 => { r with signals := 0 }
  | 0x4C => { r with waitBroken := 0 }
  | 0x50 => { r with breaks := 0 }
  | 0x54 => { r with remoteIn := 0 }
  | 0x58 => { r with remoteDenied := 0 }
  | 0x60 => { r with lastBroken := cutFields 31 r.lastBroken o }
  | 0x64 => { r with lastBroken := cutFields 31 r.lastBroken o }
  | _ => r

/-- RC registers of an arbiter. The arbiter registers are RO outside partition 0's window (R476). -/
def clearArb (o : Nat) (s : State) : State :=
  if o / 0x20 ≥ 60 then s
  else match o % 0x20 with
    | 0x14 => updArb (o / 0x20) (fun x => { x with maxWait := 0 }) s
    | 0x18 => updArb (o / 0x20) (fun x => { x with dead := 0 }) s
    | 0x1C => updArb (o / 0x20) (fun x => { x with aged := 0 }) s
    | _ => s

/-- RC registers of the access block. -/
def clearAcl (o : Nat) (a : AclRegs) : AclRegs :=
  match o with
  | 0x08 => { a with denied := 0 }
  | 0x10 => { a with last := cutFields 39 a.last o }
  | 0x14 => { a with last := cutFields 39 a.last o }
  | _ => a

/-- RC registers of a port. -/
def clearPort (o : Nat) (q : VPort) : VPort :=
  match o with
  | 0x10 => { q with fecCorr := 0 }
  | 0x14 => { q with fecUncorr := 0 }
  | 0x18 => { q with replays := 0 }
  | 0x1C => { q with authFail := 0 }
  | 0x20 => { q with retrains := 0 }
  | 0x24 => { q with downs := 0 }
  | 0x28 => { q with txBytes := 0 }
  | 0x2C => { q with txBytes := 0 }
  | 0x30 => { q with rxBytes := 0 }
  | 0x34 => { q with rxBytes := 0 }
  | _ => q

/-- RC registers of the Vesin block. -/
def clearVsn (o : Nat) (s : State) : State :=
  if o < 0x200 then updPort (Fin.ofNat 8 (o / 0x40)) (clearPort (o % 0x40)) s
  else match o with
    | 0x240 => updVesin (fun x => { x with misroute := 0 }) s
    | 0x244 => updVesin (fun x => { x with dup := 0 }) s
    | 0x248 => updVesin (fun x => { x with resent := 0 }) s
    | 0x24C => updVesin (fun x => { x with timeouts := 0 }) s
    | _ => s

/-- RC registers of the resilience block. -/
def clearRes (o : Nat) (r : Res) : Res :=
  match o with
  | 0x30 => { r with assayLast := cutFields 39 r.assayLast o }
  | 0x34 => { r with assayLast := cutFields 39 r.assayLast o }
  | 0x38 => { r with diverged := 0 }
  | 0x3C => { r with diverged := 0 }
  | 0x40 => { r with slices := 0 }
  | 0x44 => { r with seals := 0 }
  | 0x48 => { r with abandons := 0 }
  | 0x4C => { r with unstaged := 0 }
  | 0x50 => { r with snapHolds := 0 }
  | 0x54 => { r with repairs := 0 }
  | 0x58 => { r with dropped := 0 }
  | 0x5C => { r with fillRetries := 0 }
  | _ => r

/-- Changes a guest site. -/
def updGuest (g : Fin 2) (f : Guest → Guest) (s : State) : State :=
  { s with pkg := if g = 0 then { s.pkg with guest0 := f s.pkg.guest0 } else { s.pkg with guest1 := f s.pkg.guest1 } }

/-- Changes a spine-quarter link. -/
def updD2d (q : Qtr) (f : D2d → D2d) (s : State) : State := { s with pkg := { s.pkg with d2d := s.pkg.d2d.modify q f } }

/-- Changes a stake's heat. -/
def updStake (q : Qtr) (f : Stake → Stake) (s : State) : State := { s with pkg := { s.pkg with stakes := s.pkg.stakes.modify q f } }

/-- RC registers of a guest site. -/
def clearGuest (o : Nat) (x : Guest) : Guest :=
  match o with
  | 0x04 => { x with viol := 0 }
  | 0x08 => { x with rateWait := 0 }
  | 0x10 => { x with last := cutFields 39 x.last o }
  | 0x14 => { x with last := cutFields 39 x.last o }
  | 0x18 => { x with bytes := 0 }
  | 0x1C => { x with bytes := 0 }
  | _ => x

/-- RC registers of the warden, package and power block. -/
def clearWdn (o : Nat) (s : State) : State :=
  if o < 0x40 then
    let q : Qtr := Fin.ofNat 4 (o / 0x10)
    match o % 0x10 with
    | 0x04 => updD2d q (fun d => { d with retrains := 0 }) s
    | 0x08 => updD2d q (fun d => { d with replays := 0 }) s
    | 0x0C => updD2d q (fun d => { d with disagrees := 0 }) s
    | _ => s
  else if 0x100 ≤ o && o < 0x180 then updGuest (Fin.ofNat 2 ((o - 0x100) / 0x40)) (clearGuest (o % 0x40)) s
  else if 0x50 ≤ o && o < 0x60 then updStake (Fin.ofNat 4 ((o - 0x50) / 4)) (fun x => { x with peak := 0 }) s
  else match o with
    | 0x68 => { s with pkg := { s.pkg with throttle := 0 } }
    | 0x6C => { s with pkg := { s.pkg with changes := 0 } }
    | 0x414 => { s with power := { s.power with peakW := 0 } }
    | 0x418 => { s with power := { s.power with limitedMs := 0 } }
    | 0x41C => { s with power := { s.power with railFaults := 0 } }
    | _ => s

/-- The partition in whose window the RC fields of the Vesin block clear (R535). -/
def vsnWindow (s : State) : Part := s.folioPart.getD 0

/-- What the read of one 32-bit register clears. Module-wide registers clear in one window alone (R476, R535, R705, R752). -/
def clearReg (p : Part) (o : Nat) (s : State) : State :=
  let r := o % 0x1000
  match o / 0x1000 with
  | 0x0 => if r = 0x10 then s.updCad p fun c => { c with stale := 0 } else s
  | 0x1 => s.updBench p (clearArray r)
  | 0x2 => s.updBench p (clearBench r)
  | 0x3 => s.updVeto p (clearVeto r)
  | 0x4 => s.updPln p (clearPln r)
  | 0x5 => s.updTier p (clearTier r)
  | 0x7 => s.upd p (clearCmp r)
  | 0x8 => s.updStc p (clearStc r)
  | 0x9 => if p = 0 then clearArb r s else s
  | 0xA => s.updAcl p (clearAcl r)
  | 0xB => if p = vsnWindow s then clearVsn r s else s
  | 0xC => if showsRes s p then s.updRes p (clearRes r) else s
  | 0xD => if p = 0 then clearWdn r s else s
  | _ => s

/-- The 64 KiB of the register window, as REG_SNAPSHOT copies it (R649). -/
def windowBytes (s : State) (p : Part) : List Byte := (List.range 8192).flatMap fun i => leBytes 8 (windowWord s p (8 * i))

/-! ## The half reads of CAD_POS and CAD_TIME (R86) -/

/-- The high half as a read of it returns it: latched, or current. -/
def highHalf (latch : Option B32) (v : B64) : B32 :=
  match latch with
  | some x => x
  | none => (v >>> 32).setWidth 32

/-- A 4-byte read of one half of CAD_POS or CAD_TIME: the low half latches the high one, whose read consumes the latch. -/
def halfRead (p : Part) (time high : Bool) (s : State) : B32 × State :=
  let c := (s.part p).cad
  let v := if time then s.timeOf p else c.pos
  let latch := if time then c.timeLatch else c.posLatch
  let set (l : Option B32) : State :=
    if time then (s.updCad p fun c => { c with timeLatch := l }).tick else s.updCad p fun c => { c with posLatch := l }
  if high then (highHalf latch v, set none) else (v.setWidth 32, set (some ((v >>> 32).setWidth 32)))

end Sys2Proof.Machine
end

