-- ==== Sys2Proof/Machine/Resets.lean ====
section
/-!
DEFINITION. Partition reset (R455, R612, R651, R702) and device reset (R613, R614), and guest windows (R702, R703).
-/
namespace Sys2Proof.Machine

/-! ## Stitches (R441, R452, R455) -/

/-- A stitch that comes into use anew: SAT stays, since only a set of COUNT clears it. -/
def Stitch.reopened (x : Stitch) : Stitch := { epoch := x.epoch + 1, sat := x.sat }

/-- Reopens the stitches from `lo` up to `hi` that `f` names. -/
def reopenRange (lo hi : Nat) (f : Nat → Bool) (s : State) : State :=
  let one (i : Nat) : Option (Nat × Stitch) :=
    let g := lo + i
    let x := if f g then (s.stitch g).reopened else s.stitch g
    if x = {} then none else some (g, x)
  { s with stitches := (List.filter (fun e => decide (e.1 < lo)) s.stitches) ++ (List.range (hi - lo)).filterMap one ++
      (List.filter (fun e => decide (hi ≤ e.1)) s.stitches) }

/-- The stitches at a partition's reset: its requests are gone, what it holds breaks, and its range is broken or reopened. -/
def resetStitches (p : Part) (s : State) : State :=
  let s := four.foldl (fun s st => unregister p st s) s
  let r := (s.part p).stc
  let held := heldStitches s p.val none ++ heldStitches s (benchMaster p) none
  let own := (List.filter (fun e => inRange r e.1 && (e.2.state == .locked || !e.2.reqs.isEmpty)) s.stitches).map Prod.fst
  let gone := Map.keys ((own ++ held).foldl (fun m g => Map.insert m g ()) [])
  let s := breakStitches gone s
  let s := reopenRange (r.base.toNat * 256) ((r.base.toNat + r.count.toNat) * 256) (fun g => !own.contains g) s
  let s := four.foldl (fun s q => s.updStc q fun t => { t with
    imports := if q = p then [] else List.filter (fun e => decide (e.2.src ≠ p)) t.imports }) s
  s.updStc p fun t => { base := t.base, count := t.count }

/-! ## Guest windows (R702) -/

/-- Creates a site's guest window in its bound partition, where the record gives it one. -/
def openWindow (p : Part) (s : State) (g : Fin 2) : State :=
  match Config.recWindow (s.signedRec 3) g with
  | none => s
  | some (q, base, bytes) =>
    if q ≠ p || !s.isMG || !Config.recSite (s.signedRec 3) g then s
    else s.updTier p fun t => { t with
      nextHandle := t.nextHandle + 1
      objects := Map.insert t.objects t.nextHandle
        { kind := .guestWindow g, base := base.toNat, sheets := (bytes + 65535) / 65536, policy := 0 } }

/-- The guest windows of a partition. -/
def openWindows (p : Part) (s : State) : State := [0, 1].foldl (openWindow p) s

/-! ## Partition reset -/

/-- The folio partition's reset: LEAVE goes out, messages end, PORT_EN is 0, and UP ports are ISOLATED for want of a key (R536,
R571, R748). The other ports, being disabled, are OFF (DEDUCED: R536 names the UP ports alone). -/
def resetFolio (p : Part) (s : State) : State :=
  if s.folioPart ≠ some p then s
  else
    let s := sendLeave p 1 s
    let s := eight.foldl (fun s v => match (s.vesin.port v).state with
      | .up => isolate v 2 s
      | .off => s
      | _ => closePort v .off s) s
    clearFolio (updVesin (fun x => { x with awaiting := [], waiting := [], inbox := [], applying := [], linkHold := 100, portEn := 0 }) s)

/-- Operations in flight are abandoned, and the array context is discarded (R103, R612). Plate programs and seeds are not. -/
def resetEngines (p : Part) (s : State) : State :=
  let b := (s.part p).bench
  let s := (b.latches.flatMap fun l => l.slots).foldl (fun s i => dropRefs i 1 s) s
  let s := s.updBench p fun b => { prog := b.prog, seeds := b.seeds }
  let a := s.array
  let other (x : Option Part) : Option Part := if x = some p then none else x
  { s with
    contribs := s.contribs.filter fun c => c.p ≠ p
    array := { a with
      quarters := if arrayPart s = p then .all {} else a.quarters, copyOut := other a.copyOut, copyIn := other a.copyIn } }

/-- Objects are destroyed; quotas, stake range and the count of handles are kept (R399, R612, R781). -/
def resetTier (p : Part) (s : State) : State :=
  let s := (Map.keys (s.part p).tier.objects).foldl (fun s h => removeObject p h s) s
  let s := { s with flash := { s.flash with
    moves := s.flash.moves.filter fun v => v.p ≠ p, heldWrites := s.flash.heldWrites.filter fun e => e.1 ≠ p
    stalled := s.flash.stalled.filter fun q => q ≠ p } }
  s.updTier p fun t =>
    { quotaHbm := t.quotaHbm, quotaBulk := t.quotaBulk, stakeBase := t.stakeBase, stakeLimit := t.stakeLimit
      nextHandle := t.nextHandle }

/-- Resources that the partition's features hold are free again (R651). RES_CTRL, and so its claim, is kept (R592). -/
def freeClaims (p : Part) (s : State) : State :=
  let mine (u : TimerUse) : Bool := u.part = p && decide (u.feature.toNat ≤ 0x11)
  { s with
    host := { s.host with timers := List.filter (fun e => !mine e.2) s.host.timers }
    cad := if s.cad.ioFunc ≠ 0 && s.cad.ioHolder = p then
      { s.cad with ioFunc := 0, ioPart := 0, ioHolder := 0, settings := s.cad.settings + 1 } else s.cad }

/-- Commands that a reset abandons: accepted and not started, and long commands in progress. -/
def abandoned (h : HostPart) : Nat := h.accepted.length + h.longs.length

/-- Partition reset with its RESET entry (R612, R658): the count of commands abandoned, and the state. -/
def partitionReset (p : Part) (cause : Nat) (s : State) : Nat × State :=
  let n := abandoned (s.part p).host
  let s := resetFolio p s
  let s := (s.part p).host.longs.foldl (fun s e => releaseWork e.2.work s) s
  let s := resetTier p (resetEngines p s)
  let s := freeClaims p (resetStitches p s)
  let s := s.upd p fun x => { x with
    host := { x.host with accepted := [], longs := [] }
    cad := { loadsAt := s.cad.loads, lossesAt := s.cad.losses, settingsAt := s.cad.settings }, veto := {}, pln := {}, acl := {}
    res := { armEn := x.res.armEn, autoRollback := x.res.autoRollback, assayWait := x.res.assayWait
             rbSet := x.res.rbSet, rbList := x.res.rbList }
    packed := 0, packedRaw := 0, decodeErr := 0, tableRefused := 0, saved := 0 }
  let s := if (s.part p).host.pstate = .closed || cause = 3 then s else openWindows p s
  (n, note p 0x0070 stOk (place 224 216 cause ||| place 224 200 (n % 2 ^ 16)) s)

/-! ## Device reset -/

/-- The region and frame of an overlay key, as the overlay names them. -/
def nameOfKey (k : Nat) : Nat := overlayName (k / 2 ^ 48 % 2 ^ 12) (k / 2 ^ 16 % 2 ^ 32)

/-- What memory keeps through a device reset: flash, with the overlay's sheets in their places, and the guest dies' own
memory (R380, R613). -/
def keptMem (s : State) : Map Byte :=
  let inOv (k : Nat) : Bool := s.flash.overlay.contains (nameOfKey k)
  let stay (k : Nat) : Bool := k / 2 ^ 60 = 4 || k / 2 ^ 60 = 7 || (k / 2 ^ 60 = 5 && !inOv k)
  let ov := List.filter (fun e => decide (e.1 / 2 ^ 60 = 6) && inOv e.1) s.mem
  ov.foldl (fun m e => Map.insert m (e.1 - 2 ^ 60) e.2) (List.filter (fun e => stay e.1) s.mem)

/-- The flash tier after a device reset: stripes with entries in the overlay have been folded. -/
def Flash.afterReset (f : Flash) : Flash :=
  let keys := Map.keys (f.overlay.foldl (fun m n => Map.insert m (stripeOf n) ()) [])
  let f := keys.foldl (fun f k =>
    wearBlocks ((List.range 32).map (stripeBlock f (Map.getD f.regions (k / 2 ^ 32) {}) (k % 2 ^ 32))) f) f
  { regions := f.regions
    stripes := Map.mapVal f.stripes fun k x => if keys.contains k then { slots := 8192 } else x
    badFactory := f.badFactory, badGrown := f.badGrown, uncorr := f.uncorr, retry := f.retry
    sheetsWritten := satAdd f.sheetsWritten (8192 * keys.length), nextMove := f.nextMove
    wear := f.wear, erased := f.erased, ftl := f.ftl, units := f.units, unproven := f.unproven, rewrites := f.rewrites
    bad := f.bad, marked := f.marked, tags := f.tags }

/-- PWR_LIMIT after device reset: 2,800 W, or what the settings record gives (R715). A record that gives a value outside
1,000 to 2,800 W leaves 2,800 W, as a write of such a value is ignored (R42; DEDUCED). -/
def resetLimit (w : Power) : BitVec 12 :=
  match Map.find? w.records 5 with
  | some r => if 1000 ≤ (Config.recPwrLimit r).toNat ∧ (Config.recPwrLimit r).toNat ≤ 2800 then Config.recPwrLimit r else 2800
  | none => 2800

/-- The power and boot state after a device reset, which begins a start from stage 1 unless the main rails must stay off
(R727, R752, R766). A DEV_RESET in minimal mode for want of the PUF key returns to it (R736). -/
def Power.afterReset (cause : Nat) (w : Power) : Power :=
  let off := decide (w.stage = .poweredDown)
  { w with
    pinW := 0, vinMv := 0, overvolt := false, undervolt := false, pwrGood := false, limit := resetLimit w, rails := 3
    clockMhz := 1400, peakW := 0, limitedMs := 0
    railFaults := 0, lowWins := 0, overWins := 0, stage := if off then .poweredDown else .boot, minReason := 0, pufLost := w.pufLost && decide (cause = 5)
    recovery := false, runSlot := false, ranTrial := false, runSvn := 0, runVersion := 0, staging := .idle, staged := false
    assayKey := none, records := w.newRecords.foldl (fun m e => Map.insert m e.1 e.2) w.records, newRecords := [] }

/-- The RESET entry that a device reset leaves as the first of a journal, `n` commands having been abandoned (R613, R778). -/
def resetNote (cause n : Nat) : JEntry :=
  { resetEntry with detail := place 224 216 cause ||| place 224 200 (n % 2 ^ 16) }

/-- A partition right after a device reset with its RESET entry. -/
def resetPart (cause n : Nat) (x : PartState) : PartState :=
  { x with host := { x.host with journal := [(1, resetNote cause n)] } }

/-- Device reset (R613): everything is as after power-up but flash, the crash record, what the boot flash keeps, the inputs,
and what has already gone out. -/
def deviceReset (cause : Nat) (s : State) : State :=
  { State.reset with
    pending := s.pending
    freeCtr := s.freeCtr + 1
    parts := State.reset.parts.mapIdx fun p x => resetPart cause (abandoned (s.part p).host) x
    host := { split := s.host.split, crash := s.host.crash, hostMem := s.host.hostMem, bus := s.host.bus }
    cad := { ioPulses := s.cad.ioPulses }
    flash := s.flash.afterReset
    mem := keptMem s
    images := s.images
    vesin := { sent := s.vesin.sent, wire := s.vesin.wire, coded := s.vesin.coded }
    power := { s.power.afterReset cause with responses := s.power.responses, pldm := s.power.pldm } }

end Sys2Proof.Machine
end

