-- ==== Sys2Proof/Machine/HostCmd.lean ====
section
/-!
DEFINITION. The device, partition and diagnostic commands (R640, R649), the sharing of the array (R615 to R621), the resource
claims of timers (R650 to R654) and what the timers do, the status block (R662, R664), and the keys of HST_RESET (R661).
-/
namespace Sys2Proof.Machine

/-! ## DEV_INFO, PING, JOURNAL_MARK, CRASH_CLEAR, REG_SNAPSHOT -/

/-- RESULT of DEV_INFO: serial, ordering code, population code, stepping, firmware version. -/
def devInfoResult (s : State) : B128 :=
  res 64 s.serial.toNat ||| res 48 (bit s.isMG) ||| res 40 s.popCode |||
    res 32 0xB1 ||| res 0 s.power.runVersion.toNat

/-- DEV_INFO. -/
def execDevInfo (h : CmdHdr) (s : State) : Host.Outcome State Fault Refusal :=
  next (hostCmd { opcode := 0x0100, minimal := true } (.devInfo h) h [] false
    (fun s => (.done stOk (devInfoResult s), s)) s)

/-- PING. -/
def execPing (h : CmdHdr) (echo : B128) (s : State) : Host.Outcome State Fault Refusal :=
  next (hostCmd { opcode := 0x0900, minimal := true } (.ping h echo) h [] false (fun s => (.done stOk echo, s)) s)

/-- REG_SNAPSHOT: the register window goes to the host, and clears nothing. -/
def execRegSnapshot (h : CmdHdr) (addr : B64) (s : State) : Host.Outcome State Fault Refusal :=
  next (hostCmd { opcode := 0x0901 } (.regSnapshot h addr) h [] false
    (fun s => (cmdOk, hostWrite h.fn addr (windowBytes s h.fn) s)) s)

/-- JOURNAL_MARK: an entry that holds the 16 bytes. -/
def execJournalMark (h : CmdHdr) (text : B128) (s : State) : Host.Outcome State Fault Refusal :=
  next (hostCmd { opcode := 0x0902, minimal := true } (.journalMark h text) h [] false
    (fun s => (cmdOk, note h.fn 0x0071 stOk (text.setWidth 224) s)) s)

/-- CRASH_CLEAR: no record is held, and its count starts again. -/
def execCrashClear (h : CmdHdr) (s : State) : Host.Outcome State Fault Refusal :=
  next (hostCmd { opcode := 0x0903, minimal := true, issuer := .p0 } (.crashClear h) h [] false
    (fun s => (cmdOk, { s with host := { s.host with crash := {} } })) s)

/-! ## Partition states (R605 to R614) -/

/-- PART_OPEN takes effect: the ring is named, and what was held is written first (R606, R610). -/
def openPart (h : CmdHdr) (ring : B64) (n : Nat) (s : State) : CmdOut × State :=
  let s := s.updHost h.fn fun x => { x with
    pstate := .opened, ringBase := ring, ringLog2 := BitVec.ofNat 5 n, replyTail := 0, replyHead := 0, seqNext := h.seq + 1 }
  let s := flushHeld h.fn (s.part h.fn).host.held s
  (.done stOk (res 0 (h.seq + 1).toNat), s)

/-- PART_OPEN as its partition starts it: a CLOSED one without ATTACH, which frees every slot, or a DETACHED one with it. -/
def runOpen (h : CmdHdr) (ring : B64) (n options : Byte) (s : State) : State :=
  let info : CmdInfo := { opcode := 0x0101, minimal := decide (h.fn = 0) }
  let bad := decide (options.toNat > 1) || decide (ring.toNat % 64 ≠ 0) || decide (n.toNat < 6) || decide (16 < n.toNat)
  let was := (s.part h.fn).host.pstate
  let s := s.updHost h.fn fun x =>
    if was = .closed then { x with slots := [] } else { x with seqNext := x.seqNext + 1 }
  match cmdChecks info h bad s with
  | some st => finishShort h info.opcode st 0 s
  | none =>
    let (r, s) := openPart h ring n.toNat s
    finishCmd info h [] (r, if was = .closed then openWindows h.fn s else s)

/-- PART_OPEN (R606 to R611): BUSY in an OPEN partition. -/
def execPartOpen (h : CmdHdr) (ring : B64) (n options : Byte) (s : State) : Host.Outcome State Fault Refusal :=
  let x := (s.part h.fn).host
  let attach := options.getLsbD 0
  if x.pstate = .opened || x.starting then
    next (hostCmd { opcode := 0x0101, minimal := decide (h.fn = 0) } (.partOpen h ring n options) h []
      (decide (options.toNat > 1) || decide (ring.toNat % 64 ≠ 0) || decide (n.toNat < 6) || decide (16 < n.toNat))
      (fun s => (.done stBusy, s)) s)
  else if x.pstate = .closed && !attach then next (runOpen h ring n options s)
  else if x.pstate = .detached && attach && h.seq = x.seqNext then next (runOpen h ring n options s)
  else next (dropPacket h.fn s)

/-- PART_CLOSE: partition reset, then CLOSED. -/
def execPartClose (h : CmdHdr) (s : State) : Host.Outcome State Fault Refusal :=
  let act (s : State) : CmdOut × State :=
    (cmdOk, (partitionReset h.fn 3 s).2.updHost h.fn fun x => { x with pstate := .closed, slots := [] })
  next (hostCmd { opcode := 0x0102 } (.partClose h) h [] false act s)

/-- PART_RESET: RESULT counts the commands abandoned. -/
def execPartReset (h : CmdHdr) (s : State) : Host.Outcome State Fault Refusal :=
  let act (s : State) : CmdOut × State :=
    let (n, s) := partitionReset h.fn 1 s
    (.done stOk (res 0 (min n 0xFFFF)), s)
  next (hostCmd { opcode := 0x0103, minimal := true } (.partReset h) h [] false act s)

/-- DEV_RESET: no reply; the RESET entries record it. -/
def execDevReset (h : CmdHdr) (s : State) : Host.Outcome State Fault Refusal :=
  next (hostCmd { opcode := 0x0104, minimal := true, issuer := .p0 } (.devReset h) h [] false
    (fun s => (.silent, deviceReset 5 s)) s)

/-- HST_RESET_PARTITION: key 0x7A7A_0001 in any function's control page. -/
def execHstResetPartition (p : Part) (s : State) : Host.Outcome State Fault Refusal := next (partitionReset p 2 s).2

/-- HST_RESET with the device key: ignored but from function 0 (R663). -/
def resetDeviceKey (p : Part) (s : State) : State := if p = 0 then deviceReset 5 s else s

/-- HST_RESET_DEVICE: key 0x7A7A_0002. -/
def execHstResetDevice (p : Part) (s : State) : Host.Outcome State Fault Refusal := next (resetDeviceKey p s)

/-- The host takes replies: held ones are written while the ring has room (R635). -/
def takeReplies (p : Part) (value : B32) (s : State) : State :=
  let s := s.updHost p fun x => { x with replyHead := value }
  flushHeld p (s.part p).host.held s

/-- HST_REPLY_HEAD. -/
def execHstReplyHead (p : Part) (value : B32) (s : State) : Host.Outcome State Fault Refusal := next (takeReplies p value s)

/-! ## SET_QUOTA (R349, R350, R358, R440, R441, R640) -/

/-- Whether two ranges overlap. -/
def overlap (a b c d : Nat) : Bool := decide (a < b) && decide (c < d) && decide (a < d) && decide (c < b)

/-- The parameters of SET_QUOTA that concern one partition. -/
structure Quotas where
  hbm     : B32
  bulk    : B32
  stakeLo : Byte
  stakeHi : Byte
  stcBase : Byte
  stcN    : Byte

/-- Whether the new ranges and quotas are not allowed beside the other partitions'. -/
def quotaBad (s : State) (p : Part) (v : Quotas) : Bool :=
  let rest := four.filter fun q => q ≠ p
  let clash (q : Part) : Bool :=
    let t := (s.part q).tier
    let r := (s.part q).stc
    overlap v.stakeLo.toNat v.stakeHi.toNat t.stakeBase.toNat t.stakeLimit.toNat ||
      overlap v.stcBase.toNat (v.stcBase.toNat + v.stcN.toNat) r.base.toNat (r.base.toNat + r.count.toNat)
  let bulk := (rest.map fun q => (s.part q).tier.quotaBulk.toNat).sum + v.bulk.toNat
  decide (v.stakeHi.toNat > 91) || decide (v.stakeHi < v.stakeLo) || decide (v.stcN.toNat > 128) ||
    decide (v.stcBase.toNat + v.stcN.toNat > 256) || rest.any clash || decide (bulk > 15380864)

/-- Whether a stitch that would leave the range is in use or exported (R441). -/
def rangeBusy (s : State) (p : Part) (v : Quotas) : Bool :=
  let r := (s.part p).stc
  let stays (g : Nat) : Bool :=
    decide (v.stcBase.toNat * 256 ≤ g) && decide (g < (v.stcBase.toNat + v.stcN.toNat) * 256)
  (s.stitches.any fun e => inRange r e.1 && !stays e.1 && (e.2.state == .locked || !e.2.reqs.isEmpty)) ||
    four.any fun q => (s.part q).stc.imports.any fun e =>
      e.2.src = p && !(stays e.2.base.toNat && stays (e.2.base.toNat + e.2.count - 1))

/-- Stitches that leave the range or enter it are opened anew (R441). -/
def moveRange (p : Part) (v : Quotas) (s : State) : State :=
  let r := (s.part p).stc
  let new : StcRegs := { r with base := v.stcBase, count := v.stcN }
  if r.base = v.stcBase && r.count = v.stcN then s
  else
    let each (x : StcRegs) (s : State) : State :=
      reopenRange (x.base.toNat * 256) ((x.base.toNat + x.count.toNat) * 256) (fun g => !(inRange r g && inRange new g)) s
    let s := each r s
    (each { new with base := v.stcBase } s).updStc p fun x => { x with base := v.stcBase, count := v.stcN }

/-- Promotions that a raised quota lets happen (R358). -/
def raiseQuota (p : Part) (t : Tier) (old new : Nat) (s : State) : State :=
  backfills p t 0 (min (new - old) (sheetsOf s p).length) s

/-- SET_QUOTA after its encodings. -/
def actSetQuota (p : Part) (v : Quotas) (s : State) : CmdOut × State :=
  let t := (s.part p).tier
  if quotaBad s p v then (.done stBadParam, s)
  else if rangeBusy s p v || decide (v.hbm.toNat < (framesOf s p .hbm 0).length) ||
      decide (v.bulk.toNat < (framesOf s p .bulk 0).length) ||
      ((v.stakeLo ≠ t.stakeBase || v.stakeHi ≠ t.stakeLimit) && anyRunning s p) then (.done stBusy, s)
  else
    let s := moveRange p v s
    let s := s.updTier p fun t => { t with
      quotaHbm := v.hbm, quotaBulk := v.bulk, stakeBase := v.stakeLo, stakeLimit := v.stakeHi }
    (cmdOk, raiseQuota p .bulk t.quotaBulk.toNat v.bulk.toNat (raiseQuota p .hbm t.quotaHbm.toNat v.hbm.toNat s))

/-- SET_QUOTA. -/
def execSetQuota (h : CmdHdr) (part : Byte) (hbm bulk : B32) (stakeBase stakeLimit stitchBase stitchCount : Byte) (s : State) :
    Host.Outcome State Fault Refusal :=
  next (hostCmd { opcode := 0x0105, issuer := .p0 }
    (.setQuota h part hbm bulk stakeBase stakeLimit stitchBase stitchCount) h [] (decide (part.toNat > 3))
    (actSetQuota (Fin.ofNat 4 part.toNat) ⟨hbm, bulk, stakeBase, stakeLimit, stitchBase, stitchCount⟩) s)

/-! ## TIMESHARE (R136, R615 to R621) -/

/-- The array passes from its holder to another partition: each context is kept whole. -/
def passArray (n : Part) (s : State) : State :=
  let p := arrayPart s
  if p = n then s
  else
    let s := four.foldl (fun s q => updQuarter q QuarterArr.drained s) s
    let ctx : Context := { quarters := s.array.quarters }
    let s := s.updBench p fun y => { y with context := some ctx }
    let into : Quad QuarterArr := match (s.part n).bench.context with
      | some c => c.quarters
      | none => .all {}
    let s := endLostRuns n (s.updBench n fun y => { y with context := none })
    { s with array := { s.array with quarters := into, holder := n, expired := false } }

/-- TIMESHARE. Enabling leaves the array with the partition that holds it; disabling, or another ARRAY_OWNER while sharing is
disabled, gives it to ARRAY_OWNER. -/
def actTimeshare (on : Bool) (owner : Part) (quanta : Quad B32) (s : State) : CmdOut × State :=
  let put (f : HostDev → HostDev) (s : State) : State :=
    { s with host := f { s.host with arrayOwner := owner, quantum := quanta } }
  if on then
    match s.host.staging with
    | .capture q => (.done stConflict (heldBy 3 0 0x21 q.val), s)
    | _ =>
      if four.any fun q => (s.part q).host.pstate ≠ .closed && !(s.part q).bench.ctxSet then (.done stBusy, s)
      else
        let s := if s.host.tsEn then s
          else { s with array := { s.array with holder := arrayPart s, expired := false, copyOut := none, copyIn := none } }
        (cmdOk, put (fun x => { x with tsEn := true, staging := .save }) s)
  else if arrayPart s ≠ owner && anyRunning s (arrayPart s) then (.done stBusy, s)
  else
    let s := passArray owner s
    let s := { s with array := { s.array with copyOut := none, copyIn := none, expired := false } }
    let staging : StagingUse := if s.host.staging = .save then .free else s.host.staging
    (cmdOk, put (fun x => { x with tsEn := false, staging }) s)

/-- TIMESHARE. -/
def execTimeshare (h : CmdHdr) (enable owner : Byte) (q0 q1 q2 q3 : B32) (s : State) : Host.Outcome State Fault Refusal :=
  let bad (q : B32) : Bool := decide (q.toNat < 20) || decide (100000 < q.toNat)
  next (hostCmd { opcode := 0x0106, issuer := .p0 } (.timeshare h enable owner q0 q1 q2 q3) h []
    (decide (enable.toNat > 1) || decide (owner.toNat > 3) || bad q0 || bad q1 || bad q2 || bad q3)
    (actTimeshare (decide (enable.toNat = 1)) (Fin.ofNat 4 owner.toNat) ⟨q0, q1, q2, q3⟩) s)

/-! ## TIMER_FEATURE and the timers (R650 to R654) -/

/-- The timer that serves a feature: for a host watchdog or status push, of one partition. -/
def timerOf (s : State) (feature : Nat) (p : Part) : Option (Nat × TimerUse) :=
  List.find? (fun e => e.2.feature.toNat = feature && (feature > 0x11 || e.2.part = p)) s.host.timers

/-- TIMER_FEATURE: claim of the lowest free timer, a new setting of the feature's own timer, or its release. -/
def actTimerFeature (p : Part) (on : Bool) (u : TimerUse) (s : State) : CmdOut × State :=
  let put (m : Map TimerUse) (s : State) : State := { s with host := { s.host with timers := m } }
  match on, timerOf s u.feature.toNat p with
  | false, none => (cmdOk, s)
  | false, some (i, _) => (.done stOk (res 0 i), put (Map.erase s.host.timers i) s)
  | true, some (i, _) => (.done stOk (res 0 i), put (Map.insert s.host.timers i u) s)
  | true, none => match firstBelow 8 fun i => (Map.find? s.host.timers i).isNone with
    | some i => (.done stOk (res 0 i), put (Map.insert s.host.timers i u) s)
    | none =>
      let (f, q) := ((Map.find? s.host.timers 7).map fun t => (t.feature.toNat, t.part.val)).getD (0, 0)
      (.done stConflict (heldBy 2 7 f (if f > 0x11 then 0xFF else q)), s)

/-- TIMER_FEATURE. -/
def execTimerFeature (h : CmdHdr) (feature enable action : Byte) (period : B32) (addr : B64) (s : State) :
    Host.Outcome State Fault Refusal :=
  let f := feature.toNat
  let bad := decide (f < 0x10) || decide (0x13 < f) || decide (enable.toNat > 1) || decide (action.toNat > 1) ||
    (enable = 1 && (decide (period.toNat < 10) || decide (60000 < period.toNat)))
  next (hostCmd { opcode := 0x0108, issuer := if f = 0x12 || f = 0x13 then .p0 else .any }
    (.timerFeature h feature enable action period addr) h [] bad
    (actTimerFeature h.fn (enable = 1) { feature, part := h.fn, action, period, addr }) s)

/-- A write to HST_HEARTBEAT begins the watchdog's period anew (R654, R665). -/
def heartbeat (p : Part) (s : State) : State :=
  match timerOf s 0x10 p with
  | none => s
  | some (i, u) => { s with host := { s.host with timers := Map.insert s.host.timers i { u with beats := u.beats + 1 } } }

/-- HST_HEARTBEAT. -/
def execHstHeartbeat (p : Part) (s : State) : Host.Outcome State Fault Refusal := next (heartbeat p s)

/-- HOST_WATCHDOG_EXPIRY: a RESET entry, the alert, and a partition reset if the action is 1. -/
def execHostWatchdogExpiry (p : Part) (s : State) : Host.Outcome State Fault Refusal :=
  match timerOf s 0x10 p with
  | none => next s
  | some (_, u) =>
    next (raiseAlert (if u.action = 1 then (partitionReset p 10 s).2 else note p 0x0070 stOk (place 224 216 9) s))

/-! ## The status block (R662, R664) -/

/-- Codes of PSTATE. -/
def PState.code : PState → Nat
  | .closed => 0
  | .opened => 1
  | .detached => 2

/-- The link that serves a function (R595). -/
def linkOf (s : State) (p : Part) : Fin 4 :=
  match s.host.split.toNat with
  | 1 => Fin.ofNat 4 (p.val / 2)
  | 2 => p
  | _ => 0

/-- STATE of a long command: waiting while a policy change has reserved nothing yet. -/
def LongCmd.state (c : LongCmd) : Nat :=
  match c.work with
  | .policy _ _ false => 1
  | _ => 2

/-- The two words of entry `i` of the long-command table. -/
def longWord (h : HostPart) (i : Nat) (high : Bool) : Nat :=
  match Map.find? h.longs i with
  | none => 0
  | some c =>
    if high then c.seq.toNat * 2 ^ 32 + c.tag.toNat * 2 ^ 16 + c.opcode.toNat
    else c.state * 2 ^ 62 + c.ajseq.toNat % 2 ^ 32

/-- A 64-bit word of the status block as it is at this moment. -/
def statusNow (s : State) (p : Part) (o : Nat) : Nat :=
  let h := (s.part p).host
  let l := s.host.links.get (linkOf s p)
  let holds := arrayPart s = p && h.pstate ≠ .closed
  if 0x40 ≤ o && o < 0x140 then longWord h ((o - 0x40) / 16) (decide (o % 16 = 8))
  else match o with
    | 0x00 => two
        (h.pstate.code * 2 ^ 30 + bit s.minimal * 2 ^ 29 + bit (ringFull h) * 2 ^ 28 + bit holds * 2 ^ 27 +
          s.power.minReason.toNat * 2 ^ 16 + l.speed.toNat * 2 ^ 12 + l.width.toNat * 2 ^ 7 +
          quarterBits fun q => decide ((s.part q).host.pstate ≠ .closed))
        h.seqNext.toNat
    | 0x08 => h.jseq.toNat
    | 0x10 => two h.replyTail.toNat (h.closedDrops.toNat * 2 ^ 16 + min h.held.length 255 * 256 + h.ringLog2.toNat)
    | 0x18 => h.ringBase.toNat
    | 0x20 => two (streamStates (s.part p).bench) h.sealFails.toNat
    | 0x28 => (s.part p).cad.pos.toNat
    | 0x30 => two (s.host.quantum.get p).toNat (bit s.host.tsEn * 4 + s.host.arrayOwner.val)
    | _ => 0

/-- The status block's words, as the warden records them. -/
def statusWords (s : State) (p : Part) : List B64 := (List.range 40).map fun i => BitVec.ofNat 64 (statusNow s p (8 * i))

/-- A word of the warden's copy. -/
def statusWord64 (h : HostPart) (o : Nat) : Nat := (h.status.getD (o / 8) 0).toNat

/-- STATUS_BLOCK_REFRESH: the warden records the status block of every partition. -/
def execStatusBlockRefresh (s : State) : Host.Outcome State Fault Refusal :=
  next (four.foldl (fun s p => s.updHost p fun h => { h with status := statusWords s p }) s)

/-- STATUS_PUSH: the 4 KiB of the status block go to the host address of the feature. -/
def execStatusPush (p : Part) (s : State) : Host.Outcome State Fault Refusal :=
  match timerOf s 0x11 p with
  | none => next s
  | some (_, u) =>
    next (hostWrite p u.addr ((List.range 512).flatMap fun i => leBytes 8 (statusWord64 (s.part p).host (8 * i))) s)

/-- The highest of the stakes' temperatures. -/
def hottest (s : State) : B16 :=
  four.foldl (fun t q => if t.slt (s.pkg.stakes.get q).temp then (s.pkg.stakes.get q).temp else t) (s.pkg.stakes.get 0).temp

/-- TELEMETRY_LOG: a summary entry in partition 0's journal (R654, R778). -/
def execTelemetryLog (s : State) : Host.Outcome State Fault Refusal :=
  match timerOf s 0x12 0 with
  | none => next s
  | some _ => next (note 0 0x0060 stOk
      (place 224 216 8 ||| place 224 200 s.power.pinW.toNat ||| place 224 184 (hottest s).toNat |||
        place 224 172 s.pkg.clockMhz ||| place 224 156 (sharesWord s.array.shares)) s)

/-- LINK_SAMPLE: a summary of the ports in partition 0's journal, and the codewords are counted anew (R654, R778). -/
def execLinkSample (s : State) : Host.Outcome State Fault Refusal :=
  match timerOf s 0x13 0 with
  | none => next s
  | some _ =>
    let ports := eight.map fun v => s.vesin.port v
    let widths := (ports.zipIdx.map fun e => e.1.width * 16 ^ e.2).sum
    let states := (ports.zipIdx.map fun e => e.1.state.code * 8 ^ e.2).sum
    next (note 0 0x0040 stOk
      (place 224 216 4 ||| place 224 164 widths ||| place 224 140 states ||| place 224 108 s.vesin.unsampled.toNat)
      (updVesin (fun x => { x with unsampled := 0 }) s))

end Sys2Proof.Machine
end

