-- ==== Sys2Proof/Machine/Planish.lean ====
section
/-!
DEFINITION. The arithmetic of the planisher (R279, R302, R323 to R329): mean gradients, the update rules on FP32 values,
and its matrix products.
-/
namespace Sys2Proof.Machine

/-- A value with the flags its computation raised. -/
abbrev WithFlags (α : Type) := α × Flags

/-- Lane results as values with flags. -/
def lanesOf (l : List LaneRes) : WithFlags (List F32) := (l.map fun r => r.bits, l.foldl (fun a r => a.or r.flags) {})

/-- The mean of an FX64 element X under anchor E and count c (R279). -/
def meanOf (x e : Int) (c : Nat) : LaneRes :=
  let n := x.natAbs * 2 ^ 100
  laneRound ⟨decide (x < 0), n / c, e - 100, n % c != 0⟩ .rne

/-- FP32 rounded to BF16 (R302): code and flags. -/
def toBf16 (w : F32) : Rounded := Fmt.round .bf16 true (f32Val w) .rne 0

/-- BF16 as FP32. -/
def bf16F32 (c : Nat) : F32 := BitVec.ofNat 32 (c * 65536)

/-- The sixteen hyperparameters (R309). -/
def hyp (h : List F32) (i : Nat) : F32 := h.getD i 0

/-- One element under MOMENT (R326): gradient, first and second moment, master; new values. -/
structure MomentOut where
  m : F32
  v : F32
  w : F32
  flags : Flags
  deriving DecidableEq, Repr

/-- MOMENT on one element; `second` says that MOM2 is there. -/
def momentElem (h : List F32) (second : Bool) (g m v w : F32) : MomentOut :=
  let fma a b c := f32Fma a b c .rne
  let mul a b := f32Mul a b .rne
  let t1 := mul (hyp h 3) g
  let m' := fma (hyp h 2) m t1.bits
  let base := (t1.flags).or m'.flags
  let num := mul m'.bits (hyp h 7)
  let (v', d, fl) : F32 × LaneRes × Flags :=
    if second then
      let gg := mul g g
      let t2 := mul (hyp h 5) gg.bits
      let v' := fma (hyp h 4) v t2.bits
      let t3 := mul v'.bits (hyp h 8)
      let t4 := f32Sqrt t3.bits .rne
      let t5 := f32Add t4.bits (hyp h 6) .rne
      let d := f32Div num.bits t5.bits .rne
      (v'.bits, d, [gg, t2, v', t3, t4, t5, num, d].foldl (fun a r => a.or r.flags) base)
    else (v, num, base.or num.flags)
  let u := fma (hyp h 1) w d.bits
  let w' := fma (hyp h 0) u.bits w
  { m := m'.bits, v := v', w := w'.bits, flags := (fl.or u.flags).or w'.flags }

/-- The new master from d, as ORTHO and KRON end (R327, R328). -/
def stepMaster (h : List F32) (d w : F32) : LaneRes :=
  let u := f32Fma (hyp h 1) w d .rne
  let r := f32Fma (hyp h 0) u.bits w .rne
  ⟨r.bits, u.flags.or r.flags⟩

/-- The new burnished value (R329). -/
def burnElem (h : List F32) (w b : F32) : LaneRes :=
  let d := f32Sub w b .rne
  let r := f32Fma (hyp h 9) d.bits b .rne
  ⟨r.bits, d.flags.or r.flags⟩

/-! ## Matrices (R324, R325) -/

/-- A matrix by rows. -/
abbrev Matrix32 := List (List F32)

/-- The rows of a dense array. -/
def toRows (cols : Nat) : Nat → List F32 → Matrix32
  | 0, _ => []
  | n + 1, l => l.take cols :: toRows cols n (l.drop cols)

/-- The transpose of a matrix with `cols` columns. -/
def transposeOf (cols : Nat) (a : Matrix32) : Matrix32 := (List.range cols).map fun j => a.map fun r => r.getD j 0

/-- An operand's parts: one BF16 rounding, or high and low (R324), with flags. -/
def splitValue (split : Bool) (v : F32) : WithFlags (Val × Val) :=
  let hi := toBf16 v
  let hv := bf16F32 hi.code
  if split then
    let d := f32Sub v hv .rne
    let lo := toBf16 d.bits
    ((f32Val hv, f32Val (bf16F32 lo.code)), (hi.flags.or d.flags).or lo.flags)
  else ((f32Val hv, Val.zero), hi.flags)

/-- An operand split element by element. -/
def splitMat (split : Bool) (a : Matrix32) : WithFlags (List (List (Val × Val))) :=
  let l := a.map fun r => r.map (splitValue split)
  (l.map fun r => r.map Prod.fst, l.foldl (fun a r => r.foldl (fun a e => a.or e.2) a) {})

/-- A product added to a cell, and whether that is an invalid operation: a NaN of operands that are none (R191, R323). -/
def stepOf (c : A96 × Bool) (x y : Val) : A96 × Bool :=
  let m := x.mul y
  let d := c.1.step m
  (d, c.2 || (m == .nan && x != .nan && y != .nan) || (d.tag = 1 && c.1.tag ≠ 1 && m != .nan))

/-- A cell that a chain of products has left, rounded to FP32, with the flags of R191: that of an invalid operation, and
those of a sum that left the accumulator's range. -/
def laneOfCell (c : A96 × Bool) : LaneRes :=
  let out : Bool := c.1.tag ≠ 0 && c.1.value = 1
  let r : LaneRes := match c.1.val with
    | .nan => ⟨f32NaN, {}⟩
    | .inf n => laneInf n
    | .fin x => laneRound x .rne
  ⟨r.bits, { r.flags with
    inexact := r.flags.inexact || c.1.inexact || out, invalid := c.2, overflow := r.flags.overflow || out }⟩

/-- One output element: the chain of products in one bank, rounded to FP32. -/
def dotSplit (split : Bool) (a b : List (Val × Val)) : LaneRes :=
  let run (f g : Val × Val → Val) (c : A96 × Bool) : A96 × Bool := (a.zip b).foldl (fun c e => stepOf c (f e.1) (g e.2)) c
  let c := run Prod.fst Prod.fst ({}, false)
  laneOfCell (if split then run Prod.snd Prod.fst (run Prod.fst Prod.snd c) else c)

/-- mm(P, Q): P by rows, Q with `cols` columns (R324). -/
def matMul (split : Bool) (p q : Matrix32) (cols : Nat) : WithFlags Matrix32 :=
  let (ps, f1) := splitMat split p
  let (qs, f2) := splitMat split (transposeOf cols q)
  let out := ps.map fun r => lanesOf (qs.map fun c => dotSplit split r c)
  (out.map Prod.fst, out.foldl (fun a r => a.or r.2) (f1.or f2))

/-- FNORM (R325). -/
def fnorm (l : List F32) : LaneRes :=
  let sum := laneOfCell (l.foldl (fun c x => stepOf c (f32Val x) (f32Val x)) ({}, false))
  let r := f32Sqrt sum.bits .rne
  ⟨r.bits, sum.flags.or r.flags⟩

/-- A matrix changed element by element, the function being told row and column. -/
def mapMat (a : Matrix32) (f : Nat → Nat → F32 → LaneRes) : WithFlags Matrix32 :=
  let out := a.zipIdx.map fun r => lanesOf (r.1.zipIdx.map fun e => f r.2 e.2 e.1)
  (out.map Prod.fst, out.foldl (fun a r => a.or r.2) {})

/-- Element (i, j). -/
def matAt (a : Matrix32) (i j : Nat) : F32 := (a.getD i []).getD j 0

/-! ## ORTHO (R327) -/

/-- Newton–Schulz iterations. -/
def orthoLoop (h : List F32) (split : Bool) (rows cols : Nat) : Nat → WithFlags Matrix32 → WithFlags Matrix32
  | 0, x => x
  | n + 1, (x, fl) =>
    let t := transposeOf cols x
    let k := min rows cols
    let (a, f1) := if rows ≤ cols then matMul split x t rows else matMul split t x cols
    let (aa, f2) := matMul split a a k
    let (b, f3) := mapMat aa fun i j v =>
      let u := f32Mul (hyp h 13) (matAt a i j) .rne
      let r := f32Fma (hyp h 14) v u.bits .rne
      ⟨r.bits, u.flags.or r.flags⟩
    let (bx, f4) := if rows ≤ cols then matMul split b x cols else matMul split x b cols
    let (y, f5) := mapMat x fun i j v => f32Fma (hyp h 12) v (matAt bx i j) .rne
    orthoLoop h split rows cols n (y, ((((fl.or f1).or f2).or f3).or f4).or f5)

/-- ORTHO: new momentum and new master, row by row. -/
def orthoUpdate (h : List F32) (split : Bool) (rows cols iter : Nat) (g mo w : List F32) :
    WithFlags (List F32 × List F32) :=
  let (mo', f0) := lanesOf ((mo.zip g).map fun e => f32Fma (hyp h 10) e.1 e.2 .rne)
  let nrm := fnorm mo'
  let den := f32Add nrm.bits (hyp h 6) .rne
  let (x, f1) := lanesOf (mo'.map fun v => f32Div v den.bits .rne)
  let (y, f2) := orthoLoop h split rows cols iter (toRows cols rows x, {})
  let (d, f3) := lanesOf (y.flatten.map fun v => f32Mul (hyp h 11) v .rne)
  let (w', f4) := lanesOf ((d.zip w).map fun e => stepMaster h e.1 e.2)
  ((mo', w'), (((((f0.or nrm.flags).or den.flags).or f1).or f2).or f3).or f4)

/-! ## KRON (R328) -/

/-- 5.0 and 0.25. -/
def f32Five : F32 := 0x40A0_0000
def f32Quarter : F32 := 0x3E80_0000

/-- Coupled Newton iterations on (x, m). -/
def newtonLoop (split : Bool) (n : Nat) : Nat → Matrix32 × Matrix32 × Flags → Matrix32 × Flags
  | 0, (x, _, fl) => (x, fl)
  | k + 1, (x, m, fl) =>
    let (t, f1) := mapMat m fun i j v =>
      let d := f32Sub (if i = j then f32Five else 0) v .rne
      let r := f32Mul f32Quarter d.bits .rne
      ⟨r.bits, d.flags.or r.flags⟩
    let (x', f2) := matMul split x t n
    let (t2, f3) := matMul split t t n
    let (t4, f4) := matMul split t2 t2 n
    let (m', f5) := matMul split t4 m n
    newtonLoop split n k (x', m', ((((fl.or f1).or f2).or f3).or f4).or f5)

/-- invroot4 of an n × n matrix. -/
def invRoot4 (h : List F32) (split : Bool) (n iter : Nat) (a : Matrix32) : WithFlags Matrix32 :=
  let (a, f0) := mapMat a fun i j v => if i = j then f32Add v (hyp h 15) .rne else ⟨v, {}⟩
  let c := fnorm a.flatten
  let q := f32Sqrt c.bits .rne
  let d := LaneFn.rsqrt.eval q.bits .rne
  let x := (List.range n).map fun i => (List.range n).map fun j => if i = j then d.bits else 0
  let rc := LaneFn.rcp.eval c.bits .rne
  let (m, f1) := mapMat a fun _ _ v => f32Mul v rc.bits .rne
  newtonLoop split n iter (x, m, ((((f0.or c.flags).or q.flags).or d.flags).or rc.flags).or f1)

/-- KRON for gradient step S: new L, R and inverse roots in the order MOM1 holds them, and new master. -/
def kronUpdate (h : List F32) (split : Bool) (rows cols statEvery rootEvery iter step : Nat) (g mom w : List F32) :
    WithFlags (List F32 × List F32) :=
  let gm := toRows cols rows g
  let gt := transposeOf cols gm
  let nl := rows * rows
  let nr := cols * cols
  let l0 := toRows rows rows (mom.take nl)
  let r0 := toRows cols cols ((mom.drop nl).take nr)
  let li0 := toRows rows rows ((mom.drop (nl + nr)).take nl)
  let ri0 := toRows cols cols ((mom.drop (2 * nl + nr)).take nr)
  let factor (old prod : Matrix32) : WithFlags Matrix32 := mapMat old fun i j v =>
    let u := f32Mul (hyp h 5) (matAt prod i j) .rne
    let r := f32Fma (hyp h 4) v u.bits .rne
    ⟨r.bits, u.flags.or r.flags⟩
  let (l, r, f1) : Matrix32 × Matrix32 × Flags :=
    if step % statEvery = 0 then
      let (pl, a) := matMul split gm gt rows
      let (pr, b) := matMul split gt gm cols
      let (l, c) := factor l0 pl
      let (r, d) := factor r0 pr
      (l, r, ((a.or b).or c).or d)
    else (l0, r0, {})
  let (li, ri, f2) : Matrix32 × Matrix32 × Flags :=
    if step % rootEvery = 0 then
      let (li, a) := invRoot4 h split rows iter l
      let (ri, b) := invRoot4 h split cols iter r
      (li, ri, a.or b)
    else (li0, ri0, {})
  let (lg, f3) := matMul split li gm cols
  let (d, f4) := matMul split lg ri cols
  let (w', f5) := lanesOf ((d.flatten.zip w).map fun e => stepMaster h e.1 e.2)
  ((l.flatten ++ r.flatten ++ li.flatten ++ ri.flatten, w'), (((f1.or f2).or f3).or f4).or f5)

end Sys2Proof.Machine
end

