-- ==== Sys2Proof/Machine/Planisher.lean ====
section
/-!
DEFINITION. The planisher's jobs (R311 to R322, R330 to R338, R784): PLANISH, APPLY, BUF_RESET, DERIVE, units and their
writes, and late-update deliveries.
-/
namespace Sys2Proof.Machine

/-- The planisher's master id. -/
def plnMaster : Nat := 0x21

/-! ## Records (R311, R253) -/

/-- The fields of a job's record. -/
def jobFields (source : JobSource) (addr v : Nat) : Job where
  source := source
  addr := addr
  code := field v 511 504
  step := field v 503 464
  table := field v 463 408
  count := field v 407 392 + 1
  report := field v 391 336
  expect := BitVec.ofNat 64 (field v 335 272)
  stitch := field v 271 256
  sig := v.testBit 255

/-- The job that 512 bits spell, or the fault of its record. -/
def jobOfRecord (source : JobSource) (addr v : Nat) : Except Nat Job :=
  let j := jobFields source addr v
  if field v 254 0 ≠ 0 || j.code = 0 || j.code > 3 || (j.code = 3 && j.step ≠ 0) then .error ftWordRsvd
  else if j.report % 64 ≠ 0 then .error ftProgramAddr
  else .ok j

/-- Changes the job at the front of a partition's queue. -/
def updJob (p : Part) (f : Job → Job) (s : State) : State :=
  s.updPln p fun y => { y with queue := match y.queue with
    | [] => []
    | j :: r => f j :: r }

/-- Changes the entry in progress. -/
def updEntry (p : Part) (f : EntryWork → EntryWork) (s : State) : State :=
  s.updPln p fun y => { y with entry := y.entry.map f }

/-- Flags that the planisher raises (R323). -/
def plnFlags (p : Part) (f : Flags) (s : State) : State :=
  updJob p (fun j => { j with flags := j.flags.or f }) (s.updPln p fun y => { y with flags := y.flags.or f })

/-! ## The end of a job (R317, R318, R338, R784) -/

/-- The job report (R318). -/
def jobReport (j : Job) (unfinished : Bool) : List Byte :=
  let top (v : Nat) : Nat := min v 0xFFFF_FFFF
  let step := match j.source with
    | .op _ => j.step
    | .delivery _ _ => j.maxStep
  leBytes 64 (step % 2 ^ 40 * 2 ^ 472 + j.code * 2 ^ 464 + bit unfinished * 2 ^ 456 +
    (if unfinished then j.next % 65536 else 0) * 2 ^ 440 + top j.applied * 2 ^ 408 + top j.skipped * 2 ^ 376 +
    top j.already * 2 ^ 344 + top j.mismatch * 2 ^ 312 + top j.zero * 2 ^ 280 + j.flags.bits * 2 ^ 276)

/-- An access of the planisher. -/
def plnAccess (s : State) (p : Part) (g : Right) (a n : Nat) : Option Nat × Acc := masterAccess plnMaster s p g a n

/-- The report is written, or its fault found. -/
def writeReport (p : Part) (j : Job) (unfinished : Bool) (s : State) : Option Nat × State :=
  match plnAccess s p .w j.report 64 with
  | (some c, acc) => (some c, noteDenied p plnMaster .w acc s)
  | (none, _) => (none, writeMem p j.report (jobReport j unfinished) s)

/-- The FAULT entry of a delivery job, and the fault interrupt (R784). -/
def deliveryFault (p : Part) (code addr idx : Nat) (s : State) : State :=
  let s := note p 0x0010 (faultStatus code)
    (place 224 136 (addr % 2 ^ 56) ||| place 224 128 code ||| place 224 125 1 ||| place 224 115 idx) s
  raiseIrq p 1 s

/-- The job at the front ends, with a fault or without one. -/
def finishJob (p : Part) (fault : Option Nat) (s : State) : State :=
  match (s.part p).pln.queue with
  | [] => s
  | j :: rest =>
    let (f1, s) := writeReport p j fault.isSome s
    let fault := fault.orElse fun _ => f1
    let (fault, s) : Option Nat × State :=
      if fault.isNone then sigStitch p plnMaster j.sig j.stitch s else (fault, s)
    let s := s.updPln p fun y => { y with queue := rest, entry := none }
    match j.source with
    | .op n => completeOp p n (fault.map fun c => (c, 0, 0)) s
    | .delivery f _ =>
      let s := match fault with
        | some c => deliveryFault p c j.addr f.idx s
        | none => s
      doneFiring p f s

/-- The job at the front ends with a fault that an access met. -/
def failJob (p : Part) (g : Right) (e : Nat × Acc) (s : State) : State :=
  finishJob p (some e.1) (noteDenied p plnMaster g e.2 s)

/-- Entry `next` of the job is done with; after the last one the job ends. -/
def nextEntry (p : Part) (s : State) : State :=
  let s := updJob p (fun j => { j with next := j.next + 1, waiting := false }) (s.updPln p fun y => { y with entry := none })
  match (s.part p).pln.queue with
  | [] => s
  | j :: _ => if j.next ≥ j.count then finishJob p none s else s

/-- Counts of a job and of the partition. -/
def countSkipped (p : Part) (s : State) : State :=
  updJob p (fun j => { j with skipped := j.skipped + 1 }) (s.updPln p fun y => { y with skipped := satAdd y.skipped 1 })
def countMismatch (p : Part) (s : State) : State :=
  updJob p (fun j => { j with mismatch := j.mismatch + 1 }) (s.updPln p fun y => { y with mismatch := satAdd y.mismatch 1 })
def countAlready (p : Part) (s : State) : State := updJob p (fun j => { j with already := j.already + 1 }) s
def countZero (p : Part) (n : Nat) (s : State) : State :=
  updJob p (fun j => { j with zero := j.zero + n }) (s.updPln p fun y => { y with zero := satAdd y.zero n })
def countApplied (p : Part) (step : Nat) (s : State) : State :=
  updJob p (fun j => { j with applied := j.applied + 1, maxStep := max j.maxStep step })
    (s.updPln p fun y => { y with applied := satAdd y.applied 1 })

/-! ## Parameter entries (R304 to R308) -/

/-- The fields of a parameter entry. -/
structure Entry where
  master : Nat
  working : Nat
  burn : Nat
  mom1 : Nat
  mom2 : Nat
  grad : Nat
  hyper : Nat
  rows : Nat
  cols : Nat
  done : Nat
  rule : Nat
  lag : Nat
  burnEn : Bool
  split : Bool
  doneV : Bool
  object : Nat
  scratch : Nat
  nsIter : Nat
  statEvery : Nat
  rootEvery : Nat
  rootIter : Nat
  progStep : Nat
  progUnit : Nat
  progV : Bool
  rsvd : Bool

/-- The entry that 1,024 bits spell. -/
def Entry.ofNat (v : Nat) : Entry where
  master := field v 1023 968
  working := field v 967 912
  burn := field v 911 856
  mom1 := field v 855 800
  mom2 := field v 799 744
  grad := field v 743 688
  hyper := field v 687 632
  rows := field v 631 612 + 1
  cols := field v 611 592 + 1
  done := field v 591 552
  rule := field v 551 548
  lag := field v 547 544
  burnEn := v.testBit 543
  split := v.testBit 542
  doneV := v.testBit 541
  object := field v 511 480
  scratch := field v 479 424
  nsIter := field v 423 420
  statEvery := field v 419 412
  rootEvery := field v 411 404
  rootIter := field v 403 400
  progStep := field v 399 360
  progUnit := field v 359 328
  progV := v.testBit 327
  rsvd := decide (field v 540 512 ≠ 0 || field v 326 0 ≠ 0)

/-- Whether an entry raises WORD_RSVD (R203, R305, R306). -/
def Entry.bad (e : Entry) : Bool :=
  e.rsvd || decide (e.lag > 8) || (e.burnEn && e.burn = 0) ||
    match e.rule with
    | 0 => e.nsIter ≠ 0 || e.statEvery ≠ 0 || e.rootEvery ≠ 0 || e.rootIter ≠ 0
    | 1 => e.nsIter = 0 || e.statEvery ≠ 0 || e.rootEvery ≠ 0 || e.rootIter ≠ 0 || e.mom2 ≠ 0 ||
        decide (min e.rows e.cols > 16384)
    | 2 => e.nsIter ≠ 0 || e.statEvery = 0 || e.rootEvery = 0 || e.rootIter = 0 || e.mom2 ≠ 0 ||
        decide (max e.rows e.cols > 8192)
    | _ => true

/-- Elements of a copy, and of the MOM1 area (R305). -/
def Entry.elems (e : Entry) : Nat := e.rows * e.cols
def Entry.momElems (e : Entry) : Nat := if e.rule = 2 then 2 * (e.rows * e.rows + e.cols * e.cols) else e.elems

/-- Write units: gradient sheets (R315, R330). -/
def Entry.units (e : Entry) : Nat := (e.rows + 63) / 64 * ((e.cols + 127) / 128)

/-- Whether any of `n` bytes from an address lies in a striped flash region. -/
def inStriped (s : State) (p : Part) (a n : Nat) : Bool :=
  (sheetsFrom a n).any fun k => match findObj (s.part p).tier (k * sheetBytes) with
    | some (_, o) => (Map.find? o.map (k - o.base / sheetBytes)).any fun x => x.tier == .striped
    | none => false

/-- R300. -/
def copiesStriped (s : State) (p : Part) (e : Entry) : Bool :=
  inStriped s p e.master (4 * e.elems) || inStriped s p e.mom1 (4 * e.momElems) ||
    (e.mom2 ≠ 0 && inStriped s p e.mom2 (4 * e.elems)) || (e.burn ≠ 0 && inStriped s p e.burn (4 * e.elems))

/-- Whether a parameter is a slow-tier one (R299). -/
def slowTier (o : Obj) : Bool := (Policy.ofBits o.policy).tiers.contains 4

/-- Sets the bit field [hi:lo] of a number. -/
def setField (v hi lo x : Nat) : Nat := v - field v hi lo * 2 ^ lo + x % 2 ^ (hi + 1 - lo) * 2 ^ lo

/-- The entry's bytes in memory, changed. -/
def rewriteEntry (p : Part) (addr : Nat) (f : Nat → Nat) (s : State) : State :=
  writeNat p addr 128 (f (readNat s p plnMaster addr 128)) s

/-! ## What a job reads and writes (R207, R301) -/

/-- The bytes of a scratch area (R305). -/
def Entry.scratchBytes (e : Entry) : Nat :=
  match e.rule with
  | 1 => 12 * e.elems + 8 * (min e.rows e.cols * min e.rows e.cols)
  | 2 => 32 * (max e.rows e.cols * max e.rows e.cols) + 8 * e.elems
  | _ => 0

/-- The areas an update reads and writes. -/
def Entry.areas (e : Entry) : List (Right × Nat × Nat) :=
  let rw (a n : Nat) : List (Right × Nat × Nat) := [(.r, a, n), (.w, a, n)]
  [(.r, e.hyper, 64), (.w, e.working, 2 * e.elems)] ++ rw e.master (4 * e.elems) ++ rw e.mom1 (4 * e.momElems) ++
    (if e.mom2 = 0 then [] else rw e.mom2 (4 * e.elems)) ++ (if e.burnEn then rw e.burn (4 * e.elems) else []) ++
    (if e.rule = 0 then [] else rw e.scratch e.scratchBytes)

/-- The areas that DERIVE reads and writes. -/
def Entry.deriveAreas (e : Entry) : List (Right × Nat × Nat) := [(.r, e.master, 4 * e.elems), (.w, e.working, 2 * e.elems)]

/-- The runs of a list of accesses. -/
def footOf (l : List (Right × Nat × Nat)) : Foot :=
  { reads := (l.filter fun a => a.1 == .r).map Prod.snd, writes := (l.filter fun a => a.1 != .r).map Prod.snd }

/-- Two sets of runs together. -/
def Foot.join (f g : Foot) : Foot := { reads := f.reads ++ g.reads, writes := f.writes ++ g.writes }

/-- The gradient step an entry uses in a job; none where the job does not act on it (R312, R337). -/
def entryStep (j : Job) (e : Entry) : Option Nat :=
  match j.source with
  | .op _ => if e.lag = 0 then some j.step else none
  | .delivery f _ => if e.lag = 0 || decide (posStep f.pos < e.lag) then none else some (posStep f.pos - e.lag)

/-- The whole of a reduction buffer. -/
def bufFoot (s : State) (p : Part) (handle : Nat) : Foot :=
  match bufAt s p handle with
  | some (_, o) => { reads := [(o.base, o.sheets * sheetBytes)], writes := [(o.base, o.sheets * sheetBytes)] }
  | none => {}

/-- What a job does at place `i` of its table. -/
def placeFoot (s : State) (p : Part) (j : Job) (i : Nat) : Foot :=
  if j.code = 2 then bufFoot s p (readNat s p plnMaster (j.table + 8 * i) 8)
  else
    let addr := j.table + 128 * i
    let e := Entry.ofNat (readNat s p plnMaster addr 128)
    if e.bad then {}
    else if j.code = 3 then footOf e.deriveAreas
    else match entryStep j e with
      | none => {}
      | some step =>
        let g := bufFoot s p (readNat s p plnMaster (e.grad + step % (e.lag + 1) * 8) 8)
        (footOf (e.areas ++ [(.w, addr, 128)])).join g

/-- What a job reads and writes. -/
def jobFoot (s : State) (p : Part) (j : Job) : Foot :=
  let size := if j.code = 2 then 8 else 128
  ((List.range j.count).map (placeFoot s p j)).foldl Foot.join
    { reads := [(j.addr, 64), (j.table, size * j.count)], writes := [(j.report, 64)] }

/-- The operation of a job, and what the job reads and writes. -/
def jobRuns (s : State) (p : Part) (j : Job) : Option Nat × Foot :=
  match j.source with
  | .op n => (some n, ownFoot s p n)
  | .delivery _ _ => (none, j.foot)

/-- The memory that the running job finds. -/
def blurJob (p : Part) (s : State) : State :=
  match (s.part p).pln.queue with
  | j :: _ => blurFor p (jobRuns s p j).1 (jobRuns s p j).2.reads s
  | [] => s

/-- What is left of the running job's writes. -/
def smearJob (p : Part) (s : State) : State :=
  match (s.part p).pln.queue with
  | j :: _ => smearFor p (jobRuns s p j).1 (jobRuns s p j).2.writes s
  | [] => s

/-! ## PLANISH (R311, R313) -/

/-- PLANISH at issue. -/
def runPlanish (b : BenchHdr) (record : Addr) (s : State) : Except Halt State :=
  match fetchRec s b.p record.toNat 64 64 with
  | .error e => .error e
  | .ok bytes => match jobOfRecord (.op s.array.nextOp) record.toNat (leNat bytes) with
    | .error c => .error { code := c }
    | .ok j =>
      if !anyLive s then .error { code := ftQuarterLost }
      else
        let (_, s) := takeFlight b (s.stream b.p b.st).head .planish 0 (jobFoot s b.p j) (issueHead b (afterHead b s) s)
        .ok (touchRead b.p record.toNat 64 (s.updPln b.p fun y => { y with queue := y.queue ++ [j] }))

/-- Whether PLANISH finds a slot on every plate of a live quarter (R210). -/
def planishSlots (s : State) (p : Part) : Bool := slotsFree s p (platesOf fun q => s.array.live.get q)

/-- PLANISH. -/
def execPlanish (b : BenchHdr) (record : Addr) (s : State) : Host.Outcome State Fault Refusal :=
  let free (s : State) : Bool := planishSlots s b.p
  next (benchOp b (fun s => holdsArray s b.p && decide ((s.part b.p).pln.queue.length < 16) && free s)
    (runPlanish b record) (noteSlotWait b free s))

/-! ## Starting entries (R319, R322, R332, R335, R337) -/

/-- Whether a gradient buffer's header fits an entry for step S (R319). -/
def gradFits (s : State) (p : Part) (e : Entry) (step : Nat) (o : Obj) : Bool :=
  let b := bufHdr s p o
  b.step = step && b.state = 2 && b.rowsM1 + 1 = e.rows && b.colsM1 + 1 = e.cols &&
    !inStriped s p b.data (b.dataSheets * sheetBytes)

/-- The gradient buffer of an entry for step S, if it is there and not broken (R319, R783). -/
def gradBuf (s : State) (p : Part) (e : Entry) (step : Nat) : Option (Nat × Obj) :=
  match bufAt s p (readNat s p plnMaster (e.grad + step % (e.lag + 1) * 8) 8) with
  | none => none
  | some (hd, o) => if bufBroken s p o then none else some (hd, o)

/-- The first access that memory refuses among several. -/
def firstRefusal (s : State) (p : Part) (l : List (Right × Nat × Nat)) : Option (Right × Nat × Acc) :=
  l.findSome? fun a => match plnAccess s p a.1 a.2.1 a.2.2 with
    | (some c, acc) => some (a.1, c, acc)
    | (none, _) => none

/-- The planisher resets the buffer of an entry that it has finished for a step, and marks the entry done (R322, R331). -/
def finishEntry (p : Part) (addr handle step : Nat) (s : State) : State :=
  match (s.part p).pln.queue.head? with
  | none => s
  | some j =>
    let e := Entry.ofNat (readNat s p plnMaster addr 128)
    let s := match s.obj? p handle with
      | some o => resetBuf p o (step + e.lag + 1) j.expect.toNat s
      | none => s
    smearJob p (rewriteEntry p addr (fun v => setField (setField (setField v 591 552 step) 541 541 1) 327 327 0) s)

/-- An entry ends as finished: its buffer's sheets admit the reset, or the job ends there; `count` counts the entry. -/
def closeEntry (p : Part) (addr handle step : Nat) (count : State → State) (s : State) : State :=
  match (s.obj? p handle).bind fun o => firstRefusal s p [(.w, o.base, o.sheets * sheetBytes)] with
  | some (g, c) => failJob p g c s
  | none => nextEntry p (finishEntry p addr handle step (count s))

/-- Zero-count sheets of a gradient (R321). -/
def zeroSheetsOf (s : State) (p : Part) (o : Obj) : Nat :=
  let b := bufHdr s p o
  ((List.range b.dataSheets).filter fun n => (bufEntry s p b n).mask = 0).length

/-- FP32 values from memory. -/
def readF32s (s : State) (p : Part) (a n : Nat) : List F32 :=
  (List.range n).map fun i => BitVec.ofNat 32 (readNat s p plnMaster (a + 4 * i) 4)

/-- Tile passes of a product of an m × k and a k × n matrix (R315, R324): one for each tile of 512 × 512 outputs and each
8,192 reduction steps, the three products of SPLIT3 counting each on its own. -/
def passesOf (split : Bool) (m k n : Nat) : Nat :=
  (m + 511) / 512 * ((n + 511) / 512) * ((k + 8191) / 8192) * (if split then 3 else 1)

/-- The units that compute the new values of an entry for a step into SCRATCH (R315, R330): the tile passes of its rule's
products, and as many of element-wise work as its gradient has sheets. -/
def Entry.passes (e : Entry) (step : Nat) : Nat :=
  let mm := passesOf e.split
  match e.rule with
  | 1 =>
    let k := min e.rows e.cols
    let each := mm k (max e.rows e.cols) k + mm k k k + (if e.rows ≤ e.cols then mm k k e.cols else mm e.rows k k)
    e.units + e.nsIter * each
  | 2 =>
    let stat := if step % e.statEvery = 0 then mm e.rows e.cols e.rows + mm e.cols e.rows e.cols else 0
    let root (n : Nat) : Nat := e.rootIter * (4 * mm n n n)
    let roots := if step % e.rootEvery = 0 then root e.rows + root e.cols else 0
    e.units + stat + roots + mm e.rows e.rows e.cols + mm e.rows e.cols e.cols
  | _ => 0

/-- The planisher's reads of a gradient buffer. -/
def gradAreas (s : State) (p : Part) (o : Obj) : List (Right × Nat × Nat) :=
  let b := bufHdr s p o
  [(.r, b.table, 32 * b.dataSheets), (.r, b.data, b.dataSheets * sheetBytes)]

/-- An entry whose update is to be applied begins, or resumes (R310, R321, R332). -/
def beginEntry (p : Part) (addr : Nat) (e : Entry) (step hd : Nat) (o : Obj) (s : State) : State :=
  match firstRefusal s p (e.areas ++ gradAreas s p o) with
  | some (g, c) => failJob p g c s
  | none =>
    let view := blurJob p s
    let zeros := if e.rule = 0 then 0 else zeroSheetsOf s p o
    let resume := e.progV && e.progStep = step
    if zeros ≠ 0 && !resume then closeEntry p addr hd step (countZero p zeros) s
    else
      let s := if resume then s.updPln p fun y => { y with resumed := satAdd y.resumed 1 } else s
      let unit := if resume then e.progUnit else 0
      let s := { s with freeCtr := view.freeCtr }.updPln p fun y => { y with
        entry := some { addr, step, handle := hd, unit, pass := if resume then e.passes step else 0
                        hyper := readF32s view p e.hyper 16 } }
      if unit ≥ e.units then closeEntry p addr hd step (countApplied p step) s else s

/-- What the verdict of its step makes of an entry whose gradient is there (R335). -/
def judgedEntry (p : Part) (addr : Nat) (e : Entry) (step hd : Nat) (o : Obj) (s : State) : State :=
  match (s.part p).pln.hist.find? fun x => x.step.toNat = step with
  | some x =>
    let s := updJob p (fun j => { j with waiting := false }) s
    if x.skip then closeEntry p addr hd step (countSkipped p) s else beginEntry p addr e step hd o s
  | none =>
    if !(votingFor s p step).isEmpty then updJob p (fun j => { j with waiting := true }) s
    else nextEntry p (countSkipped p s)

/-- The entry at the front job's place is started or passed over. -/
def startEntry (p : Part) (j : Job) (s : State) : State :=
  let addr := j.table + 128 * j.next
  match firstRefusal s p [(.r, addr, 128), (.w, addr, 128)] with
  | some (g, c) => failJob p g c s
  | none =>
    let s := touchRead p addr 128 s
    let e := Entry.ofNat (readNat s p plnMaster addr 128)
    if e.bad then finishJob p (some ftWordRsvd) s
    else match s.obj? p e.object, entryStep j e with
      | none, _ => finishJob p (some ftAccess) s
      | _, none => nextEntry p s
      | some o, some step =>
        if e.doneV && decide (step ≤ e.done) then nextEntry p (countAlready p s)
        else if copiesStriped s p e || (e.lag = 0 && slowTier o) then nextEntry p (countMismatch p s)
        else match firstRefusal s p [(.r, e.grad + step % (e.lag + 1) * 8, 8)] with
          | some (g, c) => failJob p g c s
          | none =>
            let s := touchRead p (e.grad + step % (e.lag + 1) * 8) 8 s
            match gradBuf s p e step with
            | none => nextEntry p (countMismatch p s)
            | some (hd, ob) => match firstRefusal s p [(.r, ob.base, 64)] with
              | some (g, c) => failJob p g c s
              | none =>
                if gradFits s p e step ob then judgedEntry p addr e step hd ob s else nextEntry p (countMismatch p s)

/-- Whether the front job may run: its partition holds the array, and no rerun of it is due first (R314, R338). -/
def jobReady (s : State) (p : Part) (code : Nat) : Option Job :=
  match (s.part p).pln.queue with
  | j :: _ => if holdsArray s p && j.code = code && !j.rerun then some j else none
  | [] => none

/-- APPLY: the next entry of a running APPLY job is started or passed over. -/
def applyStep (p : Part) (s : State) : State :=
  match jobReady s p 1 with
  | some j => if (s.part p).pln.entry.isSome then s else startEntry p j s
  | none => s

/-- APPLY. -/
def execApply (p : Part) (s : State) : Host.Outcome State Fault Refusal := next (settle p s (applyStep p s))

/-! ## BUF_RESET and DERIVE (R266, R302, R312) -/

/-- One buffer of a BUF_RESET job. -/
def resetOne (p : Part) (j : Job) (s : State) : State :=
  match firstRefusal s p [(.r, j.table + 8 * j.next, 8)] with
  | some (g, c) => failJob p g c s
  | none =>
    let s := touchRead p (j.table + 8 * j.next) 8 s
    match bufAt s p (readNat s p plnMaster (j.table + 8 * j.next) 8) with
    | none => finishJob p (some ftAccess) s
    | some (_, o) =>
      let broken := bufBroken s p o
      match firstRefusal s p (if broken then [] else [(.r, o.base, 64)]) with
      | some (g, c) => failJob p g c s
      | none =>
        if !broken && (bufHdr s p o).state = 1 then nextEntry p (countMismatch p s)
        else match firstRefusal s p [(.w, o.base, o.sheets * sheetBytes)] with
          | some (g, c) => failJob p g c s
          | none => nextEntry p (smearJob p (resetBuf p o j.step j.expect.toNat s))

/-- The rows and columns of write unit `u`. -/
def Entry.span (e : Entry) (u : Nat) : Nat × Nat × Nat × Nat :=
  let spr := (e.cols + 127) / 128
  let r := u / spr * 64
  let c := u % spr * 128
  (r, min 64 (e.rows - r), c, min 128 (e.cols - c))

/-- FP32 values as bytes. -/
def f32Bytes (l : List F32) : List Byte := l.flatMap fun v => leBytes 4 v.toNat

/-- BF16 copies of FP32 values, with flags. -/
def bf16Bytes (l : List F32) : WithFlags (List Byte) :=
  let out := l.map toBf16
  (out.flatMap fun r => leBytes 2 r.code, out.foldl (fun a r => a.or r.flags) {})

/-- The entry of a DERIVE job at the front job's place begins, or is passed over (R302, R312). -/
def deriveOne (p : Part) (j : Job) (s : State) : State :=
  let addr := j.table + 128 * j.next
  match firstRefusal s p [(.r, addr, 128)] with
  | some (g, c) => failJob p g c s
  | none =>
    let s := touchRead p addr 128 s
    let e := Entry.ofNat (readNat s p plnMaster addr 128)
    if e.bad then finishJob p (some ftWordRsvd) s
    else if (s.obj? p e.object).isNone then finishJob p (some ftAccess) s
    else if copiesStriped s p e then nextEntry p (countMismatch p s)
    else match firstRefusal s p e.deriveAreas with
      | some (g, c) => failJob p g c s
      | none => s.updPln p fun y => { y with entry := some { addr, step := 0, handle := 0, unit := 0, hyper := [] } }

/-- A job runs from one entry to the next until it has ended. -/
def runEntries (p : Part) (code : Nat) (one : Part → Job → State → State) : Nat → State → State
  | 0, s => s
  | n + 1, s => match jobReady s p code with
    | some j =>
      let t := one p j s
      if (t.part p).pln.queue.length < (s.part p).pln.queue.length then t else runEntries p code one n t
    | none => s

/-- BUF_RESET_JOB. -/
def execBufResetJob (p : Part) (s : State) : Host.Outcome State Fault Refusal :=
  next (settle p s (runEntries p 2 resetOne 65537 s))

/-- DERIVE: the next entry of a running DERIVE job is begun or passed over. -/
def deriveStep (p : Part) (s : State) : State :=
  match jobReady s p 3 with
  | some j => if (s.part p).pln.entry.isSome then s else deriveOne p j s
  | none => s

/-- DERIVE. -/
def execDerive (p : Part) (s : State) : Host.Outcome State Fault Refusal := next (settle p s (deriveStep p s))

/-! ## Units (R315, R316, R320, R321, R326, R329 to R332) -/

/-- The mean gradient at row `i`, columns from `c`, `n` of them, of a sheet whose count is `k` (R320). -/
def gradRow (s : State) (p : Part) (b : BufHdr) (i c n k : Nat) : List LaneRes :=
  (List.range n).map fun x =>
    let (sheet, el) := b.place i (c + x)
    meanOf (signed 64 (readNat s p plnMaster (b.data + sheet * sheetBytes + 8 * el) 8)) b.e k

/-- The burnished and working copies of a run of elements from element `e0`, and the master itself (R302, R329). -/
def copyWrites (s : State) (p : Part) (e : Entry) (h : List F32) (e0 : Nat) (w : List F32) :
    WithFlags (List (Nat × List Byte)) :=
  let (k, f1) := bf16Bytes w
  let base := [(e.master + 4 * e0, f32Bytes w), (e.working + 2 * e0, k)]
  if e.burnEn then
    let (b, f2) := lanesOf ((w.zip (readF32s s p (e.burn + 4 * e0) w.length)).map fun x => burnElem h x.1 x.2)
    (base ++ [(e.burn + 4 * e0, f32Bytes b)], f1.or f2)
  else (base, f1)

/-- The writes of one row of a unit under MOMENT. -/
def momentRow (s : State) (p : Part) (e : Entry) (h : List F32) (b : BufHdr) (k i c n : Nat) :
    WithFlags (List (Nat × List Byte)) :=
  let e0 := i * e.cols + c
  let (g, f0) := lanesOf (gradRow s p b i c n k)
  let m := readF32s s p (e.mom1 + 4 * e0) n
  let w := readF32s s p (e.master + 4 * e0) n
  let v := if e.mom2 = 0 then List.replicate n 0 else readF32s s p (e.mom2 + 4 * e0) n
  let out := (((g.zip m).zip v).zip w).map fun x => momentElem h (e.mom2 ≠ 0) x.1.1.1 x.1.1.2 x.1.2 x.2
  let (ws, f1) := copyWrites s p e h e0 (out.map fun o => o.w)
  let fl := out.foldl (fun a o => a.or o.flags) (f0.or f1)
  (ws ++ [(e.mom1 + 4 * e0, f32Bytes (out.map fun o => o.m))] ++
    (if e.mom2 = 0 then [] else [(e.mom2 + 4 * e0, f32Bytes (out.map fun o => o.v))]), fl)

/-- The whole mean gradient of an entry, element by element (R320). -/
def wholeGrad (s : State) (p : Part) (e : Entry) (b : BufHdr) : WithFlags (List F32) :=
  lanesOf ((List.range e.rows).flatMap fun i => (List.range e.cols).flatMap fun j =>
    gradRow s p b i j 1 (popcount (bufEntry s p b (b.place i j).1).mask))

/-- ORTHO and KRON: the new values of a step, MOM1's and the master's (R327, R328, R330). -/
def newValues (s : State) (p : Part) (e : Entry) (w : EntryWork) (b : BufHdr) : WithFlags (List F32 × List F32) :=
  let (g, f0) := wholeGrad s p e b
  let mom := readF32s s p e.mom1 e.momElems
  let ma := readF32s s p e.master e.elems
  let (x, f1) :=
    if e.rule = 1 then orthoUpdate w.hyper e.split e.rows e.cols e.nsIter g mom ma
    else kronUpdate w.hyper e.split e.rows e.cols e.statEvery e.rootEvery e.rootIter w.step g mom ma
  (x, f0.or f1)

/-- The new values that a scratch area holds: MOM1's first, then the master's. -/
def heldValues (s : State) (p : Part) (e : Entry) : List F32 × List F32 :=
  (readF32s s p e.scratch e.momElems, readF32s s p (e.scratch + 4 * e.momElems) e.elems)

/-- The bytes of a scratch area that holds new values; what lies after them the manual leaves open. -/
def scratchWrites (s : State) (e : Entry) (x : List F32 × List F32) : List (Nat × List Byte) :=
  let k := 4 * (e.momElems + e.elems)
  [(e.scratch, f32Bytes (x.1 ++ x.2)), (e.scratch + k, (List.range (e.scratchBytes - k)).map (Config.freeByte s.freeCtr))]

/-- One row of a unit under ORTHO or KRON, whose new values are in `x`. -/
def scratchRow (s : State) (p : Part) (e : Entry) (h : List F32) (x : List F32 × List F32) (i c n : Nat) :
    WithFlags (List (Nat × List Byte)) :=
  let e0 := i * e.cols + c
  let (ws, fl) := copyWrites s p e h e0 ((x.2.drop e0).take n)
  (if e.rule = 1 then ws ++ [(e.mom1 + 4 * e0, f32Bytes ((x.1.drop e0).take n))] else ws, fl)

/-- One row of a unit under DERIVE (R302, R312). -/
def deriveRow (s : State) (p : Part) (e : Entry) (i c n : Nat) : WithFlags (List (Nat × List Byte)) :=
  let e0 := i * e.cols + c
  let (bytes, fl) := bf16Bytes (readF32s s p (e.master + 4 * e0) n)
  ([(e.working + 2 * e0, bytes)], fl)

/-- The rows of a unit. -/
def unitRows (e : Entry) (u : Nat) (f : Nat → Nat → Nat → WithFlags (List (Nat × List Byte))) :
    WithFlags (List (Nat × List Byte)) :=
  let (r, nr, c, nc) := e.span u
  let out := (List.range nr).map fun i => f (r + i) c nc
  (out.flatMap Prod.fst, out.foldl (fun a o => a.or o.2) {})

/-- What a unit of the entry in progress reads: the rows of a sheet of the copies, or under ORTHO and KRON the whole gradient,
first moment and master, or the scratch area that holds their new values. -/
def unitReads (e : Entry) (code : Nat) (w : EntryWork) (b : BufHdr) : List (Nat × Nat) :=
  let (r, nr, c, nc) := e.span w.unit
  let rows (a : Nat) : List (Nat × Nat) := (List.range nr).map fun i => (a + 4 * ((r + i) * e.cols + c), 4 * nc)
  let grad : List (Nat × Nat) := (List.range b.dataSheets).map fun n => (b.data + n * sheetBytes, sheetBytes)
  if code = 3 then rows e.master
  else if e.rule = 0 then
    (grad.drop w.unit).take 1 ++ rows e.mom1 ++ rows e.master ++ (if e.mom2 = 0 then [] else rows e.mom2) ++
      if e.burnEn then rows e.burn else []
  else if w.pass < e.passes w.step then grad ++ [(e.mom1, 4 * e.momElems), (e.master, 4 * e.elems)]
  else [(e.scratch, 4 * (e.momElems + e.elems))] ++ if e.burnEn then rows e.burn else []

/-- Several reads. -/
def touchRuns (p : Part) (l : List (Nat × Nat)) (s : State) : State := l.foldl (fun s r => touchRead p r.1 r.2 s) s

/-- Computes the next unit of the entry in progress, all of it before any of it is written (R316). -/
def computeUnit (p : Part) (code : Nat) (w : EntryWork) (s : State) : State :=
  let view := blurJob p s
  let s := { s with freeCtr := view.freeCtr }
  let e := Entry.ofNat (readNat s p plnMaster w.addr 128)
  let hdr := ((s.obj? p w.handle).map (bufHdr view p)).getD (BufHdr.ofNat 0)
  let s := touchRuns p (unitReads e code w hdr) s
  let give (x : WithFlags (List (Nat × List Byte))) (s : State) : State :=
    plnFlags p x.2 (updEntry p (fun w => { w with writes := some x.1 }) s)
  if code = 3 then give (unitRows e w.unit (deriveRow view p e)) s
  else match s.obj? p w.handle with
  | none => finishJob p (some ftAccess) s
  | some o =>
    let b := bufHdr view p o
    if e.rule = 0 then
      let k := popcount (bufEntry view p b w.unit).mask
      if k = 0 then updEntry p (fun w => { w with writes := some [] }) (countZero p 1 s)
      else give (unitRows e w.unit (momentRow view p e w.hyper b k)) s
    else if w.pass + 1 < e.passes w.step then give ([], {}) s
    else if w.pass < e.passes w.step then
      let (x, fl) := newValues view p e w b
      give (scratchWrites s e x, fl) s.tick
    else
      let x := heldValues view p e
      let (ws, fl) := unitRows e w.unit (scratchRow view p e w.hyper x)
      give (if e.rule = 2 && w.unit = 0 then ws ++ [(e.mom1, f32Bytes x.1)] else ws, fl) s

/-- The job of a partition's planisher whose units run: an APPLY or DERIVE whose partition holds the array. -/
def unitJob (s : State) (p : Part) : Option Job := (jobReady s p 1).orElse fun _ => jobReady s p 3

/-- Whether an ARRAY or VRUN waits to enter the quarters (R315): an ARRAY in their queue, or an instance behind another on
its plate. -/
def arrayWaits (s : State) (p : Part) : Bool :=
  ((s.part p).bench.arrayQ.any fun o => o.phase = .queued) || (s.part p).bench.insts.any fun e => decide (1 < e.2.length)

/-- PLANISHER_UNIT: a unit is submitted while no ARRAY or VRUN waits to enter the quarters. -/
def unitStep (p : Part) (s : State) : State :=
  match unitJob s p, (s.part p).pln.entry with
  | some j, some w => if w.writes.isSome || !anyLive s || arrayWaits s p then s else computeUnit p j.code w s
  | _, _ => s

/-- PLANISHER_UNIT. -/
def execPlanisherUnit (p : Part) (s : State) : Host.Outcome State Fault Refusal :=
  next (settle p s (unitStep p s))

/-- The writes of the unit are applied, and a unit of the copies is recorded in the entry; after the last one the entry is
finished (R322, R331). -/
def writeUnit (p : Part) (s : State) : State :=
  match (s.part p).pln.entry, (s.part p).pln.queue with
  | some w, j :: _ => match w.writes with
    | none => s
    | some ws =>
      let s := smearJob p (ws.foldl (fun s a => writeMem p a.1 a.2 s) s)
      let e := Entry.ofNat (readNat s p plnMaster w.addr 128)
      let n := w.unit + 1
      if j.code = 3 then
        let s := updEntry p (fun w => { w with unit := n, writes := none }) s
        if n < e.units then s else nextEntry p (countApplied p 0 s)
      else if w.pass < e.passes w.step then updEntry p (fun w => { w with pass := w.pass + 1, writes := none }) s
      else
        let s := rewriteEntry p w.addr (fun v =>
          setField (setField (setField v 399 360 w.step) 359 328 n) 327 327 1) s
        let s := updEntry p (fun w => { w with unit := n, writes := none }) s
        if n < e.units then s else closeEntry p w.addr w.handle w.step (countApplied p w.step) s
  | _, _ => s

/-- PLANISHER_UNIT_WRITTEN. -/
def execPlanisherUnitWritten (p : Part) (s : State) : Host.Outcome State Fault Refusal :=
  next (settle p s (writeUnit p s))

/-! ## Deliveries (R313, R336 to R338, R784) -/

/-- A delivery's record, or its fault. -/
def deliveryJob (p : Part) (f : Firing) (s : State) : Except (Nat × Acc) Job :=
  let addr := field f.entry.arg.toNat 55 0
  if addr % 64 ≠ 0 then .error (ftProgramAddr, .ok)
  else match plnAccess s p .r addr 64 with
    | (some c, acc) => .error (if acc = .outside then ftProgramAddr else c, acc)
    | (none, _) => match jobOfRecord (.delivery f f.entry.object.toNat) addr (readNat s p plnMaster addr 64) with
      | .error c => .error (c, .ok)
      | .ok j =>
        if j.code ≠ 1 || j.step ≠ 0 || field f.entry.arg.toNat 127 56 ≠ 0 then .error (ftWordRsvd, .ok)
        else match s.obj? p f.entry.object.toNat with
          | none => .error (ftAccess, .ok)
          | some _ => .ok j

/-- The report of a delivery whose job is refused, where its record can be read and names one that can be written (R784). -/
def reportRefused (p : Part) (f : Firing) (s : State) : State :=
  let addr := field f.entry.arg.toNat 55 0
  if addr % 64 ≠ 0 || (plnAccess s p .r addr 64).1.isSome then s
  else
    let j := jobFields (.delivery f f.entry.object.toNat) addr (readNat s p plnMaster addr 64)
    if j.report % 64 ≠ 0 then s else (writeReport p j true s).2

/-- LATE_UPDATE_DELIVERY: the oldest delivery firing enters the planisher's queue, if it has room. -/
def deliver (p : Part) (s : State) : State :=
  match (s.part p).cad.lateQ with
  | [] => s
  | f :: rest =>
    if (s.part p).pln.queue.length ≥ 16 then s
    else
      let s := takenFiring p f (s.updCad p fun c => { c with lateQ := rest })
      match deliveryJob p f s with
      | .ok j => (touchRead p j.addr 64 s).updPln p fun y => { y with queue := y.queue ++ [{ j with foot := jobFoot s p j }] }
      | .error (c, acc) =>
        let s := reportRefused p f (noteDenied p plnMaster .r acc s)
        doneFiring p f (deliveryFault p c (field f.entry.arg.toNat 55 0) f.idx s)

/-- LATE_UPDATE_DELIVERY. -/
def execLateUpdateDelivery (p : Part) (s : State) : Host.Outcome State Fault Refusal :=
  next (settle p s (deliver p s))

/-- DELIVERY_RERUN: a delivery that a lost quarter ended goes on from NEXT. -/
def execDeliveryRerun (p : Part) (s : State) : Host.Outcome State Fault Refusal :=
  next (if anyLive s then updJob p (fun j => { j with rerun := false }) s else s)

/-- A quarter is lost while the planisher updates an entry (R316, R317, R338): a unit whose writes have begun is written;
an update still in progress then has lost its unit. -/
def losePlanisher (p : Part) (s : State) : State :=
  let s := writeUnit p s
  if (s.part p).pln.entry.isNone then s
  else match (s.part p).pln.queue with
    | [] => s
    | j :: _ => match j.source with
      | .op _ => finishJob p (some ftQuarterLost) s
      | .delivery _ _ =>
        let s := updJob p (fun j => { j with rerun := true }) (s.updPln p fun y => { y with entry := none })
        (writeReport p j true s).2

end Sys2Proof.Machine
end

