-- ==== Sys2Proof/Machine/Package.lean ====
section
/-!
DEFINITION. The package: fencing a quarter and its return (R680 to R688), spine-quarter links and width tokens (R670 to R679),
heat (R689 to R694), and the guest firewall (R695 to R704).
-/
namespace Sys2Proof.Machine

/-! ## Fencing a quarter (R680 to R684) -/

/-- A contribution of a lost quarter that had not reached its sheet, or had and was not wholly applied: which of these, and
how far, the manual leaves open. A sheet that admitted it and has not all of it is TORN (R682). -/
def loseContribution (s : State) (c : Contribution) : State :=
  let k := Config.freeNat s.freeCtr
  let s := s.tick
  if k % 2 = 0 then s
  else match s.obj? c.p c.handle with
    | none => s
    | some o =>
      let b := bufHdr s c.p o
      let e := bufEntry s c.p b c.sheet
      let adds := (c.adds.zipIdx.filter fun x => k.testBit (x.2 + 1)).map Prod.fst
      let t := admitContribution { c with adds } s
      let e' := bufEntry t c.p b c.sheet
      if e' = e || adds.length = c.adds.length then t else setBufEntry c.p b c.sheet { e' with torn := true } t

/-- An object loses its stake copies in a quarter; LOST sheets are journalled (R45, R658). -/
def loseCopies (q : Qtr) (p : Part) (s : State) (e : Nat × Obj) : State :=
  let here (f : Nat) : Bool := f / 8192 = q.val
  let hit (x : Sheet) : Bool := x.tier = .stake && x.alive.any here
  if !(e.2.map.any fun y => hit y.2) then s
  else
    let cut (x : Sheet) : Sheet := if hit x then { x with gone := x.gone ++ x.alive.filter here } else x
    let map := Map.mapVal e.2.map fun _ x => cut x
    let lost := (map.filter fun y => y.2.lost).length
    let s := noteBroken p e.1 (updObj p e.1 (fun o => { o with map }) s)
    if lost = 0 then s
    else note p 0x0030 stQuarterLost (place 224 216 2 ||| place 224 184 e.1 ||| place 224 108 lost) s

/-- Every stake copy in a quarter is lost. -/
def loseStake (q : Qtr) (s : State) : State :=
  four.foldl (fun s p => (s.part p).tier.objects.foldl (loseCopies q p) s) s

/-- The entry and alert of a fence or a failed return (R684). -/
def noteFence (q : Qtr) (reason : Nat) (s : State) : State :=
  raiseAlert (noteAll 0x0060 stQuarterLost
    (place 224 216 1 ||| place 224 214 q.val ||| place 224 211 reason ||| place 224 195 (sharesWord s.array.shares))
    (fun _ => true) s)

/-- The quarter's link is DOWN for a reason. -/
def d2dDown (q : Qtr) (reason : Nat) (s : State) : State :=
  updD2d q (fun d => { d with state := .down, width := 0, groups := 0, chosen := none, fence := BitVec.ofNat 3 reason }) s

/-- Fences a live quarter (R680 to R684). -/
def fence (q : Qtr) (reason : Nat) (s : State) : State :=
  if !s.array.live.get q then s
  else
    let s := d2dDown q reason s
    let lost := s.contribs.filter fun c => c.quarter = q
    let s := lost.foldl loseContribution { s with contribs := s.contribs.filter fun c => c.quarter ≠ q }
    let s := losePlanisher (arrayPart s) (loseArray q s)
    let a := s.array
    let s := loseStake q { s with array := { a with shares := a.shares.set q 0, live := a.live.set q false } }
    noteFence q reason s

/-- QUARTER_CLOCK_LOSS. -/
def execQuarterClockLoss (q : Qtr) (s : State) : Host.Outcome State Fault Refusal := next (fence q 2 s)

/-- QUARTER_FATAL_ERROR: the warden resets the quarter. -/
def execQuarterFatalError (q : Qtr) (s : State) : Host.Outcome State Fault Refusal := next (fence q 1 s)

/-! ## Heat (R689 to R694) -/

/-- The permitted rate of a stake temperature below 110.0 °C, in MHz; temperatures are in 0.0625 °C (R690). -/
def rateAt (t : Int) : Nat := if t ≤ 1520 then 1400 else 1300 - ((t - 1521) / 32).toNat * 100

/-- The lower bound of the row of a rate below 1,400 MHz. -/
def rowFloor (fq : Nat) : Int := 1520 + 32 * ((1300 - fq) / 100 : Nat)

/-- One evaluation of a live quarter's permitted rate (R690, R691). -/
def Stake.evaluate (x : Stake) : Stake :=
  let t := x.temp.toInt
  let r := rateAt t
  if r < x.fq then { x with fq := r, cool := 0 }
  else if x.fq < 1400 && t ≤ rowFloor x.fq - 16 then
    if x.cool = 9 then { x with fq := x.fq + 100, cool := 0 } else { x with cool := x.cool + 1 }
  else { x with cool := 0 }

/-- A choice of clock and shares: the clock, the shares and their sum (R692). -/
def heatShares (s : State) (f : Nat) : Quad Nat :=
  s.array.live.mapIdx fun q live => if live then min 8 (8 * (s.pkg.stakes.get q).fq / f) else 0

/-- The sum of the shares. -/
def shareSum (sh : Quad Nat) : Nat := sh.a0 + sh.a1 + sh.a2 + sh.a3

/-- The candidate clocks in ascending order. -/
def heatClocks (s : State) : List Nat :=
  (List.range 15).map (100 * ·) |>.filter fun f =>
    decide (0 < f) && four.any fun q => s.array.live.get q && (s.pkg.stakes.get q).fq = f

/-- The choice with the most throughput; ties keep the lower clock (R692). -/
def heatChoice (s : State) : Option (Nat × Quad Nat) :=
  (heatClocks s).foldl (fun best f =>
    let sh := heatShares s f
    match best with
    | none => some (f, sh)
    | some (g, old) => if f * shareSum sh > g * shareSum old then some (f, sh) else best) none

/-- The entry of a changed choice (R694, R778). -/
def noteHeat (s : State) : State :=
  let temps := (four.map fun q => (s.pkg.stakes.get q).temp.toNat * 2 ^ (16 * q.val)).sum
  let rates := (four.map fun q => (if s.array.live.get q then (s.pkg.stakes.get q).fq / 100 else 0) * 16 ^ q.val).sum
  let f := s.pkg.chosenMhz
  noteAll 0x0060 stOk
    (place 224 216 4 ||| place 224 152 temps ||| place 224 136 rates ||| place 224 124 f |||
      place 224 108 (sharesWord s.array.shares) ||| place 224 98 (f * shareSum s.array.shares * 1000 / 44800))
    (fun _ => true) s

/-- The warden makes its heat choice; the clock applied is the lower of it and the power-limit clock. -/
def chooseHeat (s : State) : State :=
  match heatChoice s with
  | none => s
  | some (f, sh) =>
    let changed := f ≠ s.pkg.chosenMhz || sh ≠ s.array.shares
    let s := { s with
      array := { s.array with shares := sh }
      pkg := { s.pkg with chosenMhz := f, clockMhz := min f s.power.clockMhz } }
    if changed then noteHeat { s with pkg := { s.pkg with changes := satAdd s.pkg.changes 1 } } else s

/-- A stake sensor at 110.0 °C or more fences its quarter (R680, R690). -/
def tooHot (s : State) (q : Qtr) : Bool := decide (1760 ≤ (s.pkg.stakes.get q).temp.toInt)

/-- HEAT_EVALUATION. -/
def execHeatEvaluation (s : State) : Host.Outcome State Fault Refusal :=
  let s := four.foldl (fun s q => if tooHot s q then fence q 5 s else s) s
  let s := four.foldl (fun s q => if s.array.live.get q then updStake q Stake.evaluate s else s) s
  let s := chooseHeat s
  next (if shed s || decide (s.pkg.clockMhz < 1400) then
    { s with pkg := { s.pkg with throttle := satAdd s.pkg.throttle 1 } } else s)

/-- The hottest of a stake's readings: its place, the first of equals, and the reading. -/
def hottestOf : List (B16 × Nat) → Option (B16 × Nat)
  | [] => none
  | e :: l => match hottestOf l with
    | none => some e
    | some g => if e.1.slt g.1 then some g else some e

/-- STAKE_SENSOR_SAMPLE (R689): the stake's temperature is its highest reading. -/
def execStakeSensorSample (q : Qtr) (readings : List B16) (s : State) : Host.Outcome State Fault Refusal :=
  match hottestOf readings.zipIdx with
  | none => next s
  | some (t, i) =>
    let s := updStake q (fun x => { x with
      sensor := BitVec.ofNat 4 i, temp := t, peak := if x.peak.slt t then t else x.peak }) s
    next (if tooHot s q then fence q 5 s else s)

/-! ## Return to service (R686 to R688) -/

/-- QUARTER_SERVICE: a long command on a fenced quarter. -/
def execQuarterService (h : CmdHdr) (quarter : Byte) (s : State) : Host.Outcome State Fault Refusal :=
  let q : Qtr := Fin.ofNat 4 quarter.toNat
  let act (s : State) : CmdOut × State :=
    if s.array.live.get q then (.done stBadParam, s) else (.started (.service q), s)
  next (hostCmd { opcode := 0x0107, long := true, issuer := .p0 } (.quarterService h quarter) h [quarter]
    (decide (quarter.toNat > 3)) act s)

/-- Whether a QUARTER_SERVICE of the quarter is in progress. -/
def inService (s : State) (q : Qtr) : Bool := (s.part 0).host.longs.any fun e => e.2.work = .service q

/-- The memory of a quarter's stake and retained store written to zero (R686). -/
def zeroStake (q : Qtr) (s : State) : State := { s with mem := clearRun s.mem (2 ^ 60 + q.val * 2 ^ 30) (2 ^ 30) }

/-- The end of a return to service: none while the link still trains. It fails where a step failed, the link is not UP, or the
stake reads above 95.0 °C (R687). -/
def endService (q : Qtr) (ok : Bool) (s : State) : Option (B16 × State) :=
  let d := (s.pkg.d2d.get q).state
  if s.array.live.get q then some (stOk, s)
  else if ok && (d = .train || d = .retrain) then none
  else if ok && d = .up && decide ((s.pkg.stakes.get q).temp.toInt ≤ 1520) then
    let s := zeroStake q { s with array := { s.array with
      live := s.array.live.set q true, quarters := s.array.quarters.set q {} } }
    let s := updStake q (fun x => { x with fq := 1400, cool := 0 }) (updD2d q (fun d => { d with fence := 0 }) s)
    let s := chooseHeat s
    some (stOk, noteAll 0x0060 stOk
      (place 224 216 2 ||| place 224 214 q.val ||| place 224 195 (sharesWord s.array.shares)) (fun _ => true) s)
  else some (stQuarterLost, noteFence q 6 (d2dDown q 6 s))

/-! ## Spine-quarter links and width tokens (R670 to R679) -/

/-- CRC-8 of 24 bits, high bit first: polynomial 0x07, initial value 0 (R675). -/
def crc8 (v : Nat) : Nat :=
  (List.range 24).foldl (fun c i =>
    let top := (c / 128 + v / 2 ^ (23 - i)) % 2
    Nat.xor (c * 2 % 256) (7 * top)) 0

/-- A width token (R675). -/
def widthToken (kind round mask width : Nat) : B32 :=
  let v := kind * 2 ^ 20 + round * 2 ^ 16 + mask * 2 ^ 8 + width * 2 ^ 4
  BitVec.ofNat 32 (v * 256 + crc8 v)

/-- Whether a token's CRC is right. -/
def tokenOk (t : B32) : Bool := crc8 (t.toNat / 256) = t.toNat % 256

/-- The lowest-numbered `n` groups of a mask. -/
def lowest (n mask : Nat) : Nat := ((((List.range 8).filter fun g => mask.testBit g).take n).map (2 ^ ·)).sum

/-- The largest width not above a count of groups; 0 if none (R676). -/
def groupWidth (n : Nat) : Nat := if n ≥ 8 then 8 else if n ≥ 6 then 6 else if n ≥ 4 then 4 else if n ≥ 2 then 2 else 0

/-- The link begins a retrain with a mask: a new ROUND and a PROPOSE (R672, R676). -/
def retrain (q : Qtr) (mask : Nat) (phase : D2dSt) (s : State) : State :=
  updD2d q (fun d =>
    let round := d.round + 1
    let mask := mask &&& (255 - d.retired.toNat)
    { d with
      state := phase, round, retrains := satAdd d.retrains 1, myMask := BitVec.ofNat 8 mask, chosen := none, crcFails := 0
      tokens := d.tokens ++ [widthToken 1 round.toNat mask 0] }) s

/-- The group that caused a retrain and is retired, if one is. -/
def retiredBy : D2dCause → Option (Fin 8)
  | .laneLock g => some g
  | .replays g => some g
  | _ => none

/-- Whether this end has sent its PROPOSE and not yet its CONFIRM. -/
def proposed (d : D2d) : Bool := (d.state = .train || d.state = .retrain) && d.chosen.isNone

/-- D2D_RETRAIN (R672): of a fenced quarter's link only while it returns to service. A group that goes bad between this end's
PROPOSE and its CONFIRM leaves the mask that the CONFIRM is computed from (R677). -/
def execD2dRetrain (q : Qtr) (cause : D2dCause) (s : State) : Host.Outcome State Fault Refusal :=
  let d := s.pkg.d2d.get q
  if d.state = .down then
    next (if cause = .service && inService s q then retrain q d.myMask.toNat .train s else s)
  else if cause = .service then next s
  else
    let s := updD2d q (fun d => { d with
      retired := match retiredBy cause with
        | some g => d.retired ||| (1 <<< g.val)
        | none => d.retired
      replays := match cause with
        | .replays _ => satAdd d.replays 65
        | _ => d.replays }) s
    next (if proposed d && (retiredBy cause).isSome then updD2d q (fun d => { d with myMask := d.myMask &&& ~~~d.retired }) s
      else retrain q d.myMask.toNat (if d.state = .train then .train else .retrain) s)

/-- Fences the quarter of a link; one that is returning to service stays fenced. -/
def fenceLink (q : Qtr) (reason : Nat) (s : State) : State :=
  if s.array.live.get q then fence q reason s else d2dDown q reason s

/-- A disagreement (R676 to R679): the entry, then a retrain with the mask both ends fall to, or a fence. -/
def disagree (q : Qtr) (token : B32) (mask : Nat) (s : State) : State :=
  let s := updD2d q (fun d => { d with disagree := d.disagree + 1, disagrees := satAdd d.disagrees 1 }) s
  let d := s.pkg.d2d.get q
  let s := noteAll 0x0060 stOk
    (place 224 216 3 ||| place 224 214 q.val ||| place 224 182 d.ownToken.toNat ||| place 224 150 token.toNat |||
      place 224 146 (groupWidth (popcount mask))) (fun _ => true) s
  if d.disagree = 3 then fenceLink q 3 s else retrain q mask (if d.state = .train then .train else .retrain) s

/-- A token that fails its CRC is sent again; the fourth failure is a disagreement (R677). -/
def badToken (q : Qtr) (token : B32) (s : State) : State :=
  let d := s.pkg.d2d.get q
  if d.crcFails < 3 then updD2d q (fun d => { d with crcFails := d.crcFails + 1 }) s
  else disagree q token d.myMask.toNat s

/-- Whether the width is being settled. -/
def settling (d : D2d) : Bool := d.state = .train || d.state = .retrain

/-- PROPOSE: the other end's mask settles what this end confirms. -/
def execPropose (q : Qtr) (token : B32) (s : State) : Host.Outcome State Fault Refusal :=
  let d := s.pkg.d2d.get q
  let t := token.toNat
  if !settling d || d.chosen.isSome then next s
  else if !tokenOk token then next (badToken q token s)
  else if field t 31 28 ≠ 1 || field t 27 24 ≠ d.round.toNat then next s
  else
    let usable := Nat.land d.myMask.toNat (field t 23 16)
    let w := groupWidth (popcount usable)
    if w = 0 then next (fenceLink q 4 s)
    else
      let set := lowest w usable
      let own := widthToken 2 d.round.toNat set w
      next (updD2d q (fun d => { d with
        chosen := some (BitVec.ofNat 8 set, w), usable := BitVec.ofNat 8 usable, ownToken := own, crcFails := 0
        tokens := d.tokens ++ [own] }) s)

/-- CONFIRM: the link is UP if both ends agree. Of the groups this end receives well it proposes from then on those that the
other end also did, so that no retrain increases the width (R673). -/
def execConfirm (q : Qtr) (token : B32) (s : State) : Host.Outcome State Fault Refusal :=
  let d := s.pkg.d2d.get q
  let t := token.toNat
  match d.chosen with
  | none => next s
  | some (set, w) =>
    if !settling d then next s
    else if !tokenOk token then next (badToken q token s)
    else if field t 31 28 ≠ 2 then next s
    else if field t 27 24 = d.round.toNat && field t 23 16 = set.toNat && field t 15 12 = w then
      next (updD2d q (fun d => { d with
        state := .up, width := w, groups := set, myMask := d.usable, disagree := 0, chosen := none, crcFails := 0 }) s)
    else
      let both := Nat.land set.toNat (field t 23 16)
      next (disagree q token (lowest (min w (field t 15 12)) both) s)

/-! ## The guest firewall (R695 to R704) -/

/-- The attributes of a guest master id, where the record assigns it (R695). -/
def guestId (s : State) (m : Byte) : Option Config.GuestAttr :=
  if 0x10 ≤ m.toNat && m.toNat ≤ 0x1F && s.isMG then
    let a := s.guestAttr (Fin.ofNat 16 (m.toNat - 0x10))
    if a.assigned then some a else none
  else none

/-- The master ids assigned to a site. -/
def siteIds (s : State) (g : Fin 2) : List Nat :=
  ((List.range 16).map (0x10 + ·)).filter fun m => (guestId s (BitVec.ofNat 8 m)).any fun a => a.site = g

/-- A response leaves on the guest port. -/
def answerGuest (g : Fin 2) (m : Byte) (status : B16) (data : List Byte) (s : State) : State :=
  updGuest g (fun x => { x with answers := x.answers ++ [(m, status, data)] }) s

/-- Fences a guest site (R700, R701): requests it still holds are refused, locks its ids hold break. -/
def fenceSite (g : Fin 2) (reason : Nat) (s : State) : State :=
  let x := s.guest g
  if x.state = .empty || x.state = .fenced then s
  else
    let s := updGuest g (fun x => { x with state := .fenced, fence := BitVec.ofNat 3 reason, held := [] }) s
    let s := x.held.foldl (fun s e => answerGuest g e.1 stNoAccess [] s) s
    let s := breakStitches ((siteIds s g).flatMap fun m => heldStitches s m none) s
    noteAll 0x0060 stNoAccess (place 224 216 7 ||| place 224 215 g.val ||| place 224 212 reason) (fun _ => true) s

/-- Whether a partition is bound to one of the ids of these violations. -/
def boundTo (s : State) (l : List Violation) (p : Part) : Bool :=
  l.any fun v => (guestId s v.master).any fun a => a.partition = p

/-- The entry of the violations since the last one, at most one a millisecond (R699). -/
def noteViolations (g : Fin 2) (t : Nat) (s : State) : State :=
  let x := s.guest g
  if x.lastEntry.any fun u => decide (t < u + 1000000) then s
  else match x.since with
    | [] => s
    | v :: _ =>
      let detail := place 224 216 6 ||| place 224 215 g.val ||| place 224 199 (min x.since.length 0xFFFF) |||
        place 224 195 v.kind.toNat ||| place 224 187 v.master.toNat ||| place 224 147 v.detail.toNat
      let s := four.foldl (fun s p =>
        if p = 0 || boundTo s x.since p then note p 0x0060 stNoAccess detail s else s) s
      updGuest g (fun x => { x with since := [], lastEntry := some t }) s

/-- A violation at time `t` in ns (R697, R699, R700). -/
def violate (g : Fin 2) (m : Byte) (kind detail t : Nat) (s : State) : State :=
  let v : Violation := { kind := BitVec.ofNat 4 kind, master := m, detail := BitVec.ofNat 40 detail }
  let s := updGuest g (fun x =>
    let log := x.log ++ [v]
    { x with
      viol := satAdd x.viol 1
      last := place 64 63 1 ||| place 64 59 kind ||| place 64 48 m.toNat ||| BitVec.ofNat 64 (detail % 2 ^ 40)
      log := log.drop (log.length - 64)
      violTimes := t :: x.violTimes.filter fun u => decide (t < u + 1000000)
      since := x.since ++ [v] }) s
  let s := noteViolations g t (answerGuest g m stNoAccess [] s)
  let limit := (Config.recViolLimit (s.signedRec 3) g).toNat
  if limit ≠ 0 && decide (limit ≤ (s.guest g).violTimes.length) then fenceSite g 1 s else s

/-- The stitch index and operation of a stitch request. -/
def reqStitch : GuestReq → Option (B16 × StOp)
  | .signal i _ => some (i, .signal)
  | .wait i _ => some (i, .wait)
  | .lock i => some (i, .lock)
  | .unlock i _ => some (i, .unlock)
  | .stitchRead i => some (i, .read)
  | _ => none

/-- The address, length and right of a memory request. -/
def reqMem : GuestReq → Option (Nat × Nat × Right)
  | .read a n => some (a.toNat, n, .r)
  | .write a d => some (a.toNat, d.length, .w)
  | .fxAdd a _ => some (a.toNat, 8, .a)
  | _ => none

/-- Whether a request has the size and alignment it needs (R697). -/
def reqFormed : GuestReq → Bool
  | .read a n => decide (64 ≤ n) && decide (n ≤ 4096) && a.toNat % n = 0
  | .write a d => decide (64 ≤ d.length) && decide (d.length ≤ 4096) && a.toNat % d.length = 0
  | .fxAdd a _ => a.toNat % 8 = 0
  | .malformed => false
  | _ => true

/-- The bytes a request moves. -/
def reqBytes (r : GuestReq) : Nat := ((reqMem r).map fun e => e.2.1).getD 0

/-- The kind and DETAIL of the violation that a request is, or the partition it acts for (R697). -/
def guestCheck (s : State) (g : Fin 2) (m : Byte) (r : GuestReq) : Except (Nat × Nat) Part :=
  match guestId s m with
  | none => .error (1, 0)
  | some a =>
    let p := a.partition
    if a.site ≠ g then .error (1, 0)
    else if !reqFormed r then .error (5, 0)
    else if (s.part p).host.pstate = .closed then .error (2, 0)
    else match reqStitch r, reqMem r with
      | some (i, op), _ => match stitchAt s p i.toNat with
        | none => .error (6, i.toNat)
        | some (k, _) => if aclGrants s (56 + k / 4096) m.toNat op.right then .ok p else .error (4, i.toNat)
      | none, some (addr, n, right) =>
        if reachesWindow addr n then .error (3, addr / sheetBytes)
        else match checkMem s p m.toNat right addr n with
          | .outside => .error (3, addr / sheetBytes)
          | .denied _ k => .error (4, k)
          | _ => .ok p
      | none, none => .error (5, 0)

/-- The denial of a guest's request by an access row counts for the partition it acts for (R480). -/
def noteRowDenial (m : Byte) (r : GuestReq) (s : State) : State :=
  match guestId s m with
  | none => s
  | some a =>
    let p := a.partition
    match reqStitch r, reqMem r with
    | some (i, op), _ => match stitchAt s p i.toNat with
      | some (k, _) => denied p (56 + k / 4096) m.toNat op.right k s
      | none => s
    | none, some (addr, n, right) => noteDenied p m.toNat right (checkMem s p m.toNat right addr n) s
    | none, none => s

/-- The firewall denies a request by its check of kind `kind` (R697). -/
def refuseGuest (g : Fin 2) (m : Byte) (r : GuestReq) (kind detail t : Nat) (s : State) : State :=
  violate g m kind detail t (if kind = 4 then noteRowDenial m r s else s)

/-- Whether `n` requests or bytes in a row are more than a rate allows: counted from each earlier one on, in a time `dt` ns,
`perUs` of them a microsecond and `extra` more may pass. 0 is no limit (R698). -/
def overRate (past : List (Nat × Nat)) (t size perUs extra : Nat) : Bool :=
  perUs ≠ 0 && past.any fun e =>
    let sum := ((past.filter fun x => decide (e.1 ≤ x.1)).map Prod.snd).sum
    decide ((sum + size) * 1000 > perUs * (t - e.1) + (extra + size) * 1000)

/-- Whether a request at time `t` would exceed its id's rates: requests a microsecond, and GB/s, with its burst (R695,
R698). -/
def rateHolds (s : State) (g : Fin 2) (m : Byte) (r : GuestReq) (t : Nat) : Bool :=
  match guestId s m with
  | none => false
  | some a =>
    let past := ((s.guest g).passed.filter fun e => e.1 = m).map fun e => e.2
    overRate (past.map fun e => (e.1, 1)) t 1 a.reqRate.toNat a.burst.toNat ||
      overRate past t (reqBytes r) (a.byteRate.toNat * 1000) (a.burst.toNat * 4096)

/-- What a stitch operation does for a guest: a lock or wait never waits, as a host's lock (R447). -/
def guestStitch (g : Fin 2) (m : Byte) (p : Part) (r : GuestReq) (i : B16) (op : StOp) (s : State) : State :=
  let reply (st : B16) (data : List Byte) (s : State) : State := answerGuest g m st data s
  let judge (x : Except StBad State) (s : State) : State := match x with
    | .ok t => reply stOk [] t
    | .error e => reply e.status [] s
  match reachStitch s p m.toNat op i.toNat with
  | .error t => reply stNoAccess [] (denyStitch p m.toNat op i.toNat t s)
  | .ok k => match r with
    | .signal _ v => reply stOk [] (signalStitch k v.toNat s)
    | .wait _ t =>
      let x := s.stitch k
      reply (if x.state = .broken then stStitchBroken else if t.toNat ≤ x.count.toNat then stOk else stBusy) [] s
    | .lock _ => judge (lockStitch k m.toNat 0 s) s
    | .unlock _ e => judge (unlockStitch k m.toNat 0 e s) s
    | _ => reply stOk (leBytes 8 (s.stitch k).word.toNat) s

/-- A request that passes the firewall takes effect. -/
def passGuest (g : Fin 2) (m : Byte) (p : Part) (r : GuestReq) (t : Nat) (s : State) : State :=
  let s := updGuest g (fun x => { x with bytes := satAdd x.bytes (reqBytes r), passed := x.passed ++ [(m, t, (reqBytes r))] }) s
  match reqStitch r, reqMem r with
  | some (i, op), _ => guestStitch g m p r i op s
  | none, some (addr, n, right) => match checkMem s p m.toNat right addr n with
    | .memError _ _ => answerGuest g m stInternal [] s
    | _ => match r with
      | .read _ _ => answerGuest g m stOk (readMem s p m.toNat addr n) (touchRead p addr n s)
      | .write _ d => answerGuest g m stOk [] (writeMem p addr d s)
      | .fxAdd _ v =>
        answerGuest g m stOk [] (writeNat p addr 8 ((readNat s p m.toNat addr 8 + v.toNat) % 2 ^ 64) s)
      | _ => s
  | none, none => s

/-- A guest's request carried out: it is held while a write of its waits (R374, R393). -/
def settleGuest (g : Fin 2) (m : Byte) (req : GuestReq) (p : Part) (s t : State) : State :=
  if heldBack s t then updGuest g (fun x => { x with held := x.held ++ [(m, req)] }) (stall p s t) else t

/-- GUEST_REQUEST (R697, R698, R701). Requests of an id pass in their order. A request at a port that is not UP is checked and
refused, which on CY9400-MA every request is (R4). -/
def execGuestRequest (site : Fin 2) (ident : Byte) (req : GuestReq) (t : Nat) (s : State) :
    Host.Outcome State Fault Refusal :=
  match (s.guest site).state with
  | .fenced => next (answerGuest site ident stNoAccess [] s)
  | .up => match guestCheck s site ident req with
    | .error (k, d) => next (refuseGuest site ident req k d t s)
    | .ok p =>
      if ((s.guest site).held.any fun e => e.1 = ident) || rateHolds s site ident req t then
        next (updGuest site (fun x => { x with rateWait := satAdd x.rateWait 1, held := x.held ++ [(ident, req)] }) s)
      else next (settleGuest site ident req p s (passGuest site ident p req t s))
  | _ => match guestCheck s site ident req with
    | .error (k, d) => next (refuseGuest site ident req k d t s)
    | .ok _ => next (answerGuest site ident stNoAccess [] s)

/-- The held requests that are next of their id: an id's requests pass in their order. -/
def heldHeads (l : List (Byte × GuestReq)) : List (Byte × GuestReq) :=
  l.foldl (fun hs e => if (hs.any fun x => x.1 = e.1) then hs else hs ++ [e]) []

/-- GUEST_RATE_RELEASE: the first held request whose rate allows it passes, if it still passes the checks. One whose write
has to wait stays held (R374, R393). -/
def execGuestRateRelease (site : Fin 2) (t : Nat) (s : State) : Host.Outcome State Fault Refusal :=
  match (heldHeads (s.guest site).held).find? fun e => !rateHolds s site e.1 e.2 t with
  | none => next s
  | some e =>
    let u := updGuest site (fun x => { x with held := x.held.erase e }) s
    match guestCheck u site e.1 e.2 with
    | .error (k, d) => next (refuseGuest site e.1 e.2 k d t u)
    | .ok p =>
      let v := passGuest site e.1 p e.2 t u
      next (if heldBack u v then stall p s v else v)

/-- GUEST_LINK_LOSS. -/
def execGuestLinkLoss (site : Fin 2) (s : State) : Host.Outcome State Fault Refusal := next (fenceSite site 2 s)

/-- GUEST_POWER_CHECK: more than 75 W over 10 ms (R718). -/
def execGuestPowerCheck (site : Fin 2) (meanMw : Nat) (s : State) : Host.Outcome State Fault Refusal :=
  next (if 75000 < meanMw then fenceSite site 3 s else s)

/-- GUEST_SITE_FAULT: the warden reports a fault in the site. -/
def execGuestSiteFault (site : Fin 2) (s : State) : Host.Outcome State Fault Refusal := next (fenceSite site 4 s)

end Sys2Proof.Machine
end

