-- ==== Sys2Proof/Machine/Power.lean ====
section
/-!
DEFINITION. Power and start-up (R706 to R736), signed objects and firmware update (R721 to R726, R737 to R741), keys (R746 to
R748), attestation and monitoring (R749 to R751), and the sideband inputs (R761 to R766).
-/
namespace Sys2Proof.Machine

/-- Changes the power and boot state. -/
def updPower (f : Power → Power) (s : State) : State := { s with power := f s.power }

/-! ## Crash record and power-down (R666, R712, R713, R720) -/

/-- A crash: its record replaces an earlier one. -/
def crash (cause core : Nat) (named : Option Nat) (s : State) : State :=
  let c := s.host.crash
  let r : Crash := {
    valid := true, cause := BitVec.ofNat 8 cause, core := BitVec.ofNat 8 core, count := satAdd c.count 1, time := s.timeNow
    firmware := BitVec.ofNat 64 (s.power.runVersion.toNat + bit s.power.runSlot * 2 ^ 32), named, draw := s.freeCtr }
  { s with host := { s.host with crash := r } }.tick

/-- What the overlay held is lost; the stripes keep what they were last programmed with. -/
def loseOverlay (s : State) : State :=
  { s with
    mem := clearRun s.mem (6 * 2 ^ 60) (2 ^ 60)
    flash := { s.flash with overlay := [], overlayWait := [], stalled := [], folding := none, refreshing := false, foldQ := [] } }

/-- A link is lost: each of its OPEN partitions becomes DETACHED (R608), and what its host port holds breaks, a lock granted
while DETACHED too (R452). -/
def detach (p : Part) (cause : Nat) (s : State) : State :=
  let s := note p 0x0070 stOk (place 224 216 cause) s
  breakStitches (heldStitches s p.val none)
    (s.updHost p fun h => { h with pstate := if h.pstate = .opened then .detached else h.pstate })

/-- Whether a link exists under the straps (R595). -/
def linkExists (s : State) (l : Fin 4) : Bool :=
  match s.host.split.toNat with
  | 1 => decide (l.val < 2)
  | 2 => true
  | _ => decide (l.val = 0)

/-- The functions on a link. -/
def linkParts (s : State) (l : Fin 4) : List Part := four.filter fun p => linkExists s l && linkOf s p = l

/-- The loss of a link (R608, R760). -/
def loseLink (l : Fin 4) (s : State) : State :=
  let s := { s with host := { s.host with links := s.host.links.set l {} } }
  (linkParts s l).foldl (fun s p => detach p 8 s) s

/-- The links that are up go down. -/
def loseLinks (s : State) : State :=
  four.foldl (fun s l => if (s.host.links.get l).speed ≠ 0 then loseLink l s else s) s

/-- Whether the main rails are on. -/
def mainOn (s : State) : Bool :=
  match s.power.stage with
  | .bringUp => true
  | .ready => true
  | .minimal => s.power.pwrEn
  | _ => false

/-- A power-down, with a crash record if it has a cause: the main rails are off until a new start (R712, R713). -/
def powerDown (cause : Option (Nat × Option Nat)) (s : State) : State :=
  if s.power.stage = .unpowered || s.power.stage = .poweredDown then s
  else
    let s := match cause with
      | some (c, named) => crash c 0 named s
      | none => s
    let s := loseLinks (loseOverlay s)
    updPower (fun w => { w with pwrGood := false, rails := 3, stage := .poweredDown, rearmed := false }) s

/-- HST_RESET with the power-down key: ignored but from function 0 (R663). -/
def powerDownKey (p : Part) (s : State) : State := if p = 0 then powerDown none s else s

/-- HST_RESET_POWER_DOWN: key 0x7A7A_0003. -/
def execHstResetPowerDown (p : Part) (s : State) : Host.Outcome State Fault Refusal := next (powerDownKey p s)

/-- SB_OFF_N (R765). -/
def execSbOffN (s : State) : Host.Outcome State Fault Refusal := next (powerDown none s)

/-- PWR_EN_DEASSERT (R713): a power-down where the main rails are on. THERMTRIP_N is released (R765). -/
def execPwrEnDeassert (s : State) : Host.Outcome State Fault Refusal :=
  let s := if mainOn s then powerDown none s else s
  next (updPower (fun w => { w with pwrEn := false, tripPin := false, rearmed := decide (w.stage = .poweredDown) }) s)

/-! ## Trips, rails and the input (R708, R711, R719) -/

/-- A thermal trip: THERMTRIP_N, and a power-down that names the sensor (R719). -/
def trip (sensor : Option Nat) (s : State) : State :=
  if s.power.stage = .unpowered then s
  else
    let s := updPower (fun w => { w with
      thermtrip := true, tripPin := true
      pldm := match sensor with
        | some n => w.pldm ++ [⟨if n < 8 then 7 else if n < 16 then 6 else 8, 1⟩]
        | none => w.pldm }) s
    powerDown (some (0x10, sensor)) s

/-- The trip temperature of a sensor, in 0.0625 °C. -/
def tripLimit (sensor : Fin 17) : Int := if sensor.val < 8 then 1760 else if sensor.val < 16 then 1600 else 1360

/-- THERMAL_TRIP. -/
def execThermalTrip (sensor : Fin 17) (reading : B16) (s : State) : Host.Outcome State Fault Refusal :=
  next (if tripLimit sensor ≤ reading.toInt then trip (some sensor.val) s else s)

/-- SB_TRIP_N. -/
def execSbTripN (s : State) : Host.Outcome State Fault Refusal := next (trip none s)

/-- SB_RESET_N (R614, R766). -/
def execSbResetN (s : State) : Host.Outcome State Fault Refusal :=
  next (if s.power.stage = .unpowered then s else deviceReset 6 s)

/-- The stop of a start (R732): the reason is recorded, the main rails go down, and a retry follows. -/
def failStart (reason : Nat) (s : State) : State :=
  let w := s.power
  let s := noteAll 0x0060 stOk
    (place 224 216 9 ||| place 224 208 reason ||| place 224 207 (bit w.runSlot) ||| place 224 206 (bit w.ranTrial))
    (fun _ => true) s
  updPower (fun w => { w with
    reasons := (BitVec.ofNat 8 reason :: w.reasons).take 3, reasonDone := true, pwrGood := false, rails := 3
    stage := .retryWait }) s

/-- Minimal mode (R733, R734): VBUS and VSPN beside housekeeping, once PWR_EN allows main rails. A member of a folio leaves
it (R571). -/
def enterMinimal (reason : Byte) (recovery : Bool) (s : State) : State :=
  let s := match s.folioPart with
    | some p => sendLeave p 2 s
    | none => s
  let s := updPower (fun w => { w with
    stage := .minimal, minReason := reason, pufLost := decide (reason = 3), recovery, rails := if w.pwrEn then 0xF else 3, pwrGood := w.pwrEn }) s
  noteAll 0x0060 stMinimal (place 224 216 10 ||| place 224 208 reason.toNat) (fun _ => true) s

/-- A start that fails for a reason which enters minimal mode at once. -/
def failAtOnce (reason : Nat) (recovery : Bool) (s : State) : State :=
  enterMinimal (BitVec.ofNat 8 reason) recovery (failStart reason s)

/-- Whether a start is under way. -/
def starting (s : State) : Bool := s.power.stage = .boot || s.power.stage = .waitPwr || s.power.stage = .bringUp

/-- A rail fault (R711): of a quarter, a site, the lasers, or any other main rail, for which the cause is the start's or a
crash's. -/
def faultRail (r : Nat) (s : State) : State :=
  let off (mask : Nat) (s : State) : State :=
    updPower (fun w => { w with rails := w.rails &&& ~~~(BitVec.ofNat 24 mask) }) s
  let s := updPower (fun w => { w with railFaults := w.railFaults ||| BitVec.ofNat 24 (2 ^ r) }) s
  if r < 2 then s
  else if 14 ≤ r && r < 22 then
    let q := (r - 14) % 4
    off (2 ^ (14 + q) + 2 ^ (18 + q)) (fence (Fin.ofNat 4 q) 7 s)
  else if 22 ≤ r then off (2 ^ r) (fenceSite (Fin.ofNat 2 (r - 22)) 3 s)
  else if r = 5 then eight.foldl (fun s v => failLaser v s) (off (2 ^ r) s)
  else if starting s then failStart 4 s
  else powerDown (some (0x13, some r)) s

/-- RAIL_FAULT: of a rail that is on. -/
def execRailFault (rail : Fin 24) (s : State) : Host.Outcome State Fault Refusal :=
  next (if mainOn s && s.power.rails.getLsbD rail.val then faultRail rail.val s else s)

/-- Whether a voltage is in the lower band, or in the upper one. -/
def underBand (mv : Nat) : Bool := decide (44000 ≤ mv) && decide (mv < 46000)
def overBand (mv : Nat) : Bool := decide (57000 < mv) && decide (mv ≤ 60000)

/-- The input voltage, with the flags of its bands: each is set in its band, and stays set beyond it, until the input returns
to 46.0 to 57.0 V (R708). -/
def setInput (mv : B16) (s : State) : State :=
  updPower (fun w => { w with
    vinMv := mv
    undervolt := underBand mv.toNat || (w.undervolt && decide (mv.toNat < 44000))
    overvolt := overBand mv.toNat || (w.overvolt && decide (60000 < mv.toNat)) }) s

/-- INPUT_VOLTAGE_FAULT: outside 44.0 to 60.0 V for 1 ms. -/
def execInputVoltageFault (mv : B16) (s : State) : Host.Outcome State Fault Refusal :=
  if decide (44000 ≤ mv.toNat) && decide (mv.toNat ≤ 60000) then next s
  else
    let s := setInput mv s
    next (if mainOn s then powerDown (some (0x12, none)) s else s)

/-- INPUT_VOLTAGE_BAND: the flags of the bands; entering one is journalled and raises the alert. -/
def execInputVoltageBand (mv : B16) (s : State) : Host.Outcome State Fault Refusal :=
  let v := mv.toNat
  let old := s.power.vinMv.toNat
  let enters := (underBand v && !underBand old) || (overBand v && !overBand old)
  let s := setInput mv s
  next (if enters then
      raiseAlert (noteAll 0x0060 stOk (place 224 216 11 ||| place 224 200 v ||| place 224 199 (bit (overBand v)))
        (fun _ => true) s)
    else s)

/-! ## The power limit (R714 to R717) -/

/-- A new power-limit clock, with its entry if it differs. -/
def setPowerClock (mhz : Nat) (mean : Nat) (s : State) : State :=
  if mhz = s.power.clockMhz then s
  else
    let s := { s with
      power := { s.power with clockMhz := mhz }
      pkg := { s.pkg with clockMhz := min s.pkg.chosenMhz mhz } }
    noteAll 0x0060 stOk
      (place 224 216 5 ||| place 224 200 mean ||| place 224 188 s.power.limit.toNat ||| place 224 176 mhz) (fun _ => true) s

/-- POWER_SAMPLE: a measurement above 110 % of PWR_LIMIT sets the power-limit clock to 400 MHz. -/
def execPowerSample (watts : B16) (s : State) : Host.Outcome State Fault Refusal :=
  next (if s.power.limit.toNat * 110 < watts.toNat * 100 then
      setPowerClock 400 s.power.pinW.toNat s
    else s)

/-- POWER_WINDOW: the mean of a 1 ms window. -/
def execPowerWindow (mean : B16) (s : State) : Host.Outcome State Fault Refusal :=
  let m := mean.toNat
  let c := s.power.clockMhz
  let limit := s.power.limit.toNat
  let low := decide (m * 100 < limit * 95)
  let high := decide (limit < m)
  let wins := if low then min 10 (s.power.lowWins + 1) else 0
  let hot := if high && c = 400 then s.power.overWins + 1 else 0
  let rise := low && wins = 10
  -- a rise begins the count anew; at 1,400 MHz there is none
  let s := updPower (fun w => { w with
    pinW := mean, peakW := if w.peakW.toNat < m then BitVec.ofNat 32 m else w.peakW
    lowWins := if rise && decide (c < 1400) then 0 else wins, overWins := hot }) s
  let s := setPowerClock (if high then max 400 (c - 100) else if rise then min 1400 (c + 100) else c) m s
  let s := if s.power.clockMhz < 1400 then updPower (fun w => { w with limitedMs := satAdd w.limitedMs 1 }) s else s
  next (if hot = 10 then powerDown (some (0x11, none)) s else s)

/-! ## Signed objects (R721 to R726) -/

/-- Bytes of the header of a signed object. -/
abbrev headBytes : Nat := 4096

/-- A little-endian field of a header. -/
def headField (l : List Byte) (at' n : Nat) : Nat := leNat ((l.drop at').take n)

/-- Whether SIGNER of a header is allowed for its KIND (R724). -/
def signerOk (s : State) (kind : Nat) (l : List Byte) : Bool :=
  let signer := (l.drop 56).take 384
  let certified := pssVerify 384 Config.rootModulus 65537 (sha256 signer) ((l.drop 440).take 384)
  let owner := beNat signer = Config.recOwner (s.signedRec 4)
  match kind with
  | 4 => certified || owner
  | 5 => owner
  | 6 => owner
  | _ => certified

/-- Whether SERIAL of a header is what its KIND needs (R724). -/
def serialOk (s : State) (kind : Nat) (l : List Byte) : Bool :=
  let v := headField l 16 8
  match kind with
  | 1 => v = 0
  | 5 => v = 0 || v = s.serial.toNat
  | 6 => v = 0 || v = s.serial.toNat
  | _ => v = s.serial.toNat

/-- Whether a signed object of a KIND verifies (R724). -/
def verifies (s : State) (kind : Nat) (l : List Byte) : Bool :=
  let body := (l.drop headBytes).take (headField l 12 4)
  headField l 0 4 = kind && body.length = headField l 12 4 && serialOk s kind l &&
    decide ((Map.getD s.power.counters kind 0).toNat ≤ headField l 8 2) &&
    sha256 body == (l.drop 24).take 32 &&
    pssVerify 384 (beNat ((l.drop 56).take 384)) 65537 (sha256 (l.take 440)) ((l.drop 824).take 384) && signerOk s kind l

/-- The anti-rollback counter of a KIND rises to an SVN (R725, R726). -/
def raiseCounter (kind svn : Nat) (s : State) : State :=
  updPower (fun w => { w with
    counters := Map.insert w.counters kind (BitVec.ofNat 16 (max svn (Map.getD w.counters kind 0).toNat)) }) s

/-- A firmware slot; `b` says slot B. -/
def State.fwSlot (s : State) (b : Bool) : FwSlot := if b then s.power.slotB else s.power.slotA

/-- Changes a firmware slot. -/
def updSlotFw (b : Bool) (f : FwSlot → FwSlot) (s : State) : State :=
  updPower (fun w => if b then { w with slotB := f w.slotB } else { w with slotA := f w.slotA }) s

/-- The first `n` bytes of a slot. -/
def slotBytes (s : State) (b : Bool) (n : Nat) : List Byte :=
  (List.range n).map fun i => Map.getD (s.fwSlot b).bytes i (Config.factoryImage b i)

/-- Header and body of the image in a slot: a body is at most 16,773,120 bytes. -/
def slotImage (s : State) (b : Bool) : List Byte :=
  let n := headField (slotBytes s b headBytes) 12 4
  if n ≤ 16773120 then slotBytes s b (headBytes + n) else []

/-- Whether the image in a slot verifies, the empty mark apart. -/
def imageOk (s : State) (b : Bool) : Bool := verifies s 1 (slotImage s b)

/-- Whether a slot verifies. -/
def slotOk (s : State) (b : Bool) : Bool := !(s.fwSlot b).empty && imageOk s b

/-! ## Start-up (R727 to R732) -/

/-- The firmware of a slot runs (R730). -/
def runFrom (b trial : Bool) (s : State) : State :=
  let l := slotBytes s b headBytes
  updPower (fun w => { w with
    runSlot := b, ranTrial := trial, runSvn := BitVec.ofNat 16 (headField l 8 2)
    runVersion := BitVec.ofNat 32 (headField l 4 4) }) s

/-- Stage 2: the records verify, and the start waits for PWR_EN (R727, R733). -/
def stage2 (s : State) : State :=
  if verifies s 2 (s.signedRec 2) && verifies s 3 (s.signedRec 3) then updPower (fun w => { w with stage := .waitPwr }) s
  else failAtOnce 2 false s

/-- The slot that the boot ROM takes: the one asked for, else the other; none where neither verifies. -/
def pickSlot (s : State) (b : Bool) : Option Bool := if slotOk s b then some b else if slotOk s (!b) then some (!b) else none

/-- Stage 1 (R730). -/
def stage1 (s : State) : State :=
  let w := s.power
  if 3 ≤ w.failCount.toNat then
    let s := match pickSlot s w.active with
      | some b => runFrom b false s
      | none => s
    enterMinimal (w.reasons.headD 0) (pickSlot s w.active).isNone s
  else
    let want := w.trial.getD w.active
    let s := updPower (fun w => { w with
      failCount := w.failCount + 1, trial := none, reasonDone := false
      reasons := if w.reasonDone then w.reasons else (9 :: w.reasons).take 3 }) s
    match pickSlot s want with
    | none => failAtOnce 1 true s
    | some b => stage2 (runFrom b (w.trial = some b) s)

/-- BOOT_STAGE1: without the PUF key, minimal mode at once; so too after a DEV_RESET that returns to it (R736). -/
def execBootStage1 (pufOk : Bool) (s : State) : Host.Outcome State Fault Refusal :=
  next (if s.power.stage ≠ .boot then s else if pufOk && !s.power.pufLost then stage1 s else failAtOnce 3 true s)

/-- Entries for regions whose stripes lost overlay entries when power failed: such stripes are stale. -/
def noteStaleStripes (s : State) : State :=
  let s := { s with flash := { s.flash with
    stripes := Map.mapVal s.flash.stripes fun _ x => if x.pending then { x with stale := true } else x } }
  (List.range 16).foldl (fun s r =>
    let n := (staleStripes s r).length
    if n = 0 then s
    else note (s.region r).owner 0x0030 stOk (place 224 216 4 ||| place 224 140 r ||| place 224 108 n) s) s

/-- A guest site trains once, if its site is populated (R696, R728). -/
def trainSite (report : StartReport) (s : State) (g : Fin 2) : State :=
  if !s.isMG || !Config.recSite (s.signedRec 3) g then s
  else
    let s := updGuest g (fun x => { x with state := .up }) s
    if report.guests.getLsbD g.val then s else fenceSite g 2 s

/-- The rails that are on once every step of R709 is done: those of populated sites among them. -/
def railsUp (s : State) : BitVec 24 :=
  let site (g : Fin 2) : Nat := bit (s.isMG && Config.recSite (s.signedRec 3) g) * 2 ^ (22 + g.val)
  BitVec.ofNat 24 (0x3F_FFFF + site 0 + site 1)

/-- Stage 3 (R709, R727, R728). -/
def stage3 (report : StartReport) (s : State) : State :=
  let s := updPower (fun w => { w with stage := .bringUp, rails := railsUp s }) s
  let s := match report.badRail with
    | some r => faultRail r.val s
    | none => s
  if s.power.stage ≠ .bringUp then s
  else if !report.hbmOk then failStart 5 s
  else if !report.bulkOk then failStart 6 s
  else if !report.flashOk then failStart 7 s
  else
    let s := four.foldl (fun s q => if report.quarters.getLsbD q.val then s else fence q 6 s) s
    if !anyLive s then failStart 8 s
    else
      let s := noteStaleStripes ([0, 1].foldl (trainSite report) s)
      updPower (fun w => { w with pwrGood := true }) s

/-- PWR_EN_ASSERT: what it brings depends on the stage: stage 3, the rails of minimal mode, or, after a power-down and at
least 100 ms low, a new start (R709, R713). Asserted while already so, it stands for stage 3 of a start that found PWR_EN
asserted. -/
def execPwrEnAssert (lowMs : Nat) (report : StartReport) (s : State) : Host.Outcome State Fault Refusal :=
  let s := updPower (fun w => { w with pwrEn := true }) s
  match s.power.stage with
  | .waitPwr => next (stage3 report s)
  | .minimal => next (updPower (fun w => { w with rails := 0xF, pwrGood := true }) s)
  | .poweredDown =>
    next (if s.power.rearmed && decide (100 ≤ lowMs) then deviceReset 4 (updPower (fun w => { w with stage := .boot }) s) else s)
  | _ => next s

/-- START_READY (R726, R731). -/
def execStartReady (s : State) : Host.Outcome State Fault Refusal :=
  if s.power.stage ≠ .bringUp then next s
  else next (raiseCounter 1 s.power.runSvn.toNat
    (updPower (fun w => { w with stage := .ready, active := w.runSlot, failCount := 0, reasonDone := true }) s))

/-- START_FAILURE (R732, R733): reasons 1 to 3 enter minimal mode at once. -/
def execStartFailure (reason : Byte) (s : State) : Host.Outcome State Fault Refusal :=
  let r := reason.toNat
  if !starting s || r = 0 || decide (11 < r) then next s
  else next (if r ≤ 3 then failAtOnce r (r ≠ 2) s else failStart r s)

/-- START_TIMEOUT: 60 s from PWR_EN without READY. -/
def execStartTimeout (s : State) : Host.Outcome State Fault Refusal :=
  next (if s.power.stage = .bringUp then failStart 10 s else s)

/-- START_RETRY: stage 1 again. It is no device reset: the journals stay (R614, R732). -/
def execStartRetry (s : State) : Host.Outcome State Fault Refusal :=
  next (if s.power.stage = .retryWait then { deviceReset 4 s with parts := s.parts, host := s.host } else s)

/-- HOUSEKEEPING_POWER_UP: the straps are sampled and a start begins (R595, R707, R762). -/
def execHousekeepingPowerUp (pcieSplit i3cAddr : BitVec 2) (s : State) : Host.Outcome State Fault Refusal :=
  if s.power.stage ≠ .unpowered then next s
  else
    let s := deviceReset 4 s
    next (updPower (fun w => { w with stage := .boot, i3cAddr }) { s with host := { s.host with split := pcieSplit } })

/-- POWER_LOSS: nothing but flash, the boot flash and what lies outside the module is left (R380, R613). -/
def execPowerLoss (s : State) : Host.Outcome State Fault Refusal :=
  let s := deviceReset 4 (loseOverlay s)
  next { s with
    host := { s.host with crash := {} }
    power := { s.power with
      stage := .unpowered, pwrEn := false, thermtrip := false, tripPin := false, overvolt := false, undervolt := false
      vinMv := 0, rails := 0, rearmed := false } }

/-- WARDEN_WATCHDOG: a warden core has stopped serving (R720, R733). -/
def execWardenWatchdog (core : Fin 4) (s : State) : Host.Outcome State Fault Refusal :=
  if s.power.stage = .unpowered then next s
  else
    let s := crash 2 core.val none s
    next (if starting s then failStart 11 s else s)

/-- WARDEN_FAULT: an exception of a warden core (R720). -/
def execWardenFault (core : Fin 4) (s : State) : Host.Outcome State Fault Refusal :=
  next (if s.power.stage = .unpowered then s else crash 1 core.val none s)

/-! ## Firmware update (R737 to R741) -/

/-- Bytes of a firmware slot. -/
abbrev slotSize : Nat := 16777216

/-- The first staging since a device reset or FW_ACTIVATE marks the slot that is not ACTIVE empty. -/
def beginStage (path : StagePath) (s : State) : State :=
  let b := !s.power.active
  let s := if s.power.staged then s else updSlotFw b (fun x => { x with empty := true }) s
  updPower (fun w => { w with staging := path, staged := true }) s

/-- Bytes go into the slot that is not ACTIVE. -/
def writeSlot (offset : Nat) (data : List Byte) (s : State) : State :=
  updSlotFw (!s.power.active) (fun x => { x with
    bytes := (data.zipIdx offset).foldl (fun m e => Map.insert m e.2 e.1) x.bytes }) s

/-- FW_STAGE. -/
def execFwStage (h : CmdHdr) (offset length : B32) (addr : B64) (data : List Byte) (s : State) :
    Host.Outcome State Fault Refusal :=
  let act (s : State) : CmdOut × State :=
    if decide (slotSize < offset.toNat + length.toNat) then (.done stBadParam, s)
    else if s.power.staging = .pldm then (.done stBusy, s)
    else (.started (.stage offset.toNat (data.take length.toNat)), beginStage .command s)
  next (hostCmd { opcode := 0x0702, long := true, minimal := true, issuer := .p0 } (.fwStage h offset length addr data) h
    (leBytes 4 offset.toNat ++ leBytes 4 length.toNat ++ leBytes 8 addr.toNat) false act s)

/-- The end of FW_ACTIVATE (R736, R738): a slot that verifies is the next start's trial. -/
def endActivate (s : State) : B16 × State :=
  let b := if s.power.staged then !s.power.active else s.power.active
  let ok := if s.power.staged then imageOk s b else slotOk s b
  let s := updPower (fun w => { w with staging := .idle, staged := false }) (updSlotFw b (fun x => { x with empty := !ok }) s)
  if ok then (stOk, updPower (fun w => { w with trial := some b, failCount := 0, reasonDone := true, pufLost := false }) s) else (stDigest, s)

/-- FW_ACTIVATE. -/
def execFwActivate (h : CmdHdr) (s : State) : Host.Outcome State Fault Refusal :=
  next (hostCmd { opcode := 0x0703, long := true, minimal := true, issuer := .p0 } (.fwActivate h) h [] false
    (fun s => (.started .activate, s)) s)

/-- The end of CONFIG_RECORD (R726, R736). Manufacturing and population records are in force from the next device reset. -/
def endRecord (data : List Byte) (s : State) : B16 × State :=
  let k := headField data 0 4
  let l := data.take (headBytes + headField data 12 4)
  if 2 ≤ k && k ≤ 5 && verifies s k data then
    let s := raiseCounter k (headField data 8 2) s
    (stOk, updPower (fun w =>
      let w := { w with failCount := 0, reasonDone := true, pufLost := false }
      if k ≤ 3 then { w with newRecords := Map.insert w.newRecords k l } else { w with records := Map.insert w.records k l }) s)
  else (stDigest, s)

/-- CONFIG_RECORD. -/
def execConfigRecord (h : CmdHdr) (addr : B64) (length : B32) (data : List Byte) (s : State) :
    Host.Outcome State Fault Refusal :=
  next (hostCmd { opcode := 0x0704, long := true, minimal := true, issuer := .p0 } (.configRecord h addr length data) h
    (leBytes 8 addr.toNat ++ leBytes 4 length.toNat) false
    (fun s => (.started (.record (data.take length.toNat)), s)) s)

/-- A PLDM completion code on the management bus. -/
def respond (l : List Byte) (s : State) : State := updPower (fun w => { w with responses := w.responses ++ [l] }) s

/-- Whether the warden firmware serves the management bus (R727, R749). -/
def busServed (s : State) : Bool :=
  match s.power.stage with
  | .waitPwr => true
  | .bringUp => true
  | .ready => true
  | .poweredDown => true
  | .minimal => !s.power.recovery
  | _ => false

/-- REQUEST_UPDATE (R740): ALREADY_IN_UPDATE_MODE during staging. -/
def execRequestUpdate (s : State) : Host.Outcome State Fault Refusal :=
  if !busServed s then next s
  else if s.power.staging ≠ .idle then next (respond [0x81] s)
  else next (respond [0] (updPower (fun w => { w with staging := .pldm }) s))

/-- REQUEST_FIRMWARE_DATA (R739): the data arrives and is written as by FW_STAGE. -/
def execRequestFirmwareData (offset : B32) (data : List Byte) (s : State) : Host.Outcome State Fault Refusal :=
  if !busServed s || s.power.staging ≠ .pldm || decide (slotSize < offset.toNat + data.length) then next s
  else next (writeSlot offset.toNat data (beginStage .pldm s))

/-- ACTIVATE_FIRMWARE (R739): as FW_ACTIVATE, once an update has begun. -/
def execActivateFirmware (s : State) : Host.Outcome State Fault Refusal :=
  if !busServed s then next s
  else if s.power.staging ≠ .pldm then next (respond [0x80] s)
  else
    let (st, s) := endActivate s
    next (respond [if st = stOk then 0 else 1] s)

/-! ## Keys (R746 to R748) -/

/-- KEY_INSTALL after its encodings. -/
def actKeyInstall (kind ident : Nat) (blob : List Byte) (s : State) : CmdOut × State :=
  let body := blob.drop headBytes
  if !verifies s 6 blob || headField blob 12 4 ≠ 64 then (.done stDigest, s)
  else if (body.headD 0).toNat ≠ kind || (body.getD 1 0).toNat ≠ ident || headField body 4 4 ≠ s.vesin.folioId.toNat then
    (.done stBadParam, s)
  else
    let key : B256 := BitVec.ofNat 256 (headField body 8 32)
    let s := raiseCounter 6 (headField blob 8 2) s
    if kind = 2 then (cmdOk, updPower (fun w => { w with assayKey := some key }) s)
    else
      let k : Option (Byte × B256) := some (BitVec.ofNat 8 ident, key)
      (cmdOk, updVesin (fun x => if x.curKey.isNone then { x with curKey := k } else { x with nextKey := k }) s)

/-- KEY_INSTALL. -/
def execKeyInstall (h : CmdHdr) (kind ident : Byte) (addr : B64) (length : B32) (blob : List Byte) (s : State) :
    Host.Outcome State Fault Refusal :=
  next (hostCmd { opcode := 0x0700, issuer := .folio } (.keyInstall h kind ident addr length blob) h []
    (decide (kind.toNat < 1) || decide (2 < kind.toNat)) (actKeyInstall kind.toNat ident.toNat (blob.take length.toNat)) s)

/-! ## Attestation and monitoring (R749 to R751) -/

/-- A measurement block (R750). -/
def measurement (s : State) (i : Nat) : List Byte :=
  let w := s.power
  match i with
  | 1 => digestBytes Config.bootRomDigest
  | 2 => if w.recovery then List.replicate 32 0 else sha256 ((slotBytes s w.runSlot headBytes).take 440)
  | 3 => sha256 (s.signedRec 2)
  | 4 => sha256 (s.signedRec 3)
  | 5 => sha256 (s.signedRec 4)
  | 6 => match Map.find? w.records 5 with
    | some r => sha256 r
    | none => List.replicate 32 0
  | 7 => (List.range 6).flatMap fun k => leBytes 2 (Map.getD w.counters (k + 1) 0).toNat
  | 8 => [BitVec.ofNat 8 (bit w.runSlot), w.failCount.setWidth 8, BitVec.ofNat 8 (bit s.minimal), w.minReason]
  | _ => []

/-- 32 random bytes. -/
def random32 (c : Nat) : List Byte := (List.range 32).map (Config.randomBytes c)

/-- Data, a nonce of the module, and a signature by the identity key over the request's nonce and both (R721, R749). -/
def signedData (nonce : B256) (data : List Byte) (s : State) : List Byte × State :=
  let mine := random32 s.freeCtr
  let text := digestBytes nonce ++ data ++ mine
  (data ++ mine ++ pssSign 384 Config.identityModulus Config.identityExponent (sha256 text) (random32 (s.freeCtr + 1)),
    s.tick.tick)

/-- A signed response. -/
def respondSigned (nonce : B256) (data : List Byte) (s : State) : State :=
  let (l, s) := signedData nonce data s
  respond l s

/-- GET_MEASUREMENTS: one block, or all for index 0xFF; each is its index and its bytes. -/
def execGetMeasurements (index : Byte) (nonce : B256) (s : State) : Host.Outcome State Fault Refusal :=
  let blk (i : Nat) : List Byte := BitVec.ofNat 8 i :: measurement s i
  let i := index.toNat
  if !busServed s then next s
  else if i = 0xFF then next (respondSigned nonce ((List.range 8).flatMap fun k => blk (k + 1)) s)
  else if 1 ≤ i && i ≤ 8 then next (respondSigned nonce (blk i) s)
  else next (respond [0x7F] s)

/-- CHALLENGE: the digest of the chain, of slot 0 alone. -/
def execChallenge (slot : Byte) (nonce : B256) (s : State) : Host.Outcome State Fault Refusal :=
  if !busServed s then next s
  else if slot = 0 then next (respondSigned nonce (sha256 Config.certChain) s)
  else next (respond [0x7F] s)

/-- GET_CERTIFICATE: a part of the chain, and how many bytes remain. -/
def execGetCertificate (slot : Byte) (offset length : B16) (s : State) : Host.Outcome State Fault Refusal :=
  if !busServed s then next s
  else if slot ≠ 0 then next (respond [0x7F] s)
  else
    let tail := Config.certChain.drop offset.toNat
    let part := tail.take length.toNat
    next (respond (leBytes 2 part.length ++ leBytes 2 (tail.length - part.length) ++ part) s)

/-- The sensors' values, in the order 0 input power, 1 input voltage, 2 to 5 stakes, 6 HBM, 7 spine, 8 optics, 9 array clock. -/
def pldmValues (r : SensorReadings) (stakes : Quad B16) (clock : Nat) : List Nat :=
  [r.pinW.toNat, r.vinMv.toNat] ++ stakes.toList.map BitVec.toNat ++ [r.hbm.toNat, r.spine.toNat, r.optics.toNat, clock]

/-- Whether a sensor's value lies beyond the warden's limit for it. -/
def beyond (limit : Nat) (e : Nat × Nat) : Bool :=
  let t := (BitVec.ofNat 16 e.1).toInt
  match e.2 with
  | 0 => decide (limit < e.1)
  | 1 => decide (e.1 < 46000) || decide (57000 < e.1)
  | 6 => decide (1600 ≤ t)
  | 8 => decide (1360 ≤ t)
  | 9 => false
  | _ => decide (1760 ≤ t)

/-- PLDM_SENSOR_UPDATE: each sensor takes its value; one that has crossed a limit raises an event. -/
def execPldmSensorUpdate (readings : SensorReadings) (s : State) : Host.Outcome State Fault Refusal :=
  if !busServed s then next s
  else
    let w := s.power
    let stakes := s.pkg.stakes.mapIdx fun _ x => x.temp
    let old := (pldmValues w.sensors w.stakeTemps w.arrayClock).zipIdx
    let new := (pldmValues readings stakes s.pkg.clockMhz).zipIdx
    let crossed := (old.zip new).filter fun e => beyond w.limit.toNat e.1 != beyond w.limit.toNat e.2
    next (updPower (fun w => { w with
      sensors := readings, stakeTemps := stakes, arrayClock := s.pkg.clockMhz
      pldm := w.pldm ++ crossed.map fun e => ⟨e.2.2, e.2.1⟩ }) s)

end Sys2Proof.Machine
end

