-- ==== Sys2Proof/Machine/HostIf.lean ====
section
/-!
DEFINITION. The host interface from outside: the end of long commands (R630), command packets and their seals (R622 to R631),
BAR0 and BAR2 (R599 to R604, R664 to R666), configuration requests (R661) and the PCIe links (R594, R595, R608).
-/
namespace Sys2Proof.Machine

/-! ## LONG_COMMAND_DONE (R630) -/

/-- What a long command that a hardware error stopped leaves: INTERNAL (R638). -/
def breakLong (p : Part) (w : LongWork) (s : State) : State :=
  match w with
  | .destroy h => updObj p h (fun o => { o with dying := false }) s
  | .policy h _ _ => updObj p h (fun o => { o with changing := false }) s
  | .format region .. => updFlash (fun f => { f with formatting := f.formatting.erase region }) s
  | .pack .. => releaseWork w s
  | .unpack .. => releaseWork w s
  | .fill dest ident source => s.updRes p fun r => { r with
      fills := r.fills.filter fun x => !(x.dest = dest && x.ident = ident && x.source = source) }
  | .rollback _ => s.updRes p fun r => { r with rollback := none }
  | _ => s

/-- The end of a long command: status, RESULT and state; none while something it needs is still to come. -/
def workDone (p : Part) (w : LongWork) (s : State) : Option (B16 × B128 × State) :=
  match w with
  | .report st r => some (st, r, s)
  | .service q => (endService q true s).map fun e => (e.1, 0, e.2)
  | .destroy h => endDestroy p h s
  | .policy _ _ _ => none
  | .format region mode .. => some (stOk, 0, endFormat region mode s)
  | .dmaOut dev host bytes => some (endDmaOut p dev host bytes s)
  | .dmaIn dev data => some (endDmaIn p dev data s)
  | .restore set slot hs _ => some (endRestore p set slot hs s)
  | .fill dest ident source => endFill p dest ident source s
  | .rollback _ => none
  | .keySwitch => (endKeySwitch s).map fun s => (stOk, 0, s)
  | .aclSet first last master row =>
    if requestsWait s first last master then none else some (stOk, 0, endAclSet first last master row s)
  | .stage offset data => some (stOk, 0, writeSlot offset data s)
  | .activate => let e := endActivate s; some (e.1, 0, e.2)
  | .record data => let e := endRecord data s; some (e.1, 0, e.2)
  | .pack src dst mask stitch => some (endPack p src dst mask stitch s)
  | .unpack src dst stitch slots => some (endUnpack p src dst stitch slots s)

/-- LONG_COMMAND_DONE for a command in the table. -/
def longDone (p : Part) (i : Nat) (w : LongWork) (ok : Bool) (s : State) : State :=
  let finish (e : B16 × B128 × State) : State := finishLong p i e.1 e.2.1 e.2.2
  match w, ok with
  | .service q, false => match endService q false s with
    | some e => finish (e.1, 0, e.2)
    | none => s
  | .report st r, false => finish (st, r, s)
  | w, false => finish (stInternal, 0, breakLong p w s)
  | .policy h bits begun, true => match endPolicy p h bits begun s with
    | .inl none => s
    | .inl (some e) => finish e
    | .inr t => t.updHost p fun x => { x with
        longs := Map.adjust x.longs i fun c => { c with work := .policy h bits true } }
  | w, true => match workDone p w s with
    | none => s
    | some e => finish e

/-- LONG_COMMAND_DONE: a place that holds no command changes nothing. -/
def execLongCommandDone (p : Part) (i : Fin 16) (ok : Bool) (s : State) : Host.Outcome State Fault Refusal :=
  match Map.find? (s.part p).host.longs i.val with
  | none => next s
  | some c => next (settle p s (longDone p i.val c.work ok s))

/-! ## Command packets (R622 to R624, R640 to R649) -/

/-- A packet taken apart: header number, parameter string. -/
structure Packet where
  fn    : Part
  head  : Nat
  bytes : List Byte

/-- The packet's parts: the string is bytes 0 to 19 and those from 32 on, short of the seal (R623). -/
def Packet.of (fn : Part) (pk : List Byte) : Packet :=
  { fn, head := leNat (pk.take 32), bytes := pk.take 20 ++ (pk.drop 32).take (pk.length - 40) }

/-- OPCODE. -/
def Packet.op (k : Packet) : Nat := field k.head 247 232

/-- A field of the parameter string: `n` bytes at an offset. -/
def Packet.f (k : Packet) (at' n : Nat) : Nat := leNat ((k.bytes.drop at').take n)

/-- The same as a bit vector. -/
def Packet.v (k : Packet) (w at' : Nat) : BitVec w := BitVec.ofNat w (k.f at' (w / 8))

/-- The header, for a string of `len` bytes of which `rsvd` (offset, bytes) are reserved. -/
def Packet.hdr (k : Packet) (len : Nat) (rsvd : List (Nat × Nat)) : CmdHdr :=
  { fn := k.fn
    partition := BitVec.ofNat 8 (field k.head 215 208)
    tag := BitVec.ofNat 16 (field k.head 231 216)
    seq := BitVec.ofNat 32 (field k.head 207 176)
    flags := BitVec.ofNat 16 (field k.head 175 160)
    rsvd := decide (k.bytes.length < len) || (k.bytes.drop len).any (· ≠ 0) || rsvd.any fun e => k.f e.1 e.2 ≠ 0 }

/-- Device, partition and object commands (R640, R641). -/
def parse12 (k : Packet) (data : List Byte) : Option Instr :=
  match k.op with
  | 0x0100 => some (.devInfo (k.hdr 0 []))
  | 0x0101 => some (.partOpen (k.hdr 10 []) (k.v 64 0) (k.v 8 8) (k.v 8 9))
  | 0x0102 => some (.partClose (k.hdr 0 []))
  | 0x0103 => some (.partReset (k.hdr 0 []))
  | 0x0104 => some (.devReset (k.hdr 0 []))
  | 0x0105 => some (.setQuota (k.hdr 16 [(1, 3)]) (k.v 8 0) (k.v 32 4) (k.v 32 8) (k.v 8 12) (k.v 8 13) (k.v 8 14) (k.v 8 15))
  | 0x0106 => some (.timeshare (k.hdr 20 [(2, 2)]) (k.v 8 0) (k.v 8 1) (k.v 32 4) (k.v 32 8) (k.v 32 12) (k.v 32 16))
  | 0x0107 => some (.quarterService (k.hdr 1 []) (k.v 8 0))
  | 0x0108 => some (.timerFeature (k.hdr 16 [(3, 1)]) (k.v 8 0) (k.v 8 1) (k.v 8 2) (k.v 32 4) (k.v 64 8))
  | 0x0200 => some (.objCreate (k.hdr 64 [(25, 7)]) (k.v 64 0) (k.v 128 8) (k.v 8 24) (k.v 256 32))
  | 0x0201 => some (.objDestroy (k.hdr 4 []) (k.v 32 0))
  | 0x0202 => some (.setPolicy (k.hdr 24 [(4, 4)]) (k.v 32 0) (k.v 128 8))
  | 0x0203 => some (.sheetQuery (k.hdr 24 []) (k.v 32 0) (k.v 32 4) (k.v 64 8) (k.v 64 16))
  | 0x0204 => some (.regionFormat (k.hdr 6 []) (k.v 8 0) (k.v 8 1) (k.v 8 2) (k.v 8 3) (k.v 8 4) (k.v 8 5))
  | 0x0205 => some (.regionQuery (k.hdr 16 [(1, 7)]) (k.v 8 0) (k.v 64 8))
  | 0x0206 => some (.bufReset (k.hdr 24 [(4, 4)]) (k.v 32 0) (k.v 64 8) (k.v 64 16))
  | 0x0207 => some (.exportSet (k.hdr 8 [(2, 2)]) (k.v 16 0) (k.v 32 4))
  | 0x0208 => some (.hostDma (k.hdr 32 [(1, 7)]) (k.v 8 0) (k.v 64 8) (k.v 64 16) (k.v 64 24) data)
  | 0x0209 => some (.objList (k.hdr 12 []) (k.v 64 0) (k.v 32 8))
  | _ => none

/-- Program, stitch and cadence commands (R644, R645). -/
def parse34 (k : Packet) : Option Instr :=
  match k.op with
  | 0x0300 => some (.streamStart (k.hdr 16 [(1, 7)]) (k.v 8 0) (k.v 64 8))
  | 0x0301 => some (.streamResume (k.hdr 2 []) (k.v 8 0) (k.v 8 1))
  | 0x0302 => some (.streamReset (k.hdr 1 []) (k.v 8 0))
  | 0x0303 => some (.progLoad (k.hdr 16 [(4, 4)]) (k.v 16 0) (k.v 16 2) (k.v 64 8))
  | 0x0304 =>
    let n := k.f 1 1
    some (.seedSet (k.hdr (8 + 8 * n) [(2, 6)]) (k.v 8 0) (k.v 8 1) ((List.range n).map fun i => k.v 64 (8 + 8 * i)))
  | 0x0305 => some (.ctxBase (k.hdr 8 []) (k.v 64 0))
  | 0x0306 => some (.stSet (k.hdr 12 [(3, 5)]) (k.v 16 0) (k.v 8 2) (k.v 32 8))
  | 0x0307 => some (.stRepair (k.hdr 2 []) (k.v 16 0))
  | 0x0308 => some (.stLockCmd (k.hdr 2 []) (k.v 16 0))
  | 0x0309 => some (.stUnlockCmd (k.hdr 3 []) (k.v 16 0) (k.v 8 2))
  | 0x030A => some (.stSignalCmd (k.hdr 8 [(2, 2)]) (k.v 16 0) (k.v 32 4))
  | 0x030B => some (.stReadCmd (k.hdr 2 []) (k.v 16 0))
  | 0x030C => some (.stExport (k.hdr 7 []) (k.v 8 0) (k.v 8 1) (k.v 16 2) (k.v 16 4) (k.v 8 6))
  | 0x0400 => some (.cadAdvance (k.hdr 8 []) (k.v 64 0))
  | 0x0401 => some (.evtWrite (k.hdr 40 [(2, 6)]) (k.v 16 0) (k.v 256 8))
  | 0x0402 => some (.evtClear (k.hdr 2 []) (k.v 16 0))
  | 0x0403 => some (.evtRead (k.hdr 16 [(4, 4)]) (k.v 16 0) (k.v 16 2) (k.v 64 8))
  | 0x0404 => some (.timeSet (k.hdr 16 [(1, 7)]) (k.v 8 0) (k.v 64 8))
  | 0x0405 => some (.cadIoCfg (k.hdr 2 []) (k.v 8 0) (k.v 8 1))
  | _ => none

/-- Checkpoint, assay, standby, link and group commands (R646, R647). -/
def parse56 (k : Packet) : Option Instr :=
  let list (at' n : Nat) : List Byte := (List.range n).map fun i => k.v 8 (at' + i)
  match k.op with
  | 0x0500 => some (.ckptRestore (k.hdr 18 [(5, 3)]) (k.v 32 0) (k.v 8 4) (k.v 64 8) (k.v 16 16))
  | 0x0501 => some (.fill (k.hdr 7 []) (k.v 32 0) (k.v 16 4) (k.v 8 6))
  | 0x0502 => some (.fillDone (k.hdr 0 []))
  | 0x0503 => some (.fillCancel (k.hdr 0 []))
  | 0x0504 => some (.resCfg (k.hdr 6 [(3, 1)]) (k.v 8 0) (k.v 8 1) (k.v 8 2) (k.v 16 4))
  | 0x0505 => some (.rbSet (k.hdr 16 [(4, 4)]) (k.v 32 0) (k.v 64 8))
  | 0x0506 => some (.rollback (k.hdr 0 []))
  | 0x0507 => some (.remove (k.hdr 1 []) (k.v 8 0))
  | 0x0508 => some (.hold (k.hdr 1 []) (k.v 8 0))
  | 0x0600 => some (.groupSet (k.hdr 48 [(5, 3)]) (k.v 32 0) (k.v 8 4) (list 8 40))
  | 0x0601 => some (.groupLeave (k.hdr 0 []))
  | 0x0602 => some (.mapSet (k.hdr (2 + k.f 1 1) []) (k.v 8 0) (k.v 8 1) (list 2 (k.f 1 1)))
  | 0x0603 => some (.portCfg (k.hdr 4 [(1, 1)]) (k.v 8 0) (k.v 16 2))
  | 0x0604 => some (.portRetrain (k.hdr 1 []) (k.v 8 0))
  | 0x0605 => some (.keySwitch (k.hdr 0 []))
  | _ => none

/-- Security, firmware, punch-set and diagnostic commands (R649). -/
def parse789 (k : Packet) (data : List Byte) : Option Instr :=
  match k.op with
  | 0x0700 => some (.keyInstall (k.hdr 20 [(2, 6)]) (k.v 8 0) (k.v 8 1) (k.v 64 8) (k.v 32 16) data)
  | 0x0701 => some (.aclSet (k.hdr 4 []) (k.v 8 0) (k.v 8 1) (k.v 8 2) (k.v 8 3))
  | 0x0702 => some (.fwStage (k.hdr 16 []) (k.v 32 0) (k.v 32 4) (k.v 64 8) data)
  | 0x0703 => some (.fwActivate (k.hdr 0 []))
  | 0x0704 => some (.configRecord (k.hdr 12 []) (k.v 64 0) (k.v 32 8) data)
  | 0x0800 => some (.punchLoad (k.hdr 16 [(2, 6)]) (k.v 8 0) (k.v 8 1) (k.v 64 8) data)
  | 0x0801 => some (.punchRetire (k.hdr 1 []) (k.v 8 0))
  | 0x0802 => some (.pack (k.hdr 12 []) (k.v 32 0) (k.v 32 4) (k.v 16 8) (k.v 16 10))
  | 0x0803 => some (.unpack (k.hdr 12 [(8, 2)]) (k.v 32 0) (k.v 32 4) (k.v 16 10))
  | 0x0900 => some (.ping (k.hdr 16 []) (k.v 128 0))
  | 0x0901 => some (.regSnapshot (k.hdr 8 []) (k.v 64 0))
  | 0x0902 => some (.journalMark (k.hdr 16 []) (k.v 128 0))
  | 0x0903 => some (.crashClear (k.hdr 0 []))
  | _ => none

/-- The command that a packet carries; none for an opcode that is not listed. -/
def parsePacket (k : Packet) (data : List Byte) : Option Instr :=
  match k.op / 256 with
  | 1 => parse12 k data
  | 2 => parse12 k data
  | 3 => parse34 k
  | 4 => parse34 k
  | 5 => parse56 k
  | 6 => parse56 k
  | _ => parse789 k data

/-- The seal word of a packet. -/
def sealWord (pk : List Byte) : Nat := leNat (pk.drop (pk.length - 8))

/-- Whether the seal checks and its SEQ is the header's (R624, R627). -/
def sealOk (pk : List Byte) : Bool :=
  let w := sealWord pk
  field w 63 32 = (crc32c (pk.take (pk.length - 8))).toNat && field w 31 0 = field (leNat (pk.take 32)) 207 176

/-! ## COMMAND_SEAL (R606, R607, R611, R626 to R628) -/

/-- A packet is accepted: it waits among the accepted commands. One with an opcode that is not listed waits as it came. -/
def acceptPacket (fn : Part) (slot : Fin 64) (w : WaitingPacket) (s : State) : State :=
  let i := (parsePacket (.of fn w.packet) w.data).getD (.commandSeal fn slot w.packet w.data)
  s.updHost fn fun x => { x with
    seqNext := x.seqNext + 1, slots := Map.erase x.slots slot.val, accepted := x.accepted ++ [i] }

/-- Packets that wait for their turn are accepted as it comes (R628). -/
def acceptWaiting (fn : Part) : Nat → State → State
  | 0, s => s
  | n + 1, s =>
    let x := (s.part fn).host
    let slot : Fin 64 := Fin.ofNat 64 x.seqNext.toNat
    match Map.find? x.slots slot.val with
    | some w =>
      if x.pstate = .opened && field (leNat (w.packet.take 32)) 207 176 = x.seqNext.toNat then
        acceptWaiting fn n (acceptPacket fn slot w s)
      else s
    | none => s

/-- A packet answered BAD_SEAL or SEQUENCE_GAP: a REFUSED entry and a reply (R627, R628, R658). -/
def refusePacket (k : Packet) (pk : List Byte) (st : B16) (s : State) : State :=
  let h := k.hdr 0 []
  let s := journal k.fn 0x0004 st (BitVec.ofNat 16 k.op) h.tag h.seq (BitVec.ofNat 224 (field (sealWord pk) 31 0)) s
  postReply k.fn ⟨h.tag, st, h.seq, (s.part k.fn).host.jseq.setWidth 32, 0, false⟩ s

/-- An accepted command whose opcode is not listed starts (R631). -/
def badOpcode (k : Packet) (i : Instr) (s : State) : State :=
  let h := k.hdr 0 []
  if !canStart (s.part k.fn).host false (cmdFence h) then
    s.updHost k.fn fun x => { x with accepted := i :: x.accepted, starting := false }
  else finishShort h (BitVec.ofNat 16 k.op) stBadOpcode 0 (s.updHost k.fn fun x => { x with starting := false })

/-- Whether commands are served: at READY, and in minimal mode on function 0 (R727, R734). -/
def commandsServed (s : State) (fn : Part) : Bool :=
  s.power.stage = .ready || (s.power.stage = .minimal && fn = 0)

/-- A seal word has arrived in an OPEN partition. -/
def sealOpen (fn : Part) (slot : Fin 64) (pk data : List Byte) (s : State) : State :=
  let k := Packet.of fn pk
  let seq := field k.head 207 176
  let x := (s.part fn).host
  let s := s.updHost fn fun x => { x with slots := Map.erase x.slots slot.val }
  if !sealOk pk then refusePacket k pk stBadSeal (s.updHost fn fun x => { x with sealFails := satAdd x.sealFails 1 })
  else
    let d := (BitVec.ofNat 32 seq - x.seqNext).toNat
    if seq % 64 ≠ slot.val || d > 63 then refusePacket k pk stSeqGap s
    else if d = 0 then acceptWaiting fn 64 (acceptPacket fn slot ⟨pk, data⟩ s)
    else s.updHost fn fun x => { x with slots := Map.insert x.slots slot.val ⟨pk, data⟩ }

/-- A seal word has arrived in a partition that accepts PART_OPEN alone: CLOSED without ATTACH, DETACHED with it. -/
def sealShut (fn : Part) (slot : Fin 64) (pk : List Byte) (s : State) : State :=
  let k := Packet.of fn pk
  let seq := field k.head 207 176
  let x := (s.part fn).host
  let s := s.updHost fn fun x => { x with slots := Map.erase x.slots slot.val }
  let attach := (k.v 8 9).getLsbD 0
  let turn := if x.pstate = .closed then !attach else attach && seq = x.seqNext.toNat
  if sealOk pk && seq % 64 = slot.val && k.op = 0x0101 && turn then
    acceptWaiting fn 64 (runOpen (k.hdr 10 []) (k.v 64 0) (k.v 8 8) (k.v 8 9) s)
  else dropPacket fn s

/-- COMMAND_SEAL. -/
def execCommandSeal (fn : Part) (slot : Fin 64) (packet data : List Byte) (s : State) : Host.Outcome State Fault Refusal :=
  let x := (s.part fn).host
  if x.starting then next (badOpcode (.of fn packet) (.commandSeal fn slot packet data) s)
  else if !commandsServed s fn then next (dropPacket fn s)
  else if x.pstate = .opened then next (sealOpen fn slot packet data s)
  else next (sealShut fn slot packet s)

/-! ## BAR0 (R599 to R601, R661 to R666) -/

/-- The bytes of the crash record; all zero while none is held. -/
def crashByte (c : Crash) (i : Nat) : Byte :=
  if !c.valid then 0
  else if 24 ≤ i then Config.freeByte c.draw i
  else ([1, c.cause, c.core, c.count, 0, 0, 0, 0] ++ leBytes 8 c.time.toNat ++ leBytes 8 c.firmware.toNat).getD i 0

/-- A byte of the journal aperture (R656): an entry lies at its JSEQ modulo 4,096. -/
def journalByte (h : HostPart) (i : Nat) : Byte :=
  match Map.find? h.journal (i / 64) with
  | some e => e.bytes.getD (i % 64) 0
  | none => 0

/-- HST_WIN_BASE as it reads: bits below the BAR2 size are zero. -/
def winBase (h : HostPart) : Nat := h.winBase.toNat / 2 ^ h.barLog2.toNat * 2 ^ h.barLog2.toNat

/-- A 32-bit register of the host control page (R665). -/
def controlReg (h : HostPart) (o : Nat) : Nat :=
  match o with
  | 0x00 => h.replyHead.toNat
  | 0x10 => h.irqMask.toNat
  | 0x14 => h.irqStatus.toNat
  | 0x18 => winBase h % 2 ^ 32
  | 0x1C => winBase h / 2 ^ 32
  | _ => 0

/-- Whether an access is naturally aligned and of 4 or 8 bytes (R601). -/
def aligned (o size : Nat) : Bool := (size = 4 || size = 8) && o % size = 0

/-- A read of the register window that its table admits: its bytes, and what it clears. -/
def windowRead (fn : Part) (o size : Nat) (s : State) : List Byte × State :=
  if !aligned o size then (leBytes size 0, s)
  else if size = 4 && (o = 0 || o = 4 || o = 0x18 || o = 0x1C) then
    let (v, s) := halfRead fn (decide (0x18 ≤ o)) (o % 8 = 4) s
    (leBytes 4 v.toNat, s)
  else if size = 4 then (leBytes 4 (windowReg s fn o), clearReg fn o s)
  else (leBytes 8 (windowWord s fn o), clearReg fn (o + 4) (clearReg fn o s))

/-- A read of BAR0: its bytes and what it clears. -/
def bar0Read (fn : Part) (o size : Nat) (s : State) : List Byte × State :=
  let h := (s.part fn).host
  let bytes (f : Nat → Byte) : List Byte := (List.range size).map f
  let word (v : Nat) : List Byte := leBytes size (if aligned o size then v / 2 ^ (8 * (o % 8)) else 0)
  if 0x100000 ≤ o && o < 0x140000 then (bytes fun i => journalByte h (o - 0x100000 + i), s)
  else if 0x140000 ≤ o && o < 0x141000 then (word (statusWord64 h (o - 0x140000)), s)
  else if 0x141000 ≤ o && o < 0x142000 then (bytes fun i => crashByte s.host.crash (o - 0x141000 + i), s)
  else if 0x142000 ≤ o && o < 0x143000 then
    let r := (o - 0x142000) / 8 * 8
    (word (two (controlReg h r) (controlReg h (r + 4))), s)
  else if 0x200000 ≤ o && o < 0x210000 then windowRead fn (o - 0x200000) size s
  else (leBytes size 0, s)

/-- Whether a function serves accesses: while housekeeping power is on, and in minimal mode function 0 alone (R734). -/
def functionServed (s : State) (fn : Part) : Bool :=
  s.power.stage ≠ .unpowered && !(s.power.stage = .minimal && fn ≠ 0)

/-- Whether an offset lies in the register window. -/
def inWindow (o : Nat) : Bool := decide (0x200000 ≤ o) && decide (o < 0x210000)

/-- REGISTER_READ_CLEAR. -/
def execRegisterReadClear (fn : Part) (offset : BitVec 26) (size : Nat) (s : State) : Host.Outcome State Fault Refusal :=
  let o := offset.toNat
  if !functionServed s fn then next s
  else if inWindow o && !aclGrants s (80 + fn.val) fn.val .r then
    next ((denied fn (80 + fn.val) fn.val .r (o - 0x200000) s).out (.unsupported fn))
  else
    let (d, s) := bar0Read fn o size s
    next (s.out (.completion fn d))

/-- CAD_POS_HALF_READ. -/
def execCadPosHalfRead (fn : Part) (time high : Bool) (s : State) : Host.Outcome State Fault Refusal :=
  if !functionServed s fn then next s
  else if !aclGrants s (80 + fn.val) fn.val .r then
    next ((denied fn (80 + fn.val) fn.val .r ((if time then 0x18 else 0) + if high then 4 else 0) s).out (.unsupported fn))
  else
    let (v, s) := halfRead fn time high s
    next (s.out (.completion fn (leBytes 4 v.toNat)))

/-- A write of one arbiter's registers, `r` from its start: a map takes an 8-byte write alone (R472, R475). -/
def arbRegWrite (a r size : Nat) (v : B64) (s : State) : State :=
  if r < 0x08 then updArb a (mapWrite false size v) s
  else if r < 0x10 then updArb a (mapWrite true size v) s
  else if r = 0x10 then updArb a (ctrlWrite (v.setWidth 32)) s
  else s

/-- A write of one 32-bit register of the register window (R15, R476, R715). -/
def windowReg32 (fn : Part) (o v : Nat) (s : State) : State :=
  match o with
  | 0x000C => if v.testBit 2 then s.updCad fn fun c => { c with evtOverrun := false } else s
  | 0x1010 => s.updBench fn fun b => { b with rimFlags := b.rimFlags.clear v }
  | 0x2108 => s.updBench fn fun b => { b with vflags := b.vflags.clear v }
  | 0x4004 => s.updPln fn fun y => { y with flags := y.flags.clear v }
  | 0x9780 => if fn = 0 && v.testBit 0 then commitMaps s else s
  | 0xA000 => if v % 128 ≤ 85 then s.updAcl fn fun a => { a with sel := BitVec.ofNat 7 v } else s
  | 0xD408 =>
    let w := v % 4096
    if fn = 0 && 1000 ≤ w && w ≤ 2800 then updPower (fun x => { x with limit := BitVec.ofNat 12 w }) s else s
  | _ => s

/-- A write of the register window: of an arbiter's registers, or of one or two 32-bit registers. -/
def windowWriteReg (fn : Part) (o size : Nat) (v : B64) (s : State) : State :=
  if 0x9000 ≤ o && o < 0x9780 then
    if fn = 0 then arbRegWrite ((o - 0x9000) / 0x20) (o % 0x20) size v s else s
  else
    let s := windowReg32 fn o (v.toNat % 2 ^ 32) s
    if size = 8 then windowReg32 fn (o + 4) (v.toNat / 2 ^ 32) s else s

/-- A write of one 32-bit register of the host control page (R665). -/
def controlWrite (fn : Part) (o v : Nat) (s : State) : State :=
  match o with
  | 0x00 => takeReplies fn (BitVec.ofNat 32 v) s
  | 0x08 =>
    if v = 0x7A7A0001 then (partitionReset fn 2 s).2
    else if v = 0x7A7A0002 then resetDeviceKey fn s
    else if v = 0x7A7A0003 then powerDownKey fn s
    else s
  | 0x0C => heartbeat fn s
  | 0x10 => s.updHost fn fun h => { h with irqMask := BitVec.ofNat 4 v }
  | 0x14 => s.updHost fn fun h => { h with irqStatus := h.irqStatus &&& ~~~(BitVec.ofNat 4 v) }
  | 0x18 => s.updHost fn fun h => { h with winBase := BitVec.ofNat 56 (h.winBase.toNat / 2 ^ 32 * 2 ^ 32 + v) }
  | 0x1C => s.updHost fn fun h => { h with winBase := BitVec.ofNat 56 (h.winBase.toNat % 2 ^ 32 + v * 2 ^ 32) }
  | _ => s

/-- REGISTER_WRITE: an access that is not aligned, or of another size, is ignored (R601). -/
def execRegisterWrite (fn : Part) (offset : BitVec 26) (size : Nat) (value : B64) (s : State) :
    Host.Outcome State Fault Refusal :=
  let o := offset.toNat
  if !functionServed s fn || !aligned o size then next s
  else if inWindow o then next (onWindow fn (o - 0x200000) (windowWriteReg fn (o - 0x200000) size value) s)
  else if 0x142000 ≤ o && o < 0x143000 then
    let s := controlWrite fn (o - 0x142000) (value.toNat % 2 ^ 32) s
    next (if size = 8 then controlWrite fn (o - 0x142000 + 4) (value.toNat / 2 ^ 32) s else s)
  else next s

/-! ## BAR2 (R602 to R604) -/

/-- The device virtual address of an access, unless it completes as an Unsupported Request: beyond the BAR, outside every
object, in the stake window, or denied. -/
def bar2Check (fn : Part) (g : Right) (o n : Nat) (s : State) : Option Nat × Acc :=
  let h := (s.part fn).host
  let a := winBase h + o
  if decide (2 ^ h.barLog2.toNat < o + n) || reachesWindow a n then (none, .outside)
  else match checkMem s fn fn.val g a n with
    | .ok => (some a, .ok)
    | .memError x i => (some a, .memError x i)
    | acc => (none, acc)

/-- The object and sheet at an address. -/
def sheetAt (s : State) (p : Part) (a : Nat) : Option (Nat × Nat × Sheet) :=
  match findObj (s.part p).tier a with
  | none => none
  | some (h, o) =>
    let i := (a - o.base) / sheetBytes
    (Map.find? o.map i).map fun x => (h, i, x)

/-- BAR2_READ. -/
def execBar2Read (fn : Part) (offset : BitVec 39) (bytes : Nat) (media : Media) (s : State) :
    Host.Outcome State Fault Refusal :=
  if !functionServed s fn then next s
  else match bar2Check fn .r offset.toNat bytes s with
    | (none, acc) => next ((noteDenied fn fn.val .r acc s).out (.unsupported fn))
    | (some a, acc) =>
      let data := readMem s fn fn.val a bytes
      match acc, media, sheetAt s fn a with
      | .ok, .good, _ => next (touchRead fn a bytes (s.out (.completion fn data)))
      | .ok, .retried, some (_, _, x) => next (touchRead fn a bytes (noteRetry x (s.out (.completion fn data))))
      | .ok, .retried, none => next (touchRead fn a bytes (s.out (.completion fn data)))
      | .ok, .uncorrectable, some (h, i, _) => next (poisonSheet fn h i (s.out (.poisoned fn data)))
      | _, _, _ => next (s.out (.poisoned fn data))

/-- BAR2_WRITE. -/
def execBar2Write (fn : Part) (offset : BitVec 39) (data : List Byte) (blockFailed : Bool) (s : State) :
    Host.Outcome State Fault Refusal :=
  if !functionServed s fn then next s
  else match bar2Check fn .w offset.toNat data.length s with
    | (some a, .ok) =>
      let t := writeMem fn a data s
      match blockFailed, sheetAt s fn a with
      | true, some (_, _, x) =>
        next (if x.tier = .managed then failUnit x.region (fillUnit t.flash (t.region x.region)) t else t)
      | _, _ => next t
    | (_, acc) => next ((noteDenied fn fn.val .w acc s).out (.unsupported fn))

/-! ## Configuration requests and links (R594, R595, R608, R727) -/

/-- CONFIG_REQUEST: Configuration Request Retry Status until READY; a write of Resizable BAR sets BAR2 from 1 to 512 GiB. -/
def execConfigRequest (fn : Part) (bar2Log : Option (BitVec 6)) (s : State) : Host.Outcome State Fault Refusal :=
  if s.power.stage = .unpowered then next s
  else if !commandsServed s fn then next (s.out (.retry fn))
  else
    let s := match bar2Log with
      | some n => if 30 ≤ n.toNat && n.toNat ≤ 39 then s.updHost fn fun h => { h with barLog2 := n } else s
      | none => s
    next (s.out (.config fn))

/-- Lanes that the straps give a link. -/
def linkLanes (s : State) : Nat :=
  match s.host.split.toNat with
  | 1 => 8
  | 2 => 4
  | _ => 16

/-- The width that trains on so many good lanes. -/
def linkWidth (n : Nat) : Nat := if 16 ≤ n then 16 else if 8 ≤ n then 8 else if 4 ≤ n then 4 else if 2 ≤ n then 2 else n

/-- PCIE_LINK_UP: 64 GT/s, or 32 GT/s where the partner does not support it; at most the configured width. -/
def execPcieLinkUp (link : Fin 4) (partner64 : Bool) (lanes : BitVec 5) (s : State) : Host.Outcome State Fault Refusal :=
  let w := linkWidth (min lanes.toNat (linkLanes s))
  if !mainOn s || !linkExists s link || w = 0 then next s
  else next { s with host := { s.host with
    links := s.host.links.set link { speed := if partner64 then 6 else 5, width := BitVec.ofNat 5 w } } }

/-- FUNCTION_LEVEL_RESET. -/
def execFunctionLevelReset (fn : Part) (s : State) : Host.Outcome State Fault Refusal := next (detach fn 7 s)

/-- LINK_LOSS: loss, or a fundamental reset, which the functions meet alike. -/
def execLinkLoss (link : Fin 4) (_fundamental : Bool) (s : State) : Host.Outcome State Fault Refusal :=
  next (if linkExists s link then loseLink link s else s)

end Sys2Proof.Machine
end

