-- ==== Sys2Proof/Machine/Dispatch.lean ====
section
/-!
DEFINITION. The dispatch of every command to its meaning.
-/
namespace Sys2Proof.Machine

open Sys2Proof

/-- The effect of a command on everything but the queue. -/
def exec (i : Instr) (s : State) : Host.Outcome State Fault Refusal :=
  match i with
  | .devInfo h => Sys2Proof.Machine.execDevInfo h s
  | .partOpen h ring n options => Sys2Proof.Machine.execPartOpen h ring n options s
  | .partClose h => Sys2Proof.Machine.execPartClose h s
  | .partReset h => Sys2Proof.Machine.execPartReset h s
  | .devReset h => Sys2Proof.Machine.execDevReset h s
  | .setQuota h part hbm bulk stakeBase stakeLimit stitchBase stitchCount => Sys2Proof.Machine.execSetQuota h part hbm bulk stakeBase stakeLimit stitchBase stitchCount s
  | .timeshare h enable owner q0 q1 q2 q3 => Sys2Proof.Machine.execTimeshare h enable owner q0 q1 q2 q3 s
  | .quarterService h quarter => Sys2Proof.Machine.execQuarterService h quarter s
  | .timerFeature h feature enable action period addr => Sys2Proof.Machine.execTimerFeature h feature enable action period addr s
  | .objCreate h sheets policy option block => Sys2Proof.Machine.execObjCreate h sheets policy option block s
  | .objDestroy h handle => Sys2Proof.Machine.execObjDestroy h handle s
  | .setPolicy h handle policy => Sys2Proof.Machine.execSetPolicy h handle policy s
  | .sheetQuery h handle count first addr => Sys2Proof.Machine.execSheetQuery h handle count first addr s
  | .regionFormat h region mode owner refresh start count => Sys2Proof.Machine.execRegionFormat h region mode owner refresh start count s
  | .regionQuery h region addr => Sys2Proof.Machine.execRegionQuery h region addr s
  | .bufReset h handle step expect => Sys2Proof.Machine.execBufReset h handle step expect s
  | .exportSet h ident handle => Sys2Proof.Machine.execExportSet h ident handle s
  | .hostDma h dir dev host bytes data => Sys2Proof.Machine.execHostDma h dir dev host bytes data s
  | .objList h addr max => Sys2Proof.Machine.execObjList h addr max s
  | .streamStart h stream addr => Sys2Proof.Machine.execStreamStart h stream addr s
  | .streamResume h stream skip => Sys2Proof.Machine.execStreamResume h stream skip s
  | .streamReset h stream => Sys2Proof.Machine.execStreamReset h stream s
  | .progLoad h first count addr => Sys2Proof.Machine.execProgLoad h first count addr s
  | .seedSet h first count seeds => Sys2Proof.Machine.execSeedSet h first count seeds s
  | .ctxBase h addr => Sys2Proof.Machine.execCtxBase h addr s
  | .stSet h idx remote count => Sys2Proof.Machine.execStSet h idx remote count s
  | .stRepair h idx => Sys2Proof.Machine.execStRepair h idx s
  | .stLockCmd h idx => Sys2Proof.Machine.execStLockCmd h idx s
  | .stUnlockCmd h idx epoch => Sys2Proof.Machine.execStUnlockCmd h idx epoch s
  | .stSignalCmd h idx value => Sys2Proof.Machine.execStSignalCmd h idx value s
  | .stReadCmd h idx => Sys2Proof.Machine.execStReadCmd h idx s
  | .stExport h importer window first count ops => Sys2Proof.Machine.execStExport h importer window first count ops s
  | .cadAdvance h pos => Sys2Proof.Machine.execCadAdvance h pos s
  | .evtWrite h idx entry => Sys2Proof.Machine.execEvtWrite h idx entry s
  | .evtClear h idx => Sys2Proof.Machine.execEvtClear h idx s
  | .evtRead h first count addr => Sys2Proof.Machine.execEvtRead h first count addr s
  | .timeSet h mode time => Sys2Proof.Machine.execTimeSet h mode time s
  | .cadIoCfg h func part => Sys2Proof.Machine.execCadIoCfg h func part s
  | .ckptRestore h set slot list count => Sys2Proof.Machine.execCkptRestore h set slot list count s
  | .fill h dest ident source => Sys2Proof.Machine.execFill h dest ident source s
  | .fillDone h => Sys2Proof.Machine.execFillDone h s
  | .fillCancel h => Sys2Proof.Machine.execFillCancel h s
  | .resCfg h armEn autoRollback snapClaim wait => Sys2Proof.Machine.execResCfg h armEn autoRollback snapClaim wait s
  | .rbSet h set list => Sys2Proof.Machine.execRbSet h set list s
  | .rollback h => Sys2Proof.Machine.execRollback h s
  | .remove h pos => Sys2Proof.Machine.execRemove h pos s
  | .hold h set => Sys2Proof.Machine.execHold h set s
  | .groupSet h folio pos masks => Sys2Proof.Machine.execGroupSet h folio pos masks s
  | .groupLeave h => Sys2Proof.Machine.execGroupLeave h s
  | .mapSet h first count masks => Sys2Proof.Machine.execMapSet h first count masks s
  | .portCfg h enable linkHold => Sys2Proof.Machine.execPortCfg h enable linkHold s
  | .portRetrain h mask => Sys2Proof.Machine.execPortRetrain h mask s
  | .keySwitch h => Sys2Proof.Machine.execKeySwitch h s
  | .keyInstall h kind ident addr length blob => Sys2Proof.Machine.execKeyInstall h kind ident addr length blob s
  | .aclSet h first last master row => Sys2Proof.Machine.execAclSet h first last master row s
  | .fwStage h offset length addr data => Sys2Proof.Machine.execFwStage h offset length addr data s
  | .fwActivate h => Sys2Proof.Machine.execFwActivate h s
  | .configRecord h addr length data => Sys2Proof.Machine.execConfigRecord h addr length data s
  | .punchLoad h slot gen addr image => Sys2Proof.Machine.execPunchLoad h slot gen addr image s
  | .punchRetire h slot => Sys2Proof.Machine.execPunchRetire h slot s
  | .pack h src dst mask stitch => Sys2Proof.Machine.execPack h src dst mask stitch s
  | .unpack h src dst stitch => Sys2Proof.Machine.execUnpack h src dst stitch s
  | .ping h echo => Sys2Proof.Machine.execPing h echo s
  | .regSnapshot h addr => Sys2Proof.Machine.execRegSnapshot h addr s
  | .journalMark h text => Sys2Proof.Machine.execJournalMark h text s
  | .crashClear h => Sys2Proof.Machine.execCrashClear h s
  | .longCommandDone p i1 ok => Sys2Proof.Machine.execLongCommandDone p i1 ok s
  | .commandSeal fn slot packet data => Sys2Proof.Machine.execCommandSeal fn slot packet data s
  | .hstReplyHead p value => Sys2Proof.Machine.execHstReplyHead p value s
  | .hstResetPartition p => Sys2Proof.Machine.execHstResetPartition p s
  | .hstResetDevice p => Sys2Proof.Machine.execHstResetDevice p s
  | .hstResetPowerDown p => Sys2Proof.Machine.execHstResetPowerDown p s
  | .hstHeartbeat p => Sys2Proof.Machine.execHstHeartbeat p s
  | .arbMap fn a shadow size value => Sys2Proof.Machine.execArbMap fn a shadow size value s
  | .arbCtrl fn a value => Sys2Proof.Machine.execArbCtrl fn a value s
  | .arbCommit fn value => Sys2Proof.Machine.execArbCommit fn value s
  | .registerWrite fn offset size value => Sys2Proof.Machine.execRegisterWrite fn offset size value s
  | .registerReadClear fn offset size => Sys2Proof.Machine.execRegisterReadClear fn offset size s
  | .cadPosHalfRead fn time high => Sys2Proof.Machine.execCadPosHalfRead fn time high s
  | .bar2Read fn offset bytes media => Sys2Proof.Machine.execBar2Read fn offset bytes media s
  | .bar2Write fn offset data blockFailed => Sys2Proof.Machine.execBar2Write fn offset data blockFailed s
  | .configRequest fn bar2Log => Sys2Proof.Machine.execConfigRequest fn bar2Log s
  | .pcieLinkUp link partner64 lanes => Sys2Proof.Machine.execPcieLinkUp link partner64 lanes s
  | .functionLevelReset fn => Sys2Proof.Machine.execFunctionLevelReset fn s
  | .linkLoss link fundamental => Sys2Proof.Machine.execLinkLoss link fundamental s
  | .nop b => Sys2Proof.Machine.execNop b s
  | .endOp b => Sys2Proof.Machine.execEndOp b s
  | .jump b count target => Sys2Proof.Machine.execJump b count target s
  | .fence b => Sys2Proof.Machine.execFence b s
  | .array b desc => Sys2Proof.Machine.execArray b desc s
  | .arrayQueueHead => Sys2Proof.Machine.execArrayQueueHead s
  | .tileDrain q => Sys2Proof.Machine.execTileDrain q s
  | .arrayComplete stall => Sys2Proof.Machine.execArrayComplete stall s
  | .arrayQuantumExpiry => Sys2Proof.Machine.execArrayQuantumExpiry s
  | .contextSwitch step => Sys2Proof.Machine.execContextSwitch step s
  | .contextCopy p inbound => Sys2Proof.Machine.execContextCopy p inbound s
  | .vrun b first last entry seed launch => Sys2Proof.Machine.execVrun b first last entry seed launch s
  | .copy b src dst pos countM1 => Sys2Proof.Machine.execCopy b src dst pos countM1 s
  | .copyRouted b role desc => Sys2Proof.Machine.execCopyRouted b role desc s
  | .copyAdd b src dst pos countM1 => Sys2Proof.Machine.execCopyAdd b src dst pos countM1 s
  | .ladleStart => Sys2Proof.Machine.execLadleStart s
  | .copyComplete p ident => Sys2Proof.Machine.execCopyComplete p ident s
  | .stSignal b pos stitch epoch arg => Sys2Proof.Machine.execStSignal b pos stitch epoch arg s
  | .stWait b pos stitch epoch arg => Sys2Proof.Machine.execStWait b pos stitch epoch arg s
  | .stLock b pos stitch epoch arg => Sys2Proof.Machine.execStLock b pos stitch epoch arg s
  | .stUnlock b pos stitch epoch arg => Sys2Proof.Machine.execStUnlock b pos stitch epoch arg s
  | .stRead b pos stitch epoch arg => Sys2Proof.Machine.execStRead b pos stitch epoch arg s
  | .stitchWaitRegister b lock stitch threshold => Sys2Proof.Machine.execStitchWaitRegister b lock stitch threshold s
  | .cadMark b pos => Sys2Proof.Machine.execCadMark b pos s
  | .posDraw b pos => Sys2Proof.Machine.execPosDraw b pos s
  | .veto b record => Sys2Proof.Machine.execVeto b record s
  | .bufferClose p handle => Sys2Proof.Machine.execBufferClose p handle s
  | .planish b record => Sys2Proof.Machine.execPlanish b record s
  | .apply p => Sys2Proof.Machine.execApply p s
  | .bufResetJob p => Sys2Proof.Machine.execBufResetJob p s
  | .derive p => Sys2Proof.Machine.execDerive p s
  | .planisherUnit p => Sys2Proof.Machine.execPlanisherUnit p s
  | .planisherUnitWritten p => Sys2Proof.Machine.execPlanisherUnitWritten p s
  | .deliveryRerun p => Sys2Proof.Machine.execDeliveryRerun p s
  | .contributionAdmission i1 => Sys2Proof.Machine.execContributionAdmission i1 s
  | .plateNop h => Sys2Proof.Machine.execPlateNop h s
  | .halt h => Sys2Proof.Machine.execHalt h s
  | .loopc h target imm => Sys2Proof.Machine.execLoopc h target imm s
  | .setc h target imm => Sys2Proof.Machine.execSetc h target imm s
  | .setp h target imm => Sys2Proof.Machine.execSetp h target imm s
  | .addp h target imm => Sys2Proof.Machine.execAddp h target imm s
  | .movi h target imm => Sys2Proof.Machine.execMovi h target imm s
  | .ld h v pr fmt rnd off => Sys2Proof.Machine.execLd h v pr fmt rnd off s
  | .st h v pr fmt rnd off => Sys2Proof.Machine.execSt h v pr fmt rnd off s
  | .ldb h v pr fmt rnd off => Sys2Proof.Machine.execLdb h v pr fmt rnd off s
  | .ldbit h v pr fmt rnd off => Sys2Proof.Machine.execLdbit h v pr fmt rnd off s
  | .stbit h v pr fmt rnd off => Sys2Proof.Machine.execStbit h v pr fmt rnd off s
  | .fxadd h v pr fmt rnd off => Sys2Proof.Machine.execFxadd h v pr fmt rnd off s
  | .ldx h v pr fmt rnd off => Sys2Proof.Machine.execLdx h v pr fmt rnd off s
  | .fadd h d s1 s2 s3 rnd => Sys2Proof.Machine.execFadd h d s1 s2 s3 rnd s
  | .fsub h d s1 s2 s3 rnd => Sys2Proof.Machine.execFsub h d s1 s2 s3 rnd s
  | .fmul h d s1 s2 s3 rnd => Sys2Proof.Machine.execFmul h d s1 s2 s3 rnd s
  | .ffma h d s1 s2 s3 rnd => Sys2Proof.Machine.execFfma h d s1 s2 s3 rnd s
  | .fdiv h d s1 s2 s3 rnd => Sys2Proof.Machine.execFdiv h d s1 s2 s3 rnd s
  | .fsqrt h d s1 s2 s3 rnd => Sys2Proof.Machine.execFsqrt h d s1 s2 s3 rnd s
  | .fmax h d s1 s2 s3 rnd => Sys2Proof.Machine.execFmax h d s1 s2 s3 rnd s
  | .fmin h d s1 s2 s3 rnd => Sys2Proof.Machine.execFmin h d s1 s2 s3 rnd s
  | .fneg h d s1 s2 s3 rnd => Sys2Proof.Machine.execFneg h d s1 s2 s3 rnd s
  | .fabs h d s1 s2 s3 rnd => Sys2Proof.Machine.execFabs h d s1 s2 s3 rnd s
  | .fcmplt h d s1 s2 s3 rnd => Sys2Proof.Machine.execFcmplt h d s1 s2 s3 rnd s
  | .fsel h d s1 s2 s3 rnd => Sys2Proof.Machine.execFsel h d s1 s2 s3 rnd s
  | .laneid h d s1 s2 s3 rnd => Sys2Proof.Machine.execLaneid h d s1 s2 s3 rnd s
  | .exp h d s1 s2 s3 rnd => Sys2Proof.Machine.execExp h d s1 s2 s3 rnd s
  | .exp2 h d s1 s2 s3 rnd => Sys2Proof.Machine.execExp2 h d s1 s2 s3 rnd s
  | .log h d s1 s2 s3 rnd => Sys2Proof.Machine.execLog h d s1 s2 s3 rnd s
  | .log2 h d s1 s2 s3 rnd => Sys2Proof.Machine.execLog2 h d s1 s2 s3 rnd s
  | .rcp h d s1 s2 s3 rnd => Sys2Proof.Machine.execRcp h d s1 s2 s3 rnd s
  | .rsqrt h d s1 s2 s3 rnd => Sys2Proof.Machine.execRsqrt h d s1 s2 s3 rnd s
  | .tanh h d s1 s2 s3 rnd => Sys2Proof.Machine.execTanh h d s1 s2 s3 rnd s
  | .sigm h d s1 s2 s3 rnd => Sys2Proof.Machine.execSigm h d s1 s2 s3 rnd s
  | .erf h d s1 s2 s3 rnd => Sys2Proof.Machine.execErf h d s1 s2 s3 rnd s
  | .rmax h d s1 s2 s3 rnd => Sys2Proof.Machine.execRmax h d s1 s2 s3 rnd s
  | .rsum h d s1 s2 s3 rnd => Sys2Proof.Machine.execRsum h d s1 s2 s3 rnd s
  | .draw h v pr fmt rnd off => Sys2Proof.Machine.execDraw h v pr fmt rnd off s
  | .checkpointSlice p => Sys2Proof.Machine.execCheckpointSlice p s
  | .imageSeal p set => Sys2Proof.Machine.execImageSeal p set s
  | .standbyCommit p => Sys2Proof.Machine.execStandbyCommit p s
  | .mirrorCommitTimeout p set => Sys2Proof.Machine.execMirrorCommitTimeout p set s
  | .assayComparison p => Sys2Proof.Machine.execAssayComparison p s
  | .lateUpdateDelivery p => Sys2Proof.Machine.execLateUpdateDelivery p s
  | .assayWaitExpiry ident step => Sys2Proof.Machine.execAssayWaitExpiry ident step s
  | .replicaAssayTimeout ident step => Sys2Proof.Machine.execReplicaAssayTimeout ident step s
  | .ppsEdge onIo => Sys2Proof.Machine.execPpsEdge onIo s
  | .ppsLost => Sys2Proof.Machine.execPpsLost s
  | .moveStart => Sys2Proof.Machine.execMoveStart s
  | .moveSwitch ident media => Sys2Proof.Machine.execMoveSwitch ident media s
  | .overlayAgeExpiry region stripe => Sys2Proof.Machine.execOverlayAgeExpiry region stripe s
  | .fold => Sys2Proof.Machine.execFold s
  | .stripeRefresh region stripe => Sys2Proof.Machine.execStripeRefresh region stripe s
  | .arbiterGrant a past cycle withdrawn => Sys2Proof.Machine.execArbiterGrant a past cycle withdrawn s
  | .send m addr sheet => Sys2Proof.Machine.execSend m addr sheet s
  | .add m addr mask step torn sheet => Sys2Proof.Machine.execAdd m addr mask step torn sheet s
  | .ack m answered status => Sys2Proof.Machine.execAck m answered status s
  | .signal m stitch value => Sys2Proof.Machine.execSignal m stitch value s
  | .sigReply m answered status => Sys2Proof.Machine.execSigReply m answered status s
  | .mark m pos => Sys2Proof.Machine.execMark m pos s
  | .verdict m step verdict reason => Sys2Proof.Machine.execVerdict m step verdict reason s
  | .result m step verdict reason firstPos reported => Sys2Proof.Machine.execResult m step verdict reason firstPos reported s
  | .digestRoot m ident step root => Sys2Proof.Machine.execDigestRoot m ident step root s
  | .digestQuery m ident step level node => Sys2Proof.Machine.execDigestQuery m ident step level node s
  | .digestReply m ident step level node digests => Sys2Proof.Machine.execDigestReply m ident step level node digests s
  | .digestResult m ident step code node => Sys2Proof.Machine.execDigestResult m ident step code node s
  | .digestRepair m ident step sheet source => Sys2Proof.Machine.execDigestRepair m ident step sheet source s
  | .fillMirror m slice img sheet data hallmark => Sys2Proof.Machine.execFillMirror m slice img sheet data hallmark s
  | .fillSheet m ident sheet data hallmark => Sys2Proof.Machine.execFillSheet m ident sheet data hallmark s
  | .fillRepair m ident sheet data hallmark => Sys2Proof.Machine.execFillRepair m ident sheet data hallmark s
  | .fillRecord m img part data => Sys2Proof.Machine.execFillRecord m img part data s
  | .armed m cover => Sys2Proof.Machine.execArmed m cover s
  | .assign m d => Sys2Proof.Machine.execAssign m d s
  | .pull m count ident first => Sys2Proof.Machine.execPull m count ident first s
  | .fillRoot m ident root => Sys2Proof.Machine.execFillRoot m ident root s
  | .ready m d => Sys2Proof.Machine.execReady m d s
  | .commitPos m sb d => Sys2Proof.Machine.execCommitPos m sb d s
  | .removeMsg m d => Sys2Proof.Machine.execRemoveMsg m d s
  | .leave m reason => Sys2Proof.Machine.execLeave m reason s
  | .commitImg m step img => Sys2Proof.Machine.execCommitImg m step img s
  | .queryCkpt m => Sys2Proof.Machine.execQueryCkpt m s
  | .rollbackMsg m step => Sys2Proof.Machine.execRollbackMsg m step s
  | .status m step code words => Sys2Proof.Machine.execStatus m step code words s
  | .standbyArm => Sys2Proof.Machine.execStandbyArm s
  | .armedReportTimer => Sys2Proof.Machine.execArmedReportTimer s
  | .standbySilence b => Sys2Proof.Machine.execStandbySilence b s
  | .messageTimeout dst seq => Sys2Proof.Machine.execMessageTimeout dst seq s
  | .linkHoldExpiry pos => Sys2Proof.Machine.execLinkHoldExpiry pos s
  | .laneLock port lanes => Sys2Proof.Machine.execLaneLock port lanes s
  | .fullTraining port good peerGood => Sys2Proof.Machine.execFullTraining port good peerGood s
  | .hello port serial folio pos peerPort keyId nonce => Sys2Proof.Machine.execHello port serial folio pos peerPort keyId nonce s
  | .replay port seq => Sys2Proof.Machine.execReplay port seq s
  | .retrain port mask => Sys2Proof.Machine.execRetrain port mask s
  | .rekey port keyId nonce => Sys2Proof.Machine.execRekey port keyId nonce s
  | .linkFlitRepeat port => Sys2Proof.Machine.execLinkFlitRepeat port s
  | .retryLimit port => Sys2Proof.Machine.execRetryLimit port s
  | .laneDrop port lane => Sys2Proof.Machine.execLaneDrop port lane s
  | .fastRetrainDone port => Sys2Proof.Machine.execFastRetrainDone port s
  | .downRetry port => Sys2Proof.Machine.execDownRetry port s
  | .laserSourceFail port => Sys2Proof.Machine.execLaserSourceFail port s
  | .d2dRetrain q cause => Sys2Proof.Machine.execD2dRetrain q cause s
  | .propose q token => Sys2Proof.Machine.execPropose q token s
  | .confirm q token => Sys2Proof.Machine.execConfirm q token s
  | .quarterClockLoss q => Sys2Proof.Machine.execQuarterClockLoss q s
  | .quarterFatalError q => Sys2Proof.Machine.execQuarterFatalError q s
  | .stakeSensorSample q readings => Sys2Proof.Machine.execStakeSensorSample q readings s
  | .heatEvaluation => Sys2Proof.Machine.execHeatEvaluation s
  | .guestRequest site ident req t => Sys2Proof.Machine.execGuestRequest site ident req t s
  | .guestRateRelease site t => Sys2Proof.Machine.execGuestRateRelease site t s
  | .guestLinkLoss site => Sys2Proof.Machine.execGuestLinkLoss site s
  | .guestPowerCheck site meanMw => Sys2Proof.Machine.execGuestPowerCheck site meanMw s
  | .housekeepingPowerUp pcieSplit i3cAddr => Sys2Proof.Machine.execHousekeepingPowerUp pcieSplit i3cAddr s
  | .bootStage1 pufOk => Sys2Proof.Machine.execBootStage1 pufOk s
  | .pwrEnAssert lowMs report => Sys2Proof.Machine.execPwrEnAssert lowMs report s
  | .pwrEnDeassert => Sys2Proof.Machine.execPwrEnDeassert s
  | .startFailure reason => Sys2Proof.Machine.execStartFailure reason s
  | .startRetry => Sys2Proof.Machine.execStartRetry s
  | .startTimeout => Sys2Proof.Machine.execStartTimeout s
  | .railFault rail => Sys2Proof.Machine.execRailFault rail s
  | .inputVoltageFault mv => Sys2Proof.Machine.execInputVoltageFault mv s
  | .inputVoltageBand mv => Sys2Proof.Machine.execInputVoltageBand mv s
  | .powerSample watts => Sys2Proof.Machine.execPowerSample watts s
  | .powerWindow mean => Sys2Proof.Machine.execPowerWindow mean s
  | .thermalTrip sensor reading => Sys2Proof.Machine.execThermalTrip sensor reading s
  | .sbTripN => Sys2Proof.Machine.execSbTripN s
  | .sbOffN => Sys2Proof.Machine.execSbOffN s
  | .sbResetN => Sys2Proof.Machine.execSbResetN s
  | .wardenWatchdog core => Sys2Proof.Machine.execWardenWatchdog core s
  | .hostWatchdogExpiry p => Sys2Proof.Machine.execHostWatchdogExpiry p s
  | .statusPush p => Sys2Proof.Machine.execStatusPush p s
  | .telemetryLog => Sys2Proof.Machine.execTelemetryLog s
  | .linkSample => Sys2Proof.Machine.execLinkSample s
  | .statusBlockRefresh => Sys2Proof.Machine.execStatusBlockRefresh s
  | .requestFirmwareData offset data => Sys2Proof.Machine.execRequestFirmwareData offset data s
  | .activateFirmware => Sys2Proof.Machine.execActivateFirmware s
  | .requestUpdate => Sys2Proof.Machine.execRequestUpdate s
  | .getMeasurements index nonce => Sys2Proof.Machine.execGetMeasurements index nonce s
  | .challenge slot nonce => Sys2Proof.Machine.execChallenge slot nonce s
  | .getCertificate slot offset length => Sys2Proof.Machine.execGetCertificate slot offset length s
  | .pldmSensorUpdate readings => Sys2Proof.Machine.execPldmSensorUpdate readings s
  | .flit port words t => Sys2Proof.Machine.execFlit port words t s
  | .startReady => Sys2Proof.Machine.execStartReady s
  | .powerLoss => Sys2Proof.Machine.execPowerLoss s
  | .wardenFault core => Sys2Proof.Machine.execWardenFault core s
  | .guestSiteFault site => Sys2Proof.Machine.execGuestSiteFault site s

end Sys2Proof.Machine
end

