-- ==== Sys2Proof/Machine/Words.lean ====
section
/-!
DEFINITION. The plate instruction word (R243, R244), and the words that spell the bench operations and the plate
instructions, written from the same layouts (R201, R202, R208, R214, R227, R229, R233, R235 to R238, R243, R244).
-/
namespace Sys2Proof.Machine

/-! ## Reading a plate instruction -/

/-- The plate instruction that a 64-bit word spells; none for a reserved opcode (R245). -/
def plateOf (p : Part) (plate : Fin 256) (w : Nat) : Option Instr :=
  let h (rsvd : Nat) : PlateHdr := { p, plate, rsvd := decide (rsvd ≠ 0) }
  let b5 (hi lo : Nat) : BitVec 5 := BitVec.ofNat 5 (field w hi lo)
  let reg (f : PlateHdr → BitVec 5 → BitVec 5 → BitVec 5 → BitVec 5 → BitVec 2 → Instr) : Option Instr :=
    some (f (h (field w 33 0)) (b5 55 51) (b5 50 46) (b5 45 41) (b5 40 36) (BitVec.ofNat 2 (field w 35 34)))
  let mem (f : PlateHdr → BitVec 5 → BitVec 3 → BitVec 5 → BitVec 2 → BitVec 24 → Instr) : Option Instr :=
    some (f (h (field w 40 24)) (b5 55 51) (BitVec.ofNat 3 (field w 50 48)) (b5 47 43) (BitVec.ofNat 2 (field w 42 41))
      (BitVec.ofNat 24 (field w 23 0)))
  let imm (f : PlateHdr → BitVec 5 → B32 → Instr) : Option Instr :=
    some (f (h (field w 50 32)) (b5 55 51) (BitVec.ofNat 32 (field w 31 0)))
  match field w 63 56 with
  | 0x00 => imm fun h _ _ => .plateNop h
  | 0x01 => imm fun h _ _ => .halt h
  | 0x02 => imm .loopc
  | 0x03 => imm .setc
  | 0x04 => imm .setp
  | 0x05 => imm .addp
  | 0x06 => imm .movi
  | 0x08 => mem .ld
  | 0x09 => mem .st
  | 0x0A => mem .ldb
  | 0x0B => mem .ldbit
  | 0x0C => mem .stbit
  | 0x0D => mem .fxadd
  | 0x0E => mem .ldx
  | 0x10 => reg .fadd
  | 0x11 => reg .fsub
  | 0x12 => reg .fmul
  | 0x13 => reg .ffma
  | 0x14 => reg .fdiv
  | 0x15 => reg .fsqrt
  | 0x16 => reg .fmax
  | 0x17 => reg .fmin
  | 0x18 => reg .fneg
  | 0x19 => reg .fabs
  | 0x1A => reg .fcmplt
  | 0x1B => reg .fsel
  | 0x1C => reg .laneid
  | 0x20 => reg .exp
  | 0x21 => reg .exp2
  | 0x22 => reg .log
  | 0x23 => reg .log2
  | 0x24 => reg .rcp
  | 0x25 => reg .rsqrt
  | 0x26 => reg .tanh
  | 0x27 => reg .sigm
  | 0x28 => reg .erf
  | 0x30 => reg .rmax
  | 0x31 => reg .rsum
  | 0x38 => mem .draw
  | _ => none

/-! ## Words that spell them -/

/-- A plate word of the register form, its reserved field zero. -/
def regWord (op : Nat) (d s1 s2 s3 : BitVec 5) (rnd : BitVec 2) : Nat :=
  op * 2 ^ 56 + d.toNat * 2 ^ 51 + s1.toNat * 2 ^ 46 + s2.toNat * 2 ^ 41 + s3.toNat * 2 ^ 36 + rnd.toNat * 2 ^ 34

/-- A plate word of the memory form. -/
def memWord (op : Nat) (v : BitVec 5) (pr : BitVec 3) (fmt : BitVec 5) (rnd : BitVec 2) (off : BitVec 24) : Nat :=
  op * 2 ^ 56 + v.toNat * 2 ^ 51 + pr.toNat * 2 ^ 48 + fmt.toNat * 2 ^ 43 + rnd.toNat * 2 ^ 41 + off.toNat

/-- A plate word of the immediate form. -/
def immWord (op : Nat) (target : BitVec 5) (imm : B32) : Nat := op * 2 ^ 56 + target.toNat * 2 ^ 51 + imm.toNat

/-- The word of a plate instruction with its reserved bits zero; none for a command that is no plate instruction. -/
def plateWord (i : Instr) : Option Nat :=
  match i with
  | .plateNop _ => some (immWord 0x00 0 0)
  | .halt _ => some (immWord 0x01 0 0)
  | .loopc _ t x => some (immWord 0x02 t x)
  | .setc _ t x => some (immWord 0x03 t x)
  | .setp _ t x => some (immWord 0x04 t x)
  | .addp _ t x => some (immWord 0x05 t x)
  | .movi _ t x => some (immWord 0x06 t x)
  | .ld _ v p f r o => some (memWord 0x08 v p f r o)
  | .st _ v p f r o => some (memWord 0x09 v p f r o)
  | .ldb _ v p f r o => some (memWord 0x0A v p f r o)
  | .ldbit _ v p f r o => some (memWord 0x0B v p f r o)
  | .stbit _ v p f r o => some (memWord 0x0C v p f r o)
  | .fxadd _ v p f r o => some (memWord 0x0D v p f r o)
  | .ldx _ v p f r o => some (memWord 0x0E v p f r o)
  | .fadd _ d a b c r => some (regWord 0x10 d a b c r)
  | .fsub _ d a b c r => some (regWord 0x11 d a b c r)
  | .fmul _ d a b c r => some (regWord 0x12 d a b c r)
  | .ffma _ d a b c r => some (regWord 0x13 d a b c r)
  | .fdiv _ d a b c r => some (regWord 0x14 d a b c r)
  | .fsqrt _ d a b c r => some (regWord 0x15 d a b c r)
  | .fmax _ d a b c r => some (regWord 0x16 d a b c r)
  | .fmin _ d a b c r => some (regWord 0x17 d a b c r)
  | .fneg _ d a b c r => some (regWord 0x18 d a b c r)
  | .fabs _ d a b c r => some (regWord 0x19 d a b c r)
  | .fcmplt _ d a b c r => some (regWord 0x1A d a b c r)
  | .fsel _ d a b c r => some (regWord 0x1B d a b c r)
  | .laneid _ d a b c r => some (regWord 0x1C d a b c r)
  | .exp _ d a b c r => some (regWord 0x20 d a b c r)
  | .exp2 _ d a b c r => some (regWord 0x21 d a b c r)
  | .log _ d a b c r => some (regWord 0x22 d a b c r)
  | .log2 _ d a b c r => some (regWord 0x23 d a b c r)
  | .rcp _ d a b c r => some (regWord 0x24 d a b c r)
  | .rsqrt _ d a b c r => some (regWord 0x25 d a b c r)
  | .tanh _ d a b c r => some (regWord 0x26 d a b c r)
  | .sigm _ d a b c r => some (regWord 0x27 d a b c r)
  | .erf _ d a b c r => some (regWord 0x28 d a b c r)
  | .rmax _ d a b c r => some (regWord 0x30 d a b c r)
  | .rsum _ d a b c r => some (regWord 0x31 d a b c r)
  | .draw _ v p f r o => some (memWord 0x38 v p f r o)
  | _ => none

/-- The partition and plate of a plate instruction whose reserved bits are zero. -/
def plateSeat (i : Instr) : Option PlateHdr :=
  match i with
  | .plateNop h | .halt h | .loopc h _ _ | .setc h _ _ | .setp h _ _ | .addp h _ _ | .movi h _ _ => some h
  | .ld h _ _ _ _ _ | .st h _ _ _ _ _ | .ldb h _ _ _ _ _ | .ldbit h _ _ _ _ _ | .stbit h _ _ _ _ _ => some h
  | .fxadd h _ _ _ _ _ | .ldx h _ _ _ _ _ | .draw h _ _ _ _ _ => some h
  | .fadd h _ _ _ _ _ | .fsub h _ _ _ _ _ | .fmul h _ _ _ _ _ | .ffma h _ _ _ _ _ | .fdiv h _ _ _ _ _ => some h
  | .fsqrt h _ _ _ _ _ | .fmax h _ _ _ _ _ | .fmin h _ _ _ _ _ | .fneg h _ _ _ _ _ | .fabs h _ _ _ _ _ => some h
  | .fcmplt h _ _ _ _ _ | .fsel h _ _ _ _ _ | .laneid h _ _ _ _ _ | .exp h _ _ _ _ _ | .exp2 h _ _ _ _ _ => some h
  | .log h _ _ _ _ _ | .log2 h _ _ _ _ _ | .rcp h _ _ _ _ _ | .rsqrt h _ _ _ _ _ | .tanh h _ _ _ _ _ => some h
  | .sigm h _ _ _ _ _ | .erf h _ _ _ _ _ | .rmax h _ _ _ _ _ | .rsum h _ _ _ _ _ => some h
  | _ => none

/-- The first 34 bits of a bench word (R201): opcode, PRIO and tags; the operand is what the opcode gives it. -/
def benchHead (op : Nat) (b : BenchHdr) : Nat :=
  op * 2 ^ 120 + b.prio.toNat * 2 ^ 118 + b.outTag.toNat * 2 ^ 112 + b.in0.toNat * 2 ^ 106 + b.in1.toNat * 2 ^ 100 +
    b.in2.toNat * 2 ^ 94

/-- The word of a stitch operation (R233). -/
def stitchWord (op : Nat) (b : BenchHdr) (pos : BitVec 6) (stitch : B16) (epoch : Byte) (arg : Addr) : Nat :=
  benchHead op b + pos.toNat * 2 ^ 88 + stitch.toNat * 2 ^ 72 + epoch.toNat * 2 ^ 64 + arg.toNat

/-- The word of COPY or COPY_ADD (R227). -/
def copyWord (op : Nat) (b : BenchHdr) (src dst : BitVec 40) (pos : BitVec 6) (n : Byte) : Nat :=
  benchHead op b + src.toNat * 2 ^ 54 + dst.toNat * 2 ^ 14 + pos.toNat * 2 ^ 8 + n.toNat

/-- The word of a bench operation with its reserved bits zero; none for a command that is no bench operation. -/
def benchWord (i : Instr) : Option Nat :=
  match i with
  | .nop b => some (benchHead 0x00 b)
  | .endOp b => some (benchHead 0x01 b)
  | .jump b n a => some (benchHead 0x02 b + n.toNat * 2 ^ 80 + a.toNat)
  | .fence b => some (benchHead 0x03 b)
  | .array b a => some (benchHead 0x10 b + a.toNat)
  | .vrun b f l e sd a =>
    some (benchHead 0x18 b + f.toNat * 2 ^ 86 + l.toNat * 2 ^ 78 + e.toNat * 2 ^ 67 + sd.toNat * 2 ^ 61 + a.toNat)
  | .copy b x y pos n => some (copyWord 0x20 b x y pos n)
  | .copyRouted b r a => some (benchHead 0x21 b + r.toNat * 2 ^ 92 + a.toNat)
  | .copyAdd b x y pos n => some (copyWord 0x22 b x y pos n)
  | .stSignal b pos x e a => some (stitchWord 0x30 b pos x e a)
  | .stWait b pos x e a => some (stitchWord 0x31 b pos x e a)
  | .stLock b pos x e a => some (stitchWord 0x32 b pos x e a)
  | .stUnlock b pos x e a => some (stitchWord 0x33 b pos x e a)
  | .stRead b pos x e a => some (stitchWord 0x34 b pos x e a)
  | .cadMark b pos => some (benchHead 0x40 b + pos.toNat)
  | .posDraw b pos => some (benchHead 0x41 b + pos.toNat)
  | .veto b a => some (benchHead 0x60 b + a.toNat)
  | .planish b a => some (benchHead 0x70 b + a.toNat)
  | _ => none

/-- The header of a bench operation. -/
def benchSeat (i : Instr) : Option BenchHdr :=
  match i with
  | .nop b | .endOp b | .jump b _ _ | .fence b | .array b _ | .vrun b _ _ _ _ _ | .copy b _ _ _ _ => some b
  | .copyRouted b _ _ | .copyAdd b _ _ _ _ | .stSignal b _ _ _ _ | .stWait b _ _ _ _ | .stLock b _ _ _ _ => some b
  | .stUnlock b _ _ _ _ | .stRead b _ _ _ _ | .cadMark b _ | .posDraw b _ | .veto b _ | .planish b _ => some b
  | _ => none

end Sys2Proof.Machine
end

