-- ==== Sys2Proof/Machine/Tick.lean ====
section
/-!
DEFINITION. What the block does by itself when no command waits (DESIGN CHOICE): an accepted host command starts, a
message delivered by the links is taken, a folio rollback runs, the bench of a partition makes its pick (R198, R199), a
plate runs an instruction (R242), or the translation layer of the flash rewrites or judges a unit (R384, R385). Where
several can, a free value says which.
-/
namespace Sys2Proof.Machine

/-- An outcome that does not come to anything is no step of the block's own. -/
def stateOf (o : Host.Outcome State Fault Refusal) : Option State :=
  match o with
  | .next t => some t
  | _ => none

/-! ## Host commands, messages and rollbacks -/

/-- The first accepted command of a partition starts, unless it has to wait (R629, R630, R635). -/
def startAccepted (s : State) (p : Part) : Option State :=
  match (s.part p).host.accepted with
  | [] => none
  | i :: rest =>
    (stateOf (exec i (s.updHost p fun h => { h with accepted := rest, starting := true }))).filter fun t =>
      decide ((t.part p).host.accepted.length ≤ rest.length)

/-- The first message that the links have delivered is taken. -/
def takeMessage (s : State) : Option State :=
  match s.vesin.inbox with
  | [] => none
  | i :: rest => stateOf (exec i { s with vesin := { s.vesin with inbox := rest, applying := s.vesin.applying.drop 1 } })

/-- A folio rollback that only waited for operations in flight runs (R576). -/
def rollbackNow (s : State) (p : Part) : Option State :=
  if (s.part p).res.rollTo.isSome && (s.part p).bench.flight.isEmpty then some (runRollback p s) else none

/-! ## The bench (R198, R199) -/

/-- The word at the head of a stream. -/
def headWord (s : State) (p : Part) (st : Strm) : Except Halt Nat :=
  match fetchRec s p (s.stream p st).head.toNat 16 16 with
  | .error e => .error e
  | .ok bytes => .ok (leNat bytes)

/-- The header of a bench word, whatever its opcode (R201). -/
def headHdr (p : Part) (st : Strm) (w : Nat) : BenchHdr :=
  ((benchOf p st (w % 2 ^ 120)).bind benchSeat).getD { p, st }

/-- A head that waits for a stitch registers with its bank, if it has not (R445). -/
def registerHeadOf (p : Part) (s : State) (st : Strm) : State :=
  match headWord s p st with
  | .error _ => s
  | .ok w => match benchOf p st w with
    | some (.stWait b pos stitch _ arg) => if pos = 63 then registerWait b false stitch (arg.setWidth 32) s else s
    | some (.stLock b pos stitch _ _) => if pos = 63 then registerWait b true stitch 0 s else s
    | _ => s

/-- The head of a stream is tried: the state it leaves, the same but for counters where it is not ready; one that issues has
been read (R370). -/
def tryHead (p : Part) (st : Strm) (s : State) : State :=
  match headWord s p st with
  | .error e => benchOp { p, st } (fun _ => true) (fun _ => .error e) s
  | .ok w => match benchOf p st w with
    | some i =>
      let t := (stateOf (exec i s)).getD s
      if t.stream p st = s.stream p st then t else touchRead p (s.stream p st).head.toNat 16 t
    | none => benchOp (headHdr p st w) (fun _ => true) (fun _ => .error { code := ftBadOp }) s

/-- The PRIO of a head; 0 where it cannot be read. -/
def headPrio (s : State) (p : Part) (st : Strm) : Nat :=
  match headWord s p st with
  | .error _ => 0
  | .ok w => field w 119 118

/-- The streams in RUN in the order of R199: the higher PRIO first, then BWD, FWD, UPD, SVC. -/
def pickOrder (s : State) (p : Part) : List Strm :=
  let l := [1, 0, 2, 3].filter fun st => (s.stream p st).state = .run
  [3, 2, 1, 0].flatMap fun k => l.filter fun st => headPrio s p st = k

/-- Tries heads in order until one issues or faults. -/
def tryHeads (p : Part) : List Strm → State → State
  | [], s => s
  | st :: rest, s =>
    let t := tryHead p st s
    if t.stream p st = s.stream p st then tryHeads p rest t else t

/-- The bench of a partition: waits register, then one head issues. A draw of a free value counts a wait for plate slots
(R256). -/
def benchTurn (s : State) (p : Part) : Option State :=
  if (pickOrder s p).isEmpty then none
  else
    let t := (pickOrder s p).foldl (registerHeadOf p) s
    if (t.part p).bench.streams ≠ (s.part p).bench.streams then some t
    else
      let t := tryHeads p (pickOrder s p) s
      if (t.part p).bench.streams = (s.part p).bench.streams ∧ t.freeCtr = s.freeCtr then none else some t

/-! ## The plates (R242 to R245) -/

/-- The instruction that an instance runs next, as its meaning. -/
def plateNext (p : Part) (k : Nat) (i : Inst) (s : State) : State :=
  if 2048 ≤ i.pc then failVrun p i.vrun ftPlateField s
  else match plateOf p (Fin.ofNat 256 k) (Map.getD (s.part p).bench.prog i.pc 0).toNat with
    | some c => (stateOf (exec c s)).getD s
    | none => failVrun p i.vrun ftPlateOpcode s

/-- The plates of a partition that run an instance, with it. -/
def plateTurns (s : State) (p : Part) : List State :=
  if !holdsArray s p then []
  else (s.part p).bench.insts.filterMap fun e => (e.2.head?).map fun i => plateNext p e.1 i s

/-! ## The choice -/

/-- Everything the block can do by itself next: in minimal mode only commands of function 0 start (R734). -/
def ownSteps (s : State) : List State :=
  if s.power.stage = .minimal then (startAccepted s 0).toList
  else if s.power.stage ≠ .ready then []
  else
    four.filterMap (startAccepted s) ++ (takeMessage s).toList ++ four.filterMap (rollbackNow s) ++
      four.filterMap (benchTurn s) ++ four.flatMap (plateTurns s) ++ (rewriteUnit s).toList ++ (proveUnit s).toList

/-- What the block does by itself: nothing where nothing can happen; where several things can, a free value chooses. -/
def ownStep (s : State) : State :=
  match ownSteps s with
  | [] => s
  | [t] => t
  | _ :: _ :: _ =>
    let l := ownSteps s.tick
    (l[Config.freeNat s.freeCtr % l.length]?).getD s.tick

end Sys2Proof.Machine
end

