-- ==== Sys2Proof/Machine/Step.lean ====
section
/-!
DEFINITION. One step of the block: the command at the front of its queue, or what the block does by itself.
-/
namespace Sys2Proof.Machine

/-- Takes the command at the front of the queue and answers its outcome. On an empty queue the block does the next
thing it does by itself (`ownStep`, DESIGN CHOICE), or idles. -/
def step (s : State) : Host.Outcome State Fault Refusal :=
  match s.pending with
  | c :: rest => exec c { s with pending := rest }
  | [] => .next (ownStep s)

/-- The state with the command that a word spells at the front of the queue; the same state where it spells none. -/
def State.withFetchWord (s : State) (nbits w : Nat) : State :=
  match Sys2Proof.decodeTableWord nbits w with
  | some c => { s with pending := c :: s.pending }
  | none => s

end Sys2Proof.Machine
end

