-- ==== Sys2Proof/Safety.lean ====
section
/-!
DEFINITION. The terms the statements use: a step that completes, when a host command may run, when a bench head may issue,
when a message takes effect, and when a plate instruction runs.
-/
namespace Sys2Proof

open Machine

/-- A step that answers a next state: no fault, and no command without a meaning. -/
def Completes (s : Machine.State) : Prop := ∃ t, Machine.step s = .next t

/-! ## When commands run -/

/-- A host command may start and passes the checks before its own (R609, R629 to R631, R635). -/
def MayRun (info : CmdInfo) (h : CmdHdr) (s : Machine.State) : Prop :=
  ((s.part h.fn).host.pstate = .opened ∨ (s.part h.fn).host.starting = true) ∧
    canStart (s.part h.fn).host info.long (cmdFence h) = true ∧ cmdChecks info h false s = none

/-- The state in which a host command has left the accepted commands. -/
def begun (h : CmdHdr) (s : Machine.State) : Machine.State :=
  s.updHost h.fn fun x => { x with starting := false }

/-- A short host command answers OK with a RESULT, over the state its effect leaves (R632, R658). -/
def Answers (i : Instr) (h : CmdHdr) (op : B16) (r : B128) (s t : Machine.State) : Prop :=
  exec i s = .next (finishShort h op stOk r t)

/-- A head of the bench is ready but for what its kind asks beyond R198's general lines, and has no reserved bit set. -/
def MayIssue (b : BenchHdr) (s : Machine.State) : Prop := headReady b s = true ∧ b.rsvd = false

/-- No operation has been in flight together with an operation, and no delivery job runs beside it (R207, R301); for a
delivery job, no operation is in flight. -/
def Alone (s : Machine.State) (p : Part) (n : Option Nat) : Prop := rivals s p n = []

/-- A message is neither misrouted nor a duplicate, nor outside the window (R514, R523, R590). -/
def Accepted (m : MsgHdr) (s : Machine.State) : Prop :=
  misrouted m s = false ∧ seqNew s m.src.toNat m.seq.toNat = true ∧ stillApplied m s = false

/-- A message without a reply has its effect, a change of the state `s` into `t`, and its number is recorded. -/
def Delivers (i : Instr) (m : MsgHdr) (s t : Machine.State) : Prop :=
  exec i s = .next (recordSeq m.src.toNat m.seq.toNat stOk t)

/-- A message with a reply has its effect; its number is recorded with the status that the reply brings. -/
def Replies (i : Instr) (m : MsgHdr) (reply : B64 → B16 → MsgBody) (st : B16) (s t : Machine.State) : Prop :=
  exec i s = .next (sendMsg m.src.toNat (reply m.seq st) .none (recordSeq m.src.toNat m.seq.toNat st t))

/-- A plate runs the instance `i` of the partition that holds the array, before the instances `rest`; no reserved bit is
set. -/
def Runs (h : PlateHdr) (i : Inst) (rest : List Inst) (s : Machine.State) : Prop :=
  plateInsts s h.p h.plate.val = i :: rest ∧ holdsArray s h.p = true ∧ h.rsvd = false

end Sys2Proof
end

