-- ==== Sys2Proof/Certificates/Slice0/Obligations.lean ====
section
/-!
DEFINITION. The statements for the provers.
-/
open Sys2Proof Sys2Proof.Machine

/-! ## The step, reset, and the host interface -/

/-- A step with a command in the queue runs the first one with the queue's rest, and leaves the choice to no one else. It
takes in the model's own reading or choice in log entry 1. -/
def Obligations.StepRunsFrontCommand : Prop :=
  ∀ (s : State) (c : Instr) (rest : List Instr),
    s.pending = c :: rest → step s = exec c { s with pending := rest }

/-- R605, R615, R195, R347 after device reset: what the rules name is at the value they give, and nothing waits. It takes
in the model's own reading or choice in log entries 6, 9. -/
def Obligations.ResetValues : Prop :=
  let s := State.reset
  s.pending = [] ∧ s.mem = [] ∧ memWf s ∧ s.stitches = [] ∧ s.acl = [] ∧ s.host.tsEn = false ∧ s.host.arrayOwner = 0 ∧
    s.host.alertN = true ∧ s.vesin.fvalid = false ∧
    ∀ p : Part, (s.part p).host.pstate = .closed ∧ (s.part p).host.seqNext = 0 ∧ (s.part p).tier.objects = [] ∧
      (s.part p).cad.pos = 0 ∧ (s.part p).cad.role = .standalone ∧ s.host.quantum.get p = 1000 ∧
      ∀ st : Strm, (s.stream p st).state = .idle

/-- R631: the order of the checks at a command's start. The first clause is an accepted packet whose opcode is not listed,
which waits as it came; the second says that a check which fails ends the command there, before its own checks. -/
def Obligations.CommandCheckOrder : Prop :=
  (∀ (fn : Part) (slot : Fin 64) (pk data : List Byte) (s : State),
    let h := (Packet.of fn pk).hdr 0 []
    (s.part fn).host.starting = true → canStart (s.part fn).host false (cmdFence h) = true →
    exec (.commandSeal fn slot pk data) s =
      .next (finishShort h (BitVec.ofNat 16 (Packet.of fn pk).op) 0x0020 0 (begun h s))) ∧
  (∀ (info : CmdInfo) (i : Instr) (h : CmdHdr) (params : List Byte) (bad : Bool) (act : State → CmdOut × State) (st : B16)
    (s : State), (s.part h.fn).host.pstate = .opened ∨ (s.part h.fn).host.starting = true →
    canStart (s.part h.fn).host info.long (cmdFence h) = true → cmdChecks info h bad s = some st →
    hostCmd info i h params bad act s = finishShort h info.opcode st 0 (begun h s)) ∧
  ∀ (info : CmdInfo) (h : CmdHdr) (bad : Bool) (s : State),
    (s.minimal = true ∧ info.minimal = false → cmdChecks info h bad s = some 0x0080) ∧
    (¬(s.minimal = true ∧ info.minimal = false) →
      (h.partition.toNat ≠ h.fn.val ∨ issuerOk s info.issuer h.fn = false → cmdChecks info h bad s = some 0x0030) ∧
      (h.partition.toNat = h.fn.val ∧ issuerOk s info.issuer h.fn = true →
        (bad = true ∨ h.rsvd = true ∨ 4 ≤ h.flags.toNat → cmdChecks info h bad s = some 0x0021) ∧
        (bad = false ∧ h.rsvd = false ∧ h.flags.toNat < 4 → cmdChecks info h bad s = none)))

/-- R632 and the entries of R658: with QUIET, OK and ACCEPTED bring no reply and their entry all the same. A short command has
one COMMAND entry with its status and RESULT, then its reply; memory, the objects, the streams and the other partitions stay as
they are. A long command has an ACCEPT entry at its start and a DONE entry at its end. -/
def Obligations.QuietCommandsWriteNoReply : Prop :=
  (∀ (h : CmdHdr) (op st : B16) (r : B128) (s : State),
    let t := finishShort h op st r s
    let a := (s.part h.fn).host
    let b := (t.part h.fn).host
    b.jseq = a.jseq + 1 ∧
      Map.find? b.journal ((a.jseq + 1).toNat % 4096) = some
        { jseq := a.jseq + 1, time := s.timeOf h.fn, pos := (s.part h.fn).cad.pos, kind := 0x0001, status := st, opcode := op
          tag := h.tag, seq := h.seq, detail := r.setWidth 224 } ∧
      (h.flags.getLsbD 1 = true ∧ st = 0 → b.replyTail = a.replyTail ∧ b.held = a.held) ∧
      (¬(h.flags.getLsbD 1 = true ∧ st = 0) → a.ringLog2 ≠ 0 → a.held = [] → a.pstate = .opened →
        (a.replyTail - a.replyHead).toNat < 2 ^ a.ringLog2.toNat → b.replyTail = a.replyTail + 1 ∧ b.held = []) ∧
      t.mem = s.mem ∧ t.flash = s.flash ∧ t.stitches = s.stitches ∧ t.array = s.array ∧ t.vesin = s.vesin ∧
      (t.part h.fn).tier = (s.part h.fn).tier ∧ (t.part h.fn).bench = (s.part h.fn).bench ∧
      (t.part h.fn).cad = (s.part h.fn).cad ∧ ∀ q, q ≠ h.fn → t.part q = s.part q) ∧
  (∀ (h : CmdHdr) (op : B16) (params : List Byte) (w : LongWork) (s : State), h.flags.getLsbD 1 = true →
    let t := startLong h op params w s
    let a := (s.part h.fn).host
    let b := (t.part h.fn).host
    b.replyTail = a.replyTail ∧ b.held = a.held ∧ b.jseq = a.jseq + 1 ∧
      Map.find? b.journal ((a.jseq + 1).toNat % 4096) = some
        { jseq := a.jseq + 1, time := s.timeOf h.fn, pos := (s.part h.fn).cad.pos, kind := 0x0002, status := 0x0001, opcode := op
          tag := h.tag, seq := h.seq, detail := BitVec.ofNat 224 (leNat (params.take 20)) }) ∧
  ∀ (p : Part) (i : Nat) (c : LongCmd) (r : B128) (s : State), Map.find? (s.part p).host.longs i = some c →
    c.quiet = true →
    let t := finishLong p i 0 r s
    let a := (s.part p).host
    let b := (t.part p).host
    b.replyTail = a.replyTail ∧ b.held = a.held ∧ b.longs = Map.erase a.longs i ∧ b.jseq = a.jseq + 1 ∧
      Map.find? b.journal ((a.jseq + 1).toNat % 4096) = some
        { jseq := a.jseq + 1, time := s.timeOf p, pos := (s.part p).cad.pos, kind := 0x0003, status := 0, opcode := c.opcode
          tag := c.tag, seq := c.seq, detail := r.setWidth 224 ||| place 224 128 c.ajseq.toNat }

/-- R634, with the layout of R633: reply i goes to index i mod 2^n of the ring in one write of 32 bytes, PHASE 1 on the first
pass and 0 on the second; a ring with n outside 6 to 16, or not aligned to 64 bytes, is refused. Replies are counted from 0
at open and at attach, where the open's own reply is the first. -/
def Obligations.ReplyPlaceAndPhase : Prop :=
  (∀ (p : Part) (r : Reply) (s : State),
    let a := (s.part p).host
    let i := a.replyTail.toNat
    let n := a.ringLog2.toNat
    let t := writeReply p r s
    let bytes := leBytes 16 r.result.toNat ++ leBytes 4 (if i / 2 ^ n % 2 = 0 then 2 ^ 31 else 0) ++ leBytes 4 r.jseq.toNat ++
      leBytes 4 r.seq.toNat ++ leBytes 2 r.status.toNat ++ leBytes 2 r.tag.toNat
    (t.part p).host.replyTail = a.replyTail + 1 ∧ bytes.length = 32 ∧
      t.host.hostMem = (hostWrite p (a.ringBase + BitVec.ofNat 64 (32 * (i % 2 ^ n))) bytes s).host.hostMem) ∧
  ∀ (h : CmdHdr) (ring : B64) (n opt : Byte) (s : State), (s.part h.fn).host.starting = false →
    (s.minimal = true → h.fn = 0) → h.partition.toNat = h.fn.val →
    ((s.part h.fn).host.pstate = .closed → ring.toNat % 64 ≠ 0 ∨ n.toNat < 6 ∨ 16 < n.toNat →
      exec (.partOpen h ring n 0) s =
        .next (finishShort h 0x0101 0x0021 0 (s.updHost h.fn fun x => { x with slots := [] }))) ∧
    ((s.part h.fn).host.pstate = .closed ∧ opt = 0 ∨
        (s.part h.fn).host.pstate = .detached ∧ opt = 1 ∧ h.seq = (s.part h.fn).host.seqNext →
      ring.toNat % 64 = 0 → 6 ≤ n.toNat → n.toNat ≤ 16 → h.rsvd = false → h.flags.toNat < 4 →
      ∃ t, exec (.partOpen h ring n opt) s = .next t ∧ (t.part h.fn).host.pstate = .opened ∧
        (t.part h.fn).host.ringBase = ring ∧ (t.part h.fn).host.ringLog2.toNat = n.toNat ∧
        ((s.part h.fn).host.held = [] → (t.part h.fn).host.replyHead = 0 ∧
          (t.part h.fn).host.replyTail = if h.flags.getLsbD 1 then 0 else 1))

/-- R632, R640, R649: the commands that answer or record, each over a partition's state otherwise as it was. -/
def Obligations.QueryCommandsAnswer : Prop :=
  ∀ (h : CmdHdr) (s : State),
    (MayRun { opcode := 0x0100, minimal := true } h s →
      Answers (.devInfo h) h 0x0100
        (place 128 64 s.serial.toNat ||| place 128 48 (if s.isMG then 1 else 0) |||
          place 128 40 s.popCode ||| place 128 32 0xB1 |||
          place 128 0 s.power.runVersion.toNat) s (begun h s)) ∧
    (∀ echo, MayRun { opcode := 0x0900, minimal := true } h s →
      Answers (.ping h echo) h 0x0900 echo s (begun h s)) ∧
    (∀ text, MayRun { opcode := 0x0902, minimal := true } h s →
      Answers (.journalMark h text) h 0x0902 0 s (journal h.fn 0x0071 0 0 0 0 (text.setWidth 224) (begun h s))) ∧
    (∀ addr, MayRun { opcode := 0x0901 } h s →
      Answers (.regSnapshot h addr) h 0x0901 0 s (hostWrite h.fn addr (windowBytes (begun h s) h.fn) (begun h s))) ∧
    (MayRun { opcode := 0x0903, minimal := true, issuer := .p0 } h s →
      Answers (.crashClear h) h 0x0903 0 s
        { begun h s with host := { s.host with crash := {} } })

/-- R606, R612, R613, R614, R635, R640, R661: the commands and keys that open, close and reset. It takes in the model's
own reading or choice in log entry 194. -/
def Obligations.PartitionCommandsRun : Prop :=
  (∀ (h : CmdHdr) (ring : B64) (n : Byte) (s : State),
    (s.part h.fn).host.pstate = .closed → (s.part h.fn).host.starting = false →
    cmdChecks { opcode := 0x0101, minimal := decide (h.fn = 0) } h false s = none →
    ring.toNat % 64 = 0 → 6 ≤ n.toNat → n.toNat ≤ 16 → (s.part h.fn).host.held = [] →
    ∃ t, exec (.partOpen h ring n 0) s = .next t ∧ (t.part h.fn).host.pstate = .opened ∧
      (t.part h.fn).host.ringBase = ring ∧ (t.part h.fn).host.ringLog2.toNat = n.toNat ∧
      (t.part h.fn).host.seqNext = h.seq + 1 ∧ t.mem = s.mem) ∧
  (∀ (h : CmdHdr) (s : State), MayRun { opcode := 0x0102 } h s →
    Answers (.partClose h) h 0x0102 0 s
      ((partitionReset h.fn 3 (begun h s)).2.updHost h.fn fun x => { x with pstate := .closed, slots := [] })) ∧
  (∀ (h : CmdHdr) (s : State), MayRun { opcode := 0x0103, minimal := true } h s →
    Answers (.partReset h) h 0x0103
      (place 128 0 (min ((s.part h.fn).host.accepted.length + (s.part h.fn).host.longs.length) 0xFFFF)) s
      (partitionReset h.fn 1 (begun h s)).2) ∧
  (∀ (h : CmdHdr) (s : State), MayRun { opcode := 0x0104, minimal := true, issuer := .p0 } h s →
    exec (.devReset h) s = .next (deviceReset 5 (begun h s))) ∧
  (∀ (p : Part) (s : State), exec (.hstResetPartition p) s = .next (partitionReset p 2 s).2) ∧
  (∀ (s : State), exec (.hstResetDevice 0) s = .next (deviceReset 5 s)) ∧
  (∀ (p : Part) (v : B32) (s : State), (s.part p).host.held = [] →
    exec (.hstReplyHead p v) s = .next (s.updHost p fun x => { x with replyHead := v })) ∧
  (∀ (p : Part) (i : Nat) (u : TimerUse) (s : State), timerOf s 0x10 p = some (i, u) →
    exec (.hstHeartbeat p) s =
      .next { s with host := { s.host with timers := Map.insert s.host.timers i { u with beats := u.beats + 1 } } })

/-- R605, and of R613 what device reset leaves of each partition and of memory. It takes in the model's own reading or
choice in log entries 9, 200, 201. -/
def Obligations.DeviceResetClears : Prop :=
  ∀ (cause : Nat) (s : State) (p : Part),
    let t := deviceReset cause s
    ((s.part p).host.pstate = .closed ∨ (s.part p).host.pstate = .opened ∨ (s.part p).host.pstate = .detached) ∧
      (t.part p).host.pstate = .closed ∧ (t.part p).host.seqNext = 0 ∧ (t.part p).host.jseq = 1 ∧
      (t.part p).host.journal = [(1, { resetEntry with
        detail := place 224 216 cause |||
          place 224 200 (((s.part p).host.accepted.length + (s.part p).host.longs.length) % 2 ^ 16) })] ∧
      (t.part p).tier.objects = [] ∧ t.stitches = [] ∧ t.pending = s.pending ∧ t.host.crash = s.host.crash ∧
      t.flash.regions = s.flash.regions ∧ t.images = s.images ∧
      ∀ k, k / 2 ^ 60 < 4 → t.cell k = 0

/-- R612, R658: what partition reset leaves of the partition, whose PSTATE and quotas it keeps, and the RESET entry that
ends it. The clauses after the condition are for a partition outside the folio; the folio partition's links have their
part besides (R536, R571). It takes in the model's own reading or choice in log entries 169, 204. -/
def Obligations.PartitionResetClears : Prop :=
  ∀ (p : Part) (cause : Nat) (s : State),
    let t := (partitionReset p cause s).2
    (t.part p).cad.pos = 0 ∧ (t.part p).cad.role = .standalone ∧ (t.part p).cad.events = [] ∧
      (t.part p).host.accepted = [] ∧ (t.part p).host.longs = [] ∧
      (∃ e, Map.find? (t.part p).host.journal ((t.part p).host.jseq.toNat % 4096) = some e ∧ e.kind = 0x0070 ∧
        field e.detail.toNat 223 216 = cause % 256) ∧
      (s.folioPart ≠ some p →
        (∀ st, (t.stream p st).state = .idle) ∧ (t.part p).bench.flight = [] ∧
          (t.part p).host.pstate = (s.part p).host.pstate ∧ (t.part p).host.seqNext = (s.part p).host.seqNext ∧
          (t.part p).host.ringBase = (s.part p).host.ringBase ∧
          (t.part p).tier.quotaHbm = (s.part p).tier.quotaHbm ∧
          (t.part p).tier.stakeBase = (s.part p).tier.stakeBase ∧
          (t.part p).stc.base = (s.part p).stc.base ∧ (t.part p).stc.count = (s.part p).stc.count ∧
          (cause = 3 → (t.part p).tier.objects = []))

/-- R358, R440, R615, R616, R640, R651: quotas, sharing of the array and warden timers. It takes in the model's own
reading or choice in log entries 193, 195. -/
def Obligations.SharingCommandsRun : Prop :=
  (∀ (h : CmdHdr) (part : Byte) (hbm bulk : B32) (lo hi base n : Byte) (s : State),
    let p : Part := Fin.ofNat 4 part.toNat
    let v : Quotas := ⟨hbm, bulk, lo, hi, base, n⟩
    let r := (s.part p).stc
    MayRun { opcode := 0x0105, issuer := .p0 } h s → part.toNat ≤ 3 → quotaBad (begun h s) p v = false →
    r.base = base → r.count = n → rangeBusy (begun h s) p v = false →
    (framesOf (begun h s) p .hbm 0).length ≤ hbm.toNat → (framesOf (begun h s) p .bulk 0).length ≤ bulk.toNat →
    anyRunning (begun h s) p = false → hbm.toNat ≤ (s.part p).tier.quotaHbm.toNat →
    bulk.toNat ≤ (s.part p).tier.quotaBulk.toNat →
    Answers (.setQuota h part hbm bulk lo hi base n) h 0x0105 0 s
      ((begun h s).updTier p fun t =>
        { t with quotaHbm := hbm, quotaBulk := bulk, stakeBase := lo, stakeLimit := hi })) ∧
  (∀ (h : CmdHdr) (owner : Byte) (q0 q1 q2 q3 : B32) (s : State),
    MayRun { opcode := 0x0106, issuer := .p0 } h s → owner.toNat ≤ 3 →
    (∀ q ∈ [q0, q1, q2, q3], 20 ≤ q.toNat ∧ q.toNat ≤ 100000) → s.host.staging = .free → s.host.tsEn = false →
    (∀ p : Part, (s.part p).host.pstate ≠ .closed → (s.part p).bench.ctxSet = true) →
    Answers (.timeshare h 1 owner q0 q1 q2 q3) h 0x0106 0 s
      { begun h s with
        host := { s.host with
          arrayOwner := Fin.ofNat 4 owner.toNat, quantum := ⟨q0, q1, q2, q3⟩, tsEn := true, staging := .save }
        array := { s.array with holder := s.host.arrayOwner, expired := false, copyOut := none, copyIn := none } }) ∧
  (∀ (h : CmdHdr) (feature action : Byte) (period : B32) (addr : B64) (i : Nat) (s : State),
    MayRun { opcode := 0x0108, issuer := if feature.toNat = 0x12 ∨ feature.toNat = 0x13 then .p0 else .any } h s →
    0x10 ≤ feature.toNat → feature.toNat ≤ 0x13 → action.toNat ≤ 1 → 10 ≤ period.toNat → period.toNat ≤ 60000 →
    timerOf s feature.toNat h.fn = none →
    firstBelow 8 (fun j => (Map.find? s.host.timers j).isNone) = some i →
    Answers (.timerFeature h feature 1 action period addr) h 0x0108 (place 128 0 i) s
      { begun h s with host := { s.host with
          timers := Map.insert s.host.timers i { feature, part := h.fn, action, period, addr } } })

/-! ## Objects, placement and tiers -/

/-- R345, R781: a new object stands under the partition's next handle, and the handles before it keep their objects. -/
def Obligations.NewObjectTakesNextHandle : Prop :=
  ∀ (p : Part) (kind : ObjKind) (policy : B128) (sheets : Nat) (placed : Map Sheet × List Nat × Nat) (s : State),
    let t := addObject p kind policy sheets placed s
    t.obj? p (s.part p).tier.nextHandle =
        some { kind, base := placed.2.2, sheets, policy, map := placed.1, winFree := placed.2.1 } ∧
      (t.part p).tier.nextHandle = (s.part p).tier.nextHandle + 1 ∧
      (∀ h, h ≠ (s.part p).tier.nextHandle → t.obj? p h = s.obj? p h) ∧
      (∀ q, q ≠ p → t.part q = s.part q) ∧ t.stitches = s.stitches ∧ t.array = s.array ∧
      (t.part p).bench = (s.part p).bench

/-- R355, R360, R379, R641, R642: the object and region commands, where their checks hold. It takes in the model's own
reading or choice in log entries 91, 109. -/
def Obligations.ObjectCommandsRun : Prop :=
  (∀ (h : CmdHdr) (sheets : B64) (policy : B128) (option : Byte) (block : B256) (s : State) (kind : ObjKind) (n : Nat)
      (placed : Map Sheet × List Nat × Nat),
    MayRun { opcode := 0x0200 } h s →
    optionKind (begun h s) h.fn option block sheets.toNat (Policy.ofBits policy) = .ok (kind, n) →
    policyRsvd policy = false → policyBad (begun h s) h.fn n (Policy.ofBits policy) = false →
    placeObject (begun h s) h.fn kind n (Policy.ofBits policy) = .ok placed →
    (s.part h.fn).tier.nextHandle ≠ 0xFFFF_FFFF →
    (∀ g r c a gd pt, kind ≠ .redBuf g r c a gd pt) →
    Answers (.objCreate h sheets policy option block) h 0x0200
      (place 128 64 placed.2.2 ||| place 128 0 (s.part h.fn).tier.nextHandle) s
      (addObject h.fn kind policy n placed (begun h s))) ∧
  (∀ (h : CmdHdr) (handle : B32) (s : State) (o : Obj),
    MayRun { opcode := 0x0201, long := true } h s → s.obj? h.fn handle.toNat = some o →
    (∀ g, o.kind ≠ .guestWindow g) → o.changing = false → o.dying = false → s.host.tsEn = false →
    exec (.objDestroy h handle) s = .next (startLong h 0x0201 (leBytes 4 handle.toNat) (.destroy handle.toNat)
      { updObj h.fn handle.toNat (fun y => { y with dying := true }) (begun h s) with flash := { s.flash with
          moves := s.flash.moves.filter fun v => v.started || !(v.p = h.fn && v.handle = handle.toNat) } })) ∧
  (∀ (h : CmdHdr) (handle : B32) (policy : B128) (s u : State) (o : Obj),
    MayRun { opcode := 0x0202, long := true } h s → (begun h s).obj? h.fn handle.toNat = some o →
    policyRsvd policy = false → policyBad (begun h s) h.fn o.sheets (Policy.ofBits policy) = false →
    policyFits o (Policy.ofBits policy) = true → o.changing = false → o.dying = false → s.flash.moves = [] →
    reservePolicy h.fn handle.toNat policy (begun h s) = .ok u →
    exec (.setPolicy h handle policy) s =
      .next (startLong h 0x0202 (leBytes 8 handle.toNat ++ leBytes 16 policy.toNat) (.policy handle.toNat policy true) u)) ∧
  (∀ (h : CmdHdr) (handle count : B32) (first addr : B64) (s : State) (o : Obj),
    MayRun { opcode := 0x0203 } h s → (begun h s).obj? h.fn handle.toNat = some o → 0 < count.toNat →
    first.toNat + count.toNat ≤ o.sheets →
    Answers (.sheetQuery h handle count first addr) h 0x0203 (place 128 0 count.toNat) s
      (hostWrite h.fn addr ((List.range count.toNat).flatMap fun i =>
        leBytes 8 (statusWord (begun h s) h.fn handle.toNat o (first.toNat + i)).toNat) (begun h s))) ∧
  (∀ (h : CmdHdr) (region owner refresh start count : Byte) (mode : Byte) (s : State),
    MayRun { opcode := 0x0204, long := true, issuer := .p0 } h s → region.toNat ≤ 15 → mode = 1 ∨ mode = 2 →
    owner.toNat ≤ 3 → 1 ≤ count.toNat → start.toNat + count.toNat ≤ 64 →
    (refreshDays mode.toNat refresh.toNat).isSome = true → s.flash.regions = [] →
    regionInUse (begun h s) region.toNat = false →
    exec (.regionFormat h region mode owner refresh start count) s =
      .next (startLong h 0x0204 [region, mode, owner, refresh, start, count]
        (.format region.toNat mode.toNat owner.toNat refresh.toNat start.toNat count.toNat)
        (updRegion region.toNat (fun _ => {
            mode := mode.setWidth 2, owner := Fin.ofNat 4 owner.toNat, start := start.setWidth 6, count := count.setWidth 7
            refresh := BitVec.ofNat 8 ((refreshDays mode.toNat refresh.toNat).getD 0) })
          { begun h s with flash := { s.flash with formatting := s.flash.formatting ++ [region.toNat] } }))) ∧
  (∀ (h : CmdHdr) (region : Byte) (addr : B64) (s : State),
    MayRun { opcode := 0x0205 } h s → h.fn = 0 → region.toNat ≤ 15 →
    Answers (.regionQuery h region addr) h 0x0205 (place 128 0 (staleStripes s region.toNat).length) s
      (hostWrite h.fn addr (leBytes 8 (regionWord (s.region region.toNat)).toNat ++
        (staleStripes s region.toNat).flatMap (leBytes 4)) (begun h s))) ∧
  (∀ (h : CmdHdr) (handle : B32) (step expect : B64) (s : State) (o : Obj) (g r c : Nat) (a : Int) (gd pt : Nat),
    MayRun { opcode := 0x0206 } h s → (begun h s).obj? h.fn handle.toNat = some o → o.kind = .redBuf g r c a gd pt →
    step.toNat < 2 ^ 40 → (bufHdr (begun h s) h.fn o).state ≠ 1 →
    heldBack s (resetBuf h.fn o step.toNat expect.toNat (begun h s)) = false →
    Answers (.bufReset h handle step expect) h 0x0206 0 s (resetBuf h.fn o step.toNat expect.toNat (begun h s))) ∧
  (∀ (h : CmdHdr) (ident : B16) (handle : B32) (s : State) (o : Obj),
    MayRun { opcode := 0x0207 } h s → handle ≠ 0 → (begun h s).obj? h.fn handle.toNat = some o →
    Map.find? (s.part h.fn).res.exports ident.toNat = some handle.toNat ∨
      (Map.find? (s.part h.fn).res.exports ident.toNat = none ∧ (s.part h.fn).res.exports.length < 4096) →
    Answers (.exportSet h ident handle) h 0x0207 0 s ((begun h s).updRes h.fn fun r => { r with
      exports := Map.insert r.exports ident.toNat handle.toNat })) ∧
  (∀ (h : CmdHdr) (ident : B16) (s : State), MayRun { opcode := 0x0207 } h s →
    Answers (.exportSet h ident 0) h 0x0207 0 s ((begun h s).updRes h.fn fun r => { r with
      exports := Map.erase r.exports ident.toNat })) ∧
  (∀ (h : CmdHdr) (dev host bytes : B64) (data : List Byte) (s : State),
    MayRun { opcode := 0x0208, long := true } h s →
    exec (.hostDma h 0 dev host bytes data) s =
        .next (startLong h 0x0208 (leBytes 8 0 ++ leBytes 8 dev.toNat ++ leBytes 8 host.toNat)
          (.dmaOut dev.toNat host.toNat bytes.toNat) (begun h s)) ∧
      exec (.hostDma h 1 dev host bytes data) s =
        .next (startLong h 0x0208 (leBytes 8 1 ++ leBytes 8 dev.toNat ++ leBytes 8 host.toNat)
          (.dmaIn dev.toNat (data.take bytes.toNat)) (begun h s))) ∧
  (∀ (h : CmdHdr) (addr : B64) (max : B32) (s : State), MayRun { opcode := 0x0209 } h s →
    Answers (.objList h addr max) h 0x0209 (place 128 0 (s.part h.fn).tier.objects.length) s
      (hostWrite h.fn addr (((s.part h.fn).tier.objects.take max.toNat).flatMap fun e =>
        leBytes 4 e.1 ++ leBytes 4 e.2.kind.code ++ leBytes 8 e.2.base ++ leBytes 16 e.2.policy.toNat) (begun h s)))

/-- R779: a handle that names no object of the partition ends these commands with NO_ACCESS and no other effect. -/
def Obligations.UnknownHandleNoAccess : Prop :=
  ∀ (h : CmdHdr) (handle : B32) (s : State), s.obj? h.fn handle.toNat = none →
    (MayRun { opcode := 0x0201, long := true } h s →
      exec (.objDestroy h handle) s = .next (finishShort h 0x0201 0x0030 0 (begun h s))) ∧
    (∀ policy, MayRun { opcode := 0x0202, long := true } h s → policyRsvd policy = false →
      exec (.setPolicy h handle policy) s = .next (finishShort h 0x0202 0x0030 0 (begun h s))) ∧
    (∀ count first addr, MayRun { opcode := 0x0203 } h s →
      exec (.sheetQuery h handle count first addr) s = .next (finishShort h 0x0203 0x0030 0 (begun h s))) ∧
    (∀ step expect, MayRun { opcode := 0x0206 } h s → step.toNat < 2 ^ 40 →
      exec (.bufReset h handle step expect) s = .next (finishShort h 0x0206 0x0030 0 (begun h s)))

/-- R373, R375, R391, R392, R395: what the migration engine and the striped flash do. It takes in the model's own reading
or choice in log entry 102. -/
def Obligations.TierEventsRun : Prop :=
  (∀ (s : State) (v : Move), s.flash.moves = [v] → mayStart s v = true → v.kind ≠ .fetch →
    exec .moveStart s = .next { s with flash := { s.flash with moves := [{ v with started := true }] } }) ∧
  (∀ (s : State) (ident : Nat) (v : Move) (o : Obj) (x : Sheet),
    s.flash.moves.find? (fun w => w.ident = ident && w.started) = some v → s.obj? v.p v.handle = some o →
    Map.find? o.map v.sheet = some x → x.poison = false → x.lost = false → v.dirty = true → moveDenied s v x = none →
    (v.dst = .managed → (s.region v.region).readOnly = false) → (v.kind = .fetch ∨ protectedSheet s v.p o v.sheet = false) →
    ∃ t, exec (.moveSwitch ident .good) s = .next t ∧ t.mem = s.mem ∧
      (t.part v.p).tier.dirty = satAdd (s.part v.p).tier.dirty 1 ∧
      (t.part v.p).tier.objects = (s.part v.p).tier.objects ∧
      t.flash.moves = s.flash.moves.map fun w => if w.ident = v.ident then
        { w with dirty := false, tries := v.tries + 1, holding := decide (3 ≤ v.tries + 1) } else w) ∧
  (∀ (s : State) (ident : Nat) (v : Move) (o : Obj) (x : Sheet),
    s.flash.moves.find? (fun w => w.ident = ident && w.started) = some v → s.obj? v.p v.handle = some o →
    Map.find? o.map v.sheet = some x → x.poison = false → x.lost = false → v.dirty = false → moveDenied s v x = none →
    (v.dst = .managed → (s.region v.region).readOnly = false) → (v.kind = .fetch ∨ protectedSheet s v.p o v.sheet = false) →
    heldBack s (switchMove v x s) = false →
    exec (.moveSwitch ident .good) s = .next (switchMove v x s)) ∧
  (∀ (s : State) (ident : Nat) (v : Move) (o : Obj) (x : Sheet) (g : Right) (k : Nat),
    let u := abandonMove v (denied v.p k 0x22 g (o.base / 65536 + v.sheet) s)
    s.flash.moves.find? (fun w => w.ident = ident && w.started) = some v → s.obj? v.p v.handle = some o →
    Map.find? o.map v.sheet = some x → x.poison = false → x.lost = false → moveDenied s v x = some (g, k) →
    heldBack s u = false → exec (.moveSwitch ident .good) s = .next u) ∧
  (∀ (s : State) (region : Fin 16) (stripe : Nat), stripeEntries s (region.val * 2 ^ 32 + stripe) ≠ [] →
    s.flash.folding = none → s.flash.foldQ = [] →
    exec (.overlayAgeExpiry region stripe) s = .next { s with flash := { s.flash with
      folding := some (region.val * 2 ^ 32 + stripe), refreshing := false } }) ∧
  (∀ (s : State) (region : Fin 16) (stripe : Nat), (s.region region.val).mode = 2 → (s.region region.val).ready = true →
    stripe * 8192 < (s.region region.val).frames → s.flash.folding = none → s.flash.foldQ = [] →
    exec (.stripeRefresh region stripe) s = .next { s with flash := { s.flash with
      folding := some (region.val * 2 ^ 32 + stripe), refreshing := true } }) ∧
  (∀ (s : State) (key n : Nat), s.flash.folding = some key → stripeEntries s key = [n] → s.flash.overlayWait = [] →
    s.flash.foldQ = [] → s.flash.overlay.length ≤ 49152 →
    ∃ t, exec .fold s = .next t ∧ t.flash.folding = none ∧ n ∉ t.flash.overlay ∧
      t.mem = clearRun (putRun s.mem (frameKey .striped (key / 2 ^ 32) (n % 2 ^ 40))
        (getMem s (overlayKey (key / 2 ^ 32) (n % 2 ^ 40)) sheetBytes)) (overlayKey (key / 2 ^ 32) (n % 2 ^ 40)) sheetBytes)

/-- R347, R357: a byte put into memory is read back there, and no other byte changes. It takes in the model's own reading
or choice in log entry 10. -/
def Obligations.MemoryReadsBackWhatIsStored : Prop :=
  ∀ (s : State) (k : Nat) (l : List Byte),
    getMem (putMem k l s) k l.length = l ∧
      ∀ a, a < k ∨ k + l.length ≤ a → (putMem k l s).cell a = s.cell a

/-! ## Streams, programs, stitches and the cadence: host commands -/

/-- R195, R204, R240, R173, R644: the program commands. It takes in the model's own reading or choice in log entries 50,
51. -/
def Obligations.ProgramCommandsRun : Prop :=
  (∀ (h : CmdHdr) (st : Strm) (addr : B64) (s : State),
    MayRun { opcode := 0x0300 } h s → addr.toNat < 2 ^ 56 → (s.stream h.fn st).state = .idle →
    Answers (.streamStart h (BitVec.ofNat 8 st.val) addr) h 0x0300 0 s
      ((begun h s).updStream h.fn st fun x => { x with
        state := .run, head := addr, fault := 0, lc := 0, tags := [], unissued := false })) ∧
  (∀ (h : CmdHdr) (st : Strm) (s : State),
    MayRun { opcode := 0x0301 } h s → (s.stream h.fn st).state = .stopped →
    Answers (.streamResume h (BitVec.ofNat 8 st.val) 0) h 0x0301 0 s
      ((begun h s).updStream h.fn st fun x => { x with state := .run, fault := 0, unissued := false })) ∧
  (∀ (h : CmdHdr) (st : Strm) (s : State),
    MayRun { opcode := 0x0302 } h s → (s.stream h.fn st).state ≠ .run → inFlight s h.fn st = 0 → s.stitches = [] →
    ∃ t, exec (.streamReset h (BitVec.ofNat 8 st.val)) s = .next t ∧ (t.stream h.fn st).state = .idle ∧
      (t.stream h.fn st).head = 0 ∧ (t.stream h.fn st).fault = 0 ∧ (t.stream h.fn st).tags = [] ∧
      (∀ x, x ≠ st → t.stream h.fn x = s.stream h.fn x) ∧ t.mem = s.mem ∧ t.stitches = []) ∧
  (∀ (h : CmdHdr) (first count : B16) (addr : B64) (s : State),
    MayRun { opcode := 0x0303 } h s → first.toNat + count.toNat ≤ 2048 → anyRunning (begun h s) h.fn = false →
    dmaCheck h.fn .r addr.toNat (8 * count.toNat) (begun h s) = (none, begun h s) →
    Map.sorted (s.part h.fn).bench.prog = true →
    ∃ t, exec (.progLoad h first count addr) s = .next t ∧ t.mem = s.mem ∧
      ∀ i, i < count.toNat → Map.getD (t.part h.fn).bench.prog (first.toNat + i) 0 =
        BitVec.ofNat 64 (readNat (begun h s) h.fn h.fn.val (addr.toNat + 8 * i) 8)) ∧
  (∀ (h : CmdHdr) (first count : Byte) (seeds : List B64) (s : State),
    MayRun { opcode := 0x0304 } h s → first.toNat + count.toNat ≤ 64 → seeds.length = count.toNat →
    anyRunning (begun h s) h.fn = false →
    Answers (.seedSet h first count seeds) h 0x0304 0 s ((begun h s).updBench h.fn fun y => { y with
      seeds := (seeds.zipIdx first.toNat).foldl (fun m e => Map.setD 0 m e.2 e.1) y.seeds })) ∧
  (∀ (h : CmdHdr) (addr : B64) (s : State) (n : Nat) (o : Obj),
    MayRun { opcode := 0x0305 } h s → addr.toNat % 65536 = 0 → findObj (s.part h.fn).tier addr.toNat = some (n, o) →
    addr.toNat + 32 * 2 ^ 20 ≤ o.base + o.sheets * 65536 → (s.part h.fn).bench.context = none →
    Answers (.ctxBase h addr) h 0x0305 0 s
      ((begun h s).updBench h.fn fun y => { y with ctxBase := addr, ctxSet := true }))

/-- R195, R644: STREAM_START in RUN or STOPPED, STREAM_RESUME unless STOPPED and STREAM_RESET in RUN answer BUSY. -/
def Obligations.StreamCommandsBusy : Prop :=
  ∀ (h : CmdHdr) (st : Strm) (s : State),
    (∀ addr, MayRun { opcode := 0x0300 } h s → addr.toNat < 2 ^ 56 →
      (s.stream h.fn st).state = .run ∨ (s.stream h.fn st).state = .stopped →
      exec (.streamStart h (BitVec.ofNat 8 st.val) addr) s = .next (finishShort h 0x0300 0x0010 0 (begun h s))) ∧
    (∀ skip : Byte, MayRun { opcode := 0x0301 } h s → skip.toNat ≤ 1 → (s.stream h.fn st).state ≠ .stopped →
      exec (.streamResume h (BitVec.ofNat 8 st.val) skip) s = .next (finishShort h 0x0301 0x0010 0 (begun h s))) ∧
    (MayRun { opcode := 0x0302 } h s → (s.stream h.fn st).state = .run →
      exec (.streamReset h (BitVec.ofNat 8 st.val)) s = .next (finishShort h 0x0302 0x0010 0 (begun h s)))

/-- R442, R444, R447, R448, R454, R644: the host's stitch commands on a stitch they reach. It takes in the model's own
reading or choice in log entry 119. -/
def Obligations.StitchCommandsRun : Prop :=
  (∀ (h : CmdHdr) (idx : B16) (remote : Byte) (count : B32) (s : State) (g : Nat),
    MayRun { opcode := 0x0306 } h s → remote.toNat ≤ 1 → ownStitch (begun h s) h.fn idx.toNat = .ok g →
    (s.stitch g).reqs = [] → Map.sorted s.stitches = true →
    Answers (.stSet h idx remote count) h 0x0306 0 s
      (putStitch g { s.stitch g with count, remote := decide (remote.toNat = 1), sat := false } (begun h s))) ∧
  (∀ (h : CmdHdr) (idx : B16) (s : State) (g : Nat),
    MayRun { opcode := 0x0307 } h s → ownStitch (begun h s) h.fn idx.toNat = .ok g → (s.stitch g).state = .broken →
    Answers (.stRepair h idx) h 0x0307 0 s
      (putStitch g { s.stitch g with state := .opened, owner := 0xFF, stream := 0 } (begun h s))) ∧
  (∀ (h : CmdHdr) (idx : B16) (s : State) (g : Nat),
    MayRun { opcode := 0x0308 } h s → reachStitch (begun h s) h.fn h.fn.val .lock idx.toNat = .ok g →
    (s.stitch g).state = .opened →
    let x : Stitch := { s.stitch g with state := .locked, owner := BitVec.ofNat 8 h.fn.val, stream := 0 }
    Answers (.stLockCmd h idx) h 0x0308 (place 128 64 x.word.toNat) s (putStitch g x (begun h s))) ∧
  (∀ (h : CmdHdr) (idx : B16) (s : State) (g : Nat),
    MayRun { opcode := 0x0309 } h s → reachStitch (begun h s) h.fn h.fn.val .unlock idx.toNat = .ok g →
    (s.stitch g).state = .locked → (s.stitch g).owner.toNat = h.fn.val → (s.stitch g).stream = 0 →
    (s.stitch g).reqs = [] → Map.sorted s.stitches = true →
    Answers (.stUnlockCmd h idx (s.stitch g).epoch) h 0x0309 0 s
      (putStitch g { s.stitch g with state := .opened, owner := 0xFF, stream := 0 } (begun h s))) ∧
  (∀ (h : CmdHdr) (idx : B16) (v : B32) (s : State) (g : Nat),
    MayRun { opcode := 0x030A } h s → reachStitch (begun h s) h.fn h.fn.val .signal idx.toNat = .ok g →
    Answers (.stSignalCmd h idx v) h 0x030A 0 s (signalStitch g v.toNat (begun h s))) ∧
  (∀ (h : CmdHdr) (idx : B16) (s : State) (g : Nat),
    MayRun { opcode := 0x030B } h s → reachStitch (begun h s) h.fn h.fn.val .read idx.toNat = .ok g →
    Answers (.stReadCmd h idx) h 0x030B (place 128 0 (s.stitch g).word.toNat) s (begun h s)) ∧
  (∀ (h : CmdHdr) (q : Part) (window : Fin 8) (first count : B16) (ops : Byte) (s : State),
    MayRun { opcode := 0x030C } h s → q ≠ h.fn → ops.toNat ≤ 15 → 0 < count.toNat → count.toNat ≤ 4096 →
    first.toNat + count.toNat ≤ (s.part h.fn).stc.count.toNat * 256 →
    (∀ w, Map.find? (s.part q).stc.imports window.val = some w → w.src = h.fn) →
    Answers (.stExport h (BitVec.ofNat 8 q.val) (BitVec.ofNat 8 window.val) first count ops) h 0x030C 0 s
      ((begun h s).updStc q fun x => { x with
        imports := Map.insert x.imports window.val (ImportWin.mk h.fn (BitVec.ofNat 4 ops.toNat)
          (BitVec.ofNat 16 ((s.part h.fn).stc.base.toNat * 256 + first.toNat)) count.toNat) }))

/-- R444, R445: a signal adds to COUNT, which saturates and then sets SAT; a wait it satisfies stays
registered no longer; no other stitch changes, nor does memory. -/
def Obligations.SignalAddsAndWakes : Prop :=
  ∀ (s : State) (g v : Nat),
    let x := s.stitch g
    let t := signalStitch g v s
    Map.sorted s.stitches = true →
    (x.count.toNat + v < 2 ^ 32 → (t.stitch g).count.toNat = x.count.toNat + v ∧ (t.stitch g).sat = x.sat) ∧
      (2 ^ 32 ≤ x.count.toNat + v → (t.stitch g).count = 0xFFFF_FFFF ∧ (t.stitch g).sat = true) ∧
      (t.stitch g).state = x.state ∧ (t.stitch g).epoch = x.epoch ∧
      (∀ q ∈ (t.stitch g).reqs, q ∈ x.reqs ∧
        (q.lock = true ∨ (t.stitch g).count.toNat < q.threshold.toNat ∨ x.state = .broken)) ∧
      (∀ k, k ≠ g → t.stitch k = s.stitch k) ∧ t.mem = s.mem

/-- R447, R448: a lock or unlock that does not apply says why, and changes nothing. -/
def Obligations.LockRefusals : Prop :=
  ∀ (s : State) (g m : Nat) (st : Strm) (e : Byte),
    let x := s.stitch g
    (x.state = .broken → lockStitch g m st s = .error .broken ∧ unlockStitch g m st e s = .error .broken) ∧
    (x.state = .locked → (x.owner.toNat = m ∧ x.stream = st → lockStitch g m st s = .error .access) ∧
      (¬(x.owner.toNat = m ∧ x.stream = st) → lockStitch g m st s = .error .busy)) ∧
    (e ≠ x.epoch → unlockStitch g m st e s = .error .broken) ∧
    (x.state ≠ .broken → e = x.epoch → ¬(x.state = .locked ∧ x.owner.toNat = m ∧ x.stream = st) →
      unlockStitch g m st e s = .error .access)

/-- R53, R61, R71, R72, R81, R84, R645: the cadence commands, and the pulse input. It takes in the model's own reading or
choice in log entry 20. -/
def Obligations.CadenceCommandsRun : Prop :=
  (∀ (h : CmdHdr) (pos : B64) (s : State),
    MayRun { opcode := 0x0400 } h s → (s.part h.fn).cad.role = .standalone → malformed pos = false →
    (s.part h.fn).cad.pos < pos → (s.part h.fn).cad.events = [] → s.cad.ioFunc ≠ 2 → (s.part h.fn).cad.ckptQ = [] →
    Answers (.cadAdvance h pos) h 0x0400 (place 128 64 pos.toNat ||| 1) s
      ((begun h s).updCad h.fn fun c => { c with pos })) ∧
  (∀ (h : CmdHdr) (pos : B64) (s : State),
    MayRun { opcode := 0x0400 } h s → (s.part h.fn).cad.role ≠ .follower → malformed pos = false →
    pos ≤ (s.part h.fn).cad.pos →
    Answers (.cadAdvance h pos) h 0x0400 (place 128 64 (s.part h.fn).cad.pos.toNat) s
      ((begun h s).updCad h.fn fun c => { c with stale := satAdd c.stale 1 })) ∧
  (∀ (h : CmdHdr) (idx : B16) (entry : B256) (s : State),
    MayRun { opcode := 0x0401 } h s → idx.toNat < 1024 → eventBad entry = false → (Event.ofBits entry).kind ≠ 0 →
    malformed (Event.ofBits entry).target = false → (s.part h.fn).cad.pos < (Event.ofBits entry).target →
    Answers (.evtWrite h idx entry) h 0x0401 (place 128 0 idx.toNat) s ((begun h s).updCad h.fn fun c =>
      { releaseEntry idx.toNat c with events := Map.insert c.events idx.toNat (Event.ofBits entry) })) ∧
  (∀ (h : CmdHdr) (idx : B16) (s : State), MayRun { opcode := 0x0402 } h s → idx.toNat < 1024 →
    Answers (.evtClear h idx) h 0x0402 0 s ((begun h s).updCad h.fn fun c =>
      { releaseEntry idx.toNat c with events := Map.erase c.events idx.toNat })) ∧
  (∀ (h : CmdHdr) (first count : B16) (addr : B64) (s : State),
    MayRun { opcode := 0x0403 } h s → first.toNat + count.toNat ≤ 1024 →
    Answers (.evtRead h first count addr) h 0x0403 0 s (hostWrite h.fn addr ((List.range count.toNat).flatMap fun i =>
      leBytes 32 (Map.getD (s.part h.fn).cad.events (first.toNat + i) {}).bits.toNat) (begun h s))) ∧
  (∀ (h : CmdHdr) (time : B64) (s : State), MayRun { opcode := 0x0404, issuer := .p0 } h s →
    Answers (.timeSet h 1 time) h 0x0404 0 s { begun h s with cad := { s.cad with onEdge := some time } }) ∧
  (∀ (h : CmdHdr) (time : B64) (s : State), MayRun { opcode := 0x0404, issuer := .p0 } h s → s.cad.wall = 0 →
    Answers (.timeSet h 0 time) h 0x0404 0 s { (begun h s).tick with
      cad := { s.cad with wall := time, loads := s.cad.loads + 1 } }) ∧
  (∀ (h : CmdHdr) (func part : Byte) (s : State), MayRun { opcode := 0x0405 } h s → func.toNat ≤ 2 → part.toNat ≤ 3 →
    s.cad.ioFunc = 0 →
    Answers (.cadIoCfg h func part) h 0x0405 0 s { begun h s with cad := { s.cad with
      ioFunc := BitVec.ofNat 2 func.toNat, ioPart := Fin.ofNat 4 part.toNat, ioHolder := h.fn
      settings := s.cad.settings + 1 } }) ∧
  (∀ (s : State) (t : B64) (onIo : Bool), onIo = decide (s.cad.ioFunc = 1) → s.cad.onEdge = some t → s.cad.wall = 0 →
    exec (.ppsEdge onIo) s =
      .next { s.tick with cad := { s.cad with ppsLost := false, onEdge := none, wall := t, loads := s.cad.loads + 1 } }) ∧
  (∀ s : State, s.cad.wall ≠ 0 → exec .ppsLost s =
    .next { s with cad := { s.cad with ppsLost := true, losses := s.cad.losses + 1 } })

/-- R52: a mark or advance that is not later than the position is discarded and counted, wherever it comes from. One that is
later, without hold, becomes the position. -/
def Obligations.LateMarksAreDiscarded : Prop :=
  (∀ (p : Part) (pos : B64) (s : State),
    let c := (s.part p).cad
    let r := advance p pos s
    (pos ≤ c.pos → r.1 = false ∧ r.2 = s.updCad p fun c => { c with stale := satAdd c.stale 1 }) ∧
    (c.pos < pos → c.role = .standalone → c.events = [] → c.ckptQ = [] →
      r.1 = true ∧ (r.2.part p).cad.pos = pos ∧ r.2.mem = s.mem ∧ ∀ q, q ≠ p → r.2.part q = s.part q)) ∧
  (∀ (h : CmdHdr) (pos : B64) (s : State),
    MayRun { opcode := 0x0400 } h s → (s.part h.fn).cad.role ≠ .follower → malformed pos = false →
    pos ≤ (s.part h.fn).cad.pos →
    Answers (.cadAdvance h pos) h 0x0400 (place 128 64 (s.part h.fn).cad.pos.toNat) s
      ((begun h s).updCad h.fn fun c => { c with stale := satAdd c.stale 1 })) ∧
  (∀ (b : BenchHdr) (pos : B64) (s : State), MayIssue b s → (s.part b.p).cad.role ≠ .follower → malformed pos = false →
    pos ≤ (s.part b.p).cad.pos → ∃ t, exec (.cadMark b pos) s = .next t ∧
      (t.part b.p).cad = { (s.part b.p).cad with stale := satAdd (s.part b.p).cad.stale 1 }) ∧
  (∀ (m : MsgHdr) (pos : B64) (s : State),
    let p := s.vesin.fpart
    Accepted m s → m.src = 0 → (s.part p).cad.role = .follower → pos ≤ (s.part p).cad.pos →
    Delivers (.mark m pos) m s (s.updCad p fun c => { c with stale := satAdd c.stale 1 }))

/-! ## Bench operations -/

/-- R195, R198, R202, R208, R235, R236: the operations that complete at issue, on a head that is ready. It takes in the
model's own reading or choice in log entries 53, 56. -/
def Obligations.BenchControlIssues : Prop :=
  ∀ (b : BenchHdr) (s : State), MayIssue b s →
    let x := s.stream b.p b.st
    let issued (next : B64) (f : Stream → Stream) : State := s.updStream b.p b.st fun x =>
      f { x with issued := satAdd x.issued 1, head := next, registered := false, granted := false }
    exec (.nop b) s = .next (issued (x.head + 16) id) ∧
      (inFlight s b.p b.st = 0 → exec (.fence b) s = .next (issued (x.head + 16) id)) ∧
      (inFlight s b.p b.st = 0 →
        exec (.endOp b) s = .next (issued (x.head + 16) fun y => { y with state := .halted })) ∧
      (∀ (count : BitVec 14) (target : Addr), target.toNat % 16 = 0 → (benchAccess s b.p .r target.toNat 16).2 ≠ .outside →
        (count = 0 → exec (.jump b count target) s = .next (issued (target.setWidth 64) id)) ∧
        (count ≠ 0 →
          let n := (if x.lc = 0 then count else x.lc) - 1
          exec (.jump b count target) s =
            .next (issued (if n = 0 then x.head + 16 else target.setWidth 64) fun y => { y with lc := n }))) ∧
      (∀ pos : B64, malformed pos = false →
        exec (.posDraw b pos) s = .next (issued (x.head + 16) fun y => { y with drawPos := pos }) ∧
          ((s.part b.p).cad.role = .follower →
            exec (.cadMark b pos) s = .next (issued (x.head + 16) fun y => { y with drawPos := pos })) ∧
          ((s.part b.p).cad.role ≠ .follower →
            exec (.cadMark b pos) s =
              .next (advance b.p pos (issued (x.head + 16) fun y => { y with drawPos := pos })).2))

/-- R198, R203: a head that is not ready stays and changes nothing; a ready one with a reserved bit set stops its stream
with WORD_RSVD and stays. It takes in the model's own reading or choice in log entry 45. -/
def Obligations.HeadWaitsOrStops : Prop :=
  ∀ (b : BenchHdr) (s : State),
    (headReady b s = false → exec (.nop b) s = .next s ∧ exec (.fence b) s = .next s ∧ exec (.endOp b) s = .next s ∧
      (∀ count target, exec (.jump b count target) s = .next s) ∧ (∀ pos, exec (.cadMark b pos) s = .next s) ∧
      (∀ pos, exec (.posDraw b pos) s = .next s) ∧ ∀ record, exec (.veto b record) s = .next s) ∧
    (headReady b s = true → b.rsvd = true →
      ∃ t, exec (.nop b) s = .next t ∧ (t.stream b.p b.st).state = .stopped ∧
        (t.stream b.p b.st).head = (s.stream b.p b.st).head ∧ (t.stream b.p b.st).issued = (s.stream b.p b.st).issued ∧
        t.mem = s.mem ∧
        (s.stitches = [] → (t.stream b.p b.st).fault = BitVec.ofNat 8 ftWordRsvd ∧
          (t.stream b.p b.st).faultPc = (s.stream b.p b.st).head))

/-- R233, R234, R444 to R448: the stitch operations of the bench, on a stitch they reach. It takes in the model's own
reading or choice in log entries 54, 58. -/
def Obligations.BenchStitchOpsIssue : Prop :=
  (∀ (b : BenchHdr) (idx : B16) (e : Byte) (arg : Addr) (s : State) (g : Nat), MayIssue b s → arg.toNat < 2 ^ 32 →
    reachStitch s b.p (8 + b.p.val) .signal idx.toNat = .ok g →
    exec (.stSignal b 63 idx e arg) s =
      .next (signalStitch g arg.toNat (issueHead b ((s.stream b.p b.st).head + 16) s))) ∧
  (∀ (b : BenchHdr) (idx : B16) (e : Byte) (arg : Addr) (s : State), MayIssue b s → arg.toNat < 2 ^ 32 →
    (s.stream b.p b.st).registered = true → (s.stream b.p b.st).granted = true →
    exec (.stWait b 63 idx e arg) s = .next (issueHead b ((s.stream b.p b.st).head + 16) s)) ∧
  (∀ (b : BenchHdr) (idx : B16) (e : Byte) (s : State), MayIssue b s →
    (s.stream b.p b.st).registered = true → (s.stream b.p b.st).granted = true →
    exec (.stLock b 63 idx e 0) s = .next (issueHead b ((s.stream b.p b.st).head + 16) s)) ∧
  (∀ (b : BenchHdr) (lock : Bool) (idx : B16) (threshold : B32) (s : State) (g : Nat), b.rsvd = false →
    (s.stream b.p b.st).state = .run → tagsClear b s = true → (s.stream b.p b.st).registered = false →
    reachStitch s b.p (8 + b.p.val) (if lock then .lock else .wait) idx.toNat = .ok g →
    (s.stitch g).state = .locked → (lock = true → (s.stitch g).owner.toNat ≠ 8 + b.p.val) →
    (lock = false → (s.stitch g).count.toNat < threshold.toNat ∧ (s.stitch g).reqs = []) →
    Map.sorted s.stitches = true →
    ∃ t, exec (.stitchWaitRegister b lock idx threshold) s = .next t ∧
      (t.stream b.p b.st).registered = true ∧ (t.stream b.p b.st).head = (s.stream b.p b.st).head ∧
      (t.stitch g).reqs = (s.stitch g).reqs ++ [{ p := b.p, st := b.st, lock, threshold, idx }] ∧ t.mem = s.mem) ∧
  (∀ (b : BenchHdr) (idx : B16) (s : State) (g : Nat), MayIssue b s →
    reachStitch s b.p (8 + b.p.val) .unlock idx.toNat = .ok g → (s.stitch g).state = .locked →
    (s.stitch g).owner.toNat = 8 + b.p.val → (s.stitch g).stream = b.st →
    exec (.stUnlock b 63 idx (s.stitch g).epoch 0) s = .next (issueHead b ((s.stream b.p b.st).head + 16)
      (grantLock g (putStitch g { s.stitch g with state := .opened, owner := 0xFF, stream := 0 } s)))) ∧
  (∀ (b : BenchHdr) (idx : B16) (e : Byte) (dest : Addr) (s : State) (g : Nat), MayIssue b s → dest.toNat % 8 = 0 →
    (benchAccess s b.p .w dest.toNat 8).1 = none → reachStitch s b.p (8 + b.p.val) .read idx.toNat = .ok g →
    heldBack s (writeNat b.p dest.toNat 8 (s.stitch g).word.toNat s) = false →
    exec (.stRead b 63 idx e dest) s = .next (issueHead b ((s.stream b.p b.st).head + 16)
      (writeNat b.p dest.toNat 8 (s.stitch g).word.toNat s)))

/-- R196, R210 to R212, R218, R230, R241, R285, R311: the operations that stay in flight, on a head that is ready: OUT_TAG
counts one more, the operation stands last in its queue, and the stream goes on behind it. -/
def Obligations.BenchOpsEnterTheirQueues : Prop :=
  ∀ (b : BenchHdr) (s : State), MayIssue b s →
    let x := s.stream b.p b.st
    let n := s.array.nextOp
    let sent (kind : FlightKind) (opTag : B32) (t : State) : Prop :=
      (t.stream b.p b.st).head = x.head + 16 ∧ (t.stream b.p b.st).issued = satAdd x.issued 1 ∧
        (t.stream b.p b.st).state = .run ∧ t.mem = s.mem ∧
        (∃ foot, (t.part b.p).bench.flight = (s.part b.p).bench.flight ++
          [{ ident := n, st := b.st, outTag := b.outTag, addr := x.head, kind, opTag, foot, live := s.array.live
             mates := (s.part b.p).bench.flight.map Flight.ident }]) ∧
        (b.outTag ≠ 0 → Map.sorted x.tags = true → (t.stream b.p b.st).tag b.outTag = x.tag b.outTag + 1)
    (∀ (desc : Addr) (d : ArrayDesc), fetchDesc s b.p desc.toNat = .ok d → anyLive s = true → holdsArray s b.p = true →
      slotsFree s b.p (platesOf fun q => (sharesFor s b.p d.opTag).get q ≠ 0) = true →
      descFault s b.p d (sharesFor s b.p d.opTag) = none →
      ∃ t o, exec (.array b desc) s = .next t ∧ sent .array d.opTag t ∧
        (t.part b.p).bench.arrayQ = (s.part b.p).bench.arrayQ ++ [o] ∧ o.ident = n ∧ o.desc = d ∧
        o.shares = sharesFor s b.p d.opTag ∧ o.drawPos = x.drawPos ∧ o.phase = .queued) ∧
    (∀ (first last : Byte) (entry : BitVec 11) (seed : BitVec 6) (launch : Addr) (r : List Byte) (k : Nat),
      first.toNat ≤ last.toNat → fetchRec s b.p launch.toNat 64 64 = .ok r → leNat (r.drop 60) = 0 → anyLive s = true →
      holdsArray s b.p = true → slotsFree s b.p (vrunPlates s first last) = true → vrunPlates s first last = [k] →
      Map.sorted (s.part b.p).bench.insts = true →
      ∃ t i, exec (.vrun b first last entry seed launch) s = .next t ∧ sent .vrun 0 t ∧
        plateInsts t b.p k = plateInsts s b.p k ++ [i] ∧ i.pc = entry.toNat ∧ i.v = [] ∧ i.drawPos = x.drawPos ∧
        i.buf.toNat = leNat ((r.drop 32).take 8) % 2 ^ 64) ∧
    (∀ (src dst : BitVec 40) (cm1 : Byte), ladleFree s b.p = true → copyRange s b.p src.toNat (cm1.toNat + 1) = true →
      copyRange s b.p dst.toNat (cm1.toNat + 1) = true →
      (∃ t, exec (.copy b src dst 63 cm1) s = .next t ∧ sent .copy 0 t ∧ (t.part b.p).bench.copies =
        (s.part b.p).bench.copies ++ [{ ident := n, kind := .plain src.toNat dst.toNat (cm1.toNat + 1) 63 }]) ∧
      (∃ t, exec (.copyAdd b src dst 63 cm1) s = .next t ∧ sent .copy 0 t ∧ (t.part b.p).bench.copies =
        (s.part b.p).bench.copies ++ [{ ident := n, kind := .add src.toNat dst.toNat (cm1.toNat + 1) 63 }])) ∧
    (∀ (role : BitVec 2) (desc : Addr) (d : ArrayDesc), fetchDesc s b.p desc.toNat = .ok d → ladleFree s b.p = true →
      (s.part b.p).bench.latches = [] → role.toNat < 2 → (d.fmtOf (role.toNat % 2 = 0)).inputClass.isSome = true →
      d.chain = false →
      (routes d role.toNat s.array.shares).any (fun e => !sliceOk s b.p e.off (e.bytes d)) = false →
      ∃ t, exec (.copyRouted b role desc) s = .next t ∧ sent .copy d.opTag t ∧
        (t.part b.p).bench.latches = [{ opTag := d.opTag, shares := s.array.shares, st := b.st }] ∧
        (t.part b.p).bench.copies =
          (s.part b.p).bench.copies ++ [{ ident := n, kind := .routed role.toNat d s.array.shares }]) ∧
    (∀ (record : Addr) (r : List Byte) (v : VetoRec) (h : Nat) (o : Obj), fetchRec s b.p record.toNat 64 64 = .ok r →
      VetoRec.ofNat (leNat r) = some v → v.result % 32 = 0 → (s.obj? b.p v.group).isSome = true →
      groupBufs s b.p v.group = [(h, o)] → bufBroken s b.p o = true → (∀ y ∈ (s.part b.p).veto.pending, y.ident ≠ n) →
      ∃ t, exec (.veto b record) s = .next t ∧ sent .veto 0 t ∧ (t.part b.p).veto.pending =
        (s.part b.p).veto.pending ++ [{ ident := n, record := v, toClose := [h], awaited := (s.part b.p).res.members }]) ∧
    (∀ (record : Addr) (r : List Byte) (j : Job), fetchRec s b.p record.toNat 64 64 = .ok r →
      jobOfRecord (.op n) record.toNat (leNat r) = .ok j → anyLive s = true → holdsArray s b.p = true →
      (s.part b.p).pln.queue.length < 16 → planishSlots s b.p = true →
      ∃ t, exec (.planish b record) s = .next t ∧ sent .planish 0 t ∧
        (t.part b.p).pln.queue = (s.part b.p).pln.queue ++ [j])

/-! ## The array, copies and contributions -/

/-- R205: issue with an OUT_TAG adds one to that tag's count, completion subtracts one, and completion with a fault subtracts
it before the fault is raised. What completes leaves the flight list, and nothing else changes. -/
def Obligations.TagsCountOperationsInFlight : Prop :=
  (∀ (b : BenchHdr) (addr : B64) (kind : FlightKind) (opTag : B32) (foot : Foot) (s : State),
    let t := (takeFlight b addr kind opTag foot s).2
    (b.outTag ≠ 0 → (t.stream b.p b.st).tag b.outTag = (s.stream b.p b.st).tag b.outTag + 1) ∧
      (b.outTag = 0 → t.stream b.p b.st = s.stream b.p b.st) ∧
      (t.part b.p).bench.flight.length = (s.part b.p).bench.flight.length + 1 ∧ t.mem = s.mem) ∧
  (∀ (p : Part) (ident : Nat) (f : Flight) (s : State),
    (s.part p).bench.flight.find? (fun f => f.ident = ident) = some f →
    let t := completeOp p ident none s
    (t.part p).bench.flight = ((s.part p).bench.flight.filter fun g => g.ident ≠ ident) ∧
      (f.outTag ≠ 0 → Map.sorted (s.stream p f.st).tags = true →
        (t.stream p f.st).tag f.outTag = (s.stream p f.st).tag f.outTag - 1) ∧
      (t.stream p f.st).state = (s.stream p f.st).state ∧ (t.stream p f.st).head = (s.stream p f.st).head ∧
      (∀ x, x ≠ f.st → t.stream p x = s.stream p x) ∧ (∀ q, q ≠ p → t.part q = s.part q) ∧ t.mem = s.mem ∧
      t.stitches = s.stitches) ∧
  ∀ (p : Part) (ident code idx extra : Nat) (f : Flight) (s : State),
    (s.part p).bench.flight.find? (fun f => f.ident = ident) = some f →
    completeOp p ident (some (code, idx, extra)) s =
      programFault { p, st := f.st, code, addr := f.addr, opTag := f.opTag, idx, extra } (completeOp p ident none s)

/-- R90, R94, R106 to R109, R674: what becomes of the array operation at the head of the queue. -/
def Obligations.ArrayQueueHeadDecides : Prop :=
  ∀ (s : State) (o : ArrayOp),
    let p := arrayPart s
    (s.part p).bench.arrayQ.find? (fun o => o.phase = .queued) = some o → holdsArray s p = true → mayTake s p = true →
    linksUp s = true → o.lost = false → o.desc.cont = false → o.round = 0 →
    (headRule s o = .waits → exec .arrayQueueHead s = .next s) ∧
    (∀ c, headRule s o = .fault c → exec .arrayQueueHead s = .next (leaveQueue p o (some (c, 0)) s)) ∧
    (headRule s o = .issues → ∃ t x, exec .arrayQueueHead s = .next t ∧
      (t.part p).bench.arrayQ.find? (fun x => x.ident = o.ident) = some x ∧ x.phase ≠ .queued ∧ t.mem = s.mem ∧
      ((s.part p).bench.arrayQ = [o] → anyFeeds s = false → o.desc.bank = 0 →
        (∀ q, (o.desc.range o.shares q).1 < (o.desc.range o.shares q).2 →
          (s.array.quarters.get q).bank0.state = .free ∧ (s.array.quarters.get q).bank1.state = .held) →
        ∀ q, (o.desc.range o.shares q).1 < (o.desc.range o.shares q).2 →
          (t.array.quarters.get q).cur = some ((o.desc.range o.shares q).1, 0) ∧
            (t.array.quarters.get q).bank0.state = .filling))

/-- R112, R113, R128 to R130, R205: tiles drain, and an operation whose tiles have drained writes its report. It takes in
the model's own reading or choice in log entry 30. -/
def Obligations.ArrayEngineRuns : Prop :=
  (∀ (q : Qtr) (s : State), feedOp s (arrayPart s) = none →
    exec (.tileDrain q) s = .next (updQuarter q QuarterArr.drained s)) ∧
  (∀ (q : Qtr) (s : State) (o : ArrayOp) (k : Nat) (b : Fin 2) (cells : List (List A96)),
    let p := arrayPart s
    let u := updQuarter q QuarterArr.drained s
    feedOp u p = some o → (u.array.quarters.get q).cur = some (k, b) → o.desc.hold = false →
    Alone u p (some o.ident) → tileCells u p o q k ((u.array.quarters.get q).bank b) (o.desc.valid k).1 (o.desc.valid k).2 o.step o.desc.kPad =
      .ok cells → heldBack s (tileStep q s) = false →
    ∃ t, exec (.tileDrain q) s = .next t ∧ ((t.array.quarters.get q).bank b).state = .draining ∧
      (t.array.quarters.get q).cur ≠ some (k, b) ∧ t.array.shares = s.array.shares) ∧
  (∀ (s : State) (o : ArrayOp) (stall : B32),
    let p := arrayPart s
    (s.part p).bench.arrayQ = [o] → o.phase = .fed → s.contribs = [] →
    o.lost = false → o.fault = none → (s.part p).bench.latches = [] →
    (benchAccess s p .w o.desc.report 64).1 = none → Alone s p (some o.ident) →
    heldBack s (endArray stall.toNat s) = false →
    ∃ t, exec (.arrayComplete stall) s = .next t ∧ (t.part p).bench.arrayQ = [] ∧
      (t.part p).bench.flight = ((s.part p).bench.flight.filter fun f => f.ident ≠ o.ident) ∧
      (t.part p).bench.occCyc = satAdd (s.part p).bench.occCyc (o.desc.occ o.shares + stall.toNat) ∧
      t.mem = (writeMem p o.desc.report (reportBytes o stall.toNat 0) s).mem)

/-- R131 to R138, R617 to R619: the quantum ends, the array passes to the next partition, and contexts are copied. It
takes in the model's own reading or choice in log entries 32, 33. -/
def Obligations.ArrayIsShared : Prop :=
  (∀ s : State, s.host.tsEn = true →
    exec .arrayQuantumExpiry s = .next { s with array := { s.array with expired := true } }) ∧
  (∀ s : State, s.host.tsEn = false → exec .arrayQuantumExpiry s = .next s) ∧
  (∀ (s : State) (n : Part),
    let p := s.array.holder
    s.host.tsEn = true → nextHolder s = some n → s.array.expired = true → feedOp s p = none → s.array.copyOut = none →
    (s.part n).bench.context = none → (s.part n).bench.lostRuns = [] → feedOp s n = none →
    (∀ q b, ((s.array.quarters.get q).bank b).state = .free ∨ ((s.array.quarters.get q).bank b).state = .draining) →
    ∃ t c, exec (.contextSwitch 0) s = .next t ∧ t.array.holder = n ∧ t.array.expired = false ∧
      t.array.copyOut = some p ∧ t.array.quarters = .all {} ∧ (t.part p).bench.context = some c ∧ c.incomplete = false ∧
      (∀ q, c.quarters.get q = (s.array.quarters.get q).drained.noted) ∧ t.mem = s.mem) ∧
  (∀ c : A96, c.anchor < 512 → -(2 ^ 95) ≤ c.value → c.value < 2 ^ 95 → c.saved < 2 ^ 108 ∧ A96.ofSaved c.saved = c) ∧
  (∀ (p : Part) (s : State), (s.part p).bench.context.isSome = true → s.array.copyOut ≠ some p → s.array.holder ≠ p →
    ∃ t, exec (.contextCopy p true) s = .next t ∧ t.array = { s.array with copyIn := some p } ∧
      (∀ q, (t.part q).bench = (s.part q).bench ∧ (t.part q).tier.objects = (s.part q).tier.objects) ∧
      ∀ k, (∀ q sl, sl < 64 → k < sliceKey q sl (stagingOff 1 0) ∨ sliceKey q sl (stagingOff 1 0) + halfBytes ≤ k) →
        t.cell k = s.cell k) ∧
  (∀ (p : Part) (s : State), s.array.copyOut = some p → heldBack s (copyContext p false s) = false →
    ∃ t, exec (.contextCopy p false) s = .next t ∧ t.array.copyOut = none ∧ t.stitches = s.stitches ∧
      (t.part p).bench.context = (s.part p).bench.context)

/-- R231, R232, R511: ladles take copies up in the order they were issued and carry them out. It takes in the model's own
reading or choice in log entry 59. -/
def Obligations.CopiesRun : Prop :=
  (∀ (s : State) (p : Part) (c : CopyOp), c ∈ (s.part p).bench.copies → c.running = false →
    (∀ q x, x ∈ (s.part q).bench.copies → x.running = false → q = p ∧ x = c) →
    ((four.flatMap fun q => (s.part q).bench.copies).filter fun x => x.running).length < 16 →
    (∀ src dst n pos, c.kind = .plain src dst n pos ∨ c.kind = .add src dst n pos → pos = 63) →
    exec .ladleStart s = .next (s.updBench p fun y => { y with copies := y.copies.map fun x =>
      if x.ident = c.ident then { x with running := true } else x })) ∧
  (∀ (s : State) (p : Part) (c : CopyOp) (src dst : Nat),
    (s.part p).bench.copies.find? (fun x => x.ident = c.ident && x.running) = some c → c.kind = .plain src dst 1 63 →
    (benchAccess s p .r (src * 65536) 65536).1 = none → (benchAccess s p .w (dst * 65536) 65536).1 = none →
    Alone s p (some c.ident) →
    (let t := writeMem p (dst * 65536) (readMem s p (8 + p.val) (src * 65536) 65536) (touchRead p (src * 65536) 65536 s)
     heldBack s t = false → exec (.copyComplete p c.ident) s = .next (finishCopy p c none 0 t))) ∧
  (∀ (s : State) (p : Part) (c : CopyOp) (src dst n pos : Nat),
    (s.part p).bench.copies.find? (fun x => x.ident = c.ident && x.running) = some c → c.kind = .plain src dst n pos →
    pos ≠ 63 →
    (c.waits ≠ [] → exec (.copyComplete p c.ident) s = .next s) ∧
    (c.waits = [] → c.fault = none → ∃ t, exec (.copyComplete p c.ident) s = .next t ∧ t.mem = s.mem ∧
      (t.part p).bench.copies = ((s.part p).bench.copies.filter fun x => x.ident ≠ c.ident) ∧
      (t.part p).bench.flight = ((s.part p).bench.flight.filter fun f => f.ident ≠ c.ident)))

/-- R269 to R272: a contribution that its sheet admits is counted and added; a stale or late one is refused, and counted. -/
def Obligations.ContributionReachesSheet : Prop :=
  ∀ (s : State) (i : Nat) (c : Contribution) (o : Obj),
    let u := { s with contribs := s.contribs.eraseIdx i }
    let b := bufHdr u c.p o
    let e := bufEntry u c.p b c.sheet
    s.contribs[i]? = some c → s.obj? c.p c.handle = some o → bufBroken u c.p o = false →
    checkMem u c.p (0x40 + c.quarter.val) .a (b.data + c.sheet * 65536) 65536 = .ok →
    heldBack s (admitContribution c u) = false →
    (posPhase c.drawPos ≤ 1 → posStep c.drawPos = b.step → b.state = 0 →
      exec (.contributionAdmission i) s = .next (setBufEntry c.p b c.sheet
        { e with
          mask := e.mask ||| 2 ^ posLeaf c.drawPos, lmask := e.lmask ||| 2 ^ posLeaf c.drawPos, seen := e.seen + 1
          nonfinite := e.nonfinite || c.nonfinite, range := e.range || c.range, inexact := e.inexact || c.inexact }
        (addElements c.p b c.sheet c.adds (updArrayOp c.p c.ident (fun y => { y with fxSheets := y.fxSheets ++ [c.sheet] }) u)))) ∧
    (posPhase c.drawPos ≤ 1 → posStep c.drawPos ≠ b.step →
      exec (.contributionAdmission i) s = .next (refuseContribution c.p o (fun b => { b with stale := true }) u)) ∧
    (posPhase c.drawPos ≤ 1 → posStep c.drawPos = b.step → b.state = 2 →
      exec (.contributionAdmission i) s = .next (refuseContribution c.p o (fun b => { b with late := true }) u))

/-! ## Plate programs -/

/-- R242, R244: control and constants on the running instance, which steps to the next instruction. -/
def Obligations.PlateControlRuns : Prop :=
  ∀ (h : PlateHdr) (i : Inst) (rest : List Inst) (s : State), Runs h i rest s →
    let put (j : Inst) : Host.Outcome State Fault Refusal := .next (setInsts h.p h.plate.val (j :: rest) s)
    let gone := setInsts h.p h.plate.val rest s
    exec (.plateNop h) s = put { i with pc := i.pc + 1 } ∧
      (vrunRuns gone h.p i.vrun = true → exec (.halt h) s = .next gone) ∧
      (vrunRuns gone h.p i.vrun = false → exec (.halt h) s = .next (completeOp h.p i.vrun none gone)) ∧
      (∀ (k : BitVec 5) (imm : B32), k.toNat ≤ 3 →
        exec (.setc h k imm) s = put { i with pc := i.pc + 1, c := setAt i.c k.toNat imm } ∧
        (0 ≤ (i.pc : Int) + imm.toInt → (i.pc : Int) + imm.toInt ≤ 2047 →
          let n := i.c.getD k.toNat 0 - 1
          exec (.loopc h k imm) s =
            put { i with c := setAt i.c k.toNat n, pc := if n = 0 then i.pc + 1 else ((i.pc : Int) + imm.toInt).toNat })) ∧
      (∀ (k : BitVec 5) (imm : B32), k.toNat ≤ 7 →
        exec (.setp h k imm) s = put { i with pc := i.pc + 1, pr := setAt i.pr k.toNat imm } ∧
        exec (.addp h k imm) s =
          put { i with pc := i.pc + 1, pr := setAt i.pr k.toNat (i.pr.getD k.toNat 0 + imm) }) ∧
      (∀ (k : BitVec 5) (imm : B32),
        exec (.movi h k imm) s = put ({ i with pc := i.pc + 1 }.setV k (List.replicate 64 imm)))

/-- R172, R192, R244, R246, R259: loads, stores and draws of the running instance, at an address its plate may use, while
no operation has been in flight together with its VRUN (R207). It takes in the model's own reading or choice in log entry
65. -/
def Obligations.PlateMemoryRuns : Prop :=
  ∀ (h : PlateHdr) (i : Inst) (rest : List Inst) (s : State) (v : BitVec 5) (pr : BitVec 3) (fmt : BitVec 5)
      (rnd : BitVec 2) (off : BitVec 24), Runs h i rest s → Alone s h.p (some i.vrun) → rnd ≠ 3 →
    let j := { i with pc := i.pc + 1 }
    let a := i.at pr off
    let put (j : Inst) (t : State) : Host.Outcome State Fault Refusal := .next (setInsts h.p h.plate.val (j :: rest) t)
    let run (n : Nat) : List (Nat × Nat) := [(stakeAddr (plateKey h a), n)]
    let read (n : Nat) : State := addFoot h.p i.vrun { reads := run n } s
    let wrote (bytes : List Byte) : State :=
      putStake (plateKey h a) bytes (addFoot h.p i.vrun { writes := run bytes.length } s)
    (∀ f, loadFmt fmt = some f → a % (8 * f.bits) = 0 → sliceOk s h.p a f.laneBytes = true →
      exec (.ld h v pr fmt rnd off) s =
        let out := loadLanes f (getMem s (plateKey h a) f.laneBytes)
        put (j.setV v (out.map LaneRes.bits)) (laneFlags h.p (orFlags out) (read f.laneBytes))) ∧
    (∀ f, storeFmt fmt = some f → a % (8 * f.bits) = 0 → sliceOk s h.p a f.laneBytes = true →
      exec (.st h v pr fmt rnd off) s =
        let out := storeLanes f ((Rnd.ofCode rnd).getD .rne) (fun l => instDraw s h.p j i.object (a * 8 / f.bits + l))
          (i.vreg v)
        put (j.stored (plateKey h a) f.laneBytes) (laneFlags h.p out.2 (wrote out.1))) ∧
    (∀ f, loadFmt fmt = some f → f.scaled = false → a % max 1 (f.bits / 8) = 0 →
      sliceOk s h.p a (max 1 (f.bits / 8)) = true →
      exec (.ldb h v pr fmt rnd off) s =
        let r := laneOf (f.element (codeIn f.bits (getMem s (plateKey h a) (max 1 (f.bits / 8))).toArray 0))
        put (j.setV v (List.replicate 64 r.bits)) (laneFlags h.p r.flags (read (max 1 (f.bits / 8))))) ∧
    (a % 8 = 0 → sliceOk s h.p a 8 = true →
      exec (.ldbit h v pr fmt rnd off) s = put (j.setV v ((List.range 64).map fun l =>
        if (leNat (getMem s (plateKey h a) 8)).testBit l then f32One else 0)) (read 8) ∧
      exec (.stbit h v pr fmt rnd off) s =
        put (j.stored (plateKey h a) 8) (wrote (leBytes 8 (bitPlane (i.vreg v))))) ∧
    (∀ hd o, bufAt s h.p i.buf.toNat = some (hd, o) →
      (fxAccess s h.p .a (bufHdr s h.p o) a = none →
        heldBack s (plateOp h (rnd = 3) (fun i s => fxAddInst h v ((Rnd.ofCode rnd).getD .rne) (i.at pr off) i s) s) = false →
        ∃ j' t, exec (.fxadd h v pr fmt rnd off) s = put j' t ∧
        j'.pc = i.pc + 1 ∧ j'.v = i.v ∧ t.stitches = s.stitches) ∧
      (fxAccess s h.p .r (bufHdr s h.p o) a = none → ∃ l : List LaneRes, exec (.ldx h v pr fmt rnd off) s =
        put (j.setV v (l.map LaneRes.bits)) (laneFlags h.p (orFlags l)
          (fxTouch h.p (bufHdr s h.p o) a { s with freeCtr := s.freeCtr + 64 })) ∧
        l.length = 64 ∧ ∀ k n e, k < 64 → (bufHdr s h.p o).elem (a + k) = some (n, e) →
          l[k]? = some (laneRound (Exact.ofInt (signed 64 (readNat s h.p (8 + h.p.val)
            ((bufHdr s h.p o).data + n * 65536 + 8 * e) 8)) (bufHdr s h.p o).e) .rne))) ∧
    exec (.draw h v pr fmt rnd off) s = put (j.setV v ((List.range 64).map fun l =>
      (laneRound ⟨false, instDraw s h.p j i.object (a + l) / 256, -24, false⟩ .rne).bits)) s

/-- R187, R190, R244: the arithmetic, comparison and selection forms: lane by lane into D, with their flags. It takes in
the model's own reading or choice in log entries 38, 39, 40. -/
def Obligations.PlateLanesRun : Prop :=
  ∀ (h : PlateHdr) (i : Inst) (rest : List Inst) (s : State) (d s1 s2 s3 : BitVec 5) (rnd : BitVec 2) (m : Rnd),
    Runs h i rest s → arithRnd rnd = some m →
    let a := i.vreg s1
    let b := i.vreg s2
    let c := i.vreg s3
    let put (out : List LaneRes) : Host.Outcome State Fault Refusal :=
      .next (setInsts h.p h.plate.val ({ i with pc := i.pc + 1 }.setV d (out.map LaneRes.bits) :: rest)
        (laneFlags h.p (orFlags out) s))
    let two (f : F32 → F32 → LaneRes) : List LaneRes := (a.zip b).map fun e => f e.1 e.2
    let three (f : F32 → F32 → F32 → LaneRes) : List LaneRes := ((a.zip b).zip c).map fun e => f e.1.1 e.1.2 e.2
    exec (.fadd h d s1 s2 s3 rnd) s = put (two fun x y => f32Add x y m) ∧
      exec (.fsub h d s1 s2 s3 rnd) s = put (two fun x y => f32Sub x y m) ∧
      exec (.fmul h d s1 s2 s3 rnd) s = put (two fun x y => f32Mul x y m) ∧
      exec (.ffma h d s1 s2 s3 rnd) s = put (three fun x y z => f32Fma x y z m) ∧
      exec (.fdiv h d s1 s2 s3 rnd) s = put (two fun x y => f32Div x y m) ∧
      exec (.fsqrt h d s1 s2 s3 rnd) s = put (a.map fun x => f32Sqrt x m) ∧
      exec (.fmax h d s1 s2 s3 rnd) s = put (two fun x y => quiet (f32Max x y)) ∧
      exec (.fmin h d s1 s2 s3 rnd) s = put (two fun x y => quiet (f32Min x y)) ∧
      exec (.fneg h d s1 s2 s3 rnd) s = put (a.map fun x => quiet (f32Neg x)) ∧
      exec (.fabs h d s1 s2 s3 rnd) s = put (a.map fun x => quiet (f32Abs x)) ∧
      exec (.fsel h d s1 s2 s3 rnd) s = put (three fun x y z => quiet (selLane x y z)) ∧
      exec (.laneid h d s1 s2 s3 rnd) s = put ((List.range 64).map fun l => quiet (f32OfNat l)) ∧
      exec (.rmax h d s1 s2 s3 rnd) s = put (List.replicate 64 (quiet (maxLanes a))) ∧
      exec (.rsum h d s1 s2 s3 rnd) s = put (List.replicate 64 (treeSum 6 a m)) ∧
      ∃ out : List LaneRes, exec (.fcmplt h d s1 s2 s3 rnd) s =
        .next (setInsts h.p h.plate.val ({ i with pc := i.pc + 1 }.setV d (out.map LaneRes.bits) :: rest)
          (laneFlags h.p (orFlags out) s.tick)) ∧
        out.map LaneRes.bits = (a.zip b).map fun e => if f32Lt e.1 e.2 then f32One else 0

/-- R188, R244: the function instructions: the lane function of each lane of S1. -/
def Obligations.PlateFunctionsRun : Prop :=
  ∀ (h : PlateHdr) (i : Inst) (rest : List Inst) (s : State) (d s1 s2 s3 : BitVec 5) (rnd : BitVec 2) (m : Rnd),
    Runs h i rest s → arithRnd rnd = some m →
    let put (f : LaneFn) : Host.Outcome State Fault Refusal :=
      let out := (i.vreg s1).map fun x => f.eval x m
      .next (setInsts h.p h.plate.val ({ i with pc := i.pc + 1 }.setV d (out.map LaneRes.bits) :: rest)
        (laneFlags h.p (orFlags out) s))
    exec (.exp h d s1 s2 s3 rnd) s = put .exp ∧ exec (.exp2 h d s1 s2 s3 rnd) s = put .exp2 ∧
      exec (.log h d s1 s2 s3 rnd) s = put .log ∧ exec (.log2 h d s1 s2 s3 rnd) s = put .log2 ∧
      exec (.rcp h d s1 s2 s3 rnd) s = put .rcp ∧ exec (.rsqrt h d s1 s2 s3 rnd) s = put .rsqrt ∧
      exec (.tanh h d s1 s2 s3 rnd) s = put .tanh ∧ exec (.sigm h d s1 s2 s3 rnd) s = put .sigm ∧
      exec (.erf h d s1 s2 s3 rnd) s = put .erf

/-- R245, R254: an instruction with a reserved bit set, or with a mode that is none of its form, ends the whole VRUN with
PLATE_FIELD; one whose partition does not hold the array waits. -/
def Obligations.PlateFieldFaults : Prop :=
  ∀ (h : PlateHdr) (i : Inst) (rest : List Inst) (s : State), plateInsts s h.p h.plate.val = i :: rest →
    (holdsArray s h.p = false → exec (.plateNop h) s = .next s ∧ exec (.halt h) s = .next s ∧
      ∀ d s1 s2 s3 rnd, exec (.fadd h d s1 s2 s3 rnd) s = .next s) ∧
    (holdsArray s h.p = true → h.rsvd = true →
      exec (.plateNop h) s = .next (failVrun h.p i.vrun ftPlateField s) ∧
      exec (.halt h) s = .next (failVrun h.p i.vrun ftPlateField s)) ∧
    (holdsArray s h.p = true → ∀ (d s1 s2 s3 : BitVec 5) (rnd : BitVec 2), 2 ≤ rnd.toNat →
      exec (.fadd h d s1 s2 s3 rnd) s = .next (failVrun h.p i.vrun ftPlateField s) ∧
      exec (.fsqrt h d s1 s2 s3 rnd) s = .next (failVrun h.p i.vrun ftPlateField s) ∧
      exec (.exp h d s1 s2 s3 rnd) s = .next (failVrun h.p i.vrun ftPlateField s)) ∧
    vrunRuns (failVrun h.p i.vrun ftPlateField s) h.p i.vrun = false

/-! ## Verdicts and the planisher -/

/-- R282, R283, R284: a buffer that a VETO of its step closes goes CLOSED, and leaves the VETO's list; where no VETO waits
for it, or an instance that has had a contribution to it admitted still runs, nothing changes. A buffer that has another
step by then leaves the list as it is. It takes in the model's own reading or choice in log entries 69, 70. -/
def Obligations.BufferCloseRuns : Prop :=
  ∀ (p : Part) (handle : B32) (s : State),
    ((∀ x ∈ (s.part p).veto.pending, handle.toNat ∉ x.toClose) → exec (.bufferClose p handle) s = .next s) ∧
    (∀ o, s.obj? p handle.toNat = some o → (∀ x ∈ (s.part p).veto.pending, handle.toNat ∈ x.toClose →
        x.record.step = (bufHdr s p o).step) →
      closable s p handle.toNat = true → addsToCome s p handle.toNat = true → exec (.bufferClose p handle) s = .next s) ∧
    (∀ (x : PendingVeto) (k : Nat) (o : Obj), (s.part p).veto.pending = [x] → x.toClose = [handle.toNat, k] →
      k ≠ handle.toNat → s.obj? p handle.toNat = some o → bufBroken s p o = false → (bufHdr s p o).state < 2 →
      x.record.step = (bufHdr s p o).step → addsToCome s p handle.toNat = false →
      heldBack s (closeFor p handle.toNat s) = false →
      ∃ t y, exec (.bufferClose p handle) s = .next t ∧ t.mem = (closeBuf p o s).mem ∧
        (t.part p).veto.pending = [y] ∧ y.ident = x.ident ∧ y.toClose = [k] ∧ y.judged = x.judged ∧
        y.dropped = x.dropped ||| BitVec.ofNat 64 (bufHdr (closeBuf p o s) p o).dropped) ∧
    (∀ (x : PendingVeto) (k : Nat) (o : Obj), (s.part p).veto.pending = [x] → x.toClose = [handle.toNat, k] →
      k ≠ handle.toNat → s.obj? p handle.toNat = some o → bufBroken s p o = false →
      x.record.step ≠ (bufHdr s p o).step →
      exec (.bufferClose p handle) s =
        .next (s.updVeto p fun v => { v with pending := [{ x with toClose := [k] }] }))

/-- R286, R291, R334: in a STANDALONE partition the local verdict resolves the step: SKIP where any reason is set. -/
def Obligations.StandaloneVerdictResolves : Prop :=
  ∀ (p : Part) (x : PendingVeto) (s : State),
    (s.part p).cad.role = .standalone → (s.part p).veto.carriedStep ≠ x.record.step → x.record.rim = false →
    x.record.vlane = false → votingFor s p x.record.step = [] → x.ident ∉ (s.part p).veto.pending.map PendingVeto.ident →
    let t := judgeVeto p x s
    (t.part p).veto.vstep = BitVec.ofNat 40 x.record.step ∧ (t.part p).veto.reason = BitVec.ofNat 8 x.reason ∧
      (t.part p).veto.skip = decide (x.reason ≠ 0) ∧
      (t.part p).veto.skips = (if x.reason = 0 then (s.part p).veto.skips else satAdd (s.part p).veto.skips 1) ∧
      ∃ e ∈ (t.part p).pln.hist, e.step = BitVec.ofNat 40 x.record.step ∧ e.skip = decide (x.reason ≠ 0)

/-- R313 to R322, R330 to R335: what the planisher does with the next entry of an APPLY job, its units and their writes.
It takes in the model's own reading or choice in log entries 79, 80. -/
def Obligations.ApplyRuns : Prop :=
  (∀ (p : Part) (s : State) (j : Job) (o ob : Obj) (step hd : Nat),
    let addr := j.table + 128 * j.next
    let e := Entry.ofNat (readNat s p plnMaster addr 128)
    jobReady s p 1 = some j → (s.part p).pln.entry = none →
    firstRefusal s p [(.r, addr, 128), (.w, addr, 128)] = none → e.bad = false → s.obj? p e.object = some o →
    entryStep j e = some step →
    let s0 := touchRead p addr 128 s
    let s1 := touchRead p (e.grad + step % (e.lag + 1) * 8) 8 s0
    ((e.doneV = true ∧ step ≤ e.done) → heldBack s (nextEntry p (countAlready p s0)) = false →
      exec (.apply p) s = .next (nextEntry p (countAlready p s0))) ∧
    (¬(e.doneV = true ∧ step ≤ e.done) → copiesStriped s0 p e = false → slowTier o = false →
      firstRefusal s0 p [(.r, e.grad + step % (e.lag + 1) * 8, 8)] = none →
      heldBack s (nextEntry p (countMismatch p s1)) = false →
      (gradBuf s1 p e step = none → exec (.apply p) s = .next (nextEntry p (countMismatch p s1))) ∧
      (gradBuf s1 p e step = some (hd, ob) → firstRefusal s1 p [(.r, ob.base, 64)] = none → gradFits s1 p e step ob = true →
        ((s.part p).pln.hist.find? (fun x => x.step.toNat = step) = none → votingFor s1 p step ≠ [] →
          exec (.apply p) s = .next (updJob p (fun j => { j with waiting := true }) s1)) ∧
        (∀ x, (s.part p).pln.hist.find? (fun x => x.step.toNat = step) = some x →
          let u := updJob p (fun j => { j with waiting := false }) s1
          (x.skip = true → firstRefusal u p [(.w, ob.base, ob.sheets * sheetBytes)] = none → u.obj? p hd = some ob →
            heldBack s (nextEntry p (finishEntry p addr hd step (countSkipped p u))) = false →
            exec (.apply p) s = .next (nextEntry p (finishEntry p addr hd step (countSkipped p u)))) ∧
          (x.skip = false → firstRefusal u p (e.areas ++ gradAreas u p ob) = none → e.rule = 0 → e.progV = false →
            0 < e.units → Alone u p (jobRuns u p j).1 →
            exec (.apply p) s = .next (u.updPln p fun y => { y with
              entry := some { addr, step, handle := hd, unit := 0, hyper := readF32s u p e.hyper 16 } }))) ∧
        (gradFits s1 p e step ob = false → exec (.apply p) s = .next (nextEntry p (countMismatch p s1)))))) ∧
  (∀ (p : Part) (s : State) (j : Job) (w : EntryWork) (o : Obj),
    jobReady s p 1 = some j → (s.part p).pln.entry = some w → w.writes = none → anyLive s = true →
    arrayWaits s p = false → s.obj? p w.handle = some o → Alone s p (jobRuns s p j).1 →
    (Entry.ofNat (readNat s p plnMaster w.addr 128)).rule = 0 →
    ∃ t ws, exec (.planisherUnit p) s = .next t ∧ (t.part p).pln.entry = some { w with writes := some ws } ∧
      t.mem = s.mem ∧ (popcount (bufEntry s p (bufHdr s p o) w.unit).mask = 0 → ws = [] ∧
        (t.part p).pln.zero = satAdd (s.part p).pln.zero 1)) ∧
  (∀ (p : Part) (s : State) (j : Job) (w : EntryWork),
    jobReady s p 1 = some j → (s.part p).pln.entry = some w → w.writes = none → anyLive s = true →
    arrayWaits s p = true → exec (.planisherUnit p) s = .next s) ∧
  (∀ (p : Part) (s : State) (j : Job) (rest : List Job) (w : EntryWork) (ws : List (Nat × List Byte)),
    let v := ws.foldl (fun s a => writeMem p a.1 a.2 s) s
    let u := rewriteEntry p w.addr (fun v => setField (setField (setField v 399 360 w.step) 359 328 (w.unit + 1)) 327 327 1)
      v
    (s.part p).pln.entry = some w → w.writes = some ws → (s.part p).pln.queue = j :: rest → j.code = 1 →
    Alone v p (jobRuns v p j).1 → (Entry.ofNat (readNat v p plnMaster w.addr 128)).rule = 0 →
    w.unit + 1 < (Entry.ofNat (readNat v p plnMaster w.addr 128)).units → heldBack s u = false →
    exec (.planisherUnitWritten p) s = .next (u.updPln p fun y => { y with
      entry := some { w with unit := w.unit + 1, writes := none } })) ∧
  (∀ (p : Part) (s : State), (s.part p).pln.entry = none →
    exec (.planisherUnit p) s = .next s ∧ exec (.planisherUnitWritten p) s = .next s)

/-- R266, R302, R312, R337, R338: the other jobs of the planisher, and deliveries. -/
def Obligations.PlanisherJobsRun : Prop :=
  (∀ (p : Part) (s : State) (j : Job) (rest : List Job) (n hd : Nat) (o : Obj),
    let s0 := touchRead p (j.table + 8 * j.next) 8 s
    let u := resetBuf p o j.step j.expect.toNat s0
    (s.part p).pln.queue = j :: rest → jobReady s p 2 = some j → j.source = .op n → j.count ≤ j.next + 1 →
    firstRefusal s p [(.r, j.table + 8 * j.next, 8)] = none →
    bufAt s p (readNat s p plnMaster (j.table + 8 * j.next) 8) = some (hd, o) → bufBroken s0 p o = false →
    (bufHdr s0 p o).state ≠ 1 → firstRefusal s0 p [(.r, o.base, 64)] = none →
    firstRefusal s0 p [(.w, o.base, o.sheets * sheetBytes)] = none → Alone u p (jobRuns u p j).1 →
    heldBack s (nextEntry p u) = false → exec (.bufResetJob p) s = .next (nextEntry p u)) ∧
  (∀ (p : Part) (s : State) (j : Job) (rest : List Job) (n : Nat) (o : Obj),
    let e := Entry.ofNat (readNat s p plnMaster (j.table + 128 * j.next) 128)
    (s.part p).pln.queue = j :: rest → jobReady s p 3 = some j → j.source = .op n → (s.part p).pln.entry = none →
    firstRefusal s p [(.r, j.table + 128 * j.next, 128)] = none → e.bad = false → s.obj? p e.object = some o →
    (let s0 := touchRead p (j.table + 128 * j.next) 128 s
    copiesStriped s0 p e = false → firstRefusal s0 p [(.r, e.master, 4 * e.elems), (.w, e.working, 2 * e.elems)] = none →
    exec (.derive p) s = .next (s0.updPln p fun y => { y with
      entry := some { addr := j.table + 128 * j.next, step := 0, handle := 0, unit := 0, hyper := [] } }))) ∧
  (∀ (p : Part) (s : State) (j : Job) (w : EntryWork),
    let e := Entry.ofNat (readNat s p plnMaster w.addr 128)
    jobReady s p 3 = some j → (s.part p).pln.entry = some w → w.writes = none → anyLive s = true →
    arrayWaits s p = false → Alone s p (jobRuns s p j).1 →
    ∃ t, exec (.planisherUnit p) s = .next t ∧ t.mem = s.mem ∧ (t.part p).pln.entry =
      some { w with writes := some (unitRows e w.unit (deriveRow s p e)).1 }) ∧
  (∀ (p : Part) (s : State) (j : Job) (rest : List Job), anyLive s = true → (s.part p).pln.queue = j :: rest →
    exec (.deliveryRerun p) s = .next (s.updPln p fun y => { y with queue := { j with rerun := false } :: rest })) ∧
  (∀ (p : Part) (s : State) (f : Firing) (rest : List Firing) (j : Job),
    let u := takenFiring p f (s.updCad p fun c => { c with lateQ := rest })
    (s.part p).cad.lateQ = f :: rest → (s.part p).pln.queue.length < 16 → deliveryJob p f u = .ok j →
    exec (.lateUpdateDelivery p) s =
      .next ((touchRead p j.addr 64 u).updPln p fun y => { y with queue := y.queue ++ [{ j with foot := jobFoot u p j }] }))

/-- R317, R318: the job that ends leaves the queue, and its operation the flight list. -/
def Obligations.JobEnds : Prop :=
  ∀ (p : Part) (s : State) (j : Job) (rest : List Job) (n : Nat),
    (s.part p).pln.queue = j :: rest → j.source = .op n → j.sig = false → (plnAccess s p .w j.report 64).1 = none →
    let t := finishJob p none s
    (t.part p).pln.queue = rest ∧ (t.part p).pln.entry = none ∧
      (t.part p).bench.flight = ((s.part p).bench.flight.filter fun f => f.ident ≠ n) ∧
      t.mem = (writeMem p j.report (jobReport j false) s).mem

/-! ## Resilience, folio, access and firmware commands -/

/-- R547, R555, R571, R574 to R577, R582, R586, R592, R646: the resilience commands, where their checks hold. It takes in
the model's own reading or choice in log entries 156, 166. -/
def Obligations.ResilienceCommandsRun : Prop :=
  (∀ (h : CmdHdr) (set : B32) (slot : Byte) (list : B64) (count : B16) (s : State) (o : Obj) (c : CkptSet),
    let u := begun h s
    let hs := handleList u h.fn h.fn.val list.toNat count.toNat
    MayRun { opcode := 0x0500, long := true } h s → s.obj? h.fn set.toNat = some o → setOf u h.fn set.toNat = some c →
    slot.toNat ≤ 1 → anyRunning u h.fn = false → hostRead h.fn list.toNat (4 * count.toNat) u = (none, u) →
    restoreBad u h.fn (c.image u slot.toNat) hs = none →
    exec (.ckptRestore h set slot list count) s = .next (startLong h 0x0500
      (leBytes 4 set.toNat ++ leBytes 4 slot.toNat ++ leBytes 8 list.toNat ++ leBytes 2 count.toNat)
      (.restore set.toNat slot.toNat hs 0) u)) ∧
  (∀ (h : CmdHdr) (dest : B32) (ident : B16) (source : Byte) (s : State) (o : Obj),
    MayRun { opcode := 0x0501, long := true, issuer := .folio } h s → s.obj? h.fn dest.toNat = some o →
    source.toNat ≤ 39 → s.vesin.mask source.toNat ≠ 0 → source.toNat ≠ s.vesin.myPos.toNat →
    isRemoved (begun h s) source.toNat = false →
    exec (.fill h dest ident source) s = .next (startLong h 0x0501
      (leBytes 4 dest.toNat ++ leBytes 2 ident.toNat ++ leBytes 1 source.toNat)
      (.fill dest.toNat ident.toNat source.toNat)
      (sendMsg source.toNat (ctrl 3 o.sheets ident.toNat 0) .none ((begun h s).updRes h.fn fun r => { r with
        fills := r.fills ++ [{ dest := dest.toNat, ident := ident.toNat, source := source.toNat
                               wanted := List.range o.sheets }] })))) ∧
  (∀ (h : CmdHdr) (s : State), MayRun { opcode := 0x0502, issuer := .folio } h s → (s.part h.fn).res.sbState = 2 →
    (s.part h.fn).res.fills = [] → (s.part h.fn).res.filled.any (fun f => f.root.isNone) = true →
    let u := (begun h s).updRes h.fn fun r => { r with sbState := 3, collected := [] }
    Answers (.fillDone h) h 0x0502 0 s (sendAll (uncollected u h.fn) (ctrl 0x0A 0 0 0) u)) ∧
  (∀ (h : CmdHdr) (s : State), MayRun { opcode := 0x0503, issuer := .folio } h s → (s.part h.fn).res.sbState = 2 →
    Answers (.fillCancel h) h 0x0503 0 s ((begun h s).updRes h.fn fun r => { r with
      sbState := 1, takes := 0, filled := [], fills := r.fills.map fun x => { x with bad := some 0x0030 } })) ∧
  (∀ (h : CmdHdr) (arm auto claim : Byte) (wait : B16) (s : State),
    MayRun { opcode := 0x0504, issuer := .folio } h s → arm.toNat ≤ 1 → auto.toNat ≤ 1 → claim.toNat ≤ 1 →
    1 ≤ wait.toNat → wait.toNat ≤ 1000 → s.host.staging = .free →
    let set (t : State) : State := t.updRes h.fn fun r => { r with
      armEn := decide (arm.toNat = 1), autoRollback := decide (auto.toNat = 1), assayWait := BitVec.ofNat 10 wait.toNat }
    (claim = 0 → Answers (.resCfg h arm auto claim wait) h 0x0504 0 s (set (begun h s))) ∧
    (claim = 1 → Answers (.resCfg h arm auto claim wait) h 0x0504 0 s
      (set { begun h s with host := { s.host with staging := .capture h.fn } }))) ∧
  (∀ (h : CmdHdr) (set : B32) (list : B64) (s : State) (c : CkptSet),
    MayRun { opcode := 0x0505, issuer := .folio } h s → (s.obj? h.fn set.toNat).isSome = true →
    setOf (begun h s) h.fn set.toNat = some c →
    Answers (.rbSet h set list) h 0x0505 0 s
      ((begun h s).updRes h.fn fun r => { r with rbSet := set, rbList := list })) ∧
  (∀ (h : CmdHdr) (s : State), MayRun { opcode := 0x0506, long := true, issuer := .folio } h s →
    (s.part h.fn).cad.role = .leader →
    exec (.rollback h) s = .next (startLong h 0x0506 [] (.rollback 0) (startRollback h.fn true (begun h s)))) ∧
  (∀ (h : CmdHdr) (pos : Byte) (s : State), MayRun { opcode := 0x0507, issuer := .folio } h s →
    isCoord (begun h s) h.fn = true → pos.toNat ≤ 39 → (s.part h.fn).res.members.getLsbD pos.toNat = true →
    Answers (.remove h pos) h 0x0507 0 s (declareFailed h.fn pos.toNat (begun h s))) ∧
  (∀ (h : CmdHdr) (set : Byte) (s : State), MayRun { opcode := 0x0508, issuer := .folio } h s →
    (s.part h.fn).cad.role = .leader → set.toNat ≤ 1 →
    Answers (.hold h set) h 0x0508 0 s (holdReason h.fn 5 (decide (set = 1)) (begun h s)))

/-- R506, R513, R522, R526, R532, R570, R571, R647, R648: the folio and link commands, and KEY_INSTALL. It takes in the
model's own reading or choice in log entries 163, 168. -/
def Obligations.FolioCommandsRun : Prop :=
  (∀ (h : CmdHdr) (folio : B32) (pos : Byte) (masks : List Byte) (s : State),
    MayRun { opcode := 0x0600 } h s → pos.toNat ≤ 39 → s.vesin.fvalid = false → s.folioPart = none →
    anyRunning (begun h s) h.fn = false → (∀ v, (s.vesin.port v).state ≠ .isolated) →
    ∃ t, Answers (.groupSet h folio pos masks) h 0x0600 0 s t ∧ t.vesin.fvalid = true ∧ t.vesin.folioId = folio ∧
      t.vesin.fpart = h.fn ∧ t.vesin.myPos.toNat = pos.toNat ∧
      (t.part h.fn).cad.role = (if pos.toNat = 0 then .leader else .follower) ∧ t.mem = s.mem ∧
      t.vesin.vmap = putMasks 0 (takePad 40 0 masks) []) ∧
  (∀ (h : CmdHdr) (s : State),
    let u := clearFolio (leaveFolio h.fn (sendLeave h.fn 3 (begun h s)))
    MayRun { opcode := 0x0601, issuer := .folio } h s → (∀ v, (u.vesin.port v).state ≠ .isolated) →
    Answers (.groupLeave h) h 0x0601 0 s u ∧ u.vesin.fvalid = false ∧ u.vesin.folioId = 0 ∧ u.vesin.curKey = none ∧
      u.vesin.nextKey = none ∧ u.power.assayKey = none ∧ u.vesin.vmap = []) ∧
  (∀ (h : CmdHdr) (first count : Byte) (masks : List Byte) (s : State),
    MayRun { opcode := 0x0602, issuer := .folio } h s → first.toNat + count.toNat ≤ 40 → s.vesin.waiting = [] → s.vesin.awaiting = [] →
    (∀ v, (s.vesin.port v).state ≠ .isolated) →
    Answers (.mapSet h first count masks) h 0x0602 0 s (updVesin (fun x => { x with
      vmap := putMasks first.toNat (takePad count.toNat 0 masks) x.vmap }) (dropKept (begun h s) h.fn))) ∧
  (∀ (h : CmdHdr) (enable : Byte) (hold : B16) (s : State), MayRun { opcode := 0x0603, issuer := .p0 } h s →
    1 ≤ hold.toNat → hold.toNat ≤ 1000 → Map.sorted s.vesin.ports = true →
    (∀ v : Port, enable.getLsbD v.val = false → (s.vesin.port v).state = .off) →
    ∃ t, Answers (.portCfg h enable hold) h 0x0603 0 s t ∧ t.vesin.portEn = enable ∧
      t.vesin.linkHold.toNat = hold.toNat ∧ t.mem = s.mem ∧
      ∀ v : Port, (t.vesin.port v).state =
        if enable.getLsbD v.val && decide ((s.vesin.port v).state = .off) && !(s.vesin.port v).laserFail then .detect
        else (s.vesin.port v).state) ∧
  (∀ (h : CmdHdr) (mask : Byte) (s : State), MayRun { opcode := 0x0604, long := true, issuer := .p0OrFolio } h s →
    exec (.portRetrain h mask) s = .next (startLong h 0x0604 (leBytes 20 mask.toNat) (.report 0 0)
      ((eight.filter fun v => mask.getLsbD v.val).foldl retrainPort (begun h s)))) ∧
  (∀ (v : Port) (s : State), (s.vesin.port v).state = .up → carried s v = [] → Map.sorted s.vesin.ports = true →
    ((retrainPort s v).vesin.port v).state = .train) ∧
  (∀ (h : CmdHdr) (s : State) (k : Byte × B256), MayRun { opcode := 0x0605, long := true, issuer := .folio } h s →
    s.vesin.nextKey = some k →
    exec (.keySwitch h) s = .next (startLong h 0x0605 [] .keySwitch
      (eight.foldl (fun s v => if (s.vesin.port v).state = .up then startRekey v k.1 s else s) (begun h s)))) ∧
  (∀ (h : CmdHdr) (kind ident : Byte) (addr : B64) (length : B32) (blob : List Byte) (s : State),
    let b := blob.take length.toNat
    let body := b.drop headBytes
    let key : B256 := BitVec.ofNat 256 (headField body 8 32)
    MayRun { opcode := 0x0700, issuer := .folio } h s → kind = 1 ∨ kind = 2 → verifies (begun h s) 6 b = true →
    headField b 12 4 = 64 → body.headD 0 = kind → body.getD 1 0 = ident →
    headField body 4 4 = s.vesin.folioId.toNat →
    ∃ t, Answers (.keyInstall h kind ident addr length blob) h 0x0700 0 s t ∧
      (kind = 2 → t.power.assayKey = some key ∧ t.vesin = (begun h s).vesin) ∧
      (kind = 1 → s.vesin.curKey = none → t.vesin.curKey = some (ident, key)) ∧
      (kind = 1 → s.vesin.curKey ≠ none → t.vesin.curKey = s.vesin.curKey ∧ t.vesin.nextKey = some (ident, key)))

/-- R464 to R475, R482, R483: access tables and arbiters. It takes in the model's own reading or choice in log entries
122, 123. -/
def Obligations.AccessAndArbitersRun : Prop :=
  (∀ (h : CmdHdr) (first last master row : Byte) (s : State),
    MayRun { opcode := 0x0701, long := true, issuer := .p0 } h s → first.toNat ≤ last.toNat → last.toNat ≤ 85 →
    row.toNat ≤ 63 → master ≠ 0x20 → ¬(0x10 ≤ master.toNat ∧ master.toNat < 0x20) → masterUsed master.toNat = true →
    exec (.aclSet h first last master row) s = .next (startLong h 0x0701 [first, last, master, row]
      (.aclSet first.toNat last.toNat master.toNat row.toNat) (begun h s))) ∧
  (∀ (a : Fin 60) (shadow : Bool) (v : B64) (s : State), aclGrants s 80 0 .w = true → Map.sorted s.arbs = true →
    (mapOk v.toNat = true → ∃ t, exec (.arbMap 0 a shadow 8 v) s = .next t ∧
      (t.arb a.val).map = (if shadow || (s.arb a.val).compat then (s.arb a.val).map else v) ∧
      (t.arb a.val).shadow = (if shadow || (s.arb a.val).compat then v else (s.arb a.val).shadow) ∧
      ∀ b, b ≠ a.val → t.arb b = s.arb b) ∧
    (mapOk v.toNat = false → ∃ t, exec (.arbMap 0 a shadow 8 v) s = .next t ∧ (t.arb a.val).mapErr = true ∧
      (t.arb a.val).map = (s.arb a.val).map ∧ (t.arb a.val).shadow = (s.arb a.val).shadow)) ∧
  (∀ (fn : Part) (a : Fin 60) (shadow : Bool) (v : B64) (s : State), fn ≠ 0 → aclGrants s (80 + fn.val) fn.val .w = true →
    exec (.arbMap fn a shadow 8 v) s = .next s) ∧
  (∀ (a : Fin 60) (v : B32) (s : State), aclGrants s 80 0 .w = true → Map.sorted s.arbs = true →
    ∃ t, exec (.arbCtrl 0 a v) s = .next t ∧ (t.arb a.val).compat = v.getLsbD 16 ∧
      ((t.arb a.val).burst.toNat = v.toNat / 256 % 256) ∧
      (t.arb a.val).ageN.toNat = (if v.toNat % 256 < 2 then (s.arb a.val).ageN.toNat else v.toNat % 256) ∧
      (v.getLsbD 17 = true → (t.arb a.val).mapErr = false) ∧ (t.arb a.val).map = (s.arb a.val).map) ∧
  (∀ (v : B32) (s : State), aclGrants s 80 0 .w = true → v.getLsbD 0 = true → ∀ a x, Map.find? s.arbs a = some x →
    ∃ t, exec (.arbCommit 0 v) s = .next t ∧ (t.arb a).map = (if x.compat then x.shadow else x.map) ∧ t.mem = s.mem) ∧
  (∀ (a : Fin 60) (m : Byte) (src : BitVec 4) (c n : Nat) (s : State), (s.arb a.val).waiting = [] →
    (s.arb a.val).behind = [] → (s.arb a.val).offered = [] → raises (src, m) = true → src.toNat < 15 →
    Map.sorted s.arbs = true →
    ∃ t, exec (.arbiterGrant a { events := [{ source := src, master := m, cycle := c }] } n false) s = .next t ∧
      (t.arb a.val).owner = some { source := src, master := m, raised := c } ∧ (t.arb a.val).waiting = [] ∧
      (t.arb a.val).moved = 0 ∧ (t.arb a.val).grants = (s.arb a.val).grants + 1 ∧
      (t.arb a.val).dead = (s.arb a.val).dead) ∧
  (∀ (a : Fin 60) (k n : Nat) (w : Bool) (s : State), (s.arb a.val).owner ≠ none → Map.sorted s.arbs = true →
    ((s.arb a.val).burst = 0 ∨ (s.arb a.val).moved + k < (s.arb a.val).burst.toNat) →
    ∃ t, exec (.arbiterGrant a { moved := k, work := true } n w) s = .next t ∧
      t.arb a.val = { s.arb a.val with moved := (s.arb a.val).moved + k } ∧ ∀ b, b ≠ a.val → t.arb b = s.arb b)

/-- R412, R416, R425, R427, R726, R737 to R740: firmware, records, punch sets, packing. It takes in the model's own
reading or choice in log entries 116, 224, 228. -/
def Obligations.StagingAndPackingRun : Prop :=
  (∀ (h : CmdHdr) (off len : B32) (addr : B64) (data : List Byte) (s : State),
    MayRun { opcode := 0x0702, long := true, minimal := true, issuer := .p0 } h s →
    off.toNat + len.toNat ≤ 16777216 → s.power.staging ≠ .pldm →
    exec (.fwStage h off len addr data) s = .next (startLong h 0x0702
      (leBytes 4 off.toNat ++ leBytes 4 len.toNat ++ leBytes 8 addr.toNat)
      (.stage off.toNat (data.take len.toNat)) (beginStage .command (begun h s)))) ∧
  (∀ (h : CmdHdr) (s : State), MayRun { opcode := 0x0703, long := true, minimal := true, issuer := .p0 } h s →
    exec (.fwActivate h) s = .next (startLong h 0x0703 [] .activate (begun h s))) ∧
  (∀ (h : CmdHdr) (addr : B64) (len : B32) (data : List Byte) (s : State),
    MayRun { opcode := 0x0704, long := true, minimal := true, issuer := .p0 } h s →
    exec (.configRecord h addr len data) s = .next (startLong h 0x0704 (leBytes 8 addr.toNat ++ leBytes 4 len.toNat)
      (.record (data.take len.toNat)) (begun h s))) ∧
  (∀ s : State, busServed s = true → s.power.staging = .idle → exec .requestUpdate s = .next { s with
    power := { s.power with staging := .pldm, responses := s.power.responses ++ [[0]] } }) ∧
  (∀ (off : B32) (data : List Byte) (s : State), busServed s = true → s.power.staging = .pldm →
    off.toNat + data.length ≤ 16777216 → ∃ t, exec (.requestFirmwareData off data) s = .next t ∧
      t.power.staged = true ∧ t.power.active = s.power.active ∧
      (s.power.staged = false → (t.fwSlot (!s.power.active)).empty = true) ∧
      (t.fwSlot s.power.active) = (s.fwSlot s.power.active) ∧
      (∀ b, data = [b] → Map.find? (t.fwSlot (!s.power.active)).bytes off.toNat = some b)) ∧
  (∀ s : State, busServed s = true → s.power.staging = .pldm → s.power.staged = true →
    imageOk s (!s.power.active) = true → ∃ t, exec .activateFirmware s = .next t ∧
      t.power.trial = some (!s.power.active) ∧ t.power.staging = .idle ∧ t.power.staged = false ∧
      t.power.failCount = 0 ∧ t.power.responses = s.power.responses ++ [[0]]) ∧
  (∀ (h : CmdHdr) (slot gen : Byte) (addr : B64) (image : List Byte) (s : State), MayRun { opcode := 0x0800 } h s →
    slot.toNat ≤ 15 → punchBad (takePad 256 0 image) = false → (s.slot slot.toNat).state = .free →
    (s.slot slot.toNat).refs = 0 →
    Answers (.punchLoad h slot gen addr image) h 0x0800 0 s (updSlot slot.toNat (fun x => {
      state := .loaded, owner := h.fn, fmt := BitVec.ofNat 2 ((takePad 256 0 image).getD 128 0).toNat
      gen := if gen ≠ 0 then gen else if x.gen = 255 then 1 else x.gen + 1, refs := 0, image := takePad 256 0 image })
      (begun h s))) ∧
  (∀ (h : CmdHdr) (slot : Byte) (s : State), MayRun { opcode := 0x0801 } h s → slot.toNat ≤ 15 →
    (s.slot slot.toNat).state = .loaded → (s.slot slot.toNat).owner = h.fn →
    ((s.slot slot.toNat).refs = 0 → Answers (.punchRetire h slot) h 0x0801 0 s
      (updSlot slot.toNat (fun x => { x with state := .free, fmt := 0, image := [] }) (begun h s))) ∧
    ((s.slot slot.toNat).refs ≠ 0 → Answers (.punchRetire h slot) h 0x0801 0 s
      (updSlot slot.toNat (fun x => { x with state := .retiring }) (begun h s)))) ∧
  (∀ (h : CmdHdr) (src dst : B32) (mask stitch : B16) (s : State) (a b : Obj) (fmt blocks granules : Nat),
    MayRun { opcode := 0x0802, long := true } h s → s.obj? h.fn src.toNat = some a → s.obj? h.fn dst.toNat = some b →
    a.kind = .plain → b.kind = .packed fmt blocks granules → a.sheets * 8 ≤ blocks → mask ≠ 0 →
    (∀ i ∈ maskSlots mask.toNat, (s.slot i).state = .loaded ∧ (s.slot i).owner = h.fn ∧ (s.slot i).fmt.toNat = fmt) →
    exec (.pack h src dst mask stitch) s = .next (startLong h 0x0802
      (leBytes 4 src.toNat ++ leBytes 4 dst.toNat ++ leBytes 2 mask.toNat ++ leBytes 2 stitch.toNat)
      (.pack src.toNat dst.toNat mask stitch)
      ((maskSlots mask.toNat).foldl (fun s i => takeRefs i 1 s) (begun h s)))) ∧
  (∀ (h : CmdHdr) (src dst : B32) (stitch : B16) (s : State) (a b : Obj) (fmt blocks granules : Nat),
    MayRun { opcode := 0x0803, long := true } h s → s.obj? h.fn src.toNat = some a → s.obj? h.fn dst.toNat = some b →
    a.kind = .packed fmt blocks granules → b.kind = .plain → blocks ≤ b.sheets * 8 →
    exec (.unpack h src dst stitch) s = .next (startLong h 0x0803
      (leBytes 4 src.toNat ++ leBytes 4 dst.toNat ++ leBytes 2 0 ++ leBytes 2 stitch.toNat)
      (.unpack src.toNat dst.toNat stitch (namedSlots (begun h s) h.fn a))
      ((namedSlots (begun h s) h.fn a).foldl (fun s i => takeRefs i 1 s) (begun h s))))

/-! ## The host interface from outside -/

/-- R594, R595, R599 to R604, R608, R624 to R628, R630, R635, R661 to R665: packets, the end of long commands, BAR0 and
BAR2, configuration requests and links. It takes in the model's own reading or choice in log entries 181, 183. -/
def Obligations.HostInterfaceRuns : Prop :=
  (∀ (fn : Part) (slot : Fin 64) (pk data : List Byte) (s : State) (i : Instr), commandsServed s fn = true →
    (s.part fn).host.pstate = .opened → (s.part fn).host.starting = false → (s.part fn).host.slots = [] →
    sealOk pk = true → field (leNat (pk.take 32)) 207 176 = (s.part fn).host.seqNext.toNat →
    slot.val = (s.part fn).host.seqNext.toNat % 64 → parsePacket (.of fn pk) data = some i →
    exec (.commandSeal fn slot pk data) s = .next (s.updHost fn fun x => { x with
      seqNext := x.seqNext + 1, accepted := x.accepted ++ [i] })) ∧
  (∀ (fn : Part) (slot : Fin 64) (pk data : List Byte) (s : State), commandsServed s fn = true →
    (s.part fn).host.pstate = .opened → (s.part fn).host.starting = false → sealOk pk = false →
    exec (.commandSeal fn slot pk data) s = .next (refusePacket (.of fn pk) pk 0x0022 ((s.updHost fn fun x => { x with
      slots := Map.erase x.slots slot.val }).updHost fn fun x => { x with sealFails := satAdd x.sealFails 1 }))) ∧
  (∀ (p : Part) (i : Fin 16) (ok : Bool) (s : State) (c : LongCmd) (st : B16) (r : B128),
    Map.find? (s.part p).host.longs i.val = some c → c.work = .report st r →
    exec (.longCommandDone p i ok) s = .next (finishLong p i.val st r s)) ∧
  (∀ (fn : Part) (off : BitVec 26) (size : Nat) (v : B64) (s : State), functionServed s fn = true →
    aligned off.toNat size = true → inWindow off.toNat = true → aclGrants s (80 + fn.val) fn.val .w = true →
    exec (.registerWrite fn off size v) s = .next (windowWriteReg fn (off.toNat - 0x200000) size v s)) ∧
  (∀ (fn : Part) (v : B64) (s : State), functionServed s fn = true →
    exec (.registerWrite fn 0x142010 4 v) s = .next (s.updHost fn fun h => { h with irqMask := v.setWidth 4 }) ∧
    exec (.registerWrite fn 0x142014 4 v) s = .next (s.updHost fn fun h => { h with
      irqStatus := h.irqStatus &&& ~~~(v.setWidth 4) })) ∧
  (∀ (fn : Part) (off : BitVec 26) (s : State), functionServed s fn = true → inWindow off.toNat = true →
    off.toNat % 8 = 0 → aclGrants s (80 + fn.val) fn.val .r = true →
    exec (.registerReadClear fn off 8) s = .next
      ((clearReg fn (off.toNat - 0x200000 + 4) (clearReg fn (off.toNat - 0x200000) s)).out
        (.completion fn (leBytes 8 (windowWord s fn (off.toNat - 0x200000)))))) ∧
  (∀ (fn : Part) (s : State), functionServed s fn = true → aclGrants s (80 + fn.val) fn.val .r = true →
    exec (.registerReadClear fn 0x200010 4) s = .next ((s.updCad fn fun c => { c with stale := 0 }).out
      (.completion fn (leBytes 4 (s.part fn).cad.stale.toNat)))) ∧
  (∀ (fn : Part) (s : State), functionServed s fn = true → aclGrants s (80 + fn.val) fn.val .r = true →
    exec (.cadPosHalfRead fn false false) s = .next ((s.updCad fn fun c => { c with
      posLatch := some ((s.part fn).cad.pos >>> 32 |>.setWidth 32) }).out
      (.completion fn (leBytes 4 ((s.part fn).cad.pos.toNat % 2 ^ 32)))) ∧
    ∀ x, (s.part fn).cad.posLatch = some x →
      exec (.cadPosHalfRead fn false true) s = .next ((s.updCad fn fun c => { c with posLatch := none }).out
        (.completion fn (leBytes 4 x.toNat)))) ∧
  (∀ (fn : Part) (off : BitVec 39) (n : Nat) (s : State),
    let a := winBase (s.part fn).host + off.toNat
    functionServed s fn = true → off.toNat + n ≤ 2 ^ (s.part fn).host.barLog2.toNat → reachesWindow a n = false →
    checkMem s fn fn.val .r a n = .ok →
    exec (.bar2Read fn off n .good) s = .next (touchRead fn a n (s.out (.completion fn (readMem s fn fn.val a n)))) ∧
    ∀ d : List Byte, d.length = n → checkMem s fn fn.val .w a n = .ok →
      exec (.bar2Write fn off d false) s = .next (writeMem fn a d s)) ∧
  (∀ (fn : Part) (off : BitVec 39) (n : Nat) (m : Media) (s : State), functionServed s fn = true →
    2 ^ (s.part fn).host.barLog2.toNat < off.toNat + n →
    ∃ t : State, exec (.bar2Read fn off n m) s = .next (t.out (.unsupported fn)) ∧ t.mem = s.mem) ∧
  (∀ (fn : Part) (n : BitVec 6) (s : State), commandsServed s fn = true → s.power.stage ≠ .unpowered → 30 ≤ n.toNat →
    n.toNat ≤ 39 → exec (.configRequest fn (some n)) s = .next ((s.updHost fn fun h => { h with barLog2 := n }).out
      (.config fn))) ∧
  (∀ (l : Fin 4) (partner : Bool) (lanes : BitVec 5) (s : State), mainOn s = true → linkExists s l = true → lanes ≠ 0 →
    ∃ t, exec (.pcieLinkUp l partner lanes) s = .next t ∧
      (t.host.links.get l).speed = (if partner then 6 else 5) ∧ 0 < (t.host.links.get l).width.toNat ∧
      (t.host.links.get l).width.toNat ≤ min lanes.toNat (linkLanes s) ∧ t.mem = s.mem ∧ t.parts = s.parts) ∧
  (∀ (fn : Part) (s : State), (s.part fn).host.pstate = .opened → ∃ t, exec (.functionLevelReset fn) s = .next t ∧
    (t.part fn).host.pstate = .detached ∧ (t.part fn).host.accepted = (s.part fn).host.accepted ∧
    (t.part fn).host.longs = (s.part fn).host.longs ∧ (t.part fn).tier.objects = (s.part fn).tier.objects) ∧
  (∀ (l : Fin 4) (f : Bool) (s : State), linkExists s l = true → ∃ t, exec (.linkLoss l f) s = .next t ∧
    (t.host.links.get l).speed = 0 ∧
    ∀ p ∈ linkParts s l, (s.part p).host.pstate = .opened → (t.part p).host.pstate = .detached) ∧
  (∀ s : State, s.power.stage ≠ .unpowered → s.power.stage ≠ .poweredDown → ∃ t, exec (.hstResetPowerDown 0) s = .next t ∧
    t.power.stage = .poweredDown ∧ t.power.rails = 3 ∧ t.power.pwrGood = false ∧ t.host.crash = s.host.crash) ∧
  (∀ (p : Part) (s : State), p ≠ 0 → exec (.hstResetPowerDown p) s = .next s)

/-! ## Checkpoints, mirrors, assay -/

/-- R539 to R546, R550 to R554, R593: slices, seals, mirrors and commits. It takes in the model's own reading or choice in
log entries 148, 152. -/
def Obligations.CheckpointEventsRun : Prop :=
  (∀ (p : Part) (s : State) (f : Firing) (rest : List Firing) (c : CkptSet) (o : Obj) (slot : Nat),
    let a := sliceArg f.entry
    let h := f.entry.object.toNat
    let u := takenFiring p f (s.updCad p fun x => { x with ckptQ := rest })
    let data := numbered ((List.range o.sheets).map (objSheet u o))
    let marks : Map B256 := data.map fun e => (e.1, hallmark e.2)
    (s.part p).res.snap = none → (s.part p).cad.ckptQ = f :: rest → setOf u p a.set = some c → c.atMirror = false →
    h ≠ 0 → u.obj? p h = some o → c.writing u = some slot → (c.image u slot).step = posStep f.pos →
    ((c.image u slot).slices.any fun x => x.slice = a.slice) = false → (c.image u slot).used + o.sheets ≤ c.capacity →
    checkMem u p 0x23 .r o.base (o.sheets * 65536) = .ok → mirrored u p c = false → a.staged = false → a.final = false →
    a.sig = false →
    exec (.checkpointSlice p) s = .next (doneFiring p f ((c.put slot { c.image u slot with
      slices := (c.image u slot).slices ++ [{
        slice := a.slice, exportId := (exportId u p h).getD 0xFFFF, object := h, sheets := o.sheets, policy := o.policy
        root := hallmarkRoot (Map.values marks), data, marks }]
      punch := joinPunch (c.image u slot).punch (punchOf u p o) }
      (c.program slot (c.image u slot).used o.sheets (touchRead p o.base (o.sheets * 65536) u))).updRes p fun r => { r with
        slices := satAdd r.slices 1 }))) ∧
  (∀ (p : Part) (set : B32) (s : State) (c : CkptSet) (slot : Nat), setOf s p set.toNat = some c → c.atMirror = false →
    c.peer = 63 → c.writing s = some slot → (c.image s slot).final = true → (s.part p).res.snap = none →
    exec (.imageSeal p set) s =
      .next (sealImage p c slot { c.image s slot with sealDig := (c.image s slot).digest } s)) ∧
  (∀ (p : Part) (s : State) (c : CkptSet) (slot : Nat) (g : Image),
    let t := sealImage p c slot g s
    (c.image t slot).state = .sealed ∧ (c.image t slot).sealDig = g.sealDig ∧ (c.image t slot).slices = g.slices ∧
    (t.part p).res.seals = satAdd (s.part p).res.seals 1) ∧
  (∀ (p : Part) (s : State) (f : Firing) (rest : List Firing) (c : CkptSet) (slot : Nat),
    let u := takenFiring p f (s.updCad p fun x => { x with commitQ := rest })
    (s.part p).cad.commitQ = f :: rest → setOf u p f.entry.object.toNat = some c → c.peer = 63 →
    c.newest u (fun g => g.state = .sealed && !g.committed) = some slot →
    exec (.standbyCommit p) s = .next (doneFiring p f (commitImage p c slot u))) ∧
  (∀ (p : Part) (s : State) (c : CkptSet) (slot : Nat), (c.image (commitImage p c slot s) slot).committed = true ∧
    (c.image (commitImage p c slot s) slot).slices = (c.image s slot).slices) ∧
  (∀ (p : Part) (set : B32) (s : State) (w : CommitWait) (c : CkptSet),
    let u := s.updRes p fun r => { r with commits := r.commits.erase w }
    ((s.part p).res.commits.find? fun x => x.set = set.toNat) = some w → setOf u p w.set = some c →
    exec (.mirrorCommitTimeout p set) s =
      .next (doneFiring p w.firing (imgNote p 4 0x0010 c (c.image u w.slot) 0 u))) ∧
  (∀ (m : MsgHdr) (slice : B16) (img : B32) (sheet : Nat) (data : List Byte) (s : State) (c : CkptSet) (i : Nat) (o : Obj),
    let g := (c.image s i).withSheet slice.toNat sheet data (hallmark data)
    let k := 1 + (c.image s i).heldSheets
    Accepted m s → mirrorFor s s.vesin.fpart m.src.toNat = some c → c.writing s = some i →
    (c.image s i).imgNo = img.toNat → (∀ j, (c.image s j).imgNo = img.toNat → (c.image s j).state ≠ .sealed) →
    s.obj? s.vesin.fpart c.handle = some o → (landing s.vesin.fpart m.port .w (c.slotAddr o i k) s).1 = true →
    Delivers (.fillMirror m slice img sheet data (hallmark data)) m s (c.put i g (c.program i k 1 s))) ∧
  (∀ (m : MsgHdr) (img : B32) (k : Fin 3) (data : List Byte) (s : State) (c : CkptSet) (i : Nat) (o : Obj),
    let g := if k = 0 then (c.image s i).withHeader data else if k = 1 then (c.image s i).withDir data
      else { c.image s i with partRec := some (PartRecord.ofBytes data) }
    Accepted m s → mirrorFor s s.vesin.fpart m.src.toNat = some c → c.writing s = some i →
    (c.image s i).imgNo = img.toNat → (∀ j, (c.image s j).imgNo = img.toNat → (c.image s j).state ≠ .sealed) →
    s.obj? s.vesin.fpart c.handle = some o → (landing s.vesin.fpart m.port .w (c.slotAddr o i 0) s).1 = true →
    let t := c.put i g s
    let g' := c.image t i
    ((k = 0 → g'.whole = false) → Delivers (.fillRecord m img k data) m s t) ∧
    (k = 0 → g'.state = .writing → g'.whole = true → g'.sealDig = g'.digest → (s.part s.vesin.fpart).res.deferred = [] →
      Delivers (.fillRecord m img k data) m s (sealImage s.vesin.fpart c i g' t))) ∧
  (∀ (m : MsgHdr) (step img : BitVec 40) (s : State) (c : CkptSet) (slot : Nat), Accepted m s →
    mirrorFor s s.vesin.fpart m.src.toNat = some c →
    c.newest s (fun g => g.state = .sealed && g.imgNo = img.toNat && g.step = step.toNat) = some slot →
    Delivers (.commitImg m step img) m s (commitMirror s.vesin.fpart c slot m.src.toNat s))

/-- R559 to R569, R585: comparisons of replicas. It takes in the model's own reading or choice in log entries 171, 174. -/
def Obligations.AssayEventsRun : Prop :=
  (∀ (p : Part) (s : State) (f : Firing) (rest : List Firing) (o : Obj) (ident d : Nat) (key : B256),
    let u := takenFiring p f (s.updCad p fun x => { x with assayQ := rest })
    let h := f.entry.object.toNat
    let v := f.entry.arg.toNat
    let step := posStep f.pos
    let dtab := field v 55 16 * 65536
    let tree := assayTree u o (assayH key step ident)
    let bytes := tree.flatten.flatMap fun x => leBytes 16 x.toNat
    let t := writeMem p dtab bytes (touchRead p o.base (o.sheets * 65536) u)
    let replicas := (List.range 40).filter fun d => Nat.testBit v (88 + d)
    (s.part p).cad.assayQ = f :: rest → s.folioPart = some p → Nat.testBit v (88 + ownPos s) = true →
    u.obj? p h = some o → exportId u p h = some ident → s.power.assayKey = some key →
    checkMem u p 0x24 .r o.base (o.sheets * 65536) = .ok → checkMem u p 0x24 .w dtab bytes.length = .ok →
    (replicas.find? fun x => (t.part p).res.members.getLsbD x) = some d → d ≠ ownPos t → (t.part p).res.earlyRoots = [] →
    heldBack s t = false →
    ∃ a : Assay, a.step = step ∧ a.ident = ident ∧ a.tree = tree ∧ a.referee = false ∧ a.replicas = replicas ∧
      exec (.assayComparison p) s = .next (engineSend 0x24 d (digestMsg 1 0 a 0 0 [treeRoot tree])
        (t.updRes p fun r => { r with assays := r.assays ++ [a] }))) ∧
  (∀ (ident : B16) (step : BitVec 40) (p : Part) (s : State) (a : Assay), s.folioPart = some p →
    assayOf s p ident.toNat step.toNat = some a → a.referee = true → a.result = none → a.descending = false →
    Map.keys a.roots = [ownPos s] →
    exec (.assayWaitExpiry ident step) s = .next (decideAssay p ident.toNat step.toNat 3 0
      (sendResult p a 3 0 (updAssay p ident.toNat step.toNat (fun a => { a with descending := true }) s)))) ∧
  (∀ (ident : B16) (step : BitVec 40) (p : Part) (s : State) (a : Assay), s.folioPart = some p →
    assayOf s p ident.toNat step.toNat = some a → a.referee = false → a.result = none → a.repairs = [] → a.sig = false →
    ∃ t, exec (.replicaAssayTimeout ident step) s = .next t ∧
      (t.part p).res.assayLast = place 64 48 ident.toNat ||| place 64 40 3 ||| step.setWidth 64 ∧ t.mem = s.mem) ∧
  (∀ (m : MsgHdr) (ident : B16) (step : BitVec 40) (root : B128) (s : State) (a : Assay) (d : Nat),
    let p := s.vesin.fpart
    Accepted m s → assayOf s p ident.toNat step.toNat = some a → a.referee = true → a.descending = false →
    a.replicas.contains m.src.toNat = true → d ∈ replicaMembers s p a → d ≠ m.src.toNat → Map.find? a.roots d = none →
    Delivers (.digestRoot m ident step root) m s (updAssay p ident.toNat step.toNat
      (fun a => { a with roots := Map.insert a.roots m.src.toNat root }) s)) ∧
  (∀ (m : MsgHdr) (ident : B16) (step : BitVec 40) (level : BitVec 4) (node : Nat) (s : State) (a : Assay), Accepted m s →
    assayOf s s.vesin.fpart ident.toNat step.toNat = some a →
    Delivers (.digestQuery m ident step level node) m s (engineSend 0x24 m.src.toNat
      (digestMsg 3 level.toNat a 0 node (childDigests a.tree level.toNat node)) s)) ∧
  (∀ (m : MsgHdr) (ident : B16) (step : BitVec 40) (level : BitVec 4) (node d : Nat) (ds : List B128) (s : State) (a : Assay)
    (q : Nat × Nat × Map (List B128)), Accepted m s → assayOf s s.vesin.fpart ident.toNat step.toNat = some a →
    (a.queries.find? fun q => q.1 = level.toNat && q.2.1 = node) = some q → d ∈ Map.keys a.roots → d ≠ m.src.toNat →
    Map.find? q.2.2 d = none →
    Delivers (.digestReply m ident step level node ds) m s (updAssay s.vesin.fpart ident.toNat step.toNat (fun a => { a with
      queries := a.queries.map fun x => if x.1 = level.toNat && x.2.1 = node then
        (q.1, q.2.1, Map.insert q.2.2 m.src.toNat ds) else x }) s)) ∧
  (∀ (m : MsgHdr) (ident : B16) (step : BitVec 40) (code : B16) (node : Nat) (s : State) (a : Assay), Accepted m s →
    assayOf s s.vesin.fpart ident.toNat step.toNat = some a →
    Delivers (.digestResult m ident step code node) m s
      (decideAssay s.vesin.fpart ident.toNat step.toNat code.toNat node s)) ∧
  (∀ (m : MsgHdr) (ident : B16) (step : BitVec 40) (sheet : Nat) (source : BitVec 6) (s : State) (a : Assay), Accepted m s →
    assayOf s s.vesin.fpart ident.toNat step.toNat = some a →
    Delivers (.digestRepair m ident step sheet source) m s (sendMsg source.toNat (ctrl 3 1 ident.toNat sheet) .none
      (updAssay s.vesin.fpart ident.toNat step.toNat
        (fun a => { a with repairs := a.repairs ++ [(sheet, source.toNat, 0)] }) s))) ∧
  (∀ (m : MsgHdr) (ident : B16) (sheet : Nat) (data : List Byte) (s : State) (a : Assay) (o : Obj),
    let p := s.vesin.fpart
    Accepted m s → ((s.part p).res.assays.find? fun a => a.ident = ident.toNat &&
      a.repairs.any fun r => r.1 = sheet && r.2.1 = m.src.toNat) = some a → s.obj? p a.handle = some o →
    (o.base + sheet * 65536) % 65536 = 0 → o.base + sheet * 65536 < winLo →
    checkMem s p (0x30 + m.port.val) .w (o.base + sheet * 65536) 65536 = .ok →
    let u := redigest p a (writeMem p (o.base + sheet * 65536) data s)
    heldBack s u = false →
    ∃ t, Delivers (.fillRepair m ident sheet data (hallmark data)) m s t ∧ t.mem = u.mem ∧
      (t.part p).res.repairs = satAdd (s.part p).res.repairs 1)

/-! ## Stand-by positions, removal, take-over -/

/-- R534, R570 to R573, R576 to R591: stand-by states, fills, take-overs, removal, folio rollback. It takes in the model's
own reading or choice in log entries 157, 158. -/
def Obligations.StandbyEventsRun : Prop :=
  (∀ (p : Part) (s : State), s.folioPart = some p →
    ((s.part p).res.sbState = 0 → mayArm s p = true →
      exec .standbyArm s = .next (s.updRes p fun r => { r with sbState := 1 })) ∧
    ((s.part p).res.sbState = 1 → mayArm s p = false →
      exec .standbyArm s = .next (s.updRes p fun r => { r with sbState := 0 })) ∧
    (∀ d, (s.part p).res.sbState = 1 → coordPos s p = some d →
      exec .armedReportTimer s = .next (sendMsg d (ctrl 1 0 (coverMask s p) 0) .none s)) ∧
    (∀ b : Fin 8, isCoord s p = true → exec (.standbySilence b) s = .next (s.updRes p fun r => { r with
      standbys := Map.adjust r.standbys (32 + b.val) fun x => if x.state = 1 then { x with state := 0 } else x }))) ∧
  (∀ (m : MsgHdr) (cover : B32) (s : State),
    let p := s.vesin.fpart
    Accepted m s → isCoord s p = true → 32 ≤ m.src.toNat → (s.part p).res.removed = [] →
    Delivers (.armed m cover) m s (holdReason p 2 false (s.updRes p fun r => { r with
      standbys := Map.insert r.standbys m.src.toNat { state := 1, cover }
      takeovers := r.takeovers.filter fun t => t.standby ≠ m.src.toNat }))) ∧
  (∀ (m : MsgHdr) (d : BitVec 6) (s : State), Accepted m s → (s.part s.vesin.fpart).res.sbState = 1 →
    Delivers (.assign m d) m s (s.updRes s.vesin.fpart fun r => { r with
      sbState := 2, takes := d, filled := [], collected := [], highest := 0 })) ∧
  (∀ (m : MsgHdr) (ident : B16) (first h : Nat) (s : State) (o : Obj),
    let p := s.vesin.fpart
    let u := touchRead p (o.base + first * 65536) 65536 s
    let data := objSheet u o first
    let t := engineSend 0x23 m.src.toNat (.fill 2 ident.toNat 0 first (data ++ digestBytes (hallmark data))) u
    Accepted m s → Map.find? (s.part p).res.exports ident.toNat = some h → s.obj? p h = some o → 32 ≤ m.src.toNat →
    first < o.sheets → o.sheets ≠ 1 → checkMem s p 0x23 .r (o.base + first * 65536) 65536 = .ok →
    Delivers (.pull m 1 ident first) m s (sendMsg m.src.toNat (statusBody t 0 stOk) .none t)) ∧
  (∀ (m : MsgHdr) (ident : B16) (sheet : Nat) (data : List Byte) (mark : B256) (s : State) (x : Fill) (o : Obj),
    let p := s.vesin.fpart
    Accepted m s → ((s.part p).res.fills.find? fun x => x.live && x.source = m.src.toNat && x.ident = ident.toNat &&
      x.wanted.contains sheet) = some x → s.obj? p x.dest = some o →
    (o.base + sheet * 65536) % 65536 = 0 → o.base + sheet * 65536 < winLo →
    checkMem s p (0x30 + m.port.val) .w (o.base + sheet * 65536) 65536 = .ok →
    heldBack s (writeMem p (o.base + sheet * 65536) data s) = false →
    (hallmark data = mark → Delivers (.fillSheet m ident sheet data mark) m s
      (updFills p (fun y => y = x) (fun y => { y with wanted := y.wanted.erase sheet })
        (writeMem p (o.base + sheet * 65536) data s))) ∧
    (hallmark data ≠ mark → 3 ≤ Map.getD x.retries sheet 0 → ∃ t, Delivers (.fillSheet m ident sheet data mark) m s t ∧
      t.mem = s.mem ∧ (t.part p).res.fills = (s.part p).res.fills.map fun y =>
        if y = x then { y with bad := some stDigest } else y)) ∧
  (∀ (m : MsgHdr) (ident : B16) (root : B256) (s : State),
    let p := s.vesin.fpart
    Accepted m s → (s.part p).res.sbState ≠ 3 → Delivers (.fillRoot m ident root) m s (s.updRes p fun r => { r with
      fills := r.fills.map fun x => if x.source = m.src.toNat && x.ident = ident.toNat then { x with root := some root } else x
      filled := r.filled.map fun x =>
        if x.source = m.src.toNat && x.ident = ident.toNat then { x with root := some root } else x })) ∧
  (∀ (m : MsgHdr) (d : BitVec 6) (s : State) (t : Takeover),
    let p := s.vesin.fpart
    Accepted m s → isCoord s p = true →
    ((s.part p).res.takeovers.find? fun t => t.d = d.toNat && t.standby = m.src.toNat) = some t → t.mirror = none →
    Delivers (.ready m d) m s (commitTakeover p t s)) ∧
  (∀ (m : MsgHdr) (sp d : BitVec 6) (s : State),
    let p := s.vesin.fpart
    Accepted m s → d ≠ s.vesin.myPos → sp ≠ s.vesin.myPos → d ≠ 0 → (s.part p).res.hold = 0 →
    (∀ x ∈ s.vesin.awaiting ++ s.vesin.waiting, ∀ st v, x.body ≠ .signal st v) →
    (∀ v, (s.vesin.port v).state ≠ .isolated) →
    Delivers (.commitPos m sp d) m s (posNote p 11 d.toNat sp.toNat ((updVesin (fun x => { x with
      vmap := Map.setD 0 (Map.setD 0 x.vmap d.toNat (s.vesin.mask sp.toNat)) sp.toNat 0
      seqOut := Map.erase x.seqOut d.toNat, seqIn := Map.erase x.seqIn d.toNat }) (dropKept s p)).updRes p fun r => { r with
        members := r.members ||| (1#40 <<< d.toNat), removed := r.removed.erase d.toNat
        recommitted := if r.recommitted.contains d.toNat then r.recommitted else d.toNat :: r.recommitted
        takeovers := r.takeovers.filter fun t => t.d ≠ d.toNat
        standbys := Map.adjust r.standbys sp.toNat fun b => { b with state := 4, takes := d } }))) ∧
  (∀ (m : MsgHdr) (d : BitVec 6) (s : State),
    let p := s.vesin.fpart
    Accepted m s → d ≠ s.vesin.myPos → (∀ x ∈ s.vesin.awaiting ++ s.vesin.waiting, x.dst ≠ d) →
    (s.part p).cad.role ≠ .leader → (s.part p).res.rollback = none → (s.part p).res.fills = [] →
    (s.part p).res.sbState ≠ 3 →
    Delivers (.removeMsg m d) m s (posNote p 9 d.toNat 0 ((s.updRes p fun r => { r with
      members := r.members &&& ~~~(1#40 <<< d.toNat)
      removed := if r.removed.contains d.toNat then r.removed else r.removed ++ [d.toNat] }).updVeto p fun v => { v with
        pending := v.pending.map fun x => { x with awaited := x.awaited &&& ~~~(1#40 <<< d.toNat) } }))) ∧
  (∀ (m : MsgHdr) (reason : BitVec 40) (s : State), Accepted m s → isCoord s s.vesin.fpart = true →
    (s.part s.vesin.fpart).res.members.getLsbD m.src.toNat = true →
    Delivers (.leave m reason) m s (declareFailed s.vesin.fpart m.src.toNat s)) ∧
  (∀ (m : MsgHdr) (s : State), Accepted m s → Delivers (.queryCkpt m) m s (sendMsg m.src.toNat (.fillCtrl 0x0C 0 0 0
    (leBytes 8 (s.part s.vesin.fpart).cad.pos.toNat ++ (rollbackSteps s s.vesin.fpart).flatMap fun o =>
      leBytes 8 (match o with
        | some st => 2 ^ 63 + st
        | none => 0))) .none s)) ∧
  (∀ (m : MsgHdr) (step : BitVec 40) (s : State),
    let p := s.vesin.fpart
    let u := s.updRes p fun r => { r with rollTo := none }
    Accepted m s → m.src = 0 →
    ((s.part p).bench.flight ≠ [] → Delivers (.rollbackMsg m step) m s (s.updRes p fun r => { r with
      rollTo := some step.toNat })) ∧
    (∀ v, (s.part p).bench.flight = [] → (s.part p).res.sbState = 0 → restoreOwn p step.toNat u = (stOk, v) →
      ((resNote p 12 stOk (place 224 112 step.toNat) v).part p).cad.role = .follower →
      Delivers (.rollbackMsg m step) m s (resNote p 12 stOk (place 224 112 step.toNat) v))) ∧
  (∀ (m : MsgHdr) (step : BitVec 40) (code : B16) (w : B64) (s : State),
    let p := s.vesin.fpart
    Accepted m s → code ≠ stOk → isCoord s p = false → (s.part p).res.sbState ≠ 3 →
    Delivers (.status m step code [w]) m s (s.updRes p fun r => { r with
      fills := r.fills.map fun x => if x.live && x.source = m.src.toNat then { x with bad := some code } else x
      highest := if r.sbState = 2 && r.highest < w && !malformed w then w else r.highest })) ∧
  (∀ (d : BitVec 6) (s : State), unreachable s d.toNat = true → s.vesin.expired.contains d.toNat = false →
    (∀ x ∈ s.vesin.waiting, x.dst ≠ d) → (s.part s.vesin.fpart).res.members.getLsbD (ownPos s) = false →
    exec (.linkHoldExpiry d) s = .next (updVesin (fun x => { x with expired := d.toNat :: x.expired }) s))

/-! ## Messages and ports -/

/-- R59, R61, R275, R287 to R291, R457, R458, R508 to R516, R523: messages received, answered, timed out, discarded. It
takes in the model's own reading or choice in log entries 136, 138. -/
def Obligations.MessagesRun : Prop :=
  (∀ (m : MsgHdr) (addr : Addr) (sheet : List Byte) (s : State),
    let p := s.vesin.fpart
    let x := 0x30 + m.port.val
    Accepted m s →
    (addr.toNat % 65536 = 0 → addr.toNat < winLo → checkMem s p x .w addr.toNat 65536 = .ok →
      heldBack s (writeMem p addr.toNat sheet s) = false →
      Replies (.send m addr sheet) m .ack 0 s (writeMem p addr.toNat sheet s)) ∧
    (addr.toNat % 65536 = 0 → addr.toNat < winLo → checkMem s p x .w addr.toNat 65536 = .ok →
      heldBack s (writeMem p addr.toNat sheet s) = true →
      ∃ t, exec (.send m addr sheet) s = .next t ∧ t.mem = s.mem ∧ t.vesin = { s.vesin with
        inbox := .send m addr sheet :: s.vesin.inbox, applying := m :: s.vesin.applying }) ∧
    (addr.toNat % 65536 = 0 → addr.toNat < winLo → checkMem s p x .w addr.toNat 65536 ≠ .ok →
      Replies (.send m addr sheet) m .ack 0x0030 s (noteDenied p x .w (checkMem s p x .w addr.toNat 65536) s)) ∧
    (∀ (mask : B64) (step : BitVec 40) (torn : Bool), addr.toNat % 65536 = 0 → addr.toNat < winLo →
      checkMem s p x .a addr.toNat 65536 = .ok →
      heldBack s (addSheet p addr.toNat step.toNat mask.toNat torn sheet s) = false →
      Replies (.add m addr mask step torn sheet) m .ack 0 s
        (addSheet p addr.toNat step.toNat mask.toNat torn sheet s))) ∧
  (∀ (m : MsgHdr) (stitch : B16) (value : B32) (s : State) (g : Nat),
    let p := s.vesin.fpart
    Accepted m s → stitch.toNat < 0x8000 → reachStitch s p (0x30 + m.port.val) .signal stitch.toNat = .ok g →
    ((s.stitch g).remote = true → Replies (.signal m stitch value) m .sigReply 0 s
      (signalStitch g value.toNat (s.updStc p fun r => { r with remoteIn := satAdd r.remoteIn 1 }))) ∧
    ((s.stitch g).remote = false → Replies (.signal m stitch value) m .sigReply 0x0030 s
      (s.updStc p fun r => { r with remoteDenied := satAdd r.remoteDenied 1 }))) ∧
  (∀ (m : MsgHdr) (n : B64) (st : B16) (s : State) (a : OutMsg), Accepted m s → st ≠ 0x0010 →
    ((s.vesin.awaiting.find? fun a => a.dst = m.src && a.seq = n && a.body.isData) = some a →
      Delivers (.ack m n st) m s (endMessage a (if st = 0x0030 then some ftAccess else none) s)) ∧
    ((s.vesin.awaiting.find? fun a => a.dst = m.src && a.seq = n && !a.body.isData) = some a →
      Delivers (.sigReply m n st) m s (endMessage a (if st = 0x0030 then some ftAccess else none) s))) ∧
  (∀ (m : MsgHdr) (pos : B64) (s : State),
    let p := s.vesin.fpart
    Accepted m s → m.src = 0 → (s.part p).cad.role = .follower →
    (malformed pos = false → (s.part p).cad.pos < pos → Delivers (.mark m pos) m s (applyPos p pos s)) ∧
    (malformed pos = true ∨ pos ≤ (s.part p).cad.pos → Delivers (.mark m pos) m s (noteStale p s))) ∧
  (∀ (m : MsgHdr) (step reported : BitVec 40) (verdict reason first : Byte) (s : State), Accepted m s →
    Delivers (.verdict m step verdict reason) m s
      (onVerdict s.vesin.fpart ⟨step.toNat, m.src.toNat, verdict ≠ 0, reason.toNat⟩ s) ∧
    Delivers (.result m step verdict reason first reported) m s
      (onResult s.vesin.fpart ⟨step.toNat, verdict ≠ 0, reason.toNat, first.toNat, reported.toNat⟩ s)) ∧
  (∀ (d : BitVec 6) (n : B64) (s : State) (a : OutMsg),
    (s.vesin.awaiting.find? fun a => a.dst = d && a.seq = n) = some a → isRemoved s d.toNat = false →
    (a.tries < 4 → exec (.messageTimeout d n) s = .next (dispatchMsg a (updVesin (fun x => { x with
      resent := satAdd x.resent 1, awaiting := x.awaiting.filter fun b => !b.same a }) s))) ∧
    (4 ≤ a.tries → exec (.messageTimeout d n) s = .next (endMessage a (some ftPosition)
      (updVesin (fun x => { x with timeouts := satAdd x.timeouts 1 }) s)))) ∧
  (∀ (m : MsgHdr) (addr : Addr) (sheet : List Byte) (st : B16) (s : State), misrouted m s = false →
    (stillApplied m s = false → seqNew s m.src.toNat m.seq.toNat = false →
      Map.find? (srcRecord s m.src.toNat).seen m.seq.toNat = some st →
      exec (.send m addr sheet) s = .next (sendMsg m.src.toNat (.ack m.seq st) .none
        (updVesin (fun x => { x with dup := satAdd x.dup 1 }) s))) ∧
    (stillApplied m s = true → exec (.send m addr sheet) s = .next (sendMsg m.src.toNat (.ack m.seq 0x0010) .none
      (updVesin (fun x => { x with dup := satAdd x.dup 1 }) s)))) ∧
  (∀ (m : MsgHdr) (addr : Addr) (sheet : List Byte) (s : State), misrouted m s = true →
    exec (.send m addr sheet) s = .next (updVesin (fun x => { x with misroute := satAdd x.misroute 1 }) s))

/-- R491 to R506, R526 to R534, R669: training, retrains, replays, keys, flits. It takes in the model's own reading or
choice in log entries 129, 144. -/
def Obligations.PortsRun : Prop :=
  (∀ (v : Port) (lanes : Byte) (s : State), (s.vesin.port v).state = .detect →
    (2 ≤ popcount lanes.toNat → exec (.laneLock v lanes) s = .next (updPort v (fun q => q.closed .train) s)) ∧
    (popcount lanes.toNat < 2 → exec (.laneLock v lanes) s = .next s)) ∧
  (∀ (v : Port) (good peer : Byte) (s : State),
    let both := (good &&& peer).toNat
    let n := Config.nonce s.freeCtr
    let u := (updPort v (fun q => { q with
      width := widthOf both, lanes := BitVec.ofNat 8 (lowLanes both (widthOf both)), good, peerGood := peer, nonce := n
      trained := true }) s).tick
    (s.vesin.port v).state = .train → (s.vesin.port v).helloIn = false →
    (2 ≤ popcount both → exec (.fullTraining v good peer) s = .next (sendLink v (helloBody u v n) u)) ∧
    (popcount both < 2 → carried s v = [] →
      ∃ t, exec (.fullTraining v good peer) s = .next t ∧ (t.vesin.port v).state = .down)) ∧
  (∀ (v : Port) (serial : B64) (folio : B32) (pos : BitVec 6) (far ident : Byte) (nonce : B128) (s : State) (key : B256),
    let q := s.vesin.port v
    q.state = .train → q.trained = true → s.vesin.waiting = [] → s.vesin.nextKey = none →
    ((folio = s.vesin.folioId ∧ folioKey s ident = some key ∧ pos ≠ s.vesin.myPos ∧
      (pos.toNat < 40 → (s.vesin.mask pos.toNat).getLsbD v.val = true)) →
      ∃ t, exec (.hello v serial folio pos far ident nonce) s = .next t ∧ (t.vesin.port v).state = .up ∧
        (t.vesin.port v).keyTx = some (sessionKey key ident s.serial q.nonce serial nonce) ∧
        (t.vesin.port v).keyRx = (t.vesin.port v).keyTx ∧ (t.vesin.port v).peerPos = pos) ∧
    (folio ≠ s.vesin.folioId → carried s v = [] →
      ∃ t, exec (.hello v serial folio pos far ident nonce) s = .next t ∧ (t.vesin.port v).state = .isolated ∧
        (t.vesin.port v).isoReason = 1 ∧ (t.vesin.port v).keyTx = none)) ∧
  (∀ (v : Port) (seq : B16) (s : State), (s.vesin.port v).state = .up →
    exec (.replay v seq) s = .next (replayFrom v seq false
      (updPort v (fun q => { q with replays := satAdd q.replays 1 }) s))) ∧
  (∀ (v : Port) (mask : Byte) (s : State), (s.vesin.port v).state = .up → ∃ t, exec (.retrain v mask) s = .next t ∧
    (t.vesin.port v).state = .retrain ∧ (t.vesin.port v).peerMask = some mask ∧
    (t.vesin.port v).retrains = satAdd (s.vesin.port v).retrains 1 ∧ t.vesin.wire.length = s.vesin.wire.length + 1) ∧
  (∀ (v : Port) (ident : Byte) (nonce : B128) (s : State) (key : B256),
    let q := s.vesin.port v
    q.state = .up → folioKey s ident = some key → nonce ≠ q.peerNonce → q.rekeying = true →
    ∃ t, exec (.rekey v ident nonce) s = .next t ∧ (t.vesin.port v).ksel = !q.ksel ∧ (t.vesin.port v).txRun = 0 ∧
      (t.vesin.port v).keyTx = some (sessionKey key ident s.serial q.nonce q.peerSerial nonce) ∧
      (t.vesin.port v).keyRx = (t.vesin.port v).keyTx ∧ (t.vesin.port v).rekeyed = true) ∧
  (∀ (v : Port) (b : List Byte) (s : State), (s.vesin.port v).linkReq = some b →
    exec (.linkFlitRepeat v) s = .next (sendLink v b s)) ∧
  (∀ (v : Port) (s : State), (s.vesin.port v).state = .up → (∃ f ∈ (s.vesin.port v).retry, 3 ≤ f.2.2) →
    ∃ t, exec (.retryLimit v) s = .next t ∧ (t.vesin.port v).state = .retrain ∧
      (t.vesin.port v).retry = (s.vesin.port v).retry) ∧
  (∀ (v : Port) (lane : Fin 8) (s : State), (s.vesin.port v).state = .up →
    (s.vesin.port v).lanes.getLsbD lane.val = true → ∃ t, exec (.laneDrop v lane) s = .next t ∧
      (t.vesin.port v).state = .retrain ∧ (t.vesin.port v).good = (s.vesin.port v).good &&& ~~~(1#8 <<< lane.val)) ∧
  (∀ (v : Port) (m : Byte) (s : State),
    let q := s.vesin.port v
    let both := (q.good &&& m).toNat
    q.state = .retrain → q.peerMask = some m → q.retry = [] → q.txQueue = [] → s.vesin.waiting = [] →
    (2 ≤ popcount both → 2 ≤ q.width → ∃ t, exec (.fastRetrainDone v) s = .next t ∧ (t.vesin.port v).state = .up ∧
      (t.vesin.port v).width = min (widthOf both) q.width ∧
      (t.host.alertN = false ∨ q.width ≤ widthOf both)) ∧
    (popcount both < 2 → carried s v = [] → ∃ t, exec (.fastRetrainDone v) s = .next t ∧
      (t.vesin.port v).state = .down)) ∧
  (∀ (v : Port) (s : State), (s.vesin.port v).state = .down → s.vesin.portEn.getLsbD v.val = true →
    ((s.vesin.port v).laserFail = false → exec (.downRetry v) s = .next (updPort v (fun q => q.closed .detect) s)) ∧
    ((s.vesin.port v).laserFail = true → exec (.downRetry v) s = .next s)) ∧
  (∀ (v : Port) (s : State), (s.vesin.port v).state ≠ .off → carried s v = [] →
    ∃ t, exec (.laserSourceFail v) s = .next t ∧ (t.vesin.port v).state = .down ∧ (t.vesin.port v).laserFail = true) ∧
  (∀ (v : Port) (bytes : List Byte) (rest : List Bool) (n : Nat) (s : State),
    let u := updPort v (fun q => { q with rxBits := rest }) s
    Map.sorted s.vesin.ports = true → bytes.length = 256 → (s.vesin.port v).rxBits = flitBits bytes ++ rest →
    (crc32c (bytes.take 252) = BitVec.ofNat 32 (leNat (bytes.drop 252)) →
      ((s.vesin.port v).state = .train → field (leNat (bytes.take 8)) 63 60 = 2 →
        exec (.flit v [] n) s = .next (deliverInstr (linkInstr v ((bytes.drop 8).take 244)) u)) ∧
      ((s.vesin.port v).state = .up → field (leNat (bytes.take 8)) 63 60 = 1 →
        exec (.flit v [] n) s = .next (idleAfter v (takeAck v (leNat (bytes.take 8)) u)
          (takeData v bytes n (takeAck v (leNat (bytes.take 8)) u))))) ∧
    ((s.vesin.port v).state = .up → crc32c (bytes.take 252) ≠ BitVec.ofNat 32 (leNat (bytes.drop 252)) →
      exec (.flit v [] n) s = .next (askReplay v u))) ∧
  (∀ (v : Port) (w : List (List Nat)) (ws : List (List (List Nat))) (n : Nat) (s : State),
    let u := updPort v (fun q => { q with
      rxBits := q.rxBits ++ (rsDecode (gatherLanes w)).1.flatMap (lowBits 10)
      fecCorr := satAdd q.fecCorr ((rsDecode (gatherLanes w)).2.getD 0)
      fecUncorr := if rsErrors (gatherLanes w) = none then satAdd q.fecUncorr 1 else q.fecUncorr })
      (updVesin (fun x => { x with
        unsampled := if rsErrors (gatherLanes w) = none then satAdd x.unsampled 1 else x.unsampled }) s)
    Map.sorted s.vesin.ports = true → (s.vesin.port v).state = .up →
    exec (.flit v (w :: ws) n) s = exec (.flit v ws n) u) ∧
  (∀ (v : Port) (bytes : List Byte) (s : State), Map.sorted s.vesin.ports = true →
    let bits := (s.vesin.port v).txBits ++ flitBits bytes
    let t := putFlit v bytes s
    t.vesin.wire = s.vesin.wire ++ [(v.val, bytes)] ∧
    (bits.length < 5140 → (t.vesin.port v).txBits = bits ∧ t.vesin.coded = s.vesin.coded) ∧
    (5140 ≤ bits.length → (t.vesin.port v).txBits = bits.drop 5140 ∧ t.vesin.coded = s.vesin.coded ++
      [(v.val, dealLanes (lanesUsed (s.vesin.port v).lanes).length (rsEncode (cutBits 10 514 bits)))]))

/-! ## Package and guests -/

/-- R670 to R694: return to service, spine-quarter links, fences, heat. It takes in the model's own reading or choice in
log entries 209, 210, 237. -/
def Obligations.PackageRuns : Prop :=
  (∀ (h : CmdHdr) (quarter : Byte) (s : State), MayRun { opcode := 0x0107, long := true, issuer := .p0 } h s →
    quarter.toNat ≤ 3 → s.array.live.get (Fin.ofNat 4 quarter.toNat) = false →
    exec (.quarterService h quarter) s =
      .next (startLong h 0x0107 [quarter] (.service (Fin.ofNat 4 quarter.toNat)) (begun h s))) ∧
  (∀ (q : Qtr) (s : State), s.array.live.get q = false → (s.pkg.d2d.get q).state = .up →
    (s.pkg.stakes.get q).temp.toInt ≤ 1520 →
    ∃ t, endService q true s = some (stOk, t) ∧ t.array.live.get q = true ∧ (t.pkg.d2d.get q).fence = 0 ∧
      (t.pkg.stakes.get q).fq = 1400 ∧ t.mem = clearRun s.mem (2 ^ 60 + q.val * 2 ^ 30) (2 ^ 30)) ∧
  (∀ (q : Qtr) (g : Fin 8) (s : State),
    let d := s.pkg.d2d.get q
    d.state = .up → ∃ t, exec (.d2dRetrain q (.laneLock g)) s = .next t ∧
      (t.pkg.d2d.get q).state = .retrain ∧ (t.pkg.d2d.get q).retired = d.retired ||| (1 <<< g.val) ∧
      (t.pkg.d2d.get q).round = d.round + 1 ∧ (t.pkg.d2d.get q).retrains = satAdd d.retrains 1 ∧
      (t.pkg.d2d.get q).myMask.getLsbD g.val = false ∧ t.array = s.array) ∧
  (∀ (q : Qtr) (g : Fin 8) (s : State),
    let d := s.pkg.d2d.get q
    d.state = .retrain → d.chosen = none → exec (.d2dRetrain q (.laneLock g)) s = .next (updD2d q (fun d => { d with
      retired := d.retired ||| (1 <<< g.val), myMask := d.myMask &&& ~~~(d.retired ||| (1 <<< g.val)) }) s)) ∧
  (∀ (q : Qtr) (mask : Byte) (s : State),
    let d := s.pkg.d2d.get q
    let usable := Nat.land d.myMask.toNat mask.toNat
    let w := groupWidth (popcount usable)
    let own := widthToken 2 d.round.toNat (lowest w usable) w
    d.state = .retrain → d.chosen = none → tokenOk (widthToken 1 d.round.toNat mask.toNat 0) = true →
    (w ≠ 0 → exec (.propose q (widthToken 1 d.round.toNat mask.toNat 0)) s = .next (updD2d q (fun d => { d with
      chosen := some (BitVec.ofNat 8 (lowest w usable), w), usable := BitVec.ofNat 8 usable, ownToken := own, crcFails := 0
      tokens := d.tokens ++ [own] }) s)) ∧
    (w = 0 → exec (.propose q (widthToken 1 d.round.toNat mask.toNat 0)) s = .next (fenceLink q 4 s))) ∧
  (∀ (q : Qtr) (set : Byte) (w : Nat) (s : State),
    let d := s.pkg.d2d.get q
    d.state = .retrain → d.chosen = some (set, w) → w ≤ 8 → tokenOk (widthToken 2 d.round.toNat set.toNat w) = true →
    exec (.confirm q (widthToken 2 d.round.toNat set.toNat w)) s = .next (updD2d q (fun d => { d with
      state := .up, width := w, groups := set, myMask := d.usable, disagree := 0, chosen := none, crcFails := 0 }) s)) ∧
  (∀ (q : Qtr) (s : State), s.array.live.get q = true →
    (exec (.quarterClockLoss q) s = .next (fence q 2 s) ∧ exec (.quarterFatalError q) s = .next (fence q 1 s)) ∧
    ∀ r, (fence q r s).array.live.get q = false ∧ (fence q r s).array.shares.get q = 0 ∧ (fence q r s).host.alertN = false) ∧
  (∀ (q : Qtr) (s : State), s.array.live.get q = false → exec (.quarterClockLoss q) s = .next s) ∧
  (∀ (q : Qtr) (readings : List B16) (t : B16) (i : Nat) (s : State), hottestOf readings.zipIdx = some (t, i) →
    let u := updStake q (fun x => { x with
      sensor := BitVec.ofNat 4 i, temp := t, peak := if x.peak.slt t then t else x.peak }) s
    exec (.stakeSensorSample q readings) s = .next (if 1760 ≤ t.toInt then fence q 5 u else u)) ∧
  (∀ (s : State) (f : Nat) (sh : Quad Nat),
    let u := four.foldl (fun s q => if s.array.live.get q then updStake q Stake.evaluate s else s) s
    (∀ q, (s.pkg.stakes.get q).temp.toInt < 1760) → heatChoice u = some (f, sh) →
    ∃ t, exec .heatEvaluation s = .next t ∧ t.pkg.chosenMhz = f ∧ t.array.shares = sh ∧
      t.pkg.clockMhz = min f s.power.clockMhz ∧ t.array.live = s.array.live)

/-- R695 to R704, R718: the guest firewall. It takes in the model's own reading or choice in log entry 211. -/
def Obligations.GuestsRun : Prop :=
  (∀ (g : Fin 2) (m : Byte) (addr : Addr) (n t : Nat) (p : Part) (s : State),
    let u := updGuest g (fun x => { x with bytes := satAdd x.bytes n, passed := x.passed ++ [(m, t, n)] }) s
    (s.guest g).state = .up → guestCheck s g m (.read addr n) = .ok p →
    ((s.guest g).held.any fun e => e.1 = m) = false → rateHolds s g m (.read addr n) t = false →
    checkMem u p m.toNat .r addr.toNat n = .ok →
    exec (.guestRequest g m (.read addr n) t) s =
      .next (answerGuest g m stOk (readMem u p m.toNat addr.toNat n) (touchRead p addr.toNat n u))) ∧
  (∀ (g : Fin 2) (m : Byte) (req : GuestReq) (t : Nat) (p : Part) (s : State), (s.guest g).state = .up →
    guestCheck s g m req = .ok p → rateHolds s g m req t = true →
    exec (.guestRequest g m req t) s = .next (updGuest g (fun x => { x with
      rateWait := satAdd x.rateWait 1, held := x.held ++ [(m, req)] }) s)) ∧
  (∀ (g : Fin 2) (m : Byte) (req : GuestReq) (t k d : Nat) (s : State), (s.guest g).state = .up →
    guestCheck s g m req = .error (k, d) → exec (.guestRequest g m req t) s = .next (refuseGuest g m req k d t s)) ∧
  (∀ (g : Fin 2) (m : Byte) (req : GuestReq) (t : Nat) (s : State), (s.guest g).state = .fenced →
    exec (.guestRequest g m req t) s = .next (answerGuest g m 0x0030 [] s)) ∧
  (∀ (g : Fin 2) (t : Nat) (s : State) (e : Byte × GuestReq) (p : Part),
    let u := updGuest g (fun x => { x with held := x.held.erase e }) s
    ((heldHeads (s.guest g).held).find? fun e => !rateHolds s g e.1 e.2 t) = some e → guestCheck u g e.1 e.2 = .ok p →
    heldBack u (passGuest g e.1 p e.2 t u) = false →
    exec (.guestRateRelease g t) s = .next (passGuest g e.1 p e.2 t u)) ∧
  (∀ (g : Fin 2) (s : State), (s.guest g).state = .up ∨ (s.guest g).state = .train →
    (exec (.guestLinkLoss g) s = .next (fenceSite g 2 s) ∧ exec (.guestSiteFault g) s = .next (fenceSite g 4 s) ∧
      (∀ mw, 75000 < mw → exec (.guestPowerCheck g mw) s = .next (fenceSite g 3 s)) ∧
      ∀ mw, mw ≤ 75000 → exec (.guestPowerCheck g mw) s = .next s) ∧
    ∀ r : Nat, r < 8 → ((fenceSite g r s).guest g).state = .fenced ∧ ((fenceSite g r s).guest g).fence.toNat = r ∧
      ((fenceSite g r s).guest g).held = [] ∧
      ((fenceSite g r s).guest g).answers = (s.guest g).answers ++ (s.guest g).held.map fun e => (e.1, stNoAccess, []))

/-! ## Power, start-up, management -/

/-- R707 to R717, R719, R720, R727 to R736, R762 to R766: starts, power-downs, faults, limits. It takes in the model's own
reading or choice in log entries 197, 219, 240. -/
def Obligations.PowerRuns : Prop :=
  (∀ (split addr : BitVec 2) (s : State), s.power.stage = .unpowered →
    ∃ t, exec (.housekeepingPowerUp split addr) s = .next t ∧ t.power.stage = .boot ∧ t.host.split = split ∧
      t.power.i3cAddr = addr ∧ t.power.rails = 3) ∧
  (∀ (s : State) (b : Bool), s.power.stage = .boot → s.power.pufLost = false → s.power.failCount.toNat < 3 →
    pickSlot s (s.power.trial.getD s.power.active) = some b → verifies s 2 (s.signedRec 2) = true →
    verifies s 3 (s.signedRec 3) = true → ∃ t, exec (.bootStage1 true) s = .next t ∧ t.power.stage = .waitPwr ∧
      t.power.runSlot = b ∧ t.power.failCount = s.power.failCount + 1 ∧ t.power.trial = none ∧
      t.power.ranTrial = decide (s.power.trial = some b)) ∧
  (∀ (ok : Bool) (s : State), s.power.stage = .boot → ok = false ∨ s.power.pufLost = true →
    ∃ t, exec (.bootStage1 ok) s = .next t ∧ t.power.stage = .minimal ∧ t.power.minReason = 3 ∧ t.power.recovery = true ∧
      ∀ h : CmdHdr, (deviceReset 5 (begun h t)).power.stage = .boot ∧ (deviceReset 5 (begun h t)).power.pufLost = true) ∧
  (∀ (low : Nat) (r : StartReport) (s : State), s.power.stage = .waitPwr → r.badRail = none → r.hbmOk = true →
    r.bulkOk = true → r.flashOk = true → r.quarters = 0xF → anyLive s = true →
    ∃ t, exec (.pwrEnAssert low r) s = .next t ∧ t.power.stage = .bringUp ∧ t.power.pwrEn = true ∧
      t.power.pwrGood = true ∧ t.array.live = s.array.live) ∧
  (∀ s : State, s.power.stage = .bringUp → ∃ t, exec .startReady s = .next t ∧ t.power.stage = .ready ∧
    t.power.active = s.power.runSlot ∧ t.power.failCount = 0 ∧
    (Map.getD t.power.counters 1 0).toNat = max s.power.runSvn.toNat (Map.getD s.power.counters 1 0).toNat) ∧
  (∀ (r : Byte) (s : State), starting s = true → 4 ≤ r.toNat → r.toNat ≤ 11 → ∃ t, exec (.startFailure r) s = .next t ∧
    t.power.stage = .retryWait ∧ t.power.reasons.head? = some r ∧ t.power.rails = 3 ∧ t.power.pwrGood = false) ∧
  (∀ (r : Byte) (s : State), starting s = true → 1 ≤ r.toNat → r.toNat ≤ 3 → ∃ t, exec (.startFailure r) s = .next t ∧
    t.power.stage = .minimal ∧ t.power.minReason = r) ∧
  (∀ s : State, s.power.stage = .bringUp → ∃ t, exec .startTimeout s = .next t ∧ t.power.stage = .retryWait ∧
    t.power.reasons.head? = some 10) ∧
  (∀ s : State, s.power.stage = .retryWait → ∃ t, exec .startRetry s = .next t ∧ t.power.stage = .boot ∧
    t.parts = s.parts ∧ t.host = s.host ∧ t.power.failCount = s.power.failCount ∧ t.power.reasons = s.power.reasons) ∧
  (∀ s : State, mainOn s = true → ∃ t, exec .pwrEnDeassert s = .next t ∧ t.power.stage = .poweredDown ∧
    t.power.pwrEn = false ∧ t.power.tripPin = false ∧ t.power.rearmed = true ∧ t.host.crash = s.host.crash) ∧
  (∀ (r : Fin 24) (s : State), s.power.stage = .ready → s.power.rails.getLsbD r.val = true → 2 ≤ r.val → r.val < 14 →
    r.val ≠ 5 → ∃ t, exec (.railFault r) s = .next t ∧ t.power.stage = .poweredDown ∧ t.host.crash.valid = true ∧
      t.host.crash.cause = 0x13 ∧ t.host.crash.named = some r.val ∧
      t.power.railFaults = s.power.railFaults ||| BitVec.ofNat 24 (2 ^ r.val)) ∧
  (∀ (mv : B16) (s : State), mv.toNat < 44000 ∨ 60000 < mv.toNat → mainOn s = true →
    ∃ t, exec (.inputVoltageFault mv) s = .next t ∧ t.power.stage = .poweredDown ∧ t.host.crash.cause = 0x12) ∧
  (∀ (mv : B16) (s : State), ∃ t, exec (.inputVoltageBand mv) s = .next t ∧ t.power.vinMv = mv ∧
    t.power.undervolt = ((decide (44000 ≤ mv.toNat) && decide (mv.toNat < 46000)) ||
      (s.power.undervolt && decide (mv.toNat < 44000))) ∧
    t.power.overvolt = ((decide (57000 < mv.toNat) && decide (mv.toNat ≤ 60000)) ||
      (s.power.overvolt && decide (60000 < mv.toNat))) ∧ t.power.stage = s.power.stage) ∧
  (∀ (w : B16) (s : State), ∃ t, exec (.powerSample w) s = .next t ∧
    t.power.clockMhz = (if s.power.limit.toNat * 110 < w.toNat * 100 then 400 else s.power.clockMhz) ∧ t.mem = s.mem) ∧
  (∀ (w : B16) (s : State), ∃ t, exec (.powerWindow w) s = .next t ∧ t.power.pinW = w ∧
    t.power.clockMhz = (if s.power.limit.toNat < w.toNat then max 400 (s.power.clockMhz - 100)
      else if w.toNat * 100 < s.power.limit.toNat * 95 ∧ 9 ≤ s.power.lowWins then min 1400 (s.power.clockMhz + 100)
      else s.power.clockMhz)) ∧
  (∀ (sensor : Fin 17) (reading : B16) (s : State), tripLimit sensor ≤ reading.toInt → mainOn s = true →
    ∃ t, exec (.thermalTrip sensor reading) s = .next t ∧ t.power.stage = .poweredDown ∧ t.power.thermtrip = true ∧
      t.power.tripPin = true ∧ t.host.crash.cause = 0x10 ∧ t.host.crash.named = some sensor.val) ∧
  (∀ s : State, mainOn s = true →
    (∃ t, exec .sbTripN s = .next t ∧ t.power.stage = .poweredDown ∧ t.power.tripPin = true ∧ t.host.crash.cause = 0x10) ∧
    (∃ t, exec .sbOffN s = .next t ∧ t.power.stage = .poweredDown ∧ t.host.crash = s.host.crash) ∧
    exec .sbResetN s = .next (deviceReset 6 s)) ∧
  (∀ (core : Fin 4) (s : State), s.power.stage = .ready →
    (∃ t, exec (.wardenWatchdog core) s = .next t ∧ t.host.crash.cause = 2 ∧ t.host.crash.core.toNat = core.val ∧
      t.host.crash.count = satAdd s.host.crash.count 1 ∧ t.power = s.power) ∧
    ∃ t, exec (.wardenFault core) s = .next t ∧ t.host.crash.cause = 1 ∧ t.host.crash.core.toNat = core.val ∧
      t.power = s.power) ∧
  (∀ s : State, ∃ t, exec .powerLoss s = .next t ∧ t.power.stage = .unpowered ∧ t.power.pwrEn = false ∧
    t.power.rails = 0 ∧ t.flash.regions = s.flash.regions ∧ t.images = s.images ∧ t.host.crash.valid = false ∧
    t.power.active = s.power.active ∧ t.power.counters = s.power.counters ∧
    ∀ p, (t.part p).tier.objects = [])

/-- R637, R654, R662, R664, R749 to R751, R778: attestation, sensors, timers, the status block. It takes in the model's
own reading or choice in log entries 229, 231. -/
def Obligations.ManagementRuns : Prop :=
  (∀ (i : Byte) (nonce : B256) (s : State), busServed s = true → 1 ≤ i.toNat → i.toNat ≤ 8 →
    exec (.getMeasurements i nonce) s = .next (respondSigned nonce (i :: measurement s i.toNat) s)) ∧
  (∀ (nonce : B256) (s : State), busServed s = true → exec (.getMeasurements 0xFF nonce) s = .next (respondSigned nonce
    ((List.range 8).flatMap fun k => BitVec.ofNat 8 (k + 1) :: measurement s (k + 1)) s)) ∧
  (∀ (nonce : B256) (s : State), busServed s = true →
    exec (.challenge 0 nonce) s = .next (respondSigned nonce (sha256 Config.certChain) s)) ∧
  (∀ (off len : B16) (s : State),
    let tail := Config.certChain.drop off.toNat
    let l := tail.take len.toNat
    busServed s = true → exec (.getCertificate 0 off len) s =
      .next (respond (leBytes 2 l.length ++ leBytes 2 (tail.length - l.length) ++ l) s)) ∧
  (∀ (r : SensorReadings) (s : State), busServed s = true → ∃ t, exec (.pldmSensorUpdate r) s = .next t ∧
    t.power.sensors = r ∧ t.power.arrayClock = s.pkg.clockMhz ∧
    ∀ q, t.power.stakeTemps.get q = (s.pkg.stakes.get q).temp) ∧
  (∀ (p : Part) (i : Nat) (u : TimerUse) (s : State), timerOf s 0x10 p = some (i, u) →
    (u.action = 1 → exec (.hostWatchdogExpiry p) s = .next (raiseAlert (partitionReset p 10 s).2)) ∧
    (u.action ≠ 1 → exec (.hostWatchdogExpiry p) s =
      .next (raiseAlert (note p 0x0070 stOk (place 224 216 9) s)))) ∧
  (∀ (p : Part) (i : Nat) (u : TimerUse) (s : State), timerOf s 0x11 p = some (i, u) →
    exec (.statusPush p) s = .next (hostWrite p u.addr
      ((List.range 512).flatMap fun i => leBytes 8 (statusWord64 (s.part p).host (8 * i))) s)) ∧
  (∀ (e : Nat × TimerUse) (s : State), timerOf s 0x12 0 = some e → exec .telemetryLog s = .next (note 0 0x0060 stOk
    (place 224 216 8 ||| place 224 200 s.power.pinW.toNat ||| place 224 184 (hottest s).toNat |||
      place 224 172 s.pkg.clockMhz ||| place 224 156 (sharesWord s.array.shares)) s)) ∧
  (∀ (e : Nat × TimerUse) (s : State),
    let ports := eight.map fun v => s.vesin.port v
    timerOf s 0x13 0 = some e → exec .linkSample s = .next (note 0 0x0040 stOk (place 224 216 4 |||
      place 224 164 (ports.zipIdx.map fun e => e.1.width * 16 ^ e.2).sum |||
      place 224 140 (ports.zipIdx.map fun e => e.1.state.code * 8 ^ e.2).sum |||
      place 224 108 s.vesin.unsampled.toNat) (updVesin (fun x => { x with unsampled := 0 }) s))) ∧
  (∀ s : State, ∃ t, exec .statusBlockRefresh s = .next t ∧ t.mem = s.mem ∧ t.array = s.array ∧
    ∀ p, (t.part p).host.status = statusWords s p)

/-! ## Words and the whole machine -/

/-- R201 to R203, R208, R214, R227, R229, R233, R235 to R238: the word of every bench operation whose reserved bits are zero
spells that operation, every field at every value. -/
def Obligations.BenchWordsRoundTrip : Prop :=
  ∀ (i : Instr) (b : BenchHdr) (w : Nat), benchWord i = some w → benchSeat i = some b → b.rsvd = false →
    benchOf b.p b.st w = some i ∧ w < 2 ^ 128

/-- R243 to R245: the word of every plate instruction whose reserved bits are zero spells that instruction, every field at
every value. -/
def Obligations.PlateWordsRoundTrip : Prop :=
  ∀ (i : Instr) (h : PlateHdr) (w : Nat), plateWord i = some w → plateSeat i = some h → h.rsvd = false →
    plateOf h.p h.plate w = some i ∧ w < 2 ^ 64

/-- No step faults and none refuses: in every state, whatever command is in front, and with none. It takes in the model's
own reading or choice in log entries 3, 18. -/
def Obligations.EveryStepCompletes : Prop := ∀ s : State, Completes s

/-- Every step keeps memory in its canonical form, whatever command is in front. It takes in the model's own reading or
choice in log entry 10. -/
def Obligations.MemoryFormKept : Prop := ∀ s t : State, memWf s → step s = .next t → memWf t
end

