-- ==== Sys2Proof/Laws/State.lean ====
section
/-!
SUPPORT. What each update of State leaves in each field: one lemma a field and update.
-/
namespace Sys2Proof.Machine

/-! ## Four of a kind -/

theorem Quad.set_set {α : Type} (q : Quad α) (i : Fin 4) (a b : α) : (q.set i a).set i b = q.set i b := by
  fin_cases i <;> rfl

theorem Quad.set_get {α : Type} (q : Quad α) (i : Fin 4) : q.set i (q.get i) = q := by
  fin_cases i <;> rfl

variable (s : State) (p : Part)

/-! ## Fields outside the partitions -/

@[simp] theorem State.upd_pending (f : PartState → PartState) : (s.upd p f).pending = s.pending := rfl
@[simp] theorem State.upd_freeCtr (f : PartState → PartState) : (s.upd p f).freeCtr = s.freeCtr := rfl
@[simp] theorem State.upd_host (f : PartState → PartState) : (s.upd p f).host = s.host := rfl
@[simp] theorem State.upd_cad (f : PartState → PartState) : (s.upd p f).cad = s.cad := rfl
@[simp] theorem State.upd_array (f : PartState → PartState) : (s.upd p f).array = s.array := rfl
@[simp] theorem State.upd_contribs (f : PartState → PartState) : (s.upd p f).contribs = s.contribs := rfl
@[simp] theorem State.upd_flash (f : PartState → PartState) : (s.upd p f).flash = s.flash := rfl
@[simp] theorem State.upd_mem (f : PartState → PartState) : (s.upd p f).mem = s.mem := rfl
@[simp] theorem State.upd_images (f : PartState → PartState) : (s.upd p f).images = s.images := rfl
@[simp] theorem State.upd_slots (f : PartState → PartState) : (s.upd p f).slots = s.slots := rfl
@[simp] theorem State.upd_stitches (f : PartState → PartState) : (s.upd p f).stitches = s.stitches := rfl
@[simp] theorem State.upd_arbs (f : PartState → PartState) : (s.upd p f).arbs = s.arbs := rfl
@[simp] theorem State.upd_acl (f : PartState → PartState) : (s.upd p f).acl = s.acl := rfl
@[simp] theorem State.upd_vesin (f : PartState → PartState) : (s.upd p f).vesin = s.vesin := rfl
@[simp] theorem State.upd_pkg (f : PartState → PartState) : (s.upd p f).pkg = s.pkg := rfl
@[simp] theorem State.upd_power (f : PartState → PartState) : (s.upd p f).power = s.power := rfl
@[simp] theorem State.updHost_pending (f : HostPart → HostPart) : (s.updHost p f).pending = s.pending := rfl
@[simp] theorem State.updHost_freeCtr (f : HostPart → HostPart) : (s.updHost p f).freeCtr = s.freeCtr := rfl
@[simp] theorem State.updHost_host (f : HostPart → HostPart) : (s.updHost p f).host = s.host := rfl
@[simp] theorem State.updHost_cad (f : HostPart → HostPart) : (s.updHost p f).cad = s.cad := rfl
@[simp] theorem State.updHost_array (f : HostPart → HostPart) : (s.updHost p f).array = s.array := rfl
@[simp] theorem State.updHost_contribs (f : HostPart → HostPart) : (s.updHost p f).contribs = s.contribs := rfl
@[simp] theorem State.updHost_flash (f : HostPart → HostPart) : (s.updHost p f).flash = s.flash := rfl
@[simp] theorem State.updHost_mem (f : HostPart → HostPart) : (s.updHost p f).mem = s.mem := rfl
@[simp] theorem State.updHost_images (f : HostPart → HostPart) : (s.updHost p f).images = s.images := rfl
@[simp] theorem State.updHost_slots (f : HostPart → HostPart) : (s.updHost p f).slots = s.slots := rfl
@[simp] theorem State.updHost_stitches (f : HostPart → HostPart) : (s.updHost p f).stitches = s.stitches := rfl
@[simp] theorem State.updHost_arbs (f : HostPart → HostPart) : (s.updHost p f).arbs = s.arbs := rfl
@[simp] theorem State.updHost_acl (f : HostPart → HostPart) : (s.updHost p f).acl = s.acl := rfl
@[simp] theorem State.updHost_vesin (f : HostPart → HostPart) : (s.updHost p f).vesin = s.vesin := rfl
@[simp] theorem State.updHost_pkg (f : HostPart → HostPart) : (s.updHost p f).pkg = s.pkg := rfl
@[simp] theorem State.updHost_power (f : HostPart → HostPart) : (s.updHost p f).power = s.power := rfl
@[simp] theorem State.updCad_pending (f : Cad → Cad) : (s.updCad p f).pending = s.pending := rfl
@[simp] theorem State.updCad_freeCtr (f : Cad → Cad) : (s.updCad p f).freeCtr = s.freeCtr := rfl
@[simp] theorem State.updCad_host (f : Cad → Cad) : (s.updCad p f).host = s.host := rfl
@[simp] theorem State.updCad_cad (f : Cad → Cad) : (s.updCad p f).cad = s.cad := rfl
@[simp] theorem State.updCad_array (f : Cad → Cad) : (s.updCad p f).array = s.array := rfl
@[simp] theorem State.updCad_contribs (f : Cad → Cad) : (s.updCad p f).contribs = s.contribs := rfl
@[simp] theorem State.updCad_flash (f : Cad → Cad) : (s.updCad p f).flash = s.flash := rfl
@[simp] theorem State.updCad_mem (f : Cad → Cad) : (s.updCad p f).mem = s.mem := rfl
@[simp] theorem State.updCad_images (f : Cad → Cad) : (s.updCad p f).images = s.images := rfl
@[simp] theorem State.updCad_slots (f : Cad → Cad) : (s.updCad p f).slots = s.slots := rfl
@[simp] theorem State.updCad_stitches (f : Cad → Cad) : (s.updCad p f).stitches = s.stitches := rfl
@[simp] theorem State.updCad_arbs (f : Cad → Cad) : (s.updCad p f).arbs = s.arbs := rfl
@[simp] theorem State.updCad_acl (f : Cad → Cad) : (s.updCad p f).acl = s.acl := rfl
@[simp] theorem State.updCad_vesin (f : Cad → Cad) : (s.updCad p f).vesin = s.vesin := rfl
@[simp] theorem State.updCad_pkg (f : Cad → Cad) : (s.updCad p f).pkg = s.pkg := rfl
@[simp] theorem State.updCad_power (f : Cad → Cad) : (s.updCad p f).power = s.power := rfl
@[simp] theorem State.updBench_pending (f : Bench → Bench) : (s.updBench p f).pending = s.pending := rfl
@[simp] theorem State.updBench_freeCtr (f : Bench → Bench) : (s.updBench p f).freeCtr = s.freeCtr := rfl
@[simp] theorem State.updBench_host (f : Bench → Bench) : (s.updBench p f).host = s.host := rfl
@[simp] theorem State.updBench_cad (f : Bench → Bench) : (s.updBench p f).cad = s.cad := rfl
@[simp] theorem State.updBench_array (f : Bench → Bench) : (s.updBench p f).array = s.array := rfl
@[simp] theorem State.updBench_contribs (f : Bench → Bench) : (s.updBench p f).contribs = s.contribs := rfl
@[simp] theorem State.updBench_flash (f : Bench → Bench) : (s.updBench p f).flash = s.flash := rfl
@[simp] theorem State.updBench_mem (f : Bench → Bench) : (s.updBench p f).mem = s.mem := rfl
@[simp] theorem State.updBench_images (f : Bench → Bench) : (s.updBench p f).images = s.images := rfl
@[simp] theorem State.updBench_slots (f : Bench → Bench) : (s.updBench p f).slots = s.slots := rfl
@[simp] theorem State.updBench_stitches (f : Bench → Bench) : (s.updBench p f).stitches = s.stitches := rfl
@[simp] theorem State.updBench_arbs (f : Bench → Bench) : (s.updBench p f).arbs = s.arbs := rfl
@[simp] theorem State.updBench_acl (f : Bench → Bench) : (s.updBench p f).acl = s.acl := rfl
@[simp] theorem State.updBench_vesin (f : Bench → Bench) : (s.updBench p f).vesin = s.vesin := rfl
@[simp] theorem State.updBench_pkg (f : Bench → Bench) : (s.updBench p f).pkg = s.pkg := rfl
@[simp] theorem State.updBench_power (f : Bench → Bench) : (s.updBench p f).power = s.power := rfl
@[simp] theorem State.updVeto_pending (f : Veto → Veto) : (s.updVeto p f).pending = s.pending := rfl
@[simp] theorem State.updVeto_freeCtr (f : Veto → Veto) : (s.updVeto p f).freeCtr = s.freeCtr := rfl
@[simp] theorem State.updVeto_host (f : Veto → Veto) : (s.updVeto p f).host = s.host := rfl
@[simp] theorem State.updVeto_cad (f : Veto → Veto) : (s.updVeto p f).cad = s.cad := rfl
@[simp] theorem State.updVeto_array (f : Veto → Veto) : (s.updVeto p f).array = s.array := rfl
@[simp] theorem State.updVeto_contribs (f : Veto → Veto) : (s.updVeto p f).contribs = s.contribs := rfl
@[simp] theorem State.updVeto_flash (f : Veto → Veto) : (s.updVeto p f).flash = s.flash := rfl
@[simp] theorem State.updVeto_mem (f : Veto → Veto) : (s.updVeto p f).mem = s.mem := rfl
@[simp] theorem State.updVeto_images (f : Veto → Veto) : (s.updVeto p f).images = s.images := rfl
@[simp] theorem State.updVeto_slots (f : Veto → Veto) : (s.updVeto p f).slots = s.slots := rfl
@[simp] theorem State.updVeto_stitches (f : Veto → Veto) : (s.updVeto p f).stitches = s.stitches := rfl
@[simp] theorem State.updVeto_arbs (f : Veto → Veto) : (s.updVeto p f).arbs = s.arbs := rfl
@[simp] theorem State.updVeto_acl (f : Veto → Veto) : (s.updVeto p f).acl = s.acl := rfl
@[simp] theorem State.updVeto_vesin (f : Veto → Veto) : (s.updVeto p f).vesin = s.vesin := rfl
@[simp] theorem State.updVeto_pkg (f : Veto → Veto) : (s.updVeto p f).pkg = s.pkg := rfl
@[simp] theorem State.updVeto_power (f : Veto → Veto) : (s.updVeto p f).power = s.power := rfl
@[simp] theorem State.updPln_pending (f : Planisher → Planisher) : (s.updPln p f).pending = s.pending := rfl
@[simp] theorem State.updPln_freeCtr (f : Planisher → Planisher) : (s.updPln p f).freeCtr = s.freeCtr := rfl
@[simp] theorem State.updPln_host (f : Planisher → Planisher) : (s.updPln p f).host = s.host := rfl
@[simp] theorem State.updPln_cad (f : Planisher → Planisher) : (s.updPln p f).cad = s.cad := rfl
@[simp] theorem State.updPln_array (f : Planisher → Planisher) : (s.updPln p f).array = s.array := rfl
@[simp] theorem State.updPln_contribs (f : Planisher → Planisher) : (s.updPln p f).contribs = s.contribs := rfl
@[simp] theorem State.updPln_flash (f : Planisher → Planisher) : (s.updPln p f).flash = s.flash := rfl
@[simp] theorem State.updPln_mem (f : Planisher → Planisher) : (s.updPln p f).mem = s.mem := rfl
@[simp] theorem State.updPln_images (f : Planisher → Planisher) : (s.updPln p f).images = s.images := rfl
@[simp] theorem State.updPln_slots (f : Planisher → Planisher) : (s.updPln p f).slots = s.slots := rfl
@[simp] theorem State.updPln_stitches (f : Planisher → Planisher) : (s.updPln p f).stitches = s.stitches := rfl
@[simp] theorem State.updPln_arbs (f : Planisher → Planisher) : (s.updPln p f).arbs = s.arbs := rfl
@[simp] theorem State.updPln_acl (f : Planisher → Planisher) : (s.updPln p f).acl = s.acl := rfl
@[simp] theorem State.updPln_vesin (f : Planisher → Planisher) : (s.updPln p f).vesin = s.vesin := rfl
@[simp] theorem State.updPln_pkg (f : Planisher → Planisher) : (s.updPln p f).pkg = s.pkg := rfl
@[simp] theorem State.updPln_power (f : Planisher → Planisher) : (s.updPln p f).power = s.power := rfl
@[simp] theorem State.updTier_pending (f : TierRegs → TierRegs) : (s.updTier p f).pending = s.pending := rfl
@[simp] theorem State.updTier_freeCtr (f : TierRegs → TierRegs) : (s.updTier p f).freeCtr = s.freeCtr := rfl
@[simp] theorem State.updTier_host (f : TierRegs → TierRegs) : (s.updTier p f).host = s.host := rfl
@[simp] theorem State.updTier_cad (f : TierRegs → TierRegs) : (s.updTier p f).cad = s.cad := rfl
@[simp] theorem State.updTier_array (f : TierRegs → TierRegs) : (s.updTier p f).array = s.array := rfl
@[simp] theorem State.updTier_contribs (f : TierRegs → TierRegs) : (s.updTier p f).contribs = s.contribs := rfl
@[simp] theorem State.updTier_flash (f : TierRegs → TierRegs) : (s.updTier p f).flash = s.flash := rfl
@[simp] theorem State.updTier_mem (f : TierRegs → TierRegs) : (s.updTier p f).mem = s.mem := rfl
@[simp] theorem State.updTier_images (f : TierRegs → TierRegs) : (s.updTier p f).images = s.images := rfl
@[simp] theorem State.updTier_slots (f : TierRegs → TierRegs) : (s.updTier p f).slots = s.slots := rfl
@[simp] theorem State.updTier_stitches (f : TierRegs → TierRegs) : (s.updTier p f).stitches = s.stitches := rfl
@[simp] theorem State.updTier_arbs (f : TierRegs → TierRegs) : (s.updTier p f).arbs = s.arbs := rfl
@[simp] theorem State.updTier_acl (f : TierRegs → TierRegs) : (s.updTier p f).acl = s.acl := rfl
@[simp] theorem State.updTier_vesin (f : TierRegs → TierRegs) : (s.updTier p f).vesin = s.vesin := rfl
@[simp] theorem State.updTier_pkg (f : TierRegs → TierRegs) : (s.updTier p f).pkg = s.pkg := rfl
@[simp] theorem State.updTier_power (f : TierRegs → TierRegs) : (s.updTier p f).power = s.power := rfl
@[simp] theorem State.updStc_pending (f : StcRegs → StcRegs) : (s.updStc p f).pending = s.pending := rfl
@[simp] theorem State.updStc_freeCtr (f : StcRegs → StcRegs) : (s.updStc p f).freeCtr = s.freeCtr := rfl
@[simp] theorem State.updStc_host (f : StcRegs → StcRegs) : (s.updStc p f).host = s.host := rfl
@[simp] theorem State.updStc_cad (f : StcRegs → StcRegs) : (s.updStc p f).cad = s.cad := rfl
@[simp] theorem State.updStc_array (f : StcRegs → StcRegs) : (s.updStc p f).array = s.array := rfl
@[simp] theorem State.updStc_contribs (f : StcRegs → StcRegs) : (s.updStc p f).contribs = s.contribs := rfl
@[simp] theorem State.updStc_flash (f : StcRegs → StcRegs) : (s.updStc p f).flash = s.flash := rfl
@[simp] theorem State.updStc_mem (f : StcRegs → StcRegs) : (s.updStc p f).mem = s.mem := rfl
@[simp] theorem State.updStc_images (f : StcRegs → StcRegs) : (s.updStc p f).images = s.images := rfl
@[simp] theorem State.updStc_slots (f : StcRegs → StcRegs) : (s.updStc p f).slots = s.slots := rfl
@[simp] theorem State.updStc_stitches (f : StcRegs → StcRegs) : (s.updStc p f).stitches = s.stitches := rfl
@[simp] theorem State.updStc_arbs (f : StcRegs → StcRegs) : (s.updStc p f).arbs = s.arbs := rfl
@[simp] theorem State.updStc_acl (f : StcRegs → StcRegs) : (s.updStc p f).acl = s.acl := rfl
@[simp] theorem State.updStc_vesin (f : StcRegs → StcRegs) : (s.updStc p f).vesin = s.vesin := rfl
@[simp] theorem State.updStc_pkg (f : StcRegs → StcRegs) : (s.updStc p f).pkg = s.pkg := rfl
@[simp] theorem State.updStc_power (f : StcRegs → StcRegs) : (s.updStc p f).power = s.power := rfl
@[simp] theorem State.updAcl_pending (f : AclRegs → AclRegs) : (s.updAcl p f).pending = s.pending := rfl
@[simp] theorem State.updAcl_freeCtr (f : AclRegs → AclRegs) : (s.updAcl p f).freeCtr = s.freeCtr := rfl
@[simp] theorem State.updAcl_host (f : AclRegs → AclRegs) : (s.updAcl p f).host = s.host := rfl
@[simp] theorem State.updAcl_cad (f : AclRegs → AclRegs) : (s.updAcl p f).cad = s.cad := rfl
@[simp] theorem State.updAcl_array (f : AclRegs → AclRegs) : (s.updAcl p f).array = s.array := rfl
@[simp] theorem State.updAcl_contribs (f : AclRegs → AclRegs) : (s.updAcl p f).contribs = s.contribs := rfl
@[simp] theorem State.updAcl_flash (f : AclRegs → AclRegs) : (s.updAcl p f).flash = s.flash := rfl
@[simp] theorem State.updAcl_mem (f : AclRegs → AclRegs) : (s.updAcl p f).mem = s.mem := rfl
@[simp] theorem State.updAcl_images (f : AclRegs → AclRegs) : (s.updAcl p f).images = s.images := rfl
@[simp] theorem State.updAcl_slots (f : AclRegs → AclRegs) : (s.updAcl p f).slots = s.slots := rfl
@[simp] theorem State.updAcl_stitches (f : AclRegs → AclRegs) : (s.updAcl p f).stitches = s.stitches := rfl
@[simp] theorem State.updAcl_arbs (f : AclRegs → AclRegs) : (s.updAcl p f).arbs = s.arbs := rfl
@[simp] theorem State.updAcl_acl (f : AclRegs → AclRegs) : (s.updAcl p f).acl = s.acl := rfl
@[simp] theorem State.updAcl_vesin (f : AclRegs → AclRegs) : (s.updAcl p f).vesin = s.vesin := rfl
@[simp] theorem State.updAcl_pkg (f : AclRegs → AclRegs) : (s.updAcl p f).pkg = s.pkg := rfl
@[simp] theorem State.updAcl_power (f : AclRegs → AclRegs) : (s.updAcl p f).power = s.power := rfl
@[simp] theorem State.updRes_pending (f : Res → Res) : (s.updRes p f).pending = s.pending := rfl
@[simp] theorem State.updRes_freeCtr (f : Res → Res) : (s.updRes p f).freeCtr = s.freeCtr := rfl
@[simp] theorem State.updRes_host (f : Res → Res) : (s.updRes p f).host = s.host := rfl
@[simp] theorem State.updRes_cad (f : Res → Res) : (s.updRes p f).cad = s.cad := rfl
@[simp] theorem State.updRes_array (f : Res → Res) : (s.updRes p f).array = s.array := rfl
@[simp] theorem State.updRes_contribs (f : Res → Res) : (s.updRes p f).contribs = s.contribs := rfl
@[simp] theorem State.updRes_flash (f : Res → Res) : (s.updRes p f).flash = s.flash := rfl
@[simp] theorem State.updRes_mem (f : Res → Res) : (s.updRes p f).mem = s.mem := rfl
@[simp] theorem State.updRes_images (f : Res → Res) : (s.updRes p f).images = s.images := rfl
@[simp] theorem State.updRes_slots (f : Res → Res) : (s.updRes p f).slots = s.slots := rfl
@[simp] theorem State.updRes_stitches (f : Res → Res) : (s.updRes p f).stitches = s.stitches := rfl
@[simp] theorem State.updRes_arbs (f : Res → Res) : (s.updRes p f).arbs = s.arbs := rfl
@[simp] theorem State.updRes_acl (f : Res → Res) : (s.updRes p f).acl = s.acl := rfl
@[simp] theorem State.updRes_vesin (f : Res → Res) : (s.updRes p f).vesin = s.vesin := rfl
@[simp] theorem State.updRes_pkg (f : Res → Res) : (s.updRes p f).pkg = s.pkg := rfl
@[simp] theorem State.updRes_power (f : Res → Res) : (s.updRes p f).power = s.power := rfl
@[simp] theorem State.updStream_pending (st : Strm) (f : Stream → Stream) : (s.updStream p st f).pending = s.pending := rfl
@[simp] theorem State.updStream_freeCtr (st : Strm) (f : Stream → Stream) : (s.updStream p st f).freeCtr = s.freeCtr := rfl
@[simp] theorem State.updStream_host (st : Strm) (f : Stream → Stream) : (s.updStream p st f).host = s.host := rfl
@[simp] theorem State.updStream_cad (st : Strm) (f : Stream → Stream) : (s.updStream p st f).cad = s.cad := rfl
@[simp] theorem State.updStream_array (st : Strm) (f : Stream → Stream) : (s.updStream p st f).array = s.array := rfl
@[simp] theorem State.updStream_contribs (st : Strm) (f : Stream → Stream) : (s.updStream p st f).contribs = s.contribs := rfl
@[simp] theorem State.updStream_flash (st : Strm) (f : Stream → Stream) : (s.updStream p st f).flash = s.flash := rfl
@[simp] theorem State.updStream_mem (st : Strm) (f : Stream → Stream) : (s.updStream p st f).mem = s.mem := rfl
@[simp] theorem State.updStream_images (st : Strm) (f : Stream → Stream) : (s.updStream p st f).images = s.images := rfl
@[simp] theorem State.updStream_slots (st : Strm) (f : Stream → Stream) : (s.updStream p st f).slots = s.slots := rfl
@[simp] theorem State.updStream_stitches (st : Strm) (f : Stream → Stream) : (s.updStream p st f).stitches = s.stitches := rfl
@[simp] theorem State.updStream_arbs (st : Strm) (f : Stream → Stream) : (s.updStream p st f).arbs = s.arbs := rfl
@[simp] theorem State.updStream_acl (st : Strm) (f : Stream → Stream) : (s.updStream p st f).acl = s.acl := rfl
@[simp] theorem State.updStream_vesin (st : Strm) (f : Stream → Stream) : (s.updStream p st f).vesin = s.vesin := rfl
@[simp] theorem State.updStream_pkg (st : Strm) (f : Stream → Stream) : (s.updStream p st f).pkg = s.pkg := rfl
@[simp] theorem State.updStream_power (st : Strm) (f : Stream → Stream) : (s.updStream p st f).power = s.power := rfl
@[simp] theorem State.tick_pending : s.tick.pending = s.pending := rfl
@[simp] theorem State.tick_host : s.tick.host = s.host := rfl
@[simp] theorem State.tick_cad : s.tick.cad = s.cad := rfl
@[simp] theorem State.tick_array : s.tick.array = s.array := rfl
@[simp] theorem State.tick_contribs : s.tick.contribs = s.contribs := rfl
@[simp] theorem State.tick_flash : s.tick.flash = s.flash := rfl
@[simp] theorem State.tick_mem : s.tick.mem = s.mem := rfl
@[simp] theorem State.tick_images : s.tick.images = s.images := rfl
@[simp] theorem State.tick_slots : s.tick.slots = s.slots := rfl
@[simp] theorem State.tick_stitches : s.tick.stitches = s.stitches := rfl
@[simp] theorem State.tick_arbs : s.tick.arbs = s.arbs := rfl
@[simp] theorem State.tick_acl : s.tick.acl = s.acl := rfl
@[simp] theorem State.tick_vesin : s.tick.vesin = s.vesin := rfl
@[simp] theorem State.tick_pkg : s.tick.pkg = s.pkg := rfl
@[simp] theorem State.tick_power : s.tick.power = s.power := rfl
@[simp] theorem State.tick_freeCtr : s.tick.freeCtr = s.freeCtr + 1 := rfl
@[simp] theorem State.tick_part (q : Part) : s.tick.part q = s.part q := rfl
@[simp] theorem State.out_pending (e : BusEvent) : (s.out e).pending = s.pending := rfl
@[simp] theorem State.out_freeCtr (e : BusEvent) : (s.out e).freeCtr = s.freeCtr := rfl
@[simp] theorem State.out_cad (e : BusEvent) : (s.out e).cad = s.cad := rfl
@[simp] theorem State.out_array (e : BusEvent) : (s.out e).array = s.array := rfl
@[simp] theorem State.out_contribs (e : BusEvent) : (s.out e).contribs = s.contribs := rfl
@[simp] theorem State.out_flash (e : BusEvent) : (s.out e).flash = s.flash := rfl
@[simp] theorem State.out_mem (e : BusEvent) : (s.out e).mem = s.mem := rfl
@[simp] theorem State.out_images (e : BusEvent) : (s.out e).images = s.images := rfl
@[simp] theorem State.out_slots (e : BusEvent) : (s.out e).slots = s.slots := rfl
@[simp] theorem State.out_stitches (e : BusEvent) : (s.out e).stitches = s.stitches := rfl
@[simp] theorem State.out_arbs (e : BusEvent) : (s.out e).arbs = s.arbs := rfl
@[simp] theorem State.out_acl (e : BusEvent) : (s.out e).acl = s.acl := rfl
@[simp] theorem State.out_vesin (e : BusEvent) : (s.out e).vesin = s.vesin := rfl
@[simp] theorem State.out_pkg (e : BusEvent) : (s.out e).pkg = s.pkg := rfl
@[simp] theorem State.out_power (e : BusEvent) : (s.out e).power = s.power := rfl
@[simp] theorem State.out_part (e : BusEvent) (q : Part) : (s.out e).part q = s.part q := rfl

/-! ## The partition changed, and the others -/

@[simp] theorem State.parts_get (s : State) (p : Part) : s.parts.get p = s.part p := rfl

@[simp] theorem State.mk_part (a b c d e f g h i j k l m n o q r) (p : Part) :
    (State.mk a b c d e f g h i j k l m n o q r).part p = c.get p := rfl

@[simp] theorem State.upd_part (f : PartState → PartState) : (s.upd p f).part p = f (s.part p) :=
  Quad.get_modify_self _ _ _

theorem State.upd_part_of_ne {q : Part} (h : q ≠ p) (f : PartState → PartState) :
    (s.upd p f).part q = s.part q := Quad.get_modify_of_ne _ _ h

@[simp] theorem State.updHost_part (f : HostPart → HostPart) :
    (s.updHost p f).part p = { s.part p with host := f (s.part p).host } := by
  simp [State.updHost]

theorem State.updHost_part_of_ne {q : Part} (h : q ≠ p) (f : HostPart → HostPart) :
    (s.updHost p f).part q = s.part q := State.upd_part_of_ne s p h _

@[simp] theorem State.updCad_part (f : Cad → Cad) :
    (s.updCad p f).part p = { s.part p with cad := f (s.part p).cad } := by
  simp [State.updCad]

theorem State.updCad_part_of_ne {q : Part} (h : q ≠ p) (f : Cad → Cad) :
    (s.updCad p f).part q = s.part q := State.upd_part_of_ne s p h _

@[simp] theorem State.updBench_part (f : Bench → Bench) :
    (s.updBench p f).part p = { s.part p with bench := f (s.part p).bench } := by
  simp [State.updBench]

theorem State.updBench_part_of_ne {q : Part} (h : q ≠ p) (f : Bench → Bench) :
    (s.updBench p f).part q = s.part q := State.upd_part_of_ne s p h _

@[simp] theorem State.updVeto_part (f : Veto → Veto) :
    (s.updVeto p f).part p = { s.part p with veto := f (s.part p).veto } := by
  simp [State.updVeto]

theorem State.updVeto_part_of_ne {q : Part} (h : q ≠ p) (f : Veto → Veto) :
    (s.updVeto p f).part q = s.part q := State.upd_part_of_ne s p h _

@[simp] theorem State.updPln_part (f : Planisher → Planisher) :
    (s.updPln p f).part p = { s.part p with pln := f (s.part p).pln } := by
  simp [State.updPln]

theorem State.updPln_part_of_ne {q : Part} (h : q ≠ p) (f : Planisher → Planisher) :
    (s.updPln p f).part q = s.part q := State.upd_part_of_ne s p h _

@[simp] theorem State.updTier_part (f : TierRegs → TierRegs) :
    (s.updTier p f).part p = { s.part p with tier := f (s.part p).tier } := by
  simp [State.updTier]

theorem State.updTier_part_of_ne {q : Part} (h : q ≠ p) (f : TierRegs → TierRegs) :
    (s.updTier p f).part q = s.part q := State.upd_part_of_ne s p h _

@[simp] theorem State.updStc_part (f : StcRegs → StcRegs) :
    (s.updStc p f).part p = { s.part p with stc := f (s.part p).stc } := by
  simp [State.updStc]

theorem State.updStc_part_of_ne {q : Part} (h : q ≠ p) (f : StcRegs → StcRegs) :
    (s.updStc p f).part q = s.part q := State.upd_part_of_ne s p h _

@[simp] theorem State.updAcl_part (f : AclRegs → AclRegs) :
    (s.updAcl p f).part p = { s.part p with acl := f (s.part p).acl } := by
  simp [State.updAcl]

theorem State.updAcl_part_of_ne {q : Part} (h : q ≠ p) (f : AclRegs → AclRegs) :
    (s.updAcl p f).part q = s.part q := State.upd_part_of_ne s p h _

@[simp] theorem State.updRes_part (f : Res → Res) :
    (s.updRes p f).part p = { s.part p with res := f (s.part p).res } := by
  simp [State.updRes]

theorem State.updRes_part_of_ne {q : Part} (h : q ≠ p) (f : Res → Res) :
    (s.updRes p f).part q = s.part q := State.upd_part_of_ne s p h _

/-! ## Streams -/

@[simp] theorem State.updStream_stream (st : Strm) (f : Stream → Stream) :
    (s.updStream p st f).stream p st = f (s.stream p st) := by
  simp [State.updStream, State.stream]

theorem State.updStream_stream_of_ne {st : Strm} {x : Strm} (h : x ≠ st) (f : Stream → Stream) :
    (s.updStream p st f).stream p x = s.stream p x := by
  simp [State.updStream, State.stream, Quad.get_modify_of_ne _ _ h]

theorem State.updStream_part_of_ne {q : Part} (h : q ≠ p) (st : Strm) (f : Stream → Stream) :
    (s.updStream p st f).part q = s.part q := State.upd_part_of_ne s p h _

/-! ## Two updates of one partition -/

theorem State.upd_upd (f g : PartState → PartState) : (s.upd p f).upd p g = s.upd p (fun x => g (f x)) := by
  simp [State.upd, Quad.modify, Quad.set_set]

theorem State.updStream_updStream (st : Strm) (f g : Stream → Stream) :
    (s.updStream p st f).updStream p st g = s.updStream p st (fun x => g (f x)) := by
  simp [State.updStream, State.updBench, State.upd_upd, Quad.modify, Quad.set_set]

theorem State.upd_self (f : PartState → PartState) (h : f (s.part p) = s.part p) : s.upd p f = s := by
  have : s.parts.set p (s.parts.get p) = s.parts := Quad.set_get _ _
  simp only [State.upd, Quad.modify]
  rw [show f (s.parts.get p) = s.parts.get p from h, this]

end Sys2Proof.Machine
end

