-- ==== Sys2Proof/Laws/Bench.lean ====
section
/-!
SUPPORT. What a bench operation can do, said once: a head that is not ready, one with a reserved bit set, one that issues.
-/
namespace Sys2Proof.Machine

theorem benchOp_waits {b : BenchHdr} {ready : State → Bool} {run : State → Except Halt State} {s : State}
    (h : headReady b s = false ∨ ready s = false) : benchOp b ready run s = s := by
  rcases h with h | h <;> simp [benchOp, h]

theorem benchOp_rsvd {b : BenchHdr} {ready : State → Bool} {run : State → Except Halt State} {s : State}
    (h : headReady b s = true) (hr : ready s = true) (r : b.rsvd = true) :
    benchOp b ready run s = haltHead b { code := ftWordRsvd } s := by
  simp [benchOp, h, hr, r]

theorem benchOp_runs {b : BenchHdr} {ready : State → Bool} {run : State → Except Halt State} {s : State}
    (m : MayIssue b s) (hr : ready s = true) : benchOp b ready run s = (run s).casesOn (fun e => haltHead b e s) id := by
  simp only [benchOp, m.1, m.2, hr]
  cases run s <;> rfl

theorem benchOp_stops {b : BenchHdr} {ready : State → Bool} {run : State → Except Halt State} {s : State} {e : Halt}
    (m : MayIssue b s) (hr : ready s = true) (h : run s = .error e) : benchOp b ready run s = haltHead b e s := by
  simp [benchOp, m.1, m.2, hr, h]

theorem plateOp_runs {h : PlateHdr} {i j : Inst} {rest : List Inst} {f : Inst → State → PlateOut} {s t : State}
    (r : Runs h i rest s) (e : f { i with pc := i.pc + 1 } s = .ok (j, t)) :
    plateOp h false f s = setInsts h.p h.plate.val (j :: rest) t := by
  simp [plateOp, r.1, r.2.1, r.2.2, e]

/-! ## Operations in flight together (R207) -/


theorem blurFor_alone {p : Part} {n : Option Nat} {reads : List (Nat × Nat)} {s : State} (h : rivals s p n = []) :
    blurFor p n reads s = s := by
  have e : ∀ l : List (Nat × Nat), meetRuns l [] = [] := fun l => by induction l <;> simp_all [meetRuns]
  simp [blurFor, h, e]

theorem smearFor_alone {p : Part} {n : Option Nat} {writes : List (Nat × Nat)} {s : State} (h : rivals s p n = []) :
    smearFor p n writes s = s := by
  have e : ∀ l : List (Nat × Nat), meetRuns l [] = [] := fun l => by induction l <;> simp_all [meetRuns]
  simp [smearFor, h, e]

/-- The flight that `addFoot` leaves in a flight's place. -/
theorem find?_footed {l : List Flight} {n : Nat} {g : Flight → Flight} (hg : ∀ x, (g x).ident = x.ident) :
    (l.map g).find? (fun x => x.ident = n) = (l.find? (fun x => x.ident = n)).map g := by
  induction l with
  | nil => rfl
  | cons a l ih => simp only [List.map_cons, List.find?_cons, hg, ih]; split <;> rfl

theorem beside_footed {l : List Flight} {f : Flight} {u : Foot → Foot} :
    ((l.map fun x => if x.ident = f.ident then { x with foot := u x.foot } else x).filter
      { f with foot := u f.foot }.beside).map Flight.foot = (l.filter f.beside).map Flight.foot := by
  induction l with
  | nil => rfl
  | cons a l ih =>
    simp only [List.map_cons, List.filter_cons]
    by_cases h : a.ident = f.ident
    · simp [h, Flight.beside, ← ih]
    · have e : ({ f with foot := u f.foot } : Flight).beside a = f.beside a := rfl
      simp only [if_neg h, e]; split <;> simp [ih]

/-- What an operation adds to its own runs makes it no rival. -/
theorem rivals_addFoot {p : Part} {n : Nat} {foot : Foot} {s : State} :
    rivals (addFoot p n foot s) p (some n) = rivals s p (some n) := by
  have hq : ((addFoot p n foot s).part p).pln = (s.part p).pln := by simp [addFoot]
  have ha : holdsArray (addFoot p n foot s) p = holdsArray s p := by
    simp only [holdsArray, addFoot, State.updBench_host, State.updBench_array, State.updBench_part]; rfl
  have hf : ((addFoot p n foot s).part p).bench.past = (s.part p).bench.past := by simp [addFoot]
  let u (f : Foot) : Foot := { reads := (f.reads ++ foot.reads).dedup, writes := (f.writes ++ foot.writes).dedup }
  have hl : ((addFoot p n foot s).part p).bench.flight =
      (s.part p).bench.flight.map fun x => if x.ident = n then { x with foot := u x.foot } else x := by
    simp [addFoot, u]
  simp only [rivals, hq, ha, hf, hl]
  rw [find?_footed (fun x => by split <;> rfl)]
  cases e : (s.part p).bench.flight.find? (fun x => x.ident = n) with
  | none => rfl
  | some f =>
    have i : f.ident = n := by simpa using List.find?_some e
    subst i
    simp only [Option.map_some, if_true, List.filter_append, List.map_append, beside_footed]
    rfl

end Sys2Proof.Machine
end

