-- ==== Sys2Proof/Laws/Store.lean ====
section
/-!
SUPPORT. Laws of the finite maps: the canonical form as a pairwise order, reading after writing, and what keeps the form.
-/
namespace Sys2Proof.Machine

variable {α : Type}

/-! ## The canonical form -/

theorem Map.sorted_iff (m : Map α) : Map.sorted m = true ↔ m.Pairwise fun a b => a.1 < b.1 := by
  induction m with
  | nil => simp [Map.sorted]
  | cons e m ih =>
    cases m with
    | nil => simp [Map.sorted]
    | cons e2 m =>
      simp only [Map.sorted, Bool.and_eq_true, decide_eq_true_eq, ih, List.pairwise_cons, List.mem_cons,
        forall_eq_or_imp]
      constructor
      · rintro ⟨h, h2, h3⟩
        exact ⟨⟨h, fun a ha => lt_trans h (h2 a ha)⟩, h2, h3⟩
      · rintro ⟨⟨h, -⟩, h2, h3⟩
        exact ⟨h, h2, h3⟩

theorem Map.wf_iff [DecidableEq α] (d : α) (m : Map α) :
    Map.wf d m = true ↔ (m.Pairwise fun a b => a.1 < b.1) ∧ ∀ e ∈ m, e.2 ≠ d := by
  simp [Map.wf, Map.sorted_iff]

/-- Filtering keeps the form. -/
theorem Map.wf_filter [DecidableEq α] {d : α} {m : Map α} (h : Map.wf d m = true) (f : Nat × α → Bool) :
    Map.wf d (m.filter f) = true := by
  rw [Map.wf_iff] at *
  exact ⟨h.1.filter _, fun e he => h.2 e (List.mem_of_mem_filter he)⟩

/-! ## Reading after writing -/

@[simp] theorem Map.find?_insert_self (m : Map α) (k : Nat) (a : α) : Map.find? (Map.insert m k a) k = some a := by
  induction m with
  | nil => simp [Map.insert, Map.find?]
  | cons e m ih =>
    obtain ⟨j, b⟩ := e
    simp only [Map.insert]
    split
    · simp [Map.find?]
    · split
      · simp [Map.find?]
      · simp_all [Map.find?]

theorem Map.find?_insert_of_ne {m : Map α} {k j : Nat} {a : α} (h : j ≠ k) :
    Map.find? (Map.insert m k a) j = Map.find? m j := by
  induction m with
  | nil => simp [Map.insert, Map.find?, h]
  | cons e m ih =>
    obtain ⟨i, b⟩ := e
    simp only [Map.insert]
    split
    · simp [Map.find?, h]
    · split
      · subst_vars
        simp [Map.find?, h]
      · simp [Map.find?, ih]

theorem Map.find?_erase_of_ne {m : Map α} {k j : Nat} (h : j ≠ k) :
    Map.find? (Map.erase m k) j = Map.find? m j := by
  induction m with
  | nil => rfl
  | cons e m ih =>
    obtain ⟨i, b⟩ := e
    simp only [Map.erase]
    split
    · subst_vars
      simp [Map.find?, h]
    · simp [Map.find?, ih]

/-- A number not above the first of a rising map's is not listed. -/
theorem Map.find?_of_lt {m : Map α} {k : Nat} (h : ∀ e ∈ m, k < e.1) : Map.find? m k = none := by
  induction m with
  | nil => rfl
  | cons e m ih =>
    obtain ⟨i, b⟩ := e
    have hi : k < i := h (i, b) (by simp)
    simp [Map.find?, Nat.ne_of_lt hi, ih fun e he => h e (by simp [he])]

theorem Map.find?_erase_self {m : Map α} {k : Nat} (h : Map.sorted m = true) : Map.find? (Map.erase m k) k = none := by
  rw [Map.sorted_iff] at h
  induction m with
  | nil => rfl
  | cons e m ih =>
    obtain ⟨i, b⟩ := e
    rw [List.pairwise_cons] at h
    simp only [Map.erase]
    split
    · subst_vars
      exact Map.find?_of_lt h.1
    · rename_i hk
      simp [Map.find?, hk, ih h.2]

theorem Map.getD_insert_self (m : Map α) (k : Nat) (a d : α) : Map.getD (Map.insert m k a) k d = a := by
  simp [Map.getD]

theorem Map.getD_insert_of_ne {m : Map α} {k j : Nat} {a d : α} (h : j ≠ k) :
    Map.getD (Map.insert m k a) j d = Map.getD m j d := by
  simp [Map.getD, Map.find?_insert_of_ne h]

theorem Map.getD_setD_of_ne [DecidableEq α] {m : Map α} {k j : Nat} {a d e : α} (h : j ≠ k) :
    Map.getD (Map.setD d m k a) j e = Map.getD m j e := by
  unfold Map.setD
  split <;> simp [Map.getD, Map.find?_insert_of_ne h, Map.find?_erase_of_ne h]

theorem Map.getD_setD_self [DecidableEq α] {m : Map α} {k : Nat} {a d : α} (h : Map.sorted m = true) :
    Map.getD (Map.setD d m k a) k d = a := by
  unfold Map.setD
  split
  · simp [Map.getD, Map.find?_erase_self h, *]
  · simp [Map.getD]

/-! ## What keeps the form -/

theorem Map.mem_insert {m : Map α} {k : Nat} {a : α} {e : Nat × α} (h : e ∈ Map.insert m k a) :
    e = (k, a) ∨ e ∈ m := by
  induction m with
  | nil => simpa [Map.insert] using h
  | cons b m ih =>
    obtain ⟨i, b⟩ := b
    simp only [Map.insert] at h
    split at h
    · simpa using h
    · split at h
      · rcases List.mem_cons.mp h with h | h <;> simp [h]
      · rcases List.mem_cons.mp h with h | h
        · simp [h]
        · rcases ih h with h | h <;> simp [h]

theorem Map.mem_erase {m : Map α} {k : Nat} {e : Nat × α} (h : e ∈ Map.erase m k) : e ∈ m := by
  induction m with
  | nil => simp [Map.erase] at h
  | cons b m ih =>
    obtain ⟨i, b⟩ := b
    simp only [Map.erase] at h
    split at h
    · simp [h]
    · rcases List.mem_cons.mp h with h | h
      · simp [h]
      · simp [ih h]

theorem Map.pairwise_insert {m : Map α} (h : m.Pairwise fun a b => a.1 < b.1) (k : Nat) (a : α) :
    (Map.insert m k a).Pairwise fun a b => a.1 < b.1 := by
  induction m with
  | nil => simp [Map.insert]
  | cons e m ih =>
    obtain ⟨i, b⟩ := e
    rw [List.pairwise_cons] at h
    simp only [Map.insert]
    split
    · rename_i hk
      refine List.pairwise_cons.mpr ⟨?_, List.pairwise_cons.mpr h⟩
      intro e he
      rcases List.mem_cons.mp he with rfl | he
      · exact hk
      · exact lt_trans hk (h.1 e he)
    · split
      · subst_vars
        exact List.pairwise_cons.mpr ⟨h.1, h.2⟩
      · rename_i h1 h2
        refine List.pairwise_cons.mpr ⟨?_, ih h.2⟩
        intro e he
        rcases Map.mem_insert he with rfl | he
        · show i < k
          omega
        · exact h.1 e he

theorem Map.pairwise_erase {m : Map α} (h : m.Pairwise fun a b => a.1 < b.1) (k : Nat) :
    (Map.erase m k).Pairwise fun a b => a.1 < b.1 := by
  induction m with
  | nil => simp [Map.erase]
  | cons e m ih =>
    obtain ⟨i, b⟩ := e
    rw [List.pairwise_cons] at h
    simp only [Map.erase]
    split
    · exact h.2
    · exact List.pairwise_cons.mpr ⟨fun e he => h.1 e (Map.mem_erase he), ih h.2⟩

theorem Map.wf_insert [DecidableEq α] {d a : α} {m : Map α} (h : Map.wf d m = true) (k : Nat) (ha : a ≠ d) :
    Map.wf d (Map.insert m k a) = true := by
  rw [Map.wf_iff] at *
  refine ⟨Map.pairwise_insert h.1 k a, fun e he => ?_⟩
  rcases Map.mem_insert he with rfl | he
  · exact ha
  · exact h.2 e he

theorem Map.wf_erase [DecidableEq α] {d : α} {m : Map α} (h : Map.wf d m = true) (k : Nat) :
    Map.wf d (Map.erase m k) = true := by
  rw [Map.wf_iff] at *
  exact ⟨Map.pairwise_erase h.1 k, fun e he => h.2 e (Map.mem_erase he)⟩

theorem Map.wf_setD [DecidableEq α] {d : α} {m : Map α} (h : Map.wf d m = true) (k : Nat) (a : α) :
    Map.wf d (Map.setD d m k a) = true := by
  unfold Map.setD
  split
  · exact Map.wf_erase h k
  · exact Map.wf_insert h k ‹_›

/-- The number that the bytes of a number spell. -/
theorem leNat_leBytes (n v : Nat) : leNat (leBytes n v) = v % 256 ^ n := by
  induction n generalizing v with
  | zero => simp [leBytes, leNat, Nat.mod_one]
  | succ n ih =>
    simp only [leBytes, leNat, ih, BitVec.toNat_ofNat]
    rw [show (2 : Nat) ^ 8 = 256 from rfl, Nat.pow_succ', Nat.mod_mul]

end Sys2Proof.Machine
end

