-- ==== Sys2Proof/Laws/Memory.lean ====
section
/-!
SUPPORT. Laws of the model's memory: every operation on it keeps the canonical form, and what a byte reads as after a run of
bytes is put or cleared.
-/
namespace Sys2Proof.Machine

theorem memWf_reset : memWf State.reset := rfl

/-! ## Runs of bytes -/

theorem pairwise_run (l : List Byte) (k : Nat) :
    ((l.zipIdx k).map fun e => (e.2, e.1)).Pairwise fun a b => a.1 < b.1 := by
  induction l generalizing k with
  | nil => simp
  | cons b l ih =>
    simp only [List.zipIdx_cons, List.map_cons, List.pairwise_cons]
    refine ⟨fun e he => ?_, ih (k + 1)⟩
    obtain ⟨x, hx, rfl⟩ := List.mem_map.mp he
    have := List.le_snd_of_mem_zipIdx hx
    simp only
    omega

theorem run_range {l : List Byte} {k : Nat} {e : Nat × Byte} (h : e ∈ (l.zipIdx k).map fun e => (e.2, e.1)) :
    k ≤ e.1 ∧ e.1 < k + l.length := by
  obtain ⟨x, hx, rfl⟩ := List.mem_map.mp h
  have h1 := List.le_snd_of_mem_zipIdx hx
  have h2 := List.snd_lt_add_of_mem_zipIdx hx
  exact ⟨h1, by omega⟩

/-- A run of bytes put into memory keeps the form. -/
theorem wf_putRun {m : Map Byte} (h : Map.wf 0 m = true) (k : Nat) (l : List Byte) : Map.wf 0 (putRun m k l) = true := by
  rw [Map.wf_iff] at *
  obtain ⟨hp, hn⟩ := h
  refine ⟨?_, fun e he => ?_⟩
  · unfold putRun
    refine List.pairwise_append.mpr ⟨List.pairwise_append.mpr ⟨hp.filter _, (pairwise_run l k).filter _, ?_⟩, hp.filter _, ?_⟩
    · intro a ha b hb
      have h1 := (List.mem_filter.mp ha).2
      have h2 := run_range (List.mem_of_mem_filter hb)
      simp only [decide_eq_true_eq] at h1
      omega
    · intro a ha b hb
      have h2 := (List.mem_filter.mp hb).2
      simp only [decide_eq_true_eq] at h2
      rcases List.mem_append.mp ha with ha | ha
      · have h1 := (List.mem_filter.mp ha).2
        simp only [decide_eq_true_eq] at h1
        omega
      · have h1 := run_range (List.mem_of_mem_filter ha)
        omega
  · unfold putRun at he
    rcases List.mem_append.mp he with he | he
    · rcases List.mem_append.mp he with he | he
      · exact hn e (List.mem_of_mem_filter he)
      · simpa using (List.mem_filter.mp he).2
    · exact hn e (List.mem_of_mem_filter he)

/-- A run of zero bytes keeps the form. -/
theorem wf_clearRun {m : Map Byte} (h : Map.wf 0 m = true) (k n : Nat) : Map.wf 0 (clearRun m k n) = true := by
  rw [Map.wf_iff] at *
  obtain ⟨hp, hn⟩ := h
  refine ⟨?_, fun e he => ?_⟩
  · unfold clearRun
    refine List.pairwise_append.mpr ⟨hp.filter _, hp.filter _, ?_⟩
    intro a ha b hb
    have h1 := (List.mem_filter.mp ha).2
    have h2 := (List.mem_filter.mp hb).2
    simp only [decide_eq_true_eq] at h1 h2
    omega
  · unfold clearRun at he
    rcases List.mem_append.mp he with he | he <;> exact hn e (List.mem_of_mem_filter he)

/-- Runs cleared one after another keep the form. -/
theorem wf_clearRuns {β : Type} (l : List β) (f : β → Nat) (n : Nat) {m : Map Byte} (h : Map.wf 0 m = true) :
    Map.wf 0 (l.foldl (fun m x => clearRun m (f x) n) m) = true := by
  induction l generalizing m with
  | nil => exact h
  | cons b l ih => exact ih (wf_clearRun h _ _)

/-- Bytes kept through a device reset keep the form. -/
theorem wf_keptMem {s : State} (h : memWf s) : Map.wf 0 (keptMem s) = true := by
  have hn := ((Map.wf_iff 0 s.mem).mp h).2
  have go : ∀ (l : List (Nat × Byte)) (m : Map Byte), (∀ e ∈ l, e.2 ≠ 0) → Map.wf 0 m = true →
      Map.wf 0 (l.foldl (fun m e => Map.insert m (e.1 - 2 ^ 60) e.2) m) = true := by
    intro l
    induction l with
    | nil => exact fun m _ hm => hm
    | cons b l ih =>
      exact fun m hl hm => ih _ (fun e he => hl e (by simp [he])) (Map.wf_insert hm _ (hl b (by simp)))
  exact go _ _ (fun e he => hn e (List.mem_of_mem_filter he)) (Map.wf_filter h _)

/-- Storing a run of bytes keeps the form. -/
theorem memWf_putMem {s : State} (h : memWf s) (k : Nat) (l : List Byte) : memWf (putMem k l s) := wf_putRun h k l

/-! ## Reading after writing -/

theorem find?_append {α : Type} (a b : Map α) (k : Nat) :
    Map.find? (a ++ b) k = (Map.find? a k).or (Map.find? b k) := by
  induction a with
  | nil => simp [Map.find?]
  | cons e a ih =>
    obtain ⟨i, x⟩ := e
    simp only [List.cons_append, Map.find?]
    split <;> simp_all

theorem find?_eq_none {α : Type} {m : Map α} {k : Nat} (h : ∀ e ∈ m, e.1 ≠ k) : Map.find? m k = none := by
  induction m with
  | nil => rfl
  | cons e m ih =>
    obtain ⟨i, x⟩ := e
    have : k ≠ i := (h (i, x) (by simp)).symm
    simp [Map.find?, this, ih fun e he => h e (by simp [he])]

theorem find?_filter_key {α : Type} (m : Map α) (f : Nat → Bool) (k : Nat) :
    Map.find? (m.filter fun e => f e.1) k = if f k then Map.find? m k else none := by
  induction m with
  | nil => simp [Map.find?]
  | cons e m ih =>
    obtain ⟨i, x⟩ := e
    by_cases hi : f i <;> by_cases hk : k = i
    · subst hk; simp [hi, Map.find?]
    · simp [hi, Map.find?, ih, hk]
    · subst hk; simp [hi, ih]
    · simp [hi, Map.find?, ih, hk]

/-- A byte outside the run reads as before. -/
theorem cell_putMem_of_outside {s : State} {k a : Nat} {l : List Byte} (h : a < k ∨ k + l.length ≤ a) :
    (putMem k l s).cell a = s.cell a := by
  have hr : Map.find? (((l.zipIdx k).map fun e => (e.2, e.1)).filter fun e => decide (e.2 ≠ 0)) a = none := by
    refine find?_eq_none fun e he => ?_
    have := run_range (List.mem_of_mem_filter he)
    omega
  have h1 := find?_filter_key s.mem (fun j => decide (j < k)) a
  have h2 := find?_filter_key s.mem (fun j => decide (k + l.length ≤ j)) a
  simp only [State.cell, putMem, putRun, Map.getD, find?_append, hr, h1, h2]
  rcases h with h | h
  · simp [h, Nat.not_le.mpr (show a < k + l.length by omega)]
  · simp [Nat.not_lt.mpr (show k ≤ a by omega), h]

theorem find?_run (l : List Byte) (k i : Nat) (h : i < l.length) :
    Map.find? (((l.zipIdx k).map fun e => (e.2, e.1)).filter fun e => decide (e.2 ≠ 0)) (k + i) =
      if l[i] = 0 then none else some l[i] := by
  induction l generalizing k i with
  | nil => simp at h
  | cons b l ih =>
    cases i with
    | zero =>
      have hn : Map.find? (((l.zipIdx (k + 1)).map fun e => (e.2, e.1)).filter fun e => decide (e.2 ≠ 0)) k = none := by
        refine find?_eq_none fun e he => ?_
        have := run_range (List.mem_of_mem_filter he)
        omega
      by_cases hb : b = 0#8
      · simpa [List.zipIdx_cons, hb] using hn
      · simp [List.zipIdx_cons, hb, Map.find?]
    | succ i =>
      have := ih (k + 1) i (by simpa using h)
      rw [show k + 1 + i = k + (i + 1) by omega] at this
      by_cases hb : b = 0#8
      · simpa [List.zipIdx_cons, hb] using this
      · simpa [List.zipIdx_cons, List.filter_cons, hb, Map.find?] using this

/-- A byte of the run reads as stored. -/
theorem cell_putMem_inside {s : State} {k i : Nat} {l : List Byte} (h : i < l.length) :
    (putMem k l s).cell (k + i) = l[i] := by
  have h1 := find?_filter_key s.mem (fun j => decide (j < k)) (k + i)
  have h2 := find?_filter_key s.mem (fun j => decide (k + l.length ≤ j)) (k + i)
  simp only [State.cell, putMem, putRun, Map.getD, find?_append, find?_run l k i h, h1, h2]
  have : ¬ l.length ≤ i := by omega
  by_cases hl : l[i] = 0#8 <;> simp [hl, this]

/-- What was stored is read back. -/
theorem getMem_putMem {s : State} {k : Nat} {l : List Byte} : getMem (putMem k l s) k l.length = l := by
  refine List.ext_getElem (by simp [getMem]) fun i h1 h2 => ?_
  simp [getMem, cell_putMem_inside h2]

end Sys2Proof.Machine
end

