-- ==== Sys2Proof/Laws/Ops.lean ====
section
/-!
SUPPORT. What the shared operations of the host interface can change, and how a host command runs.
-/
namespace Sys2Proof.Machine

/-! ## A change that stays within the host interface of one partition -/

/-- `t` is `s` but for the host interface of partition `p`, the module's host interface and the count of free values. -/
def HostOnly (p : Part) (s t : State) : Prop :=
  ∃ (x : HostPart) (d : HostDev) (n : Nat), t = { s.updHost p fun _ => x with host := d, freeCtr := n }

theorem updHost_const_const (s : State) (p : Part) (x y : HostPart) :
    (s.updHost p fun _ => x).updHost p (fun _ => y) = s.updHost p fun _ => y := by
  simp only [State.updHost, State.upd_upd]

theorem HostOnly.of_updHost (p : Part) (s : State) (f : HostPart → HostPart) : HostOnly p s (s.updHost p f) := by
  refine ⟨f (s.part p).host, s.host, s.freeCtr, ?_⟩
  show s.updHost p f = s.updHost p fun _ => f (s.part p).host
  simp only [State.updHost, State.upd, State.part, Quad.modify]

theorem HostOnly.refl (p : Part) (s : State) : HostOnly p s s := by
  have h := HostOnly.of_updHost p s id
  have e : s.updHost p id = s := State.upd_self s p _ rfl
  rwa [e] at h

theorem HostOnly.trans {p : Part} {s t u : State} (h : HostOnly p s t) (k : HostOnly p t u) : HostOnly p s u := by
  obtain ⟨x, d, n, rfl⟩ := h
  obtain ⟨y, e, m, rfl⟩ := k
  refine ⟨y, e, m, ?_⟩
  have := congrArg (fun w : State => ({ w with host := e, freeCtr := m } : State)) (updHost_const_const s p x y)
  exact this

theorem HostOnly.of_host (p : Part) (s : State) (d : HostDev) : HostOnly p s { s with host := d } := by
  obtain ⟨x, e, n, h⟩ := HostOnly.refl p s
  refine ⟨x, d, s.freeCtr, ?_⟩
  have := congrArg (fun w : State => ({ w with host := d, freeCtr := s.freeCtr } : State)) h
  exact this

theorem HostOnly.of_tick (p : Part) (s : State) : HostOnly p s s.tick := by
  obtain ⟨x, e, n, h⟩ := HostOnly.refl p s
  refine ⟨x, s.host, s.freeCtr + 1, ?_⟩
  have := congrArg (fun w : State => ({ w with host := s.host, freeCtr := s.freeCtr + 1 } : State)) h
  exact this

section frame
variable {p : Part} {s t : State}

theorem HostOnly.pending (h : HostOnly p s t) : t.pending = s.pending := by obtain ⟨x, d, n, rfl⟩ := h; rfl
theorem HostOnly.cad (h : HostOnly p s t) : t.cad = s.cad := by obtain ⟨x, d, n, rfl⟩ := h; rfl
theorem HostOnly.array (h : HostOnly p s t) : t.array = s.array := by obtain ⟨x, d, n, rfl⟩ := h; rfl
theorem HostOnly.contribs (h : HostOnly p s t) : t.contribs = s.contribs := by obtain ⟨x, d, n, rfl⟩ := h; rfl
theorem HostOnly.flash (h : HostOnly p s t) : t.flash = s.flash := by obtain ⟨x, d, n, rfl⟩ := h; rfl
theorem HostOnly.mem (h : HostOnly p s t) : t.mem = s.mem := by obtain ⟨x, d, n, rfl⟩ := h; rfl
theorem HostOnly.images (h : HostOnly p s t) : t.images = s.images := by obtain ⟨x, d, n, rfl⟩ := h; rfl
theorem HostOnly.slots (h : HostOnly p s t) : t.slots = s.slots := by obtain ⟨x, d, n, rfl⟩ := h; rfl
theorem HostOnly.stitches (h : HostOnly p s t) : t.stitches = s.stitches := by obtain ⟨x, d, n, rfl⟩ := h; rfl
theorem HostOnly.arbs (h : HostOnly p s t) : t.arbs = s.arbs := by obtain ⟨x, d, n, rfl⟩ := h; rfl
theorem HostOnly.acl (h : HostOnly p s t) : t.acl = s.acl := by obtain ⟨x, d, n, rfl⟩ := h; rfl
theorem HostOnly.vesin (h : HostOnly p s t) : t.vesin = s.vesin := by obtain ⟨x, d, n, rfl⟩ := h; rfl
theorem HostOnly.pkg (h : HostOnly p s t) : t.pkg = s.pkg := by obtain ⟨x, d, n, rfl⟩ := h; rfl
theorem HostOnly.power (h : HostOnly p s t) : t.power = s.power := by obtain ⟨x, d, n, rfl⟩ := h; rfl

/-- Of partition `p`, all but the host interface stays. -/
theorem HostOnly.part (h : HostOnly p s t) : t.part p = { s.part p with host := (t.part p).host } := by
  obtain ⟨x, d, n, rfl⟩ := h
  have e := State.updHost_part s p (fun _ => x)
  show (s.updHost p fun _ => x).part p = { s.part p with host := ((s.updHost p fun _ => x).part p).host }
  rw [e]

/-- The other partitions stay. -/
theorem HostOnly.part_of_ne (h : HostOnly p s t) {q : Part} (hq : q ≠ p) : t.part q = s.part q := by
  obtain ⟨x, d, n, rfl⟩ := h
  exact State.updHost_part_of_ne s p hq fun _ => x

end frame

/-! ## The operations that stay within it -/

theorem raiseIrq_only (p : Part) (v : Fin 4) (s : State) : HostOnly p s (raiseIrq p v s) := by
  simp only [raiseIrq]
  split
  · exact (HostOnly.of_updHost p s _).trans (HostOnly.of_host p _ _)
  · exact HostOnly.of_updHost p s _

theorem journal_only (p : Part) (kind status opcode tag : B16) (seq : B32) (detail : BitVec 224) (s : State) :
    HostOnly p s (journal p kind status opcode tag seq detail s) := by
  simp only [journal]
  split
  · exact (HostOnly.of_updHost p s _).trans (HostOnly.of_tick p _)
  · exact ((HostOnly.of_updHost p s _).trans (HostOnly.of_tick p _)).trans (raiseIrq_only p 2 _)

theorem note_only (p : Part) (kind status : B16) (detail : BitVec 224) (s : State) :
    HostOnly p s (note p kind status detail s) := journal_only ..

theorem hostWrite_only (p fn : Part) (addr : B64) (bytes : List Byte) (s : State) :
    HostOnly p s (hostWrite fn addr bytes s) := HostOnly.of_host p s _

theorem writeReply_only (p : Part) (r : Reply) (s : State) : HostOnly p s (writeReply p r s) :=
  ((hostWrite_only p p _ _ s).trans (HostOnly.of_updHost p _ _)).trans (raiseIrq_only p 0 _)

theorem flushHeld_only (p : Part) (l : List Reply) (s : State) : HostOnly p s (flushHeld p l s) := by
  induction l generalizing s with
  | nil => exact HostOnly.of_updHost p s _
  | cons r l ih =>
    simp only [flushHeld]
    split
    · exact (writeReply_only p r s).trans (ih _)
    · exact HostOnly.of_updHost p s _

theorem postReply_only (p : Part) (r : Reply) (s : State) : HostOnly p s (postReply p r s) := by
  unfold postReply
  split
  · exact HostOnly.refl p s
  · split
    · exact writeReply_only p r s
    · exact HostOnly.of_updHost p s _

theorem dropPacket_only (p : Part) (s : State) : HostOnly p s (dropPacket p s) := HostOnly.of_updHost p s _

theorem finishShort_only (h : CmdHdr) (opcode status : B16) (result : B128) (s : State) :
    HostOnly h.fn s (finishShort h opcode status result s) := by
  simp only [finishShort]
  split
  · exact journal_only ..
  · exact (journal_only ..).trans (postReply_only ..)

theorem startLong_only (h : CmdHdr) (opcode : B16) (params : List Byte) (w : LongWork) (s : State) :
    HostOnly h.fn s (startLong h opcode params w s) := by
  simp only [startLong]
  split
  · exact (journal_only ..).trans (HostOnly.of_updHost h.fn _ _)
  · exact ((journal_only ..).trans (HostOnly.of_updHost h.fn _ _)).trans (postReply_only ..)

theorem finishLong_only (p : Part) (i : Nat) (status : B16) (result : B128) (s : State) :
    HostOnly p s (finishLong p i status result s) := by
  unfold finishLong
  split
  · exact HostOnly.refl p s
  · simp only
    split
    · exact (journal_only ..).trans (HostOnly.of_updHost p _ _)
    · exact ((journal_only ..).trans (HostOnly.of_updHost p _ _)).trans (postReply_only ..)

/-! ## Host commands -/

/-- A host command of an OPEN partition, or one at hand from the accepted commands, that may start and passes the checks of
R631 has its own effect, and its outcome follows. -/
theorem hostCmd_run {info : CmdInfo} {i : Instr} {h : CmdHdr} {params : List Byte} {act : State → CmdOut × State}
    {s : State} (ho : (s.part h.fn).host.pstate = .opened ∨ (s.part h.fn).host.starting = true)
    (hs : canStart (s.part h.fn).host info.long (cmdFence h) = true) (hc : cmdChecks info h false s = none) :
    hostCmd info i h params false act s =
      finishCmd info h params (act (s.updHost h.fn fun x => { x with starting := false })) := by
  have hc' : cmdChecks info h false (s.updHost h.fn fun x => { x with starting := false }) = none := hc
  unfold hostCmd
  rcases ho with ho | ho <;> simp [ho, hs, hc']

/-- A host command that its partition cannot take is discarded (R611). -/
theorem hostCmd_drop {info : CmdInfo} {i : Instr} {h : CmdHdr} {params : List Byte} {bad : Bool}
    {act : State → CmdOut × State} {s : State} (ho : (s.part h.fn).host.pstate ≠ .opened)
    (hs : (s.part h.fn).host.starting = false) : hostCmd info i h params bad act s = dropPacket h.fn s := by
  simp [hostCmd, ho, hs]

/-! ## What a starting command has not changed -/

@[simp] theorem begun_cad (h : CmdHdr) (s : State) (q : Part) : ((begun h s).part q).cad = (s.part q).cad := by
  by_cases e : q = h.fn
  · subst e; simp [begun]
  · simp [begun, State.updHost_part_of_ne _ _ e]

@[simp] theorem begun_bench (h : CmdHdr) (s : State) (q : Part) : ((begun h s).part q).bench = (s.part q).bench := by
  by_cases e : q = h.fn
  · subst e; simp [begun]
  · simp [begun, State.updHost_part_of_ne _ _ e]

@[simp] theorem begun_veto (h : CmdHdr) (s : State) (q : Part) : ((begun h s).part q).veto = (s.part q).veto := by
  by_cases e : q = h.fn
  · subst e; simp [begun]
  · simp [begun, State.updHost_part_of_ne _ _ e]

@[simp] theorem begun_pln (h : CmdHdr) (s : State) (q : Part) : ((begun h s).part q).pln = (s.part q).pln := by
  by_cases e : q = h.fn
  · subst e; simp [begun]
  · simp [begun, State.updHost_part_of_ne _ _ e]

@[simp] theorem begun_tier (h : CmdHdr) (s : State) (q : Part) : ((begun h s).part q).tier = (s.part q).tier := by
  by_cases e : q = h.fn
  · subst e; simp [begun]
  · simp [begun, State.updHost_part_of_ne _ _ e]

@[simp] theorem begun_stc (h : CmdHdr) (s : State) (q : Part) : ((begun h s).part q).stc = (s.part q).stc := by
  by_cases e : q = h.fn
  · subst e; simp [begun]
  · simp [begun, State.updHost_part_of_ne _ _ e]

@[simp] theorem begun_acl (h : CmdHdr) (s : State) (q : Part) : ((begun h s).part q).acl = (s.part q).acl := by
  by_cases e : q = h.fn
  · subst e; simp [begun]
  · simp [begun, State.updHost_part_of_ne _ _ e]

@[simp] theorem begun_res (h : CmdHdr) (s : State) (q : Part) : ((begun h s).part q).res = (s.part q).res := by
  by_cases e : q = h.fn
  · subst e; simp [begun]
  · simp [begun, State.updHost_part_of_ne _ _ e]

@[simp] theorem begun_obj (h : CmdHdr) (s : State) (q : Part) (n : Nat) : (begun h s).obj? q n = s.obj? q n := by
  simp [State.obj?]

@[simp] theorem begun_stream (h : CmdHdr) (s : State) (q : Part) (st : Strm) : (begun h s).stream q st = s.stream q st := by
  simp [State.stream]

@[simp] theorem begun_s_mem (h : CmdHdr) (s : State) : (begun h s).mem = s.mem := rfl
@[simp] theorem begun_s_flash (h : CmdHdr) (s : State) : (begun h s).flash = s.flash := rfl
@[simp] theorem begun_s_images (h : CmdHdr) (s : State) : (begun h s).images = s.images := rfl
@[simp] theorem begun_s_stitches (h : CmdHdr) (s : State) : (begun h s).stitches = s.stitches := rfl
@[simp] theorem begun_s_slots (h : CmdHdr) (s : State) : (begun h s).slots = s.slots := rfl
@[simp] theorem begun_s_acl (h : CmdHdr) (s : State) : (begun h s).acl = s.acl := rfl
@[simp] theorem begun_s_arbs (h : CmdHdr) (s : State) : (begun h s).arbs = s.arbs := rfl
@[simp] theorem begun_s_array (h : CmdHdr) (s : State) : (begun h s).array = s.array := rfl
@[simp] theorem begun_s_vesin (h : CmdHdr) (s : State) : (begun h s).vesin = s.vesin := rfl
@[simp] theorem begun_s_pkg (h : CmdHdr) (s : State) : (begun h s).pkg = s.pkg := rfl
@[simp] theorem begun_s_power (h : CmdHdr) (s : State) : (begun h s).power = s.power := rfl
@[simp] theorem begun_s_host (h : CmdHdr) (s : State) : (begun h s).host = s.host := rfl
@[simp] theorem begun_s_contribs (h : CmdHdr) (s : State) : (begun h s).contribs = s.contribs := rfl
@[simp] theorem begun_s_freeCtr (h : CmdHdr) (s : State) : (begun h s).freeCtr = s.freeCtr := rfl
@[simp] theorem begun_s_pending (h : CmdHdr) (s : State) : (begun h s).pending = s.pending := rfl
@[simp] theorem begun_s_cad (h : CmdHdr) (s : State) : (begun h s).cad = s.cad := rfl
@[simp] theorem begun_s_serial (h : CmdHdr) (s : State) : (begun h s).serial = s.serial := rfl
@[simp] theorem begun_s_isMG (h : CmdHdr) (s : State) : (begun h s).isMG = s.isMG := rfl

end Sys2Proof.Machine
end

