-- ==== Sys2Proof/Laws/Tier.lean ====
section
/-!
SUPPORT. What the translation layer, reads and writes leave as it was: the memory, the maps, and the writes that wait (R374,
R393).
-/
namespace Sys2Proof.Machine

/-! ## The translation layer changes the flash's own books alone -/

/-- Everything but what the translation layer keeps for itself. -/
structure Steady (s t : State) : Prop where
  parts   : t.parts = s.parts
  mem     : t.mem = s.mem
  moves   : t.flash.moves = s.flash.moves
  overlay : t.flash.overlay = s.flash.overlay
  waits   : t.flash.overlayWait = s.flash.overlayWait
  held    : t.flash.heldWrites = s.flash.heldWrites

theorem Steady.refl (s : State) : Steady s s := ⟨rfl, rfl, rfl, rfl, rfl, rfl⟩

theorem Steady.trans {s t u : State} (h : Steady s t) (k : Steady t u) : Steady s u :=
  ⟨k.parts.trans h.parts, k.mem.trans h.mem, k.moves.trans h.moves, k.overlay.trans h.overlay, k.waits.trans h.waits,
    k.held.trans h.held⟩

theorem Steady.foldl {α : Type} {f : State → α → State} (h : ∀ s a, Steady s (f s a)) (l : List α) (s : State) :
    Steady s (l.foldl f s) := by
  induction l generalizing s with
  | nil => exact .refl s
  | cons a l ih => exact (h s a).trans (ih _)

theorem updRegion_steady (i : Nat) (f : Region → Region) (s : State) : Steady s (updRegion i f s) :=
  ⟨rfl, rfl, rfl, rfl, rfl, rfl⟩

theorem beginUnit_steady (r u : Nat) (s : State) : Steady s (beginUnit r u s) := by
  unfold beginUnit wearBlocks updRegion updFlash
  by_cases h : (Map.find? s.flash.units u).isSome = true <;> simp only [h, if_true, if_false, Bool.false_eq_true] <;>
    exact ⟨rfl, rfl, rfl, rfl, rfl, rfl⟩

theorem programSheet_steady (r n : Nat) (s : State) : Steady s (programSheet r n s) := by
  have k (u : Nat) : Steady s (if (s.region r).fill = some u then s else beginUnit r u s) := by
    split
    · exact .refl s
    · exact beginUnit_steady _ _ s
  exact ⟨(k _).parts, (k _).mem, (k _).moves, (k _).overlay, (k _).waits, (k _).held⟩

theorem moveUnit_steady (r u : Nat) (s : State) : Steady s (moveUnit r u s) := by
  unfold moveUnit
  refine Steady.trans ?_ (Steady.foldl (fun s n => programSheet_steady r n s) _ _)
  split
  · exact updRegion_steady _ _ s
  · exact .refl s

theorem levelRegion_steady (r : Nat) (s : State) : Steady s (levelRegion r s) := by
  unfold levelRegion
  dsimp only
  split
  · exact .refl s
  · split
    · exact moveUnit_steady _ _ s
    · exact .refl s

/-- A sheet written to a managed frame changes neither memory nor maps, and nothing comes to wait. -/
theorem writeManaged_steady (r f : Nat) (s : State) : Steady s (writeManaged r f s) := by
  unfold writeManaged
  dsimp only
  split
  · exact programSheet_steady _ _ s
  · exact (programSheet_steady _ _ s).trans (levelRegion_steady _ _)

/-! ## Reads -/

/-- What a read brings about changes no byte, and nothing comes to wait. -/
structure Unmoved (s t : State) : Prop where
  mem     : t.mem = s.mem
  overlay : t.flash.overlay = s.flash.overlay
  waits   : t.flash.overlayWait = s.flash.overlayWait
  held    : t.flash.heldWrites = s.flash.heldWrites

theorem Unmoved.refl (s : State) : Unmoved s s := ⟨rfl, rfl, rfl, rfl⟩

theorem Unmoved.trans {s t u : State} (h : Unmoved s t) (k : Unmoved t u) : Unmoved s u :=
  ⟨k.mem.trans h.mem, k.overlay.trans h.overlay, k.waits.trans h.waits, k.held.trans h.held⟩

theorem Unmoved.heldBack {s t : State} (h : Unmoved s t) : heldBack s t = false := by
  simp [Machine.heldBack, h.waits, h.held]

theorem Unmoved.settle {s t : State} (h : Unmoved s t) (p : Part) : settle p s t = t := by
  simp [Machine.settle, h.heldBack]

theorem dueFold_unmoved (s : State) : Unmoved s (dueFold s) := by
  unfold dueFold
  split
  · exact .refl s
  · exact ⟨rfl, rfl, rfl, rfl⟩
  · split <;> exact ⟨rfl, rfl, rfl, rfl⟩

theorem askFold_unmoved (k : Nat) (r : Bool) (s : State) : Unmoved s (askFold k r s) := by
  unfold askFold
  split
  · exact .refl s
  · exact ⟨(dueFold_unmoved _).mem, (dueFold_unmoved _).overlay, (dueFold_unmoved _).waits, (dueFold_unmoved _).held⟩

theorem readManaged_unmoved (n : Nat) (s : State) : Unmoved s (updFlash (readManaged n) s) := by
  unfold updFlash readManaged askRewrite
  dsimp only
  split
  · exact .refl s
  · split
    · split <;> exact ⟨rfl, rfl, rfl, rfl⟩
    · exact ⟨rfl, rfl, rfl, rfl⟩

theorem countRead_unmoved (x : Sheet) (s : State) : Unmoved s (countRead x s) := by
  unfold countRead
  dsimp only
  split
  · exact readManaged_unmoved _ s
  · split
    · exact .refl s
    · split
      · exact ⟨(askFold_unmoved _ _ _).mem, (askFold_unmoved _ _ _).overlay, (askFold_unmoved _ _ _).waits,
          (askFold_unmoved _ _ _).held⟩
      · exact ⟨rfl, rfl, rfl, rfl⟩
  · exact .refl s

theorem touchSheet_unmoved (p : Part) (s : State) (n : Nat) : Unmoved s (touchSheet p s n) := by
  have k : Unmoved s (noteLookup p s) := ⟨rfl, rfl, rfl, rfl⟩
  unfold touchSheet
  dsimp only
  split
  · exact k
  · split
    · exact k
    · split
      · exact k
      · have c (x : Sheet) := k.trans (countRead_unmoved x _)
        split
        · split <;> exact ⟨(c _).mem, (c _).overlay, (c _).waits, (c _).held⟩
        · exact c _

/-- What a read brings about changes no byte, and nothing comes to wait. -/
theorem touchRead_unmoved (p : Part) (a n : Nat) (s : State) : Unmoved s (touchRead p a n s) := by
  unfold touchRead
  induction sheetsFrom a n generalizing s with
  | nil => exact .refl s
  | cons k l ih => exact (touchSheet_unmoved p s k).trans (ih _)

/-! ## Writes -/

/-- No move holds writes, and no sheet of the partition is striped. -/
structure Calm (p : Part) (s : State) : Prop where
  free  : ∀ v ∈ s.flash.moves, v.holding = false
  plain : ∀ e ∈ (s.part p).tier.objects, ∀ y ∈ e.2.map, y.2.tier ≠ .striped

/-- A change that leaves what waits as it is, and a calm partition calm. -/
structure Quiet (p : Part) (s t : State) : Prop where
  waits : t.flash.overlayWait = s.flash.overlayWait
  held  : t.flash.heldWrites = s.flash.heldWrites
  pln   : (t.part p).pln = (s.part p).pln
  calm  : Calm p s → Calm p t

theorem updTier_pln (s : State) (p q : Part) (f : TierRegs → TierRegs) : ((s.updTier q f).part p).pln = (s.part p).pln := by
  by_cases h : p = q
  · subst h
    simp only [State.updTier, State.upd_part]
  · simp only [State.updTier, State.upd_part_of_ne s q h]

theorem updRes_pln (s : State) (p q : Part) (f : Res → Res) : ((s.updRes q f).part p).pln = (s.part p).pln := by
  by_cases h : p = q
  · subst h
    simp only [State.updRes, State.upd_part]
  · simp only [State.updRes, State.upd_part_of_ne s q h]

theorem Quiet.refl (p : Part) (s : State) : Quiet p s s := ⟨rfl, rfl, rfl, id⟩

theorem Quiet.trans {p : Part} {s t u : State} (h : Quiet p s t) (k : Quiet p t u) : Quiet p s u :=
  ⟨k.waits.trans h.waits, k.held.trans h.held, k.pln.trans h.pln, fun c => k.calm (h.calm c)⟩

theorem Quiet.heldBack {p : Part} {s t : State} (h : Quiet p s t) : heldBack s t = false := by
  simp [Machine.heldBack, h.waits, h.held]

theorem Steady.quiet {p : Part} {s t : State} (h : Steady s t) : Quiet p s t := by
  have k : t.part p = s.part p := congrArg (fun x => x.get p) h.parts
  refine ⟨h.waits, h.held, by rw [k], fun c => ⟨by rw [h.moves]; exact c.free, ?_⟩⟩
  rw [k]
  exact c.plain

theorem putMem_quiet (p : Part) (k : Nat) (b : List Byte) (s : State) : Quiet p s (putMem k b s) :=
  ⟨rfl, rfl, rfl, fun c => ⟨c.free, c.plain⟩⟩

theorem tags_quiet (p : Part) (f : Map Nat → Map Nat) (s : State) :
    Quiet p s (updFlash (fun x => { x with tags := f x.tags }) s) := ⟨rfl, rfl, rfl, fun c => ⟨c.free, c.plain⟩⟩

/-- A write to a frame that is not striped makes nothing wait. -/
theorem writeFrame_quiet {p : Part} (q : Part) {n : Nat} {t : Tier} (h : t ≠ .striped) (r off : Nat) (b : List Byte)
    (s : State) (f : Nat) : Quiet q s (writeFrame p n t r off b s f) := by
  unfold writeFrame
  dsimp only
  split
  · exact absurd rfl h
  · exact ((tags_quiet q (fun m => Map.insert m _ _) s).trans (putMem_quiet q _ _ _)).trans
      (writeManaged_steady _ _ _).quiet
  · exact putMem_quiet q _ _ _

theorem Quiet.foldl {α : Type} {p : Part} {f : State → α → State} (l : List α)
    (h : ∀ s a, a ∈ l → Quiet p s (f s a)) (s : State) : Quiet p s (l.foldl f s) := by
  induction l generalizing s with
  | nil => exact .refl p s
  | cons a l ih =>
    exact (h s a List.mem_cons_self).trans (ih (fun s b hb => h s b (List.mem_cons_of_mem a hb)) _)

theorem dirtyMoves_quiet (p q : Part) (h i : Nat) (s : State) : Quiet p s (dirtyMoves q h i s) := by
  refine ⟨rfl, rfl, rfl, fun c => ⟨fun v hv => ?_, c.plain⟩⟩
  obtain ⟨w, hw, rfl⟩ := List.mem_map.mp hv
  split <;> exact c.free w hw

/-- A change of a sheet that keeps its tier keeps a partition calm. -/
theorem updSheet_quiet {f : Sheet → Sheet} (hf : ∀ x, (f x).tier = x.tier) (p q : Part) (h i : Nat) (s : State) :
    Quiet p s (updSheet q h i f s) := by
  refine ⟨rfl, rfl, updTier_pln s p q _, fun c => ⟨c.free, fun e he y hy => ?_⟩⟩
  by_cases hq : p = q
  · subst hq
    simp only [updSheet, updObj, State.updTier, State.upd_part, Map.adjust] at he
    obtain ⟨d, hd, rfl⟩ := List.mem_map.mp he
    split at hy
    · obtain ⟨z, hz, rfl⟩ := List.mem_map.mp hy
      split
      · rw [hf]
        exact c.plain d hd z hz
      · exact c.plain d hd z hz
    · exact c.plain d hd y hy
  · simp only [updSheet, updObj, State.updTier, State.upd_part_of_ne s q hq] at he
    exact c.plain e he y hy

theorem noteLookup_quiet (p q : Part) (s : State) : Quiet p s (noteLookup q s) := by
  refine ⟨rfl, rfl, updTier_pln s p q _, fun c => ⟨c.free, fun e he y hy => ?_⟩⟩
  by_cases hq : p = q
  · subst hq
    simp only [noteLookup, State.updTier, State.upd_part] at he
    exact c.plain e he y hy
  · simp only [noteLookup, State.updTier, State.upd_part_of_ne s q hq] at he
    exact c.plain e he y hy

theorem stageSheet_quiet (p q : Part) (h i : Nat) (x : Sheet) (s : State) : Quiet p s (stageSheet q h i x s) := by
  have k (f : Res → Res) : Quiet p s (s.updRes q f) := by
    refine ⟨rfl, rfl, updRes_pln s p q _, fun c => ⟨c.free, fun e he y hy => ?_⟩⟩
    by_cases hq : p = q
    · subst hq
      simp only [State.updRes, State.upd_part] at he
      exact c.plain e he y hy
    · simp only [State.updRes, State.upd_part_of_ne s q hq] at he
      exact c.plain e he y hy
  unfold stageSheet
  split
  · exact .refl p s
  · split
    · exact k _
    · exact .refl p s

theorem writeSheet_quiet {p : Part} {h i n off : Nat} {x : Sheet} (hx : x.tier ≠ .striped) (b : List Byte) (s : State) :
    Quiet p s (writeSheet p h i n off x b s) := by
  unfold writeSheet
  dsimp only
  have k := Quiet.foldl (p := p) (f := writeFrame p n x.tier x.region off b) x.alive
    (fun s f _ => writeFrame_quiet p hx x.region off b s f) s
  have w : Quiet p s (match x.window with
      | some w => putMem (frameKey .hbm 0 w.1 + off) b (x.alive.foldl (writeFrame p n x.tier x.region off b) s)
      | none => x.alive.foldl (writeFrame p n x.tier x.region off b) s) := by
    split
    · exact k.trans (putMem_quiet p _ _ _)
    · exact k
  refine w.trans (Quiet.trans ?_ (dirtyMoves_quiet p p h i _))
  exact updSheet_quiet (by intro y; rfl) p p h i _

theorem putStake_quiet (p : Part) (k : Nat) (b : List Byte) (s : State) : Quiet p s (putStake k b s) := by
  unfold putStake
  dsimp only
  refine (putMem_quiet p k b s).trans (Quiet.foldl _ (fun s e _ => ?_) _)
  refine Quiet.trans ?_ (dirtyMoves_quiet p e.1 _ _ _)
  exact updSheet_quiet (by intro y; rfl) p e.1 _ _ s

theorem mem_of_find? {α : Type} {m : Map α} {k : Nat} {a : α} (h : Map.find? m k = some a) : ∃ e ∈ m, e.2 = a := by
  induction m with
  | nil => simp [Map.find?] at h
  | cons e m ih =>
    obtain ⟨j, b⟩ := e
    simp only [Map.find?] at h
    split at h
    · exact ⟨(j, b), List.mem_cons_self, by simpa using h⟩
    · obtain ⟨e, he, ha⟩ := ih h
      exact ⟨e, List.mem_cons_of_mem _ he, ha⟩

/-- In a calm partition a write makes nothing wait. -/
theorem writeRun_quiet {p : Part} {s : State} (c : Calm p s) (e : Nat × List Byte) : Quiet p s (writeRun p s e) := by
  unfold writeRun
  dsimp only
  split
  · exact putStake_quiet p _ _ s
  · split
    · exact .refl p s
    · rename_i h o hf
      split
      · exact putMem_quiet p _ _ s
      · split
        · exact .refl p s
        · rename_i x hx
          have hm : (h, o) ∈ (s.part p).tier.objects := List.mem_of_find?_eq_some hf
          obtain ⟨y, hy, rfl⟩ := mem_of_find? hx
          split
          · exact .refl p s
          · split
            · rename_i hh
              obtain ⟨v, hv, hb⟩ := List.any_eq_true.mp hh
              simp [c.free v hv] at hb
            · exact ((noteLookup_quiet p p s).trans (stageSheet_quiet p p _ _ _ _)).trans
                (writeSheet_quiet (c.plain _ hm _ hy) _ _)

/-- In a calm partition a write makes nothing wait. -/
theorem writeMem_quiet {p : Part} {s : State} (c : Calm p s) (a : Nat) (b : List Byte) : Quiet p s (writeMem p a b s) := by
  unfold writeMem
  generalize cut b.length a b = l
  induction l generalizing s with
  | nil => exact .refl p s
  | cons e l ih =>
    have k := writeRun_quiet c e
    exact k.trans (ih (k.calm c))

/-! ## Larger writes -/

theorem zeroSheets_quiet {p : Part} (base n : Nat) {s : State} (c : Calm p s) : Quiet p s (zeroSheets p base n s) := by
  induction n generalizing s with
  | zero => exact .refl p s
  | succ n ih =>
    unfold zeroSheets
    have k := writeMem_quiet c (base + n * sheetBytes)
    exact (k _).trans (ih ((k _).calm c))

/-- A change of an object that keeps its map keeps a partition calm. -/
theorem updObj_quiet {f : Obj → Obj} (hf : ∀ x, (f x).map = x.map) (p : Part) (h : Nat) (s : State) :
    Quiet p s (updObj p h f s) := by
  refine ⟨rfl, rfl, updTier_pln s p p _, fun c => ⟨c.free, fun e he y hy => ?_⟩⟩
  simp only [updObj, State.updTier, State.upd_part, Map.adjust] at he
  obtain ⟨d, hd, rfl⟩ := List.mem_map.mp he
  split at hy
  · rw [hf] at hy
    exact c.plain d hd y hy
  · exact c.plain d hd y hy

/-- Writes one after the other keep a calm partition calm. -/
theorem Quiet.foldl_calm {α : Type} {p : Part} {f : State → α → State} (h : ∀ s a, Calm p s → Quiet p s (f s a))
    (l : List α) {s : State} (c : Calm p s) : Quiet p s (l.foldl f s) := by
  induction l generalizing s with
  | nil => exact .refl p s
  | cons a l ih => exact (h s a c).trans (ih ((h s a c).calm c))

/-- The header of a buffer after its reset (R266). -/
theorem resetBuf_eq (p : Part) (o : Obj) (step expect : Nat) (s : State) : ∃ b : List Byte, resetBuf p o step expect s =
    match findObj ((writeMem p o.base b (zeroSheets p o.base o.sheets s)).part p).tier o.base with
    | some (h, _) => updObj p h (fun o => { o with broken := o.headBad }) (writeMem p o.base b (zeroSheets p o.base o.sheets s))
    | none => writeMem p o.base b (zeroSheets p o.base o.sheets s) := ⟨_, rfl⟩

/-- In a calm partition a buffer reset makes nothing wait. -/
theorem resetBuf_quiet {p : Part} (o : Obj) (step expect : Nat) {s : State} (c : Calm p s) :
    Quiet p s (resetBuf p o step expect s) := by
  obtain ⟨b, h⟩ := resetBuf_eq p o step expect s
  have z := zeroSheets_quiet o.base o.sheets c
  have w := z.trans (writeMem_quiet (z.calm c) o.base b)
  rw [h]
  split
  · exact w.trans (updObj_quiet (by intro x; rfl) _ _ _)
  · exact w

theorem moveContext_quiet {p : Part} {s : State} (c : Calm p s) : Quiet p s (moveContext p false s) := by
  unfold moveContext
  exact Quiet.foldl_calm (fun _ _ c => Quiet.foldl_calm (fun _ _ c => writeMem_quiet c _ _) _ c) _ c

theorem copyContext_eq {p : Part} {s : State} (h : s.array.copyOut = some p) : copyContext p false s =
    (fun u : State => { u with array := { u.array with copyOut := none } }) (moveContext p false s) := by
  unfold copyContext
  exact (if_neg (by decide)).trans (if_pos h)

theorem copyOut_quiet {p : Part} {s u : State} (k : Quiet p s u) :
    Quiet p s ((fun u : State => { u with array := { u.array with copyOut := none } }) u) :=
  ⟨k.waits, k.held, k.pln, fun c => ⟨(k.calm c).free, (k.calm c).plain⟩⟩

/-- In a calm partition the outbound copy of a context makes nothing wait. -/
theorem copyContext_quiet {p : Part} {s : State} (c : Calm p s) (h : s.array.copyOut = some p) :
    Quiet p s (copyContext p false s) := by
  rw [copyContext_eq h]
  exact copyOut_quiet (moveContext_quiet c)

end Sys2Proof.Machine
end

