-- ==== Sys2Proof/WellFormed.lean ====
section
/-!
DEFINITION. Which commands are well formed: the byte strings and lists an operand carries have the sizes their fields
have. A meaning is total on every command; what it does with one that is not well formed stands for no command.
-/
namespace Sys2Proof

/-- Sizes a register access may have (R15). -/
def accessSize (n : Nat) : Bool := n == 1 || n == 2 || n == 4 || n == 8

/-- A sheet is 65,536 bytes (R12). -/
def sheetSize (l : List Byte) : Bool := l.length == 65536

/-- The sizes of the operands that are strings or lists. -/
def Instr.wellFormed : Instr → Bool
  | .seedSet _ _ count seeds => seeds.length == count.toNat
  | .groupSet _ _ _ masks => masks.length == 40
  | .mapSet _ _ count masks => masks.length == count.toNat
  | .hostDma _ dir _ _ bytes data => dir != 1 || data.length == bytes.toNat
  | .commandSeal _ _ packet _ => packet.length == 64 * (packet.getD 31 0).toNat && packet.length != 0
  | .arbMap _ _ _ size _ => accessSize size
  | .registerWrite _ _ size _ => accessSize size
  | .registerReadClear _ _ size => accessSize size
  | .bar2Read _ _ bytes _ => 0 < bytes && bytes ≤ 4096
  | .bar2Write _ _ data _ => 0 < data.length && data.length ≤ 4096
  | .send _ _ sheet => sheetSize sheet
  | .add _ _ _ _ _ sheet => sheetSize sheet
  | .fillMirror _ _ _ _ data _ => sheetSize data
  | .fillSheet _ _ _ data _ => sheetSize data
  | .fillRepair _ _ _ data _ => sheetSize data
  | .stakeSensorSample _ readings => readings.length == 16
  | .flit _ words _ => words.all fun w => (w.map List.length).sum == 544 && w.flatten.all fun x => decide (x < 1024)
  | .getCertificate _ _ _ => true
  | _ => true

end Sys2Proof
end

