-- ==== Sys2Proof/Tests/Slice0.lean ====
section
/-!
SUPPORT. Tests: ill-formed commands that the check refuses, words spelled from the tables of operations, and for the
statements small states and operands that meet their hypotheses together. Words are written out field by field from the
rules named; no expected value comes from the model. The hypotheses that a signature or an image of manufacture decides
have no witness here: they rest on constants without a body.
-/
namespace Sys2Proof.Tests

open Machine

set_option maxRecDepth 20000
set_option Elab.async false

/-! ## Ill-formed commands -/

/-- A message header to position 0 from position 1 on port 0. -/
def msg : MsgHdr := { port := 0, src := 1, dst := 0, seq := 1 }

/-- The header of a command at partition 0. -/
def h0 : CmdHdr := { fn := 0 }

/-- The header of a command at partition 1. -/
def h1 : CmdHdr := { fn := 1, partition := 1 }

theorem test_seedSet_ill : (Instr.seedSet h0 0 2 [1]).wellFormed = false := by decide
theorem test_groupSet_ill : (Instr.groupSet h0 7 0 [1, 2]).wellFormed = false := by decide
theorem test_mapSet_ill : (Instr.mapSet h0 0 3 [1, 2]).wellFormed = false := by decide
theorem test_hostDma_ill : (Instr.hostDma h0 1 0 0 4 [1, 2]).wellFormed = false := by decide
theorem test_commandSeal_ill : (Instr.commandSeal 0 0 [] []).wellFormed = false := by decide
theorem test_arbMap_ill : (Instr.arbMap 0 0 false 3 0).wellFormed = false := by decide
theorem test_registerWrite_ill : (Instr.registerWrite 0 0 5 0).wellFormed = false := by decide
theorem test_registerReadClear_ill : (Instr.registerReadClear 0 0 16).wellFormed = false := by decide
theorem test_bar2Read_ill : (Instr.bar2Read 0 0 0 .good).wellFormed = false := by decide
theorem test_bar2Write_ill : (Instr.bar2Write 0 0 [] false).wellFormed = false := by decide
theorem test_send_ill : (Instr.send msg 0 [1]).wellFormed = false := by decide
theorem test_add_ill : (Instr.add msg 0 1 0 false [1]).wellFormed = false := by decide
theorem test_fillMirror_ill : (Instr.fillMirror msg 0 0 0 [1] 0).wellFormed = false := by decide
theorem test_fillSheet_ill : (Instr.fillSheet msg 0 0 [1] 0).wellFormed = false := by decide
theorem test_fillRepair_ill : (Instr.fillRepair msg 0 0 [1] 0).wellFormed = false := by decide
theorem test_stakeSensorSample_ill : (Instr.stakeSensorSample 0 [1, 2]).wellFormed = false := by decide
theorem test_flit_ill : (Instr.flit 0 [[[1]]] 0).wellFormed = false := by decide

/-- A command without list operands is well formed whatever its fields hold. -/
theorem test_ping_wellFormed : (Instr.ping h0 5).wellFormed = true := by decide

/-! ## Words written out from the tables of operations (R201, R208, R227, R233, R235, R238, R243, R244) -/

/-- JUMP: opcode 0x02, PRIO 1, OUT_TAG 5, IN tags 1, 2, 3, COUNT in [93:80], RSVD [79:56] zero, target in [55:0]. -/
theorem test_word_jump :
    benchOf 1 2 (0x02#8 ++ 1#2 ++ 5#6 ++ 1#6 ++ 2#6 ++ 3#6 ++ 7#14 ++ 0#24 ++ 0x1230#56 : BitVec 128).toNat =
      some (.jump { p := 1, st := 2, prio := 1, outTag := 5, in0 := 1, in1 := 2, in2 := 3 } 7 0x1230) := by decide

/-- COPY_ADD: opcode 0x22, SRC in [93:54], DST in [53:14], POS in [13:8], COUNT_M1 in [7:0]. -/
theorem test_word_copyAdd :
    benchOf 0 0 (0x22#8 ++ 3#2 ++ 63#6 ++ 0#6 ++ 0#6 ++ 9#6 ++ 0x11#40 ++ 0x22#40 ++ 63#6 ++ 4#8 : BitVec 128).toNat =
      some (.copyAdd { p := 0, st := 0, prio := 3, outTag := 63, in2 := 9 } 0x11 0x22 63 4) := by decide

/-- ST_UNLOCK: opcode 0x33, POS in [93:88], STITCH in [87:72], EPOCH in [71:64], RSVD, ARG in [55:0]. -/
theorem test_word_stUnlock :
    benchOf 0 3 (0x33#8 ++ 0#2 ++ 0#6 ++ 0#6 ++ 0#6 ++ 0#6 ++ 63#6 ++ 0x102#16 ++ 0x77#8 ++ 0#8 ++ 0#56 : BitVec 128).toNat =
      some (.stUnlock { p := 0, st := 3 } 63 0x102 0x77 0) := by decide

/-- CAD_MARK: opcode 0x40, the position in [63:0]; a bit of [93:64] that is not zero is a reserved one. -/
theorem test_word_cadMark :
    benchOf 0 0 (0x40#8 ++ 0#24 ++ 0#2 ++ 1#30 ++ 0x300#64 : BitVec 128).toNat =
      some (.cadMark { p := 0, st := 0, rsvd := true } 0x300) := by decide

/-- VRUN: opcode 0x18, FIRST, LAST, ENTRY in [77:67], SEED in [66:61], RSVD, LAUNCH in [55:0]. -/
theorem test_word_vrun :
    benchOf 0 0 (0x18#8 ++ 0#2 ++ 1#6 ++ 0#18 ++ 4#8 ++ 9#8 ++ 2047#11 ++ 33#6 ++ 0#5 ++ 0x40#56 : BitVec 128).toNat =
      some (.vrun { p := 0, st := 0, outTag := 1 } 4 9 2047 33 0x40) := by decide

/-- Opcode 0x7F is not in the table (R203). -/
theorem test_word_reserved : benchOf 0 0 (0x7F#8 ++ 0#120 : BitVec 128).toNat = none := by decide

/-- FFMA: opcode 0x13, D, S1, S2, S3, RND, RSVD. -/
theorem test_plate_ffma :
    plateOf 0 7 (0x13#8 ++ 1#5 ++ 2#5 ++ 3#5 ++ 4#5 ++ 1#2 ++ 0#34 : BitVec 64).toNat =
      some (.ffma { p := 0, plate := 7 } 1 2 3 4 1) := by decide

/-- STBIT: opcode 0x0C, V register, P register, FMT, RND, RSVD, OFFSET. -/
theorem test_plate_stbit :
    plateOf 2 0 (0x0C#8 ++ 31#5 ++ 6#3 ++ 2#5 ++ 0#2 ++ 0#17 ++ 0x5A#24 : BitVec 64).toNat =
      some (.stbit { p := 2, plate := 0 } 31 6 2 0 0x5A) := by decide

/-- LOOPC: opcode 0x02, target C register, RSVD, IMM. -/
theorem test_plate_loopc :
    plateOf 0 0 (0x02#8 ++ 3#5 ++ 0#19 ++ 0xFFFF_FFFE#32 : BitVec 64).toNat =
      some (.loopc { p := 0, plate := 0 } 3 0xFFFF_FFFE) := by decide

/-- Opcode 0x07 is not in the table (R245). -/
theorem test_plate_reserved : plateOf 0 0 (0x07#8 ++ 0#56 : BitVec 64).toNat = none := by decide

/-! ## Small results checked against the manual -/

/-- The bytes of an unlisted command are read as zero, and stored bytes are read back (R357). -/
theorem test_memory : getMem (putMem 10 [1, 0, 3] State.reset) 9 5 = [0, 1, 0, 3, 0] := by decide

/-- The command in front leaves the queue, and the one behind it stays (R195 gives an IDLE stream's head no effect). -/
theorem test_step_takes_front :
    step { State.reset with pending := [.nop { p := 0, st := 0 }, .endOp { p := 0, st := 1 }] } =
      .next { State.reset with pending := [.endOp { p := 0, st := 1 }] } := rfl

/-! ## States for the statements' hypotheses -/

/-- A module that has started (R727). -/
def ready : State :=
  { State.reset with power := { State.reset.power with stage := .ready, pwrEn := true, pwrGood := true } }

/-- With partitions 0 and 1 OPEN, each with a reply ring of 64 places. -/
def t0 : State :=
  (ready.updHost 0 fun x => { x with pstate := .opened, ringBase := 0x1000, ringLog2 := 6 }).updHost 1 fun x =>
    { x with pstate := .opened, ringBase := 0x2000, ringLog2 := 6 }

/-- A quiet header. -/
def hq : CmdHdr := { fn := 0, flags := 2 }

/-- A long command in progress. -/
def long0 : LongCmd := { seq := 1, tag := 2, opcode := 0x0201, ajseq := 1, quiet := true, work := .report 0 0 }

/-- Policies: HBM alone, bulk alone (R353). -/
def polHbm : B128 := 0x2000_0000_0000_0000_0000_0000_0000_0000
/-- Bulk alone. -/
def polBulk : B128 := 0x3000_0000_0000_0000_0000_0000_0000_0000

/-- Partition 0 has an object of two sheets under handle 1 at 0x10_0000, in HBM. -/
def o1 : Obj := { kind := .plain, base := 0x100000, sheets := 2, policy := polHbm
                  map := [(0, { tier := .hbm, frames := [1], unwritten := false }), (1, { tier := .hbm, frames := [2], unwritten := false })] }

/-- The state with this object. -/
def t1 : State := t0.updTier 0 fun t => { t with quotaHbm := 8, quotaBulk := 8, objects := [(1, o1)], nextHandle := 2 }

/-- The state with another long command in progress. -/
def tLong : State := t0.updHost 0 fun x => { x with longs := [(0, long0)] }

/-! ## The step, reset, and the host interface -/

theorem wit_StepRunsFrontCommand :
    { t0 with pending := [.pcieLinkUp 0 true 16] }.pending = .pcieLinkUp 0 true 16 :: [] := by decide

theorem wit_CommandCheckOrder_unlisted :
    let u := t0.updHost 0 fun x => { x with starting := true }
    (u.part 0).host.starting = true ∧
      canStart (u.part 0).host false (cmdFence ((Packet.of 0 (List.replicate 64 0)).hdr 0 [])) = true := by decide

theorem wit_CommandCheckOrder_fails :
    (t0.part 0).host.pstate = .opened ∧ canStart (t0.part 0).host false (cmdFence h0) = true ∧
      cmdChecks { opcode := 0x0100 } { h0 with partition := 1 } false t0 = some 0x0030 := by decide

theorem wit_CommandCheckOrder_kinds :
    let m : State := { t0 with power := { t0.power with stage := .minimal } }
    (m.minimal = true ∧ ({ opcode := 0x0200 } : CmdInfo).minimal = false) ∧
      ¬(t0.minimal = true ∧ ({ opcode := 0x0200 } : CmdInfo).minimal = false) ∧
      issuerOk t0 .p0 1 = false ∧ issuerOk t0 .p0 0 = true ∧ h0.rsvd = false ∧ h0.flags.toNat < 4 := by decide

theorem wit_QuietCommandsWriteNoReply :
    (hq.flags.getLsbD 1 = true) ∧ ¬(h0.flags.getLsbD 1 = true ∧ (0 : B16) = 0) ∧ (t0.part 0).host.ringLog2 ≠ 0 ∧
      (t0.part 0).host.held = [] ∧ (t0.part 0).host.pstate = .opened ∧
      ((t0.part 0).host.replyTail - (t0.part 0).host.replyHead).toNat < 2 ^ (t0.part 0).host.ringLog2.toNat ∧
      Map.find? (tLong.part 0).host.longs 0 = some long0 ∧ long0.quiet = true := by decide

theorem wit_ReplyPlaceAndPhase :
    (ready.part 0).host.pstate = .closed ∧ (ready.part 0).host.starting = false ∧ (ready.minimal = true → h0.fn = 0) ∧
      h0.partition.toNat = h0.fn.val ∧ ((0x20 : B64).toNat % 64 ≠ 0) ∧ ((5 : Byte).toNat < 6) ∧ (16 < (17 : Byte).toNat) ∧
      (0x40 : B64).toNat % 64 = 0 ∧ 6 ≤ (6 : Byte).toNat ∧ (16 : Byte).toNat ≤ 16 ∧ h0.rsvd = false ∧
      h0.flags.toNat < 4 := by decide

/-- A partition that was attached at sequence number 9. -/
def detachedAt9 : State := ready.updHost 0 fun x => { x with pstate := .detached, ringBase := 0x1000, ringLog2 := 6, seqNext := 9 }

theorem wit_ReplyPlaceAndPhase_attach :
    (detachedAt9.part 0).host.pstate = .detached ∧ ({ h0 with seq := 9 } : CmdHdr).seq = (detachedAt9.part 0).host.seqNext ∧
      (detachedAt9.part 0).host.starting = false ∧ (detachedAt9.part 0).host.held = [] ∧
      (match exec (.partOpen { h0 with seq := 9 } 0x40 6 1) detachedAt9 with
        | .next t => decide ((t.part 0).host.replyTail = 1 ∧ (t.part 0).host.pstate = .opened)
        | _ => false) = true := by decide

theorem wit_QueryCommandsAnswer :
    MayRun { opcode := 0x0100, minimal := true } h0 t0 ∧ MayRun { opcode := 0x0900, minimal := true } h0 t0 ∧
      MayRun { opcode := 0x0902, minimal := true } h0 t0 ∧ MayRun { opcode := 0x0901 } h0 t0 ∧
      MayRun { opcode := 0x0903, minimal := true, issuer := .p0 } h0 t0 := by unfold MayRun; decide

theorem wit_PartitionCommandsRun_open :
    (ready.part 0).host.pstate = .closed ∧ (ready.part 0).host.starting = false ∧
      cmdChecks { opcode := 0x0101, minimal := decide (h0.fn = 0) } h0 false ready = none ∧
      (0x1000 : B64).toNat % 64 = 0 ∧ 6 ≤ (6 : Byte).toNat ∧ (6 : Byte).toNat ≤ 16 ∧ (ready.part 0).host.held = [] := by
  decide

theorem wit_PartitionCommandsRun_close :
    MayRun { opcode := 0x0102 } h1 t0 ∧ MayRun { opcode := 0x0103, minimal := true } h1 t0 ∧
      MayRun { opcode := 0x0104, minimal := true, issuer := .p0 } h0 t0 ∧ (t0.part 0).host.held = [] := by
  unfold MayRun; decide

/-- A watchdog of partition 0 in timer 2. -/
def wd : TimerUse := { feature := 0x10, part := 0, action := 1, period := 100, addr := 0 }

theorem wit_PartitionCommandsRun_heartbeat :
    timerOf { t0 with host := { t0.host with timers := [(2, wd)] } } 0x10 0 = some (2, wd) := by decide

theorem wit_PartitionResetClears : t0.folioPart ≠ some 1 := by decide

theorem wit_SharingCommandsRun_quota :
    let p : Part := Fin.ofNat 4 (0 : Byte).toNat
    let v : Quotas := ⟨0, 0, 0, 91, 0, 64⟩
    MayRun { opcode := 0x0105, issuer := .p0 } h0 t0 ∧ quotaBad (begun h0 t0) p v = false ∧ (t0.part p).stc.base = 0 ∧
      (t0.part p).stc.count = 64 ∧ rangeBusy (begun h0 t0) p v = false ∧ (framesOf (begun h0 t0) p .hbm 0).length ≤ 0 ∧
      (framesOf (begun h0 t0) p .bulk 0).length ≤ 0 ∧ anyRunning (begun h0 t0) p = false ∧
      0 ≤ (t0.part p).tier.quotaHbm.toNat := by unfold MayRun; decide

/-- Both open partitions with a context base. -/
def tCtx : State := (t0.updBench 0 fun y => { y with ctxSet := true }).updBench 1 fun y => { y with ctxSet := true }

theorem wit_SharingCommandsRun_timeshare :
    MayRun { opcode := 0x0106, issuer := .p0 } h0 tCtx ∧
      tCtx.host.staging = .free ∧ tCtx.host.tsEn = false ∧ ∀ p : Part, (tCtx.part p).host.pstate ≠ .closed → (tCtx.part p).bench.ctxSet = true := by
  unfold MayRun; decide

theorem wit_SharingCommandsRun_quanta :
    ∀ q ∈ ([20, 100000, 1000, 1000] : List B32), 20 ≤ q.toNat ∧ q.toNat ≤ 100000 := by simp

theorem wit_SharingCommandsRun_timer :
    MayRun { opcode := 0x0108, issuer := .any } h0 t0 ∧ MayRun { opcode := 0x0108, issuer := .p0 } h0 t0 ∧
      timerOf t0 0x10 0 = none ∧ firstBelow 8 (fun j => (Map.find? t0.host.timers j).isNone) = some 0 := by
  unfold MayRun; decide

/-! ## Objects, placement and tiers -/

theorem wit_ObjectCommandsRun_create :
    let pol := polHbm
    MayRun { opcode := 0x0200 } h0 t1 ∧ (optionKind (begun h0 t1) 0 0 0 1 (Policy.ofBits pol)).toOption = some (.plain, 1) ∧
      policyRsvd pol = false ∧ policyBad (begun h0 t1) 0 1 (Policy.ofBits pol) = false ∧
      (placeObject (begun h0 t1) 0 .plain 1 (Policy.ofBits pol)).toOption.isSome = true ∧
      (t1.part 0).tier.nextHandle ≠ 0xFFFF_FFFF := by unfold MayRun; decide

theorem wit_ObjectCommandsRun_destroy :
    MayRun { opcode := 0x0201, long := true } h0 t1 ∧ t1.obj? 0 1 = some o1 ∧ o1.changing = false ∧ o1.dying = false ∧
      t1.host.tsEn = false := by unfold MayRun; decide

theorem wit_ObjectCommandsRun_policy :
    MayRun { opcode := 0x0202, long := true } h0 t1 ∧ (begun h0 t1).obj? 0 1 = some o1 ∧ policyRsvd polBulk = false ∧
      policyBad (begun h0 t1) 0 2 (Policy.ofBits polBulk) = false ∧ policyFits o1 (Policy.ofBits polBulk) = true ∧
      t1.flash.moves = [] ∧ (reservePolicy 0 1 polBulk (begun h0 t1)).toOption.isSome = true := by unfold MayRun; decide

theorem wit_ObjectCommandsRun_query :
    MayRun { opcode := 0x0203 } h0 t1 ∧ 0 < (2 : B32).toNat ∧ (0 : B64).toNat + (2 : B32).toNat ≤ o1.sheets ∧
      MayRun { opcode := 0x0205 } h0 t1 ∧ MayRun { opcode := 0x0209 } h0 t1 ∧
      MayRun { opcode := 0x0208, long := true } h0 t1 := by unfold MayRun; decide

theorem wit_ObjectCommandsRun_format :
    MayRun { opcode := 0x0204, long := true, issuer := .p0 } h0 t1 ∧ (0 : Byte).toNat + (64 : Byte).toNat ≤ 64 ∧
      (refreshDays 1 0).isSome = true ∧ t1.flash.regions = [] ∧ regionInUse (begun h0 t1) 15 = false := by unfold MayRun; decide

/-- A reduction buffer of one row and column under handle 2. -/
def o2 : Obj := { kind := .redBuf 9 1 1 0 0 1, base := 0x200000, sheets := 4, policy := polHbm
                  map := [(0, { tier := .hbm, frames := [3], unwritten := false }), (1, { tier := .hbm, frames := [4] })
                    , (2, { tier := .hbm, frames := [5] }), (3, { tier := .hbm, frames := [6] })] }

/-- The state with the buffer, exported under id 7. -/
def t2 : State := (t1.updTier 0 fun t => { t with objects := [(1, o1), (2, o2)], nextHandle := 3 }).updRes 0 fun r =>
  { r with exports := [(7, 2)] }

theorem wit_ObjectCommandsRun_bufReset :
    MayRun { opcode := 0x0206 } h0 t2 ∧ (begun h0 t2).obj? 0 2 = some o2 ∧ (0xFF_FFFF_FFFF : B64).toNat < 2 ^ 40 ∧
      (bufHdr (begun h0 t2) 0 o2).state ≠ 1 ∧ MayRun { opcode := 0x0207 } h0 t2 ∧
      Map.find? (t2.part 0).res.exports 7 = some 2 := by unfold MayRun; decide +kernel

theorem wit_UnknownHandleNoAccess :
    t0.obj? 0 3 = none ∧ MayRun { opcode := 0x0201, long := true } h0 t0 ∧ MayRun { opcode := 0x0202, long := true } h0 t0 ∧
      MayRun { opcode := 0x0203 } h0 t0 ∧ MayRun { opcode := 0x0206 } h0 t0 := by unfold MayRun; decide

/-- A promotion of sheet 1 of object 1 that has not started, and the same under way, its source written meanwhile. -/
def mv : Move := { ident := 5, p := 0, handle := 1, sheet := 1, kind := .promotion, dst := .hbm, frames := [7] }
/-- The move under way. -/
def mvOn : Move := { mv with started := true, dirty := true }

theorem wit_TierEventsRun_moves :
    let s : State := { t1 with flash := { t1.flash with moves := [mv] } }
    let u : State := { t1 with flash := { t1.flash with moves := [mvOn] } }
    mayStart s mv = true ∧ mv.kind ≠ .fetch ∧
      u.flash.moves.find? (fun w => w.ident = 5 && w.started) = some mvOn ∧ u.obj? 0 1 = some o1 ∧
      Map.find? o1.map 1 = some { tier := .hbm, frames := [2], unwritten := false } := by decide

/-- A striped region whose overlay holds one sheet of stripe 0. -/
def tFold : State := { t1 with flash := { t1.flash with
  regions := [(3, { mode := 2, owner := 0, start := 0, count := 8, ready := true })], overlay := [3 * 2 ^ 40 + 4] } }

theorem wit_TierEventsRun_fold :
    stripeEntries tFold (3 * 2 ^ 32 + 0) = [3 * 2 ^ 40 + 4] ∧ tFold.flash.folding = none ∧ tFold.flash.foldQ = [] ∧
      (tFold.region 3).mode = 2 ∧ (tFold.region 3).ready = true ∧ 0 * 8192 < (tFold.region 3).frames ∧
      tFold.flash.overlayWait = [] ∧ tFold.flash.overlay.length ≤ 49152 := by decide

/-! ## Streams, programs, stitches and the cadence: host commands -/

theorem wit_ProgramCommandsRun :
    MayRun { opcode := 0x0300 } h0 t0 ∧ (0xFF_FFFF_FFFF_FFFF : B64).toNat < 2 ^ 56 ∧ (t0.stream 0 3).state = .idle ∧
      MayRun { opcode := 0x0301 } h0 t0 ∧ MayRun { opcode := 0x0302 } h0 t0 ∧ inFlight t0 0 1 = 0 ∧ t0.stitches = [] ∧
      MayRun { opcode := 0x0303 } h0 t0 ∧ anyRunning (begun h0 t0) 0 = false ∧
      dmaCheck 0 .r 0 (8 * 0) (begun h0 t0) = (none, begun h0 t0) ∧ MayRun { opcode := 0x0304 } h0 t0 ∧
      ([1, 2] : List B64).length = 2 ∧ (62 : Byte).toNat + (2 : Byte).toNat ≤ 64 := by unfold MayRun; decide

theorem wit_ProgramCommandsRun_progLoad :
    dmaCheck 0 .r 0x100000 (8 * 2048) (begun h0 t1) = (none, begun h0 t1) ∧ (0 : B16).toNat + (2048 : B16).toNat ≤ 2048 := by
  decide

/-- An object of 512 sheets, as a context needs. -/
def oCtx : Obj := { kind := .plain, base := 0x1000000, sheets := 512, policy := polHbm }

theorem wit_ProgramCommandsRun_ctxBase :
    let s := t0.updTier 0 fun t => { t with objects := [(4, oCtx)] }
    MayRun { opcode := 0x0305 } h0 s ∧ (0x1000000 : B64).toNat % 65536 = 0 ∧
      findObj (s.part 0).tier 0x1000000 = some (4, oCtx) ∧ 0x1000000 + 32 * 2 ^ 20 ≤ oCtx.base + oCtx.sheets * 65536 ∧
      (s.part 0).bench.context = none := by unfold MayRun; decide

/-- Stream 0 of partition 0 in RUN, stream 1 STOPPED. -/
def tRun : State := (t0.updStream 0 0 fun x => { x with state := .run, head := 0x100000 }).updStream 0 1 fun x =>
  { x with state := .stopped, fault := 2 }

theorem wit_StreamCommandsBusy :
    MayRun { opcode := 0x0300 } h0 tRun ∧ (tRun.stream 0 0).state = .run ∧ (tRun.stream 0 1).state = .stopped ∧
      MayRun { opcode := 0x0301 } h0 tRun ∧ (tRun.stream 0 0).state ≠ .stopped ∧ MayRun { opcode := 0x0302 } h0 tRun := by
  unfold MayRun; decide

/-- Stitch 5 of partition 0 locked by its host on stream 0, stitch 6 BROKEN. -/
def tSt : State := { t0 with stitches := [(5, { state := .locked, owner := 0, epoch := 2 }), (6, { state := .broken })] }

theorem wit_StitchCommandsRun :
    MayRun { opcode := 0x0306 } h0 tSt ∧ (ownStitch (begun h0 tSt) 0 0).toOption = some 0 ∧ (tSt.stitch 0).reqs = [] ∧
      Map.sorted tSt.stitches = true ∧ MayRun { opcode := 0x0307 } h0 tSt ∧
      (ownStitch (begun h0 tSt) 0 6).toOption = some 6 ∧ (tSt.stitch 6).state = .broken ∧
      MayRun { opcode := 0x030B } h0 tSt := by unfold MayRun; decide

theorem wit_StitchCommandsRun_reach :
    MayRun { opcode := 0x0308 } h0 tSt ∧ (reachStitch (begun h0 tSt) 0 0 .lock 0).toOption = some 0 ∧
      (tSt.stitch 0).state = .opened ∧ MayRun { opcode := 0x0309 } h0 tSt ∧
      (reachStitch (begun h0 tSt) 0 0 .unlock 5).toOption = some 5 ∧ (tSt.stitch 5).state = .locked ∧
      (tSt.stitch 5).owner.toNat = 0 ∧ (tSt.stitch 5).stream = 0 ∧ MayRun { opcode := 0x030A } h0 tSt ∧
      (reachStitch (begun h0 tSt) 0 0 .signal 63).toOption = some 63 ∧
      (reachStitch (begun h0 tSt) 0 0 .read 5).toOption = some 5 := by unfold MayRun; decide

theorem wit_StitchCommandsRun_export :
    MayRun { opcode := 0x030C } h0 t0 ∧ (1 : Part) ≠ h0.fn ∧ (12288 : B16).toNat + (4096 : B16).toNat ≤
      (t0.part 0).stc.count.toNat * 256 ∧ Map.find? (t0.part 1).stc.imports 7 = none := by unfold MayRun; decide

theorem wit_LockRefusals :
    (tSt.stitch 6).state = .broken ∧ (tSt.stitch 5).state = .locked ∧
      ((tSt.stitch 5).owner.toNat = 0 ∧ (tSt.stitch 5).stream = 0) ∧
      ¬((tSt.stitch 5).owner.toNat = 1 ∧ (tSt.stitch 5).stream = 0) ∧ (1 : Byte) ≠ (tSt.stitch 5).epoch ∧
      (tSt.stitch 0).state ≠ .broken ∧ ¬((tSt.stitch 0).state = .locked) := by decide

theorem wit_SignalAddsAndWakes :
    Map.sorted tSt.stitches = true ∧ (tSt.stitch 5).count.toNat + 1 < 2 ^ 32 ∧
      2 ^ 32 ≤ (tSt.stitch 5).count.toNat + 2 ^ 32 := by decide

/-- Partition 0 follows its folio's leader, at position (step 1, phase 0). -/
def tFollow : State :=
  { t0.updCad 0 fun c => { c with role := .follower, pos := 0x100_0000 } with vesin := { t0.vesin with fvalid := true, myPos := 3, vmap := [(0, 1), (1, 2)] } }

/-- STANDALONE at that position. -/
def tPos : State := t0.updCad 0 fun c => { c with pos := 0x100_0000 }

theorem wit_CadenceCommandsRun_advance :
    MayRun { opcode := 0x0400 } h0 tPos ∧ (tPos.part 0).cad.role = .standalone ∧ malformed 0x200_0000 = false ∧
      (tPos.part 0).cad.pos < 0x200_0000 ∧ (tPos.part 0).cad.events = [] ∧ tPos.cad.ioFunc ≠ 2 ∧
      (tPos.part 0).cad.ckptQ = [] ∧ malformed 0x100_0000 = false ∧ (0x100_0000 : B64) ≤ (tPos.part 0).cad.pos := by
  unfold MayRun; decide

/-- An entry: kind 1 at a target of step 2. -/
def entry1 : B256 := { target := 0x200_0000, kind := 1 : Event }.bits

theorem wit_CadenceCommandsRun_events :
    MayRun { opcode := 0x0401 } h0 tPos ∧ (1023 : B16).toNat < 1024 ∧ eventBad entry1 = false ∧
      (Event.ofBits entry1).kind ≠ 0 ∧ malformed (Event.ofBits entry1).target = false ∧
      (tPos.part 0).cad.pos < (Event.ofBits entry1).target ∧ MayRun { opcode := 0x0402 } h0 tPos ∧
      MayRun { opcode := 0x0403 } h0 tPos ∧ (0 : B16).toNat + (1024 : B16).toNat ≤ 1024 := by unfold MayRun; decide

theorem wit_CadenceCommandsRun_time :
    let e : State := { t0 with cad := { t0.cad with onEdge := some 5 } }
    MayRun { opcode := 0x0404, issuer := .p0 } h0 t0 ∧ t0.cad.wall = 0 ∧ MayRun { opcode := 0x0405 } h0 t0 ∧
      t0.cad.ioFunc = 0 ∧ false = decide (e.cad.ioFunc = 1) ∧ e.cad.onEdge = some 5 ∧ e.cad.wall = 0 ∧
      { t0.cad with wall := 9 }.wall ≠ 0 := by unfold MayRun; decide

theorem wit_LateMarksAreDiscarded :
    (0x100_0000 : B64) ≤ (tPos.part 0).cad.pos ∧ (tPos.part 0).cad.pos < 0x100_0001 ∧
      Accepted { port := 0, src := 0, dst := 3, seq := 5 } tFollow ∧
      (tFollow.part 0).cad.role = .follower := by unfold Accepted; decide

/-! ## Bench operations -/

/-- Stream 0 of partition 0 in RUN. -/
def tB : State := t2.updStream 0 0 fun x => { x with state := .run, head := 0x100000 }

/-- A head with OUT_TAG 3. -/
def b0 : BenchHdr := { p := 0, st := 0, outTag := 3 }

/-- A head that waits for tag 5, which counts an operation in flight; one with a reserved bit. -/
def tTag : State := tB.updStream 0 0 fun x => { x with tags := [(5, 1)] }

theorem wit_BenchControlIssues :
    MayIssue b0 tB ∧ inFlight tB 0 0 = 0 ∧ (fetchRec tB 0 0x100010 16 16).toOption.isSome = true ∧
      malformed 0x300_0000 = false ∧ (tB.part 0).cad.role ≠ .follower ∧
      ((tB.updCad 0 fun c => { c with role := .follower }).part 0).cad.role = .follower := by unfold MayIssue; decide

theorem wit_HeadWaitsOrStops :
    headReady { b0 with in0 := 5 } tTag = false ∧ headReady { b0 with rsvd := true } tB = true ∧
      ({ b0 with rsvd := true } : BenchHdr).rsvd = true ∧ tB.stitches = [] := by decide

/-- Stitch 5 held by the bench of partition 0 for stream 0, stitch 6 by another master, and the wait of stream 0 granted. -/
def tBs : State := { tB with stitches := [(5, { state := .locked, owner := 8 }), (6, { state := .locked, owner := 1 })] }
/-- The head's wait is registered and granted. -/
def tGranted : State := tBs.updStream 0 0 fun x => { x with registered := true, granted := true }

theorem wit_BenchStitchOpsIssue :
    MayIssue b0 tBs ∧ (0xFFFF_FFFF : Addr).toNat < 2 ^ 32 ∧ (reachStitch tBs 0 8 .signal 6).toOption = some 6 ∧
      MayIssue b0 tGranted ∧ (tGranted.stream 0 0).registered = true ∧ (tGranted.stream 0 0).granted = true ∧
      (reachStitch tBs 0 8 .unlock 5).toOption = some 5 ∧ (tBs.stitch 5).state = .locked ∧
      (tBs.stitch 5).owner.toNat = 8 + 0 ∧ (tBs.stitch 5).stream = 0 := by unfold MayIssue; decide

theorem wit_BenchStitchOpsIssue_register :
    tagsClear b0 tBs = true ∧ (tBs.stream 0 0).registered = false ∧ (reachStitch tBs 0 8 .lock 6).toOption = some 6 ∧
      (reachStitch tBs 0 8 .wait 6).toOption = some 6 ∧ (tBs.stitch 6).state = .locked ∧ (tBs.stitch 6).owner.toNat ≠ 8 ∧
      (tBs.stitch 6).count.toNat < (1 : B32).toNat ∧ (tBs.stitch 6).reqs = [] ∧ Map.sorted tBs.stitches = true := by decide

theorem wit_BenchStitchOpsIssue_read :
    (0x100008 : Addr).toNat % 8 = 0 ∧ (benchAccess tBs 0 .w 0x100008 8).1 = none ∧
      (reachStitch tBs 0 8 .read 5).toOption = some 5 := by decide

/-- A descriptor at 0x10_0000: one by one by one in BF16 from slice offset 0, FP32 out, report at 0x11_0000. -/
def tDesc : State := writeMem 0 0x100000 (leBytes 128 (2 ^ 891 + 2 ^ 886 + 0x110000 * 2 ^ 424)) tB

theorem wit_BenchOps_array :
    MayIssue b0 tDesc ∧ (match fetchDesc tDesc 0 0x100000 with
      | .ok d => descFault tDesc 0 d (sharesFor tDesc 0 d.opTag)
      | .error _ => some 0) = none ∧ anyLive tDesc = true ∧ holdsArray tDesc 0 = true ∧
      slotsFree tDesc 0 [0, 255] = true := by unfold MayIssue; decide +kernel

theorem wit_BenchOps_vrun :
    (match fetchRec tB 0 0x100040 64 64 with
      | .ok r => leNat (r.drop 60)
      | .error _ => 1) = 0 ∧ anyLive tB = true ∧ holdsArray tB 0 = true ∧ vrunPlates tB 255 255 = [255] ∧
      slotsFree tB 0 (vrunPlates tB 255 255) = true ∧ Map.sorted (tB.part 0).bench.insts = true := by decide +kernel

theorem wit_BenchOps_copy :
    ladleFree tB 0 = true ∧ copyRange tB 0 0x10 2 = true ∧ copyRange tB 0 0x20 2 = true := by decide

theorem wit_BenchOps_copyRouted :
    (match fetchDesc tDesc 0 0x100000 with
      | .ok d => (d.fmtOf true).inputClass.isSome && (d.fmtOf false).inputClass.isSome && !d.chain &&
          !(routes d 0 tDesc.array.shares).any (fun e => !sliceOk tDesc 0 e.off (e.bytes d)) &&
          !(routes d 1 tDesc.array.shares).any (fun e => !sliceOk tDesc 0 e.off (e.bytes d))
      | .error _ => false) = true ∧ ladleFree tDesc 0 = true ∧ (tDesc.part 0).bench.latches = [] := by decide +kernel

/-- A VETO record at 0x10_0040 for group 9, with its RESULT at 0x11_0000, and the group's buffer broken. -/
def tVeto : State :=
  (writeMem 0 0x100040 (leBytes 64 (9 * 2 ^ 480 + 0x110000 * 2 ^ 360)) tB).updTier 0 fun t => { t with
    objects := [(1, o1), (2, { o2 with map := [(0, { tier := .hbm, frames := [3], poison := true })], broken := true })
      , (9, { kind := .redGroup, base := 0, sheets := 0, policy := 0 })] }

theorem wit_BenchOps_veto :
    (match fetchRec tVeto 0 0x100040 64 64 with
      | .ok r => (VetoRec.ofNat (leNat r)).map fun v => (v.group, v.result % 32)
      | .error _ => none) = some (9, 0) ∧ (tVeto.obj? 0 9).isSome = true ∧ (groupBufs tVeto 0 9).map (·.1) = [2] ∧
      (groupBufs tVeto 0 9).all (fun e => bufBroken tVeto 0 e.2) = true ∧ (tVeto.part 0).veto.pending = [] := by
  decide +kernel

/-- A PLANISH record at 0x10_0080: BUF_RESET, with its report at 0x11_0000. -/
def tPln : State := writeMem 0 0x100080 (leBytes 64 (2 * 2 ^ 504 + 0x110000 * 2 ^ 336)) tB

theorem wit_BenchOps_planish :
    (match fetchRec tPln 0 0x100080 64 64 with
      | .ok r => (jobOfRecord (.op 0) 0x100080 (leNat r)).toOption.isSome
      | .error _ => false) = true ∧ anyLive tPln = true ∧ holdsArray tPln 0 = true ∧
      (tPln.part 0).pln.queue.length < 16 ∧ planishSlots tPln 0 = true := by decide +kernel

/-! ## The array, copies and contributions -/

/-- An operation of stream 0 in flight under number 7 with tag 3. -/
def fl7 : Flight := { ident := 7, st := 0, outTag := 3, addr := 0x100000, kind := .array }
/-- An array operation of one tile, BF16 in, FP32 out, with number 7. -/
def op7 : ArrayOp :=
  { ident := 7, st := 0, outTag := 3, addr := 0x100000, drawPos := 0, shares := ⟨8, 0, 0, 0⟩
    desc := { fmtA := .bf16, fmtB := .bf16, fmtC := .fp32, report := 0x110000 } }
/-- It stands at the head of the queue. -/
def tQ : State := tB.updBench 0 fun y => { y with flight := [fl7], arrayQ := [op7] }

theorem wit_TagsCountOperationsInFlight :
    b0.outTag ≠ 0 ∧ ({ b0 with outTag := 0 } : BenchHdr).outTag = 0 ∧
      (tQ.part 0).bench.flight.find? (fun f => f.ident = 7) = some fl7 ∧ fl7.outTag ≠ 0 ∧
      Map.sorted (tQ.stream 0 0).tags = true := by decide

theorem wit_ArrayQueueHeadDecides :
    (tQ.part 0).bench.arrayQ.find? (fun o => o.phase = .queued) = some op7 ∧ holdsArray tQ (arrayPart tQ) = true ∧
      mayTake tQ (arrayPart tQ) = true ∧ linksUp tQ = true ∧ op7.lost = false ∧ op7.desc.cont = false ∧ op7.round = 0 ∧
      headRule tQ op7 = .issues ∧ (tQ.part 0).bench.arrayQ = [op7] ∧
      (op7.desc.range op7.shares 0).1 < (op7.desc.range op7.shares 0).2 := by decide

/-- Both banks of quarter 0 HELD; bank 0 alone HELD. -/
def tHeld (both : Bool) : State :=
  updQuarter 0 (fun x => { x with bank0 := { state := if both then .held else .free }, bank1 := { state := .held } }) tQ

theorem wit_ArrayQueueHeadDecides_banks :
    headRule (tHeld true) op7 = .fault ftBankClobber ∧ headRule (tHeld false) op7 = .issues ∧
      anyFeeds (tHeld false) = false ∧ ((tHeld false).array.quarters.get 0).bank0.state = .free ∧
      ((tHeld false).array.quarters.get 0).bank1.state = .held ∧ op7.desc.bank = 0 := by decide

theorem wit_ArrayQueueHeadDecides_waits :
    headRule (updQuarter 0 (fun x => { x with bank0 := { state := .saving } }) tQ)
      { op7 with desc := { op7.desc with bank := 1 } } = .waits := by decide

/-- The operation taken, its tile being fed in bank 0 of quarter 0. -/
def tFeed : State :=
  updQuarter 0 (fun x => { x with cur := some (0, 0), bank0 := { state := .filling, owner := 7 } })
    (tQ.updBench 0 fun y => { y with arrayQ := [{ op7 with phase := .taken, round := 1 }] })

/-- It has drained what drains without time. -/
def tFed : State := updQuarter 0 QuarterArr.drained tFeed

/-- The operation fed. -/
def opFed : ArrayOp := { op7 with phase := .taken, round := 1 }

theorem wit_ArrayEngineRuns_drain :
    feedOp tQ (arrayPart tQ) = none ∧ feedOp tFed (arrayPart tFeed) = some opFed ∧
      (tFed.array.quarters.get 0).cur = some (0, 0) ∧ opFed.desc.hold = false ∧
      (tileCells tFed 0 opFed 0 0 ((tFed.array.quarters.get 0).bank 0) (opFed.desc.valid 0).1 (opFed.desc.valid 0).2
        opFed.step opFed.desc.kPad).toOption.isSome = true ∧ rivals tFed 0 (some opFed.ident) = [] := by decide +kernel

/-- The tile has drained. -/
def tDone : State :=
  tQ.updBench 0 fun y => { y with arrayQ := [{ op7 with phase := .fed, round := 1 }] }

theorem wit_ArrayEngineRuns_complete :
    (∀ o ∈ (tDone.part (arrayPart tDone)).bench.arrayQ, o.phase = .fed ∧ o.lost = false ∧ o.fault = none ∧ (benchAccess tDone 0 .w o.desc.report 64).1 = none) ∧ tDone.contribs = [] ∧ (tDone.part (arrayPart tDone)).bench.latches = [] ∧
      rivals tDone 0 (some 7) = [] := by decide

/-- Time-sharing enabled, the holder's quantum run out, and a job in the planisher of partition 1. -/
def tShare : State :=
  let s := tCtx.updPln 1 fun y => { y with queue := [{
    source := .op 1, addr := 0, code := 2, step := 1, table := 0, count := 1, report := 0, expect := 0, stitch := 0
    sig := false }] }
  { s with host := { s.host with tsEn := true, staging := .save }, array := { s.array with expired := true } }

theorem wit_ArrayIsShared :
    tShare.host.tsEn = true ∧ t0.host.tsEn = false ∧ nextHolder tShare = some 1 ∧ tShare.array.expired = true ∧
      feedOp tShare 0 = none ∧ tShare.array.copyOut = none ∧ (tShare.part 1).bench.context = none ∧
      (tShare.part 1).bench.lostRuns = [] ∧ feedOp tShare 1 = none ∧
      (∀ q b, ((tShare.array.quarters.get q).bank b).state = .free) ∧ ({ value := -5, anchor := 511 } : A96).anchor < 512 ∧
      ((tShare.updBench 1 fun y => { y with context := some {} }).part 1).bench.context.isSome = true ∧
      tShare.array.holder ≠ 1 ∧ { tShare.array with copyOut := some (0 : Part) }.copyOut = some 0 := by decide

/-- A copy of one sheet from object 1 to itself waits; a copy to position 1 runs and has no message out. -/
def cp : CopyOp := { ident := 7, kind := .plain 0x10 0x11 1 63 }
/-- The same copy running. -/
def cpRun : CopyOp := { cp with running := true }
/-- A copy to position 1. -/
def cpFar : CopyOp := { ident := 7, kind := .plain 0x10 0x11 1 1, running := true }
/-- One copy in the queue. -/
def tCopy (c : CopyOp) : State := tB.updBench 0 fun y => { y with copies := [c] }

theorem wit_CopiesRun :
    cp ∈ ((tCopy cp).part 0).bench.copies ∧ cp.running = false ∧
      (∀ q x, x ∈ ((tCopy cp).part q).bench.copies → x.running = false → q = 0 ∧ x = cp) ∧
      ((four.flatMap fun q => ((tCopy cp).part q).bench.copies).filter fun x => x.running).length < 16 ∧
      ((tCopy cpRun).part 0).bench.copies.find? (fun x => x.ident = cpRun.ident && x.running) = some cpRun ∧
      (benchAccess (tCopy cpRun) 0 .r (0x10 * 65536) 65536).1 = none ∧
      (benchAccess (tCopy cpRun) 0 .w (0x11 * 65536) 65536).1 = none ∧
      ((tCopy cpFar).part 0).bench.copies.find? (fun x => x.ident = cpFar.ident && x.running) = some cpFar ∧
      cpFar.waits = [] ∧ cpFar.fault = none ∧ { cpFar with waits := [1] }.waits ≠ [] ∧
      rivals (tCopy cpRun) 0 (some cpRun.ident) = [] := by
  refine ⟨by decide, by decide, ?_, by decide, by decide, by decide, by decide, by decide, by decide, by decide, by decide, by decide⟩
  intro q x hx _
  have : ∀ q : Part, q ≠ 0 → ((tCopy cp).part q).bench.copies = [] := by decide
  by_cases h : q = 0
  · subst h
    exact ⟨rfl, List.mem_singleton.mp hx⟩
  · rw [this q h] at hx
    cases hx

/-- The buffer OPEN for step 1, its table and data in the sheets after its header. -/
def hdr1 : BufHdr := { BufHdr.ofNat 0 with data := 0x220000, table := 0x210000, group := 9, step := 1, parts := 1, expect := 1 }
/-- The header in memory. -/
def tBuf : State := setBufHdr 0 o2 hdr1 tB

/-- A contribution of step 1, leaf 0, to its first sheet. -/
def con (pos : B64) : Contribution := { p := 0, ident := 7, quarter := 0, handle := 2, sheet := 0, drawPos := pos, adds := [(0, 1)] }

/-- The contributions of steps 1 and 2 on their way. -/
def tCon : State := { tBuf with contribs := [con 0x100_0000, con 0x200_0000] }

theorem wit_ContributionReachesSheet :
    let u := { tCon with contribs := tCon.contribs.eraseIdx 0 }
    let b := bufHdr u 0 o2
    tCon.contribs[0]? = some (con 0x100_0000) ∧ tCon.contribs[1]? = some (con 0x200_0000) ∧ tCon.obj? 0 2 = some o2 ∧
      bufBroken u 0 o2 = false ∧ checkMem u 0 0x40 .a (b.data + 0 * 65536) 65536 = .ok ∧ posPhase 0x100_0000 ≤ 1 ∧
      posStep 0x100_0000 = b.step ∧ b.state = 0 ∧ posPhase 0x200_0000 ≤ 1 ∧ posStep 0x200_0000 ≠ b.step := by
  decide +kernel

/-! ## Plate programs -/

/-- An instance on plate 3 of partition 0, its P registers at 0 and C0 at 2, with the buffer at its BUF. -/
def inst : Inst := { vrun := 7, pc := 2, pr := List.replicate 8 0, c := [2, 0, 0, 0], buf := 0x200000, object := 2, drawPos := 0, seed := 0 }

/-- Plate 3. -/
def hp : PlateHdr := { p := 0, plate := 3 }

/-- The instance and one behind it. -/
def tPlate : State := tBuf.updBench 0 fun y => { y with insts := [(3, [inst, { inst with vrun := 8 }])]
                                                        flight := [{ fl7 with kind := .vrun }] }

theorem wit_PlateControlRuns :
    Runs hp inst [{ inst with vrun := 8 }] tPlate ∧ vrunRuns (setInsts 0 3 [{ inst with vrun := 8 }] tPlate) 0 7 = false ∧
      vrunRuns (setInsts 0 3 [inst] tPlate) 0 7 = true ∧ (3 : BitVec 5).toNat ≤ 3 ∧ (7 : BitVec 5).toNat ≤ 7 ∧
      0 ≤ (inst.pc : Int) + (0xFFFF_FFFE : B32).toInt ∧ (inst.pc : Int) + (2045 : B32).toInt ≤ 2047 := by
  unfold Runs; decide +kernel

theorem wit_PlateMemoryRuns :
    Runs hp inst [{ inst with vrun := 8 }] tPlate ∧ Alone tPlate 0 (some inst.vrun) ∧ (2 : BitVec 2) ≠ 3 ∧ loadFmt 1 = some .bf16 ∧ storeFmt 1 = some .bf16 ∧
      inst.at 0 0 % (8 * Fmt.bits .bf16) = 0 ∧ sliceOk tPlate 0 (inst.at 0 0) (Fmt.laneBytes .bf16) = true ∧
      Fmt.scaled .bf16 = false ∧ inst.at 0 2 % max 1 (Fmt.bits .bf16 / 8) = 0 ∧
      sliceOk tPlate 0 (inst.at 0 2) (max 1 (Fmt.bits .bf16 / 8)) = true ∧ inst.at 0 8 % 8 = 0 ∧
      sliceOk tPlate 0 (inst.at 0 8) 8 = true := by unfold Runs Alone; decide +kernel

theorem wit_PlateMemoryRuns_buffer :
    bufAt tPlate 0 inst.buf.toNat = some (2, o2) ∧ fxAccess tPlate 0 .a (bufHdr tPlate 0 o2) (inst.at 0 0) = none ∧
      fxAccess tPlate 0 .r (bufHdr tPlate 0 o2) (inst.at 0 0) = none := by decide +kernel

theorem wit_PlateLanesRun : Runs hp inst [{ inst with vrun := 8 }] tPlate ∧ arithRnd 0 = some .rne ∧ arithRnd 1 = some .rtz := by
  unfold Runs; decide +kernel

theorem wit_PlateFunctionsRun : Runs hp inst [{ inst with vrun := 8 }] tPlate ∧ (arithRnd 0).isSome = true := by
  unfold Runs; decide +kernel

theorem wit_PlateFieldFaults :
    plateInsts tPlate 0 3 = inst :: [{ inst with vrun := 8 }] ∧ holdsArray tPlate 0 = true ∧
      holdsArray { tPlate with host := { tPlate.host with arrayOwner := 1 } } 0 = false ∧
      ({ hp with rsvd := true } : PlateHdr).rsvd = true ∧ 2 ≤ (2 : BitVec 2).toNat := by decide +kernel

/-! ## Verdicts and the planisher -/

/-- A VETO of step 1 that has still to close the buffer. -/
def pv : PendingVeto :=
  { ident := 7, toClose := [2, 5]
    record := { group := 9, step := 1, stitch := 0, sig := false, closeOnly := false, vlane := false, rim := false, result := 0x110000 } }

/-- The state with the VETO. -/
def tPv : State := tBuf.updVeto 0 fun v => { v with pending := [pv] }

theorem wit_BufferCloseRuns :
    (∀ x ∈ (tBuf.part 0).veto.pending, (2 : B32).toNat ∉ x.toClose) ∧ (tPv.part 0).veto.pending = [pv] ∧
      pv.toClose = [(2 : B32).toNat, 5] ∧ (5 : Nat) ≠ (2 : B32).toNat ∧ tPv.obj? 0 2 = some o2 ∧
      bufBroken tPv 0 o2 = false ∧ (bufHdr tPv 0 o2).state < 2 ∧ addsToCome tPv 0 2 = false ∧
      pv.record.step = (bufHdr tPv 0 o2).step := by decide +kernel

theorem wit_BufferCloseRuns_other :
    let x : PendingVeto := { pv with record := { pv.record with step := 3 } }
    let s := tBuf.updVeto 0 fun v => { v with pending := [x] }
    (s.part 0).veto.pending = [x] ∧ x.toClose = [(2 : B32).toNat, 5] ∧ s.obj? 0 2 = some o2 ∧ bufBroken s 0 o2 = false ∧
      x.record.step ≠ (bufHdr s 0 o2).step := by decide +kernel

/-- An instance whose FXADD has reached sheet 0 of the buffer and has not ended. -/
def tAdding : State := setInsts 0 0 [{ inst with sheets := [(2 * 2 ^ 40, true)] }] tPv

theorem wit_BufferCloseRuns_waits : closable tAdding 0 2 = true ∧ addsToCome tAdding 0 2 = true ∧
    (∀ x ∈ (tAdding.part 0).veto.pending, (2 : B32).toNat ∈ x.toClose → x.record.step = (bufHdr tAdding 0 o2).step) := by
  decide +kernel

theorem wit_StandaloneVerdictResolves :
    (tBuf.part 0).cad.role = .standalone ∧ (tBuf.part 0).veto.carriedStep ≠ pv.record.step ∧ pv.record.rim = false ∧
      pv.record.vlane = false ∧ votingFor tBuf 0 pv.record.step = [] ∧
      pv.ident ∉ (tBuf.part 0).veto.pending.map PendingVeto.ident := by decide +kernel

/-- An APPLY job of one entry for step 1, table at 0x10_1000. -/
def job (code : Nat) : Job :=
  { source := .op 7, addr := 0x100080, code, step := 1, table := 0x101000, count := 1, report := 0x110000, expect := 1
    stitch := 0, sig := false }

/-- Its entry: one element, rule 0, object 1, the copies in object 1, the gradient's address at 0x10_2000. -/
def entryV (step : Nat) : Nat :=
  0x103000 * 2 ^ 968 + 0x104000 * 2 ^ 912 + 0x105000 * 2 ^ 800 + 0x106000 * 2 ^ 744 + 0x102000 * 2 ^ 688 + 0x107000 * 2 ^ 632 +
    step * 2 ^ 552 + (if step = 0 then 0 else 2 ^ 541) + 2 ^ 480

/-- The entry, the gradient's address, the buffer in state `st` for step 1, the job in front. -/
def tJob (code step st : Nat) : State :=
  (writeNat 0 0x101000 128 (entryV step) (writeNat 0 0x102000 8 0x200000
    (setBufHdr 0 o2 { hdr1 with state := st } tB))).updPln 0 fun y => { y with queue := [job code] }

/-- The entry as its fields. -/
def ent : Entry := Entry.ofNat (entryV 0)

theorem wit_ApplyRuns_entry :
    let s := tJob 1 0 2
    jobReady s 0 1 = some (job 1) ∧ (s.part 0).pln.entry = none ∧
      readNat s 0 plnMaster 0x101000 128 = entryV 0 ∧
      firstRefusal s 0 [(.r, 0x101000, 128), (.w, 0x101000, 128)] = none ∧ ent.bad = false ∧ s.obj? 0 ent.object = some o1 ∧
      entryStep (job 1) ent = some 1 ∧ ¬(ent.doneV = true ∧ 1 ≤ ent.done) ∧ copiesStriped s 0 ent = false ∧
      slowTier o1 = false := by decide +kernel

theorem wit_ApplyRuns_gradient :
    let s := tJob 1 0 2
    firstRefusal s 0 [(.r, ent.grad + 1 % (ent.lag + 1) * 8, 8)] = none ∧
      gradBuf s 0 ent 1 = some (2, o2) ∧ gradBuf s 0 { ent with grad := 0x108000 } 1 = none ∧
      firstRefusal s 0 [(.r, o2.base, 64)] = none ∧ gradFits s 0 ent 1 o2 = true ∧ gradFits (tJob 1 0 0) 0 ent 1 o2 = false ∧
      (s.part 0).pln.hist.find? (fun x => x.step.toNat = 1) = none ∧
      votingFor (s.updVeto 0 fun v => { v with pending := [pv] }) 0 1 ≠ [] ∧
      firstRefusal s 0 (ent.areas ++ gradAreas s 0 o2) = none ∧
      firstRefusal s 0 [(.w, o2.base, o2.sheets * sheetBytes)] = none ∧ (jobRuns s 0 (job 1)).1 = some 7 ∧
      rivals s 0 (some 7) = [] ∧ ent.rule = 0 ∧ ent.progV = false ∧ 0 < ent.units := by decide +kernel

theorem wit_ApplyRuns_already :
    let e := Entry.ofNat (entryV 1)
    readNat (tJob 1 1 2) 0 plnMaster 0x101000 128 = entryV 1 ∧ e.doneV = true ∧ 1 ≤ e.done ∧ entryStep (job 1) e = some 1 := by
  decide +kernel

/-- The entry's work, before and after its one unit has been computed. -/
def wk : EntryWork := { addr := 0x101000, step := 1, handle := 2, unit := 0, hyper := List.replicate 16 0 }

/-- Work of an entry of 129 columns, whose units are several. -/
def tUnits : State :=
  (writeNat 0 0x101000 128 (entryV 0 + 200 * 2 ^ 592) (tJob 1 0 2)).updPln 0 fun y => { y with entry := some { wk with writes := some [] } }

theorem wit_ApplyRuns_units :
    let s := (tJob 1 0 2).updPln 0 fun y => { y with entry := some wk }
    jobReady s 0 1 = some (job 1) ∧ (s.part 0).pln.entry = some wk ∧ wk.writes = none ∧ anyLive s = true ∧
      arrayWaits s 0 = false ∧ s.obj? 0 wk.handle = some o2 ∧ rivals s 0 (jobRuns s 0 (job 1)).1 = [] ∧
      arrayWaits (s.updBench 0 fun y => { y with arrayQ := [op7] }) 0 = true ∧
      (Entry.ofNat (readNat s 0 plnMaster wk.addr 128)).rule = 0 ∧
      popcount (bufEntry s 0 (bufHdr s 0 o2) wk.unit).mask = 0 := by decide +kernel

theorem wit_ApplyRuns_written :
    let e := Entry.ofNat (readNat tUnits 0 plnMaster 0x101000 128)
    (tUnits.part 0).pln.entry = some { wk with writes := some [] } ∧ (tUnits.part 0).pln.queue = [job 1] ∧
      (job 1).code = 1 ∧ rivals tUnits 0 (jobRuns tUnits 0 (job 1)).1 = [] ∧ e.rule = 0 ∧ 0 + 1 < e.units := by
  decide +kernel

theorem wit_PlanisherJobsRun :
    let s := tJob 2 0 2
    let r := writeNat 0 0x101000 8 0x200000 s
    (r.part 0).pln.queue = [job 2] ∧ jobReady r 0 2 = some (job 2) ∧ (job 2).count ≤ (job 2).next + 1 ∧
      firstRefusal r 0 [(.r, 0x101000, 8)] = none ∧ bufAt r 0 (readNat r 0 plnMaster 0x101000 8) = some (2, o2) ∧
      bufBroken r 0 o2 = false ∧ (bufHdr r 0 o2).state ≠ 1 ∧ anyLive r = true ∧ firstRefusal r 0 [(.r, o2.base, 64)] = none ∧
      firstRefusal r 0 [(.w, o2.base, o2.sheets * sheetBytes)] = none ∧
      rivals (resetBuf 0 o2 1 1 r) 0 (jobRuns (resetBuf 0 o2 1 1 r) 0 (job 2)).1 = [] := by decide +kernel

theorem wit_PlanisherJobsRun_derive :
    let s := tJob 3 0 2
    jobReady s 0 3 = some (job 3) ∧ firstRefusal s 0 [(.r, 0x101000, 128)] = none ∧ ent.bad = false ∧
      s.obj? 0 ent.object = some o1 ∧ copiesStriped s 0 ent = false ∧
      firstRefusal s 0 [(.r, ent.master, 4 * ent.elems), (.w, ent.working, 2 * ent.elems)] = none ∧
      (s.part 0).pln.entry = none ∧
      let u := s.updPln 0 fun y => { y with entry := some wk }
      jobReady u 0 3 = some (job 3) ∧ anyLive u = true ∧ arrayWaits u 0 = false ∧
        rivals u 0 (jobRuns u 0 (job 3)).1 = [] := by decide +kernel

/-- A delivery of object 1 with the record at 0x10_0080. -/
def fire (kind : Byte) (object : B32) (arg : B128) : Firing :=
  { idx := 0, entry := { target := 0x100_0000, kind, object, arg }, pos := 0x100_0000 }

theorem wit_PlanisherJobsRun_delivery :
    let s := (writeMem 0 0x100080 (leBytes 64 (1 * 2 ^ 504 + 0x110000 * 2 ^ 336)) tB).updCad 0 fun c => { c with
      lateQ := [fire 3 1 0x100080] }
    let u := takenFiring 0 (fire 3 1 0x100080) (s.updCad 0 fun c => { c with lateQ := [] })
    (s.part 0).cad.lateQ = [fire 3 1 0x100080] ∧ (s.part 0).pln.queue.length < 16 ∧
      (deliveryJob 0 (fire 3 1 0x100080) u).toOption.isSome = true := by decide +kernel

theorem wit_JobEnds :
    ((tJob 1 0 2).part 0).pln.queue = [job 1] ∧ (job 1).source = .op 7 ∧ (job 1).sig = false ∧
      (plnAccess (tJob 1 0 2) 0 .w (job 1).report 64).1 = none := by decide +kernel

/-! ## Resilience, folio, access and firmware commands -/

/-- Partition 0 leads a folio from position 0, whose other members are 1 and 2, each on a port of its own. -/
def tF : State :=
  let s := (t2.updCad 0 fun c => { c with role := .leader }).updRes 0 fun r => { r with members := 7 }
  { s with vesin := { s.vesin with fvalid := true, vmap := [(1, 1), (2, 2)] } }

/-- A checkpoint set of one slice under handle 4, with a sealed image in slot 1. -/
def oSet : Obj := { kind := .ckptSet 4 63, base := 0x400000, sheets := 9, policy := 0
                    map := [(0, { tier := .managed, region := 1, frames := [10] })] }
/-- The slice of one sheet. -/
def slice1 : SliceRec := { slice := 0, exportId := 7, object := 1, sheets := 2, policy := 0, root := 0 }
/-- The image without its SEAL. -/
def img0 : Image := { capacity := 4, imgNo := 1, step := 1, state := .sealed, slices := [slice1] }
/-- The image. -/
def img1 : Image := { img0 with sealDig := img0.digest }
/-- The state with the set; a handle list with handle 1 at 0x10_0000. -/
def tSet (g : Image) : State :=
  let s := State.updTier { tF with mem := (writeNat 0 0x100000 4 1 tF).mem } 0 fun t => { t with
    objects := [(1, o1), (2, o2), (4, oSet)] }
  { s with images := [(1 * 2 ^ 48 + 10 * 2 + 1, g)] }

theorem wit_ResilienceCommandsRun_restore :
    let u := begun h0 (tSet img1)
    MayRun { opcode := 0x0500, long := true } h0 (tSet img1) ∧ (tSet img1).obj? 0 4 = some oSet ∧
      ((setOf u 0 4).map fun c => (c.image u 1).slices) = some [slice1] ∧ (1 : Byte).toNat ≤ 1 ∧ anyRunning u 0 = false ∧
      hostRead 0 0x100000 (4 * 1) u = (none, u) ∧ handleList u 0 0 0x100000 1 = [1] := by
  unfold MayRun; decide +kernel

theorem wit_ResilienceCommandsRun_image :
    restoreBad (tSet img1) 0 img1 [1] = none := by
  have h : img1.sealDig = img1.digest := rfl
  have o : (tSet img1).obj? 0 1 = some o1 := by rfl
  simp [restoreBad, h, o]
  rfl

theorem wit_ResilienceCommandsRun_fill :
    MayRun { opcode := 0x0501, long := true, issuer := .folio } h0 tF ∧ tF.obj? 0 1 = some o1 ∧ tF.vesin.mask 2 ≠ 0 ∧
      (2 : Nat) ≠ tF.vesin.myPos.toNat ∧ isRemoved (begun h0 tF) 2 = false := by unfold MayRun; decide +kernel

/-- A standby that is FILLING, with one object filled. -/
def tSb : State := tF.updRes 0 fun r => { r with sbState := 2, filled := [{ dest := 1, ident := 7, source := 1 }] }

theorem wit_ResilienceCommandsRun_filled :
    MayRun { opcode := 0x0502, issuer := .folio } h0 tSb ∧ (tSb.part 0).res.sbState = 2 ∧ (tSb.part 0).res.fills = [] ∧
      (tSb.part 0).res.filled.any (fun f => f.root.isNone) = true ∧ MayRun { opcode := 0x0503, issuer := .folio } h0 tSb := by
  unfold MayRun; decide +kernel

theorem wit_ResilienceCommandsRun_others :
    MayRun { opcode := 0x0504, issuer := .folio } h0 tF ∧ 1 ≤ (1000 : B16).toNat ∧ (1000 : B16).toNat ≤ 1000 ∧
      tF.host.staging = .free ∧ MayRun { opcode := 0x0505, issuer := .folio } h0 (tSet img1) ∧
      (setOf (begun h0 (tSet img1)) 0 4).isSome = true ∧ MayRun { opcode := 0x0506, long := true, issuer := .folio } h0 tF ∧
      (tF.part 0).cad.role = .leader ∧ MayRun { opcode := 0x0507, issuer := .folio } h0 tF ∧
      isCoord (begun h0 tF) 0 = true ∧ (tF.part 0).res.members.getLsbD 2 = true ∧
      MayRun { opcode := 0x0508, issuer := .folio } h0 tF := by unfold MayRun; decide +kernel

theorem wit_FolioCommandsRun_group :
    MayRun { opcode := 0x0600 } h1 t2 ∧ (39 : Byte).toNat ≤ 39 ∧ t2.vesin.fvalid = false ∧ t2.folioPart = none ∧
      anyRunning (begun h1 t2) 1 = false ∧ ∀ v, (t2.vesin.port v).state ≠ .isolated := by unfold MayRun; decide +kernel

theorem wit_FolioCommandsRun_leave :
    MayRun { opcode := 0x0601, issuer := .folio } h0 tF ∧
      (∀ v, ((clearFolio (leaveFolio 0 (sendLeave 0 3 (begun h0 tF)))).vesin.port v).state ≠ .isolated) ∧
      MayRun { opcode := 0x0602, issuer := .folio } h0 tF ∧ (39 : Byte).toNat + (1 : Byte).toNat ≤ 40 ∧
      tF.vesin.waiting = [] ∧ ∀ v, (tF.vesin.port v).state ≠ .isolated := by unfold MayRun; decide +kernel

/-- Port 3 is UP, and the folio has a current and a next key. -/
def tUp : State :=
  { tF with vesin := { tF.vesin with ports := [(3, { state := .up, width := 8, lanes := 0xFF, good := 0xFF })]
                                     curKey := some (1, 5), nextKey := some (2, 6) } }

theorem wit_FolioCommandsRun_ports :
    MayRun { opcode := 0x0603, issuer := .p0 } h0 tF ∧ Map.sorted tF.vesin.ports = true ∧
      (∀ v : Port, (3 : Byte).getLsbD v.val = false → (tF.vesin.port v).state = .off) ∧
      MayRun { opcode := 0x0604, long := true, issuer := .p0OrFolio } h0 tUp ∧ (tUp.vesin.port 3).state = .up ∧
      carried tUp 3 = [] ∧ MayRun { opcode := 0x0605, long := true, issuer := .folio } h0 tUp ∧
      tUp.vesin.nextKey = some (2, 6) ∧ MayRun { opcode := 0x0700, issuer := .folio } h0 tUp := by unfold MayRun; decide +kernel

theorem wit_AccessAndArbitersRun :
    MayRun { opcode := 0x0701, long := true, issuer := .p0 } h0 t2 ∧ (85 : Byte).toNat ≤ 85 ∧ (63 : Byte).toNat ≤ 63 ∧
      masterUsed 8 = true ∧ aclGrants t2 80 0 .w = true ∧ Map.sorted t2.arbs = true ∧
      mapOk (0xEDCB_A123_4658_970F : B64).toNat = true ∧ mapOk 0 = false ∧ (1 : Part) ≠ 0 ∧ aclGrants t2 81 1 .w = true ∧
      (1 : B32).getLsbD 0 = true ∧ Map.find? { t2 with arbs := [(5, ({} : Arbiter))] }.arbs 5 = some {} := by
  unfold MayRun; decide +kernel

theorem wit_AccessAndArbitersRun_grant :
    (t2.arb 59).waiting = [] ∧ (t2.arb 59).behind = [] ∧ (t2.arb 59).offered = [] ∧ raises (14, 0x20) = true ∧
      (14 : BitVec 4).toNat < 15 ∧
      (let s := updArb 59 (fun x => { x with owner := some ⟨14, 0x20, 0⟩ }) t2;
        (s.arb 59).owner ≠ none ∧ Map.sorted s.arbs = true ∧ (s.arb 59).moved + 31 < (s.arb 59).burst.toNat) := by decide +kernel

/-- R469: an owner with work left is granted anew, in turn, once it has moved BURST granules. -/
theorem test_burst :
    let x : Arbiter := { owner := some ⟨6, 0x21, 0⟩, moved := 31 }
    grantOver 0 true x = false ∧ grantOver 1 true x = true ∧ grantOver 9 true { x with burst := 0 } = false ∧
      grantOver 0 false x = true ∧ (endGrant 7 true x).waiting = [⟨6, 0x21, 7⟩] := by decide +kernel

theorem wit_StagingAndPackingRun_stage :
    MayRun { opcode := 0x0702, long := true, minimal := true, issuer := .p0 } h0 t2 ∧
      (16777215 : B32).toNat + (1 : B32).toNat ≤ 16777216 ∧ t2.power.staging ≠ .pldm ∧
      MayRun { opcode := 0x0703, long := true, minimal := true, issuer := .p0 } h0 t2 ∧
      MayRun { opcode := 0x0704, long := true, minimal := true, issuer := .p0 } h0 t2 ∧ busServed t2 = true ∧
      t2.power.staging = .idle ∧ t2.power.staged = false := by unfold MayRun; decide +kernel

/-- A punch image of two symbols of one bit each, for BF16. -/
def punch2 : List Byte := [0x11] ++ List.replicate 127 0 ++ [1] ++ List.replicate 127 0

/-- Slot 1 LOADED by partition 0; a packed object under handle 5. -/
def tPk : State :=
  let s := t2.updTier 0 fun t => { t with objects := [(1, o1), (2, o2)
    , (5, { kind := .packed 1 16 64, base := 0x500000, sheets := 2, policy := polHbm })] }
  { s with slots := [(1, { state := .loaded, owner := 0, fmt := 1, gen := 1, image := punch2 })] }

theorem wit_StagingAndPackingRun_punch :
    MayRun { opcode := 0x0800 } h0 tPk ∧ punchBad (takePad 256 0 punch2) = false ∧ (tPk.slot 15).state = .free ∧
      (tPk.slot 15).refs = 0 ∧ MayRun { opcode := 0x0801 } h0 tPk ∧ (tPk.slot 1).state = .loaded ∧
      (tPk.slot 1).owner = 0 ∧ (tPk.slot 1).refs = 0 := by unfold MayRun; decide +kernel

theorem wit_StagingAndPackingRun_pack :
    MayRun { opcode := 0x0802, long := true } h0 tPk ∧ tPk.obj? 0 1 = some o1 ∧ o1.kind = .plain ∧
      ((tPk.obj? 0 5).map fun o => o.kind) = some (.packed 1 16 64) ∧ o1.sheets * 8 ≤ 16 ∧ (2 : B16) ≠ 0 ∧
      (∀ i ∈ maskSlots 2, (tPk.slot i).state = .loaded ∧ (tPk.slot i).owner = 0 ∧ (tPk.slot i).fmt.toNat = 1) ∧
      MayRun { opcode := 0x0803, long := true } h0 tPk := by unfold MayRun; decide +kernel

/-! ## The host interface from outside -/

/-- PING of partition 0 with SEQ 0 and TAG 5 (R622): LEN, OPCODE, PARTITION and TAG above the 20 bytes of parameters. -/
def pingBody : List Byte := leBytes 32 (1 * 2 ^ 248 + 0x0900 * 2 ^ 232) ++ List.replicate 24 0
/-- The packet with its seal word. -/
def pingPacket : List Byte := pingBody ++ leBytes 8 ((crc32c pingBody).toNat * 2 ^ 32)

theorem wit_HostInterfaceRuns_seal :
    commandsServed t0 0 = true ∧ (t0.part 0).host.starting = false ∧ (t0.part 0).host.slots = [] ∧
      sealOk pingPacket = true ∧ sealOk (pingBody ++ List.replicate 8 0) = false ∧
      field (leNat (pingPacket.take 32)) 207 176 = (t0.part 0).host.seqNext.toNat ∧
      (0 : Fin 64).val = (t0.part 0).host.seqNext.toNat % 64 ∧ (parsePacket (.of 0 pingPacket) []).isSome = true := by
  decide +kernel

theorem wit_HostInterfaceRuns_registers :
    Map.find? (tLong.part 0).host.longs (0 : Fin 16).val = some long0 ∧ long0.work = .report 0 0 ∧
      functionServed t0 3 = true ∧ aligned 0x20FFF8 8 = true ∧ inWindow 0x20FFF8 = true ∧ inWindow 0x200000 = true ∧
      aclGrants t0 83 3 .w = true ∧ aclGrants t0 83 3 .r = true ∧ 0x200008 % 8 = 0 ∧
      ((t0.updCad 0 fun c => { c with posLatch := some 4 }).part 0).cad.posLatch = some 4 := by decide +kernel

theorem wit_HostInterfaceRuns_bar2 :
    let s := t2
    functionServed s 0 = true ∧ 0x100008 + 4096 ≤ 2 ^ (s.part 0).host.barLog2.toNat ∧
      reachesWindow (winBase (s.part 0).host + 0x100008) 4096 = false ∧
      checkMem s 0 0 .r (winBase (s.part 0).host + 0x100008) 4096 = .ok ∧ checkMem s 0 0 .w (winBase (s.part 0).host + 0x100008) 4096 = .ok ∧
      2 ^ (s.part 0).host.barLog2.toNat < 2 ^ 34 + 1 := by decide +kernel

theorem wit_HostInterfaceRuns_links :
    commandsServed t0 0 = true ∧ t0.power.stage ≠ .unpowered ∧ 30 ≤ (39 : BitVec 6).toNat ∧ mainOn t0 = true ∧
      linkExists t0 0 = true ∧ (1 : BitVec 5) ≠ 0 ∧ (t0.part 1).host.pstate = .opened ∧ 1 ∈ linkParts t0 0 ∧
      t0.power.stage ≠ .poweredDown := by decide +kernel

/-! ## Checkpoints, mirrors, assay -/

/-- The set with an image in WRITING in slot 0. -/
def imgW : Image := { capacity := 4, imgNo := 2, step := 1, state := .writing }

/-- Partition 0 alone, the set under handle 4 with that image. -/
def tW (g : Image) : State :=
  { t2.updTier 0 fun t => { t with objects := [(1, o1), (2, o2), (4, oSet)] } with images := [(1 * 2 ^ 48 + 10 * 2, g)] }

/-- A slice of object 1 for set 4: SET in [127:96]. -/
def fireSlice : Firing := fire 1 1 (4 * 2 ^ 96)

theorem wit_CheckpointEventsRun_slice :
    let s := (tW imgW).updCad 0 fun c => { c with ckptQ := [fireSlice] }
    let u := takenFiring 0 fireSlice (s.updCad 0 fun x => { x with ckptQ := [] })
    let a := sliceArg fireSlice.entry
    (s.part 0).res.snap = none ∧ (s.part 0).cad.ckptQ = [fireSlice] ∧ a.set = 4 ∧
      (match setOf u 0 4 with
        | some c => !c.atMirror && c.peer = 63 && c.writing u = some 0 && (c.image u 0).step = posStep fireSlice.pos &&
          !((c.image u 0).slices.any fun x => x.slice = a.slice) && decide ((c.image u 0).used + o1.sheets ≤ c.capacity) &&
          !mirrored u 0 c
        | none => false) = true ∧
      u.obj? 0 1 = some o1 ∧ checkMem u 0 0x23 .r o1.base (o1.sheets * 65536) = .ok ∧ a.staged = false ∧ a.final = false ∧
      a.sig = false := by decide +kernel

theorem wit_CheckpointEventsRun_seal :
    let s := tW { imgW with final := true }
    (match setOf s 0 4 with
      | some c => !c.atMirror && c.peer = 63 && c.writing s = some 0 && (c.image s 0).final
      | none => false) = true ∧ (s.part 0).res.snap = none := by decide +kernel

theorem wit_CheckpointEventsRun_commit :
    let f := fire 5 4 0
    let s := (tW { imgW with state := .sealed }).updCad 0 fun c => { c with commitQ := [f] }
    let u := takenFiring 0 f (s.updCad 0 fun x => { x with commitQ := [] })
    (s.part 0).cad.commitQ = [f] ∧ (match setOf u 0 4 with
      | some c => c.peer = 63 && c.newest u (fun g => g.state = .sealed && !g.committed) = some 0
      | none => false) = true := by decide +kernel

/-- A commit that waits for its mirror. -/
def cw : CommitWait := { firing := fire 5 4 0, set := 4, slot := 0, imgNo := 2, step := 1, mirror := 1 }

theorem wit_CheckpointEventsRun_timeout :
    let s := (tW imgW).updRes 0 fun r => { r with commits := [cw] }
    ((s.part 0).res.commits.find? fun x => x.set = 4) = some cw ∧ (setOf s 0 4).isSome = true := by decide +kernel

/-- A sheet of it in HBM. -/
def landed (frame : Nat) : Sheet := { tier := .hbm, frames := [frame], unwritten := false }

/-- A mirror for position 1 in the folio, with an image in WRITING. -/
def tMir (g : Image) : State :=
  let o := { oSet with kind := .mirrorSet 4 1, map := oSet.map ++ [(1, landed 3), (2, landed 4)] }
  { tF.updTier 0 fun t => { t with objects := [(4, o)] } with images := [(1 * 2 ^ 48 + 10 * 2, g)] }

theorem wit_CheckpointEventsRun_mirror :
    let s := tMir { imgW with atMirror := true, peer := 1 }
    Accepted msg s ∧ s.vesin.fpart = 0 ∧ (match mirrorFor s 0 1 with
      | some c => c.writing s = some 0 && (c.image s 0).imgNo = 2 && (c.image s 1).state ≠ .sealed &&
        !((c.image s 0).withHeader []).whole && (match s.obj? 0 c.handle with
          | some o => (landing 0 msg.port .w (c.slotAddr o 0 0) s).1 && (landing 0 msg.port .w (c.slotAddr o 0 1) s).1
          | none => false)
      | none => false) = true := by unfold Accepted; decide +kernel

/-- The seal that a header's bytes carry. -/
theorem sealOf (d : B256) : BitVec.ofNat 256 (field (leNat ((leBytes 64 d.toNat).take 64)) 255 0) = d := by
  have h : (leBytes 64 d.toNat).take 64 = leBytes 64 d.toNat := List.take_of_length_le (by simp)
  apply BitVec.eq_of_toNat_eq
  have := d.isLt
  rw [h, leNat_leBytes, field, BitVec.toNat_ofNat]
  omega

/-- SEAL depends on the directory and the record alone. -/
theorem digest_congr {g h : Image} (hs : g.slices = h.slices) (hp : g.partRec = h.partRec) : g.digest = h.digest := by
  unfold Image.digest Image.dirBytes
  rw [hs, hp]

/-- The set of `tMir`. -/
def cMir : CkptSet := ⟨4, 1 * 2 ^ 48 + 10 * 2, 4, 1, true⟩
/-- An image there of which the header alone misses. -/
def imgM : Image := { imgW with atMirror := true, peer := 1, gotDir := true, partRec := some (partRecord tFollow 0 0) }

theorem wit_CheckpointEventsRun_mirrorSeal :
    let s := tMir imgM
    let t := cMir.put 0 ((cMir.image s 0).withHeader (leBytes 64 imgM.digest.toNat)) s
    let g := cMir.image t 0
    mirrorFor s 0 1 = some cMir ∧ cMir.writing s = some 0 ∧ g.state = .writing ∧ g.whole = true ∧ g.sealDig = g.digest ∧
      (s.part 0).res.deferred = [] := by
  intro s t g
  have hi : cMir.image s 0 = imgM := rfl
  have hg : g = { imgM.withHeader (leBytes 64 imgM.digest.toNat) with capacity := 4, peer := 1, atMirror := true } := by
    show cMir.image (cMir.put 0 ((cMir.image s 0).withHeader _) s) 0 = _
    rw [hi]
    rfl
  refine ⟨rfl, by decide +kernel, by rw [hg]; rfl, by rw [hg]; rfl, ?_, rfl⟩
  rw [hg]
  exact (sealOf imgM.digest).trans (digest_congr rfl rfl)

theorem wit_CheckpointEventsRun_commitMirror :
    let s := tMir { imgW with atMirror := true, peer := 1, state := .sealed }
    (match mirrorFor s 0 1 with
      | some c => c.newest s (fun g => g.state = .sealed && g.imgNo = 2 && g.step = 1)
      | none => none) = some 0 := by decide +kernel

/-- An assay of object 1 among positions 0 and 1, its DTAB in the second sheet of the object's range. -/
def fireAssay : Firing := fire 2 1 (3 * 2 ^ 88 + 0x11 * 2 ^ 16)

theorem wit_AssayEventsRun_start :
    let s0 := (tF.updCad 0 fun c => { c with assayQ := [fireAssay] }).updRes 0 fun r => { r with exports := [(7, 1)] }
    let s := { s0 with power := { s0.power with assayKey := some 5 } }
    let u := takenFiring 0 fireAssay (s.updCad 0 fun x => { x with assayQ := [] })
    (s.part 0).cad.assayQ = [fireAssay] ∧ s.folioPart = some 0 ∧ Nat.testBit fireAssay.entry.arg.toNat (88 + ownPos s) = true ∧
      u.obj? 0 1 = some o1 ∧ exportId u 0 1 = some 7 ∧ s.power.assayKey = some 5 ∧
      checkMem u 0 0x24 .r o1.base (o1.sheets * 65536) = .ok ∧
      checkMem u 0 0x24 .w (field fireAssay.entry.arg.toNat 55 16 * 65536) 112 = .ok ∧ (u.part 0).res.earlyRoots = [] := by
  decide +kernel

/-- An assay of step 1 under way, at its referee; at another module; and with a query out. -/
def as1 : Assay := { firing := fireAssay, ident := 7, step := 1, handle := 1, replicas := [0, 1], stitch := 0, sig := false
                     tree := [[1, 2], [3]], referee := true, roots := [(0, 3)] }
/-- The state with it. -/
def tAs (a : Assay) : State := tF.updRes 0 fun r => { r with assays := [a] }

theorem wit_AssayEventsRun_wait :
    (tAs as1).folioPart = some 0 ∧ assayOf (tAs as1) 0 7 1 = some as1 ∧ as1.referee = true ∧ as1.result = none ∧
      as1.descending = false ∧ Map.keys as1.roots = [ownPos (tAs as1)] ∧
      assayOf (tAs { as1 with referee := false }) 0 7 1 = some { as1 with referee := false } ∧ as1.repairs = [] := by
  decide +kernel

theorem wit_AssayEventsRun_messages :
    let a := { as1 with replicas := [0, 1, 2], queries := [(1, 0, [])], roots := [(0, 3), (2, 4)] }
    Accepted msg (tAs a) ∧ a.replicas.contains 1 = true ∧ 2 ∈ replicaMembers (tAs a) 0 a ∧
      Map.find? { a with roots := [(0, 3)] }.roots 2 = none ∧ (a.queries.find? fun q => q.1 = 1 && q.2.1 = 0) = some (1, 0, []) ∧
      2 ∈ Map.keys a.roots ∧ Map.find? ([] : Map (List B128)) 2 = none := by unfold Accepted; decide +kernel

theorem wit_AssayEventsRun_repair :
    let a := { as1 with repairs := [(1, 1, 0)] }
    Accepted msg (tAs a) ∧ (((tAs a).part 0).res.assays.find? fun a => a.ident = 7 &&
      a.repairs.any fun r => r.1 = 1 && r.2.1 = 1) = some a ∧ (tAs a).obj? 0 1 = some o1 := by unfold Accepted; decide +kernel

/-! ## Stand-by positions, removal, take-over -/

/-- The stand-by position 32, whose coordinator is position 1 on an UP port. -/
def tStby : State :=
  let s := t2.updRes 0 fun r => { r with members := 2, armEn := true }
  { s with vesin := { s.vesin with
    fvalid := true, myPos := 32, vmap := [(0, 1), (1, 2)], curKey := some (1, 5)
    ports := [(1, { state := .up, width := 8, lanes := 0xFF, peerPos := 1 })] } }

theorem wit_StandbyEventsRun_arm :
    tStby.folioPart = some 0 ∧ (tStby.part 0).res.sbState = 0 ∧ mayArm tStby 0 = true ∧
      mayArm (tStby.updRes 0 fun r => { r with sbState := 1, armEn := false }) 0 = false ∧ coordPos tStby 0 = some 1 ∧
      isCoord tF 0 = true := by decide +kernel

/-- A message from stand-by position 33, and one from position 0. -/
def msgS : MsgHdr := { port := 0, src := 33, dst := 0, seq := 1 }
/-- To the stand-by. -/
def msgT : MsgHdr := { port := 0, src := 0, dst := 32, seq := 1 }
/-- The folio with position 33 mapped. -/
def tFs : State := { tF with vesin := { tF.vesin with vmap := [(1, 1), (2, 2), (33, 4)] } }

theorem wit_StandbyEventsRun_armed :
    Accepted msgS tFs ∧ isCoord tFs 0 = true ∧ 32 ≤ msgS.src.toNat ∧ (tFs.part 0).res.removed = [] ∧ Accepted msgT tStby ∧
      ((tStby.updRes 0 fun r => { r with sbState := 1 }).part 0).res.sbState = 1 := by unfold Accepted; decide +kernel

theorem wit_StandbyEventsRun_pull :
    let s := tFs.updRes 0 fun r => { r with exports := [(7, 1)] }
    Map.find? (s.part 0).res.exports 7 = some 1 ∧ s.obj? 0 1 = some o1 ∧ 1 < o1.sheets ∧ o1.sheets ≠ 1 ∧
      checkMem s 0 0x23 .r (o1.base + 1 * 65536) 65536 = .ok := by decide +kernel

/-- A fill of object 1 from position 0 at the stand-by. -/
def fl : Fill := { dest := 1, ident := 7, source := 0, wanted := [0, 1], retries := [(0, 3)] }

theorem wit_StandbyEventsRun_fill :
    let s := tStby.updRes 0 fun r => { r with fills := [fl], sbState := 2 }
    Accepted msgT s ∧ ((s.part 0).res.fills.find? fun x => x.live && x.source = msgT.src.toNat && x.ident = 7 &&
      x.wanted.contains 0) = some fl ∧ s.obj? 0 1 = some o1 ∧ o1.base % 65536 = 0 ∧
      checkMem s 0 (0x30 + msgT.port.val) .w (o1.base + 0 * 65536) 65536 = .ok ∧
      heldBack s (writeMem 0 (o1.base + 0 * 65536) [1] s) = false ∧
      3 ≤ Map.getD fl.retries 0 0 ∧ (s.part 0).res.sbState ≠ 3 := by unfold Accepted; decide +kernel

theorem wit_StandbyEventsRun_takeover :
    let w : Takeover := { d := 2, standby := 33 }
    let s := tFs.updRes 0 fun r => { r with takeovers := [w], members := 3 }
    Accepted msgS s ∧ isCoord s 0 = true ∧
      ((s.part 0).res.takeovers.find? fun t => t.d = 2 && t.standby = msgS.src.toNat) = some w ∧ w.mirror = none ∧
      (2 : BitVec 6) ≠ s.vesin.myPos ∧ (33 : BitVec 6) ≠ s.vesin.myPos ∧ (s.part 0).res.hold = 0 ∧ s.vesin.awaiting ++ s.vesin.waiting = [] ∧
      ∀ v, (s.vesin.port v).state ≠ .isolated := by unfold Accepted; decide +kernel

theorem wit_StandbyEventsRun_remove :
    (2 : BitVec 6) ≠ tFollow.vesin.myPos ∧ (∀ x ∈ tFollow.vesin.awaiting ++ tFollow.vesin.waiting, x.dst ≠ 2) ∧
      Accepted { port := 0, src := 0, dst := 3, seq := 1 } tFollow ∧ (tFollow.part 0).cad.role ≠ .leader ∧
      (tFollow.part 0).res.rollback = none ∧ (tFollow.part 0).res.fills = [] ∧ (tFollow.part 0).res.sbState ≠ 3 ∧
      Accepted msg tF ∧ isCoord tF 0 = true ∧ (tF.part 0).res.members.getLsbD msg.src.toNat = true ∧
      isCoord tFollow 0 = false ∧ (0x0030 : B16) ≠ stOk := by unfold Accepted; decide +kernel

theorem wit_StandbyEventsRun_rollback :
    (tFollow.part 0).bench.flight = [] ∧ (tFollow.part 0).res.sbState = 0 ∧
      ((tFollow.updBench 0 fun y => { y with flight := [fl7] }).part 0).bench.flight ≠ [] ∧
      unreachable tF 1 = true ∧ tF.vesin.expired.contains 1 = false ∧ (∀ x ∈ tF.vesin.waiting, x.dst ≠ 1) ∧
      ((tF.updRes 0 fun r => { r with members := 2 }).part 0).res.members.getLsbD (ownPos tF) = false := by decide +kernel

/-- An image whose partition record is the one of a follower, without slices. -/
def imgR0 : Image :=
  { capacity := 4, imgNo := 1, step := 1, state := .sealed, committed := true, partRec := some (partRecord tFollow 0 0) }
/-- The image with its SEAL. -/
def imgR : Image := { imgR0 with sealDig := imgR0.digest }
/-- The follower whose rollback set holds it. -/
def tRoll : State :=
  { (tFollow.updTier 0 fun t => { t with objects := [(1, o1), (4, oSet)] }).updRes 0 fun r => { r with
      rbSet := 4, rbList := 0x100000 } with images := [(1 * 2 ^ 48 + 10 * 2 + 1, imgR)] }
/-- The set. -/
def cSet : CkptSet := ⟨4, 1 * 2 ^ 48 + 10 * 2, 4, 63, false⟩

theorem wit_StandbyEventsRun_restores : (restoreOwn 0 1 tRoll).1 = stOk := by
  have h1 : setOf tRoll 0 (tRoll.part 0).res.rbSet.toNat = some cSet := by rfl
  have h2 : committedAt cSet 1 tRoll = some 1 := by rfl
  have hs : imgR.slices = [] := rfl
  have h4 : cSet.image tRoll 1 = imgR := by
    show Map.getD tRoll.images (cSet.key + 1) {} = imgR
    have hk : tRoll.images = [(cSet.key + 1, imgR)] := rfl
    rw [hk]; simp [Map.getD, Map.find?]
  have h3 : checkMem tRoll 0 ckptMaster .r (tRoll.part 0).res.rbList.toNat (4 * 0) = .ok := by decide +kernel
  have h6 : (partRecord tRoll 0 0).seeds = (partRecord tFollow 0 0).seeds := by
    unfold partRecord
    have hb : (tRoll.part 0).bench.seeds = (tFollow.part 0).bench.seeds := rfl
    simp only [hb]
  have hpf : punchFree tRoll (partRecord tFollow 0 0) = true := by rfl
  have h5 : restoreBad tRoll 0 imgR [] = none := by
    have h : imgR.sealDig = imgR.digest := by
      have a : imgR.sealDig = imgR0.digest := rfl
      have b : imgR.dirBytes = imgR0.dirBytes := by unfold Image.dirBytes; simp only [imgR]
      have c : imgR.partRec = imgR0.partRec := rfl
      rw [a]
      unfold Image.digest
      rw [b, c]
    have hst : imgR.state = .sealed := rfl
    simp [restoreBad, h, hs, hst]
  have hp : imgR.partRec = some (partRecord tFollow 0 0) := rfl
  unfold restoreOwn
  simp only [h1, h2, h4, hs, List.length_nil, h3]
  simp only [ne_eq, not_true_eq_false, if_false, handleList, List.range_zero, List.map_nil, h5]
  unfold restoreImage
  simp only [hp, h6, hpf, ne_eq, not_true_eq_false, if_false, Bool.not_true, Bool.false_eq_true, List.findSome?_nil, hs, List.zip_nil_left, copySlices, if_true]

/-! ## Messages and ports -/

/-- A message out to position 1 that awaits its acknowledgement, and one that awaits a signal's reply. -/
def om (b : MsgBody) (tries : Nat) : OutMsg := { dst := 1, seq := 9, body := b, tries }
/-- The folio with one of them out. -/
def tOut (m : OutMsg) : State := { tF with vesin := { tF.vesin with awaiting := [m] } }

theorem wit_MessagesRun_send :
    Accepted msg tF ∧ (0x110000 : Addr).toNat % 65536 = 0 ∧ (0x110000 : Addr).toNat < winLo ∧
      checkMem tF 0 0x30 .w 0x110000 65536 = .ok ∧ checkMem tF 0 0x30 .a 0x110000 65536 = .ok ∧
      checkMem tF 0 0x30 .w 0x990000 65536 ≠ .ok ∧ heldBack tF (writeMem 0 0x110000 [1] tF) = false ∧
      heldBack tF (addSheet 0 0x110000 0 1 false [1] tF) = false := by unfold Accepted; decide +kernel

theorem wit_MessagesRun_sendHeld :
    let v : Move := { p := 0, handle := 1, sheet := 1, ident := 0, kind := .policy, dst := .bulk, frames := [5], holding := true }
    let s : State := { tF with flash := { tF.flash with moves := [v] } }
    Accepted msg s ∧ checkMem s 0 0x30 .w 0x110000 65536 = .ok ∧ heldBack s (writeMem 0 0x110000 [1] s) = true := by
  unfold Accepted; decide +kernel

theorem wit_MessagesRun_signal :
    let s : State := { tF with stitches := [(5, { remote := true })] }
    Accepted msg s ∧ (reachStitch s 0 0x30 .signal 5).toOption = some 5 ∧ (s.stitch 5).remote = true ∧
      (reachStitch s 0 0x30 .signal 6).toOption = some 6 ∧ (s.stitch 6).remote = false := by unfold Accepted; decide +kernel

theorem wit_MessagesRun_replies :
    let a := om (.send 0 []) 4
    let b := om (.signal 1 1) 0
    Accepted msg (tOut a) ∧ ((tOut a).vesin.awaiting.find? fun x => x.dst = msg.src && x.seq = 9 && x.body.isData) = some a ∧
      ((tOut b).vesin.awaiting.find? fun x => x.dst = msg.src && x.seq = 9 && !x.body.isData) = some b ∧
      ((tOut a).vesin.awaiting.find? fun x => x.dst = 1 && x.seq = 9) = some a ∧ isRemoved (tOut a) 1 = false ∧
      4 ≤ a.tries ∧ b.tries < 4 ∧ (0 : B16) ≠ 0x0010 := by unfold Accepted; decide +kernel

theorem wit_MessagesRun_mark :
    Accepted { port := 0, src := 0, dst := 3, seq := 1 } tFollow ∧ (tFollow.part 0).cad.role = .follower ∧
      malformed 0x200_0000 = false ∧ (tFollow.part 0).cad.pos < 0x200_0000 ∧ malformed 0x2_0000 = true := by
  unfold Accepted; decide +kernel

theorem wit_MessagesRun_discarded :
    let s : State := { tF with vesin := { tF.vesin with seqIn := [(1, { highest := 1, seen := [(1, 0)] })] } }
    misrouted msg s = false ∧ seqNew s 1 1 = false ∧ Map.find? (srcRecord s 1).seen 1 = some 0 ∧
      misrouted { msg with dst := 9 } s = true ∧
      stillApplied msg { tF with vesin := { tF.vesin with applying := [msg] } } = true := by decide +kernel

/-- The folio with port 3 in a state. -/
def tPort (q : VPort) : State := { tF with vesin := { tF.vesin with ports := [(3, q)], curKey := some (1, 5), portEn := 8 } }

theorem wit_PortsRun_training :
    ((tPort { state := .detect }).vesin.port 3).state = .detect ∧ 2 ≤ popcount (3 : Byte).toNat ∧
      popcount (1 : Byte).toNat < 2 ∧ ((tPort { state := .train }).vesin.port 3).state = .train ∧
      ((tPort { state := .train }).vesin.port 3).helloIn = false ∧ 2 ≤ popcount ((0xF : Byte) &&& 0x3).toNat ∧
      popcount ((0xF : Byte) &&& 0x8).toNat < 2 ∧ carried (tPort { state := .train }) 3 = [] := by decide +kernel

theorem wit_PortsRun_hello :
    let s0 := tPort { state := .train, trained := true }
    let s : State := { s0 with vesin := { s0.vesin with vmap := [(1, 8)] } }
    (s.vesin.port 3).trained = true ∧ s.vesin.waiting = [] ∧ s.vesin.nextKey = none ∧ (0 : B32) = s.vesin.folioId ∧
      folioKey s 1 = some 5 ∧ (1 : BitVec 6) ≠ s.vesin.myPos ∧ (s.vesin.mask 1).getLsbD 3 = true ∧
      (7 : B32) ≠ s.vesin.folioId ∧ carried s 3 = [] := by decide +kernel

theorem wit_PortsRun_up :
    let q : VPort := { state := .up, width := 8, lanes := 0xFF, good := 0xFF, rekeying := true, linkReq := some [1]
                       retry := [(1, [], 3)] }
    let s := tPort q
    (s.vesin.port 3).state = .up ∧ folioKey s 1 = some 5 ∧ (6 : B128) ≠ q.peerNonce ∧ q.rekeying = true ∧
      q.linkReq = some [1] ∧ (∃ f ∈ (s.vesin.port 3).retry, 3 ≤ f.2.2) ∧ (s.vesin.port 3).lanes.getLsbD 7 = true := by
  decide +kernel

theorem wit_PortsRun_retrained :
    let q : VPort := { state := .retrain, width := 8, lanes := 0xFF, good := 0xFF, peerMask := some 0x0F }
    let s := tPort q
    (s.vesin.port 3).state = .retrain ∧ q.peerMask = some 0x0F ∧ q.retry = [] ∧ q.txQueue = [] ∧ s.vesin.waiting = [] ∧
      2 ≤ popcount (q.good &&& 0x0F).toNat ∧ 2 ≤ q.width ∧ popcount (q.good &&& 0x01).toNat < 2 ∧ carried s 3 = [] ∧
      ((tPort { state := .down }).vesin.port 3).state = .down ∧ (tPort {}).vesin.portEn.getLsbD 3 = true ∧
      ((tPort { state := .down, laserFail := true }).vesin.port 3).laserFail = true ∧
      ((tPort q).vesin.port 3).state ≠ .off := by decide +kernel

/-- A flit of a type, with its check word. -/
def flitBytes (type : Nat) : List Byte :=
  let b := leBytes 252 (type * 2 ^ 60)
  b ++ leBytes 4 (crc32c b).toNat

theorem wit_PortsRun_flit :
    let up (k : Nat) : State := tPort { state := .up, lanes := 0xFF, rxBits := flitBits (flitBytes k) ++ [true] }
    ((flitBytes 2).length = 256 ∧ crc32c ((flitBytes 2).take 252) = BitVec.ofNat 32 (leNat ((flitBytes 2).drop 252)) ∧
      field (leNat ((flitBytes 2).take 8)) 63 60 = 2 ∧ (flitBytes 1).length = 256 ∧
      field (leNat ((flitBytes 1).take 8)) 63 60 = 1 ∧ crc32c (List.replicate 252 0) ≠ 0) ∧
      Map.sorted (up 1).vesin.ports = true ∧ ((up 1).vesin.port 3).state = .up := by decide +kernel

theorem wit_PortsRun_bits (k : Nat) :
    ((tPort { state := .train, rxBits := flitBits (flitBytes k) ++ [true] }).vesin.port 3).rxBits =
      flitBits (flitBytes k) ++ [true] := rfl

theorem wit_PortsRun_word :
    ((tPort { state := .up, lanes := 3, txBits := List.replicate 5000 true }).vesin.port 3).txBits.length = 5000 ∧
      (flitBits (flitBytes 1)).length = 2048 := by decide +kernel

/-- The coefficients of the code's generator polynomial, as the table of IEEE 802.3 clause 91 gives them. -/
theorem test_fec_generator :
    rsGenerator = [523, 834, 128, 158, 185, 127, 392, 193, 610, 788, 361, 883, 503, 942, 385, 495, 720, 94, 132, 593, 249, 282,
      565, 108, 1, 552, 230, 187, 552, 575, 1] := by decide +kernel

/-- R490: symbols are dealt to the lanes in turn. -/
theorem test_fec_lanes :
    (dealLanes 6 (List.range 544)).map (fun l => l.take 3) = [[0, 6, 12], [1, 7, 13], [2, 8, 14], [3, 9, 15], [4, 10, 16]
      , [5, 11, 17]] := by decide +kernel

/-! ## Package and guests -/

/-- Quarter 2 fenced; quarter 1 in the settlement of round 1; quarter 3 with its width chosen. -/
def tPkg : State :=
  let d : Quad D2d := ⟨{}, { state := .retrain, round := 1 }, {}, { state := .retrain, round := 1, chosen := some (0x0F, 4) }⟩
  { t0 with array := { t0.array with live := ⟨true, true, false, true⟩ }, pkg := { t0.pkg with d2d := d } }

theorem wit_PackageRuns_links :
    MayRun { opcode := 0x0107, long := true, issuer := .p0 } h0 tPkg ∧ tPkg.array.live.get 2 = false ∧
      (tPkg.pkg.d2d.get 2).state = .up ∧ (tPkg.pkg.stakes.get 2).temp.toInt ≤ 1520 ∧ (tPkg.pkg.d2d.get 1).state = .retrain ∧
      (tPkg.pkg.d2d.get 1).chosen = none ∧ tokenOk (widthToken 1 (1 : BitVec 4).toNat (0x0F : Byte).toNat 0) = true ∧
      groupWidth (popcount (Nat.land 0xFF 0x0F)) ≠ 0 ∧ groupWidth (popcount (Nat.land 0xFF 0)) = 0 ∧
      (tPkg.pkg.d2d.get 3).chosen = some (0x0F, 4) ∧ tokenOk (widthToken 2 (1 : BitVec 4).toNat (0x0F : Byte).toNat 4) = true ∧
      tPkg.array.live.get 0 = true := by unfold MayRun; decide +kernel

theorem wit_PackageRuns_heat :
    hottestOf (List.replicate 15 (100 : B16) ++ [1760]).zipIdx = some (1760, 15) ∧ 1760 ≤ (1760 : B16).toInt ∧
      (∀ q, (t0.pkg.stakes.get q).temp.toInt < 1760) ∧
      (heatChoice (four.foldl (fun s q => if s.array.live.get q then updStake q Stake.evaluate s else s) t0)).isSome = true := by
  decide +kernel

/-- Guest site 0 UP, the guest window of partition 0 open to id 0x10 as `guestCheck` answers it. -/
def tGuest (st : GuestSt) : State := updGuest 0 (fun x => { x with state := st, held := [(0x10, .lock 1)] }) t2

theorem wit_GuestsRun :
    ((tGuest .up).guest 0).state = .up ∧ ((tGuest .fenced).guest 0).state = .fenced ∧
      ((tGuest .train).guest 0).state = .train ∧ guestCheck (tGuest .up) 0 0x99 (.read 0 8) ≠ .ok 0 ∧
      (((tGuest .up).guest 0).held.any fun e => e.1 = 0x11) = false := by decide +kernel

/-! ## Power, start-up, management -/

/-- A start at a stage. -/
def tStage (st : Stage) : State := { State.reset with power := { State.reset.power with stage := st } }
/-- A report of stage 2 without defects. -/
def rep : StartReport := { badRail := none, hbmOk := true, bulkOk := true, flashOk := true, quarters := 0xF }

theorem wit_PowerRuns_start :
    (tStage .unpowered).power.stage = .unpowered ∧ (tStage .boot).power.stage = .boot ∧
      (tStage .waitPwr).power.stage = .waitPwr ∧ rep.badRail = none ∧ rep.hbmOk = true ∧ rep.bulkOk = true ∧
      rep.flashOk = true ∧ rep.quarters = 0xF ∧ anyLive (tStage .waitPwr) = true ∧
      (tStage .bringUp).power.stage = .bringUp ∧ starting (tStage .bringUp) = true ∧
      (tStage .retryWait).power.stage = .retryWait := by decide +kernel

theorem wit_PowerRuns_faults :
    mainOn t0 = true ∧ t0.power.stage = .ready ∧
      { t0.power with rails := 0xFFFFFF }.rails.getLsbD (13 : Fin 24).val = true ∧ (43999 : B16).toNat < 44000 ∧
      60000 < (60001 : B16).toNat ∧ tripLimit 16 ≤ (0x7FFF : B16).toInt := by decide +kernel

/-- A warden timer for a feature. -/
def tm (f : Byte) (action : Byte) : TimerUse := { wd with feature := f, action }
/-- The module with that timer. -/
def tTm (f action : Byte) : State := { t0 with host := { t0.host with timers := [(1, tm f action)] } }

theorem wit_ManagementRuns :
    busServed t0 = true ∧ 1 ≤ (8 : Byte).toNat ∧ (8 : Byte).toNat ≤ 8 ∧ timerOf (tTm 0x10 1) 0x10 0 = some (1, tm 0x10 1) ∧
      (tm 0x10 0).action ≠ 1 ∧ timerOf (tTm 0x11 0) 0x11 0 = some (1, tm 0x11 0) ∧
      timerOf (tTm 0x12 0) 0x12 0 = some (1, tm 0x12 0) ∧ timerOf (tTm 0x13 0) 0x13 0 = some (1, tm 0x13 0) := by
  decide +kernel

/-! ## Words and the whole machine -/

theorem wit_BenchWordsRoundTrip :
    (benchWord (.jump { p := 3, st := 1, prio := 2 } 0x3FFF 0xFF_FFFF_FFFF_FFF0)).isSome = true ∧
      benchSeat (.jump { p := 3, st := 1, prio := 2 } 0x3FFF 0xFF_FFFF_FFFF_FFF0) = some { p := 3, st := 1, prio := 2 } := by
  decide +kernel

theorem wit_PlateWordsRoundTrip :
    (plateWord (.addp hp 31 0xFFFF_FFFF)).isSome = true ∧ plateSeat (.addp hp 31 0xFFFF_FFFF) = some hp ∧ hp.rsvd = false := by
  decide +kernel

theorem wit_MemoryFormKept : memWf tBuf ∧ tBuf.mem ≠ [] := by decide +kernel

/-! ## The manual's worked examples -/

/-- "The end of a step": the reduction deadline 0x2E_E0FC_8040 is STEP 12,000, LEAF 63, REDUCE. -/
theorem test_position : posStep 0x2E_E0FC_8040 = 12000 ∧ posLeaf 0x2E_E0FC_8040 = 63 ∧ posPhase 0x2E_E0FC_8040 = 2 ∧
    posPhase 0x2E_E0FD_4000 = 5 ∧ posStep 0x2E_E100_0000 = 12001 := by decide +kernel

/-- "Encoding a set-sized product": the ARRAY word. -/
theorem test_array_word : benchOf 0 0 (0x1085_0C00_0000_0000 * 2 ^ 64 + 0x0000_0040_0000_0080) =
    some (.array { p := 0, st := 0, prio := 2, outTag := 5, in0 := 3 } 0x40_0000_0080) := by decide +kernel

/-- "A lock shared between partitions": the ST_LOCK and ST_UNLOCK words of index 0x8020, EPOCH 3. -/
theorem test_lock_words :
    benchOf 1 3 (0x3200_0000_3F80_2000 * 2 ^ 64) = some (.stLock { p := 1, st := 3 } 63 0x8020 0 0) ∧
      benchOf 1 3 (0x3300_0000_3F80_2003 * 2 ^ 64) = some (.stUnlock { p := 1, st := 3 } 63 0x8020 3 0) := by decide +kernel

/-- "A set-sized product": M = 1,900, N = 640, K = 300 in BF16. -/
def dSet : ArrayDesc := { m := 1900, n := 640, k := 300 }
theorem test_set_sized : dSet.tiles = 8 ∧ (∀ q, dSet.range (.all 8) q = (2 * q.val, 2 * q.val + 2)) ∧
    dSet.occ (.all 8) = 812 ∧
    reportNumbers { op7 with desc := dSet, shares := .all 8 } 0 = (812, 264345600, 0, 222298112, 0) := by decide +kernel

/-- Its layout in the stake: J = 5 blocks, panels of 8,192 bytes in a slice. -/
theorem test_set_layout : dSet.blocks = 5 ∧ dSet.panelBytes true = 8192 ∧ blockSlice true 3 4 = 3 * 8 + 4 ∧
    blockSlice false 3 4 = 4 * 8 + 3 ∧ Fmt.outBytes .bf16 = 8192 := by decide +kernel

/-- "Cancellation inside the window": the cell after each term, and what the rim drains in BF16. -/
theorem test_cancellation :
    let c0 := ({} : A96).step (.fin ⟨false, 3, 59, false⟩)
    let c1 := c0.step (.fin ⟨false, 3, -30, false⟩)
    let c2 := c1.step (.fin ⟨true, 3, 59, false⟩)
    let c3 := c2.step (.fin ⟨false, 1, -40, false⟩)
    (c0.anchor = 271 ∧ c0.value = 3 * 2 ^ 92) ∧ c1.value = 3 * 2 ^ 92 + 24 ∧ (c2.value = 24 ∧ c2.inexact = false) ∧
      (c3.anchor = 271 ∧ c3.value = 24 ∧ c3.inexact = true) ∧
      (Fmt.round .bf16 false c3.val .rne 0).code = 0x3140 := by decide +kernel

/-- "One dominant element": 5,000 and thirty-one times about 0.02 as MXFP4 and as MXFP8 E4M3. -/
theorem test_dominant :
    let vs : List Val := .fin ⟨false, 5000, 0, false⟩ :: List.replicate 31 (.fin ⟨false, 1342, -16, false⟩)
    let a := Fmt.roundGroup .mxFp4 false vs .rne fun _ => 0
    let b := Fmt.roundGroup .mxE4m3 false vs .rne fun _ => 0
    (a.scale = 0x89 ∧ a.codes = 0x6 :: List.replicate 31 0 ∧ a.flushed = 31) ∧
      (b.scale = 0x83 ∧ b.codes = 0x7A :: List.replicate 31 1 ∧ b.flushed = 0) ∧ b.flags.underflow = true ∧
      b.flags.inexact = true := by decide +kernel

/-- "One block of weights": the header of block 40. -/
theorem test_block_header : BlockHdr.toNat ⟨false, 3, 1, 21, false, 0, 880⟩ = 0x180D_4000_0000_0370 := by decide +kernel

/-- "Advancing a standalone position": the packet spells CAD_ADVANCE to 0x39FD_0000 on function 1. -/
theorem test_advance_packet :
    let body := leBytes 32 (0x0104_0000_2101_0000 * 2 ^ 192 + 0x3A41_0000_0000_0000 * 2 ^ 128 + 0x39FD_0000) ++ List.replicate 24 0
    let pk := body ++ leBytes 8 ((crc32c body).toNat * 2 ^ 32 + 0x3A41)
    sealOk pk = true ∧ parsePacket (.of 1 pk) [] =
      some (.cadAdvance { fn := 1, partition := 1, tag := 0x21, seq := 0x3A41 } 0x39FD_0000) := by decide +kernel

/-- "Step 12,000": X = 6,946,816 under E = −24 with a count of 15 has the mean 53 ÷ 1,920 in FP32. -/
theorem test_mean : (meanOf 6946816 (-24) 15).bits = 0x3CE2_2222 := by decide +kernel

/-- "One hot quarter, then two": the choice of clock and shares. -/
theorem test_heat :
    let fq (a b c d : Nat) : State := { t0 with pkg := { t0.pkg with stakes := ⟨{ fq := a }, { fq := b }, { fq := c }, { fq := d }⟩ } }
    heatChoice (fq 1400 1400 1100 1400) = some (1400, ⟨8, 8, 6, 8⟩) ∧
      heatChoice (fq 1400 1000 1100 1400) = some (1400, ⟨8, 5, 6, 8⟩) := by decide +kernel

/-- The tiles that those shares give a product of 64 tiles: 18, 12, 15 and 19. -/
theorem test_heat_tiles :
    let d : ArrayDesc := { m := 4096, n := 4096, k := 8192 }
    four.map (fun q => (d.range ⟨8, 5, 6, 8⟩ q).2 - (d.range ⟨8, 5, 6, 8⟩ q).1) = [18, 12, 15, 19] := by decide +kernel

/-- "Three requesters at one stack": bench (source 1), planisher and migration engine; AGE_N 4. -/
theorem test_arbiter :
    let g (t : Nat) (x : Arbiter) : Arbiter := decideGrant t false (offerAll t { x with
      behind := x.behind ++ [((1 : BitVec 4), (8 : Byte))] })
    let x0 : Arbiter := { ageN := 4, behind := [(6, 0x21), (7, 0x22), (1, 8), (1, 8)] }
    let x1 := g 0 x0
    let x4 := g 3 (g 2 (g 1 x1))
    let x8 := g 7 (g 6 (g 5 (g 4 { x4 with behind := x4.behind ++ [(6, 0x21)] })))
    x1.owner.map ArbReq.source = some 1 ∧ (x4.grants = 4 ∧ x4.owner.map ArbReq.source = some 6) ∧
      (x8.owner.map ArbReq.source = some 7 ∧ x8.aged = 2) := by decide +kernel

/-- "A Newton–Schulz update": the working copies of w₁₁ and w₂₁ in BF16, 0x3E72 and 0xBDE3. -/
theorem test_newton_schulz :
    let f (n : Int) (q : Int) : F32 := (laneRound ⟨decide (n < 0), n.natAbs, q, false⟩ .rne).bits
    let nlr := (f32Div (f (-2) 0) (f 100 0) .rne).bits
    let h : List F32 := [nlr, 0, 0, 0, 0, 0, f 1 (-30), 0, 0, 0, f 1 (-1), f 1 0, f 3 (-1), f (-1) (-1), 0, 0]
    let r := orthoUpdate h false 2 2 5 [f 1 0, f 1 0, f (-1) (-1), f 1 (-1)] [f 2 0, f 2 0, f (-1) 0, f 1 0]
      [f 1 (-2), f 1 (-2), f (-1) (-3), f 1 (-3)]
    (r.1.1 = [f 2 0, f 2 0, f (-1) 0, f 1 0]) ∧
      ((r.1.2.map fun w => (toBf16 w).code).take 3 = [0x3E72, 0x3E72, 0xBDE3]) := by decide +kernel

/-! ## Nothing waits

That no write of a command has to wait (`heldBack`), for the fixtures above. -/

theorem wit_held_MovesRun :
    let v := { mvOn with dirty := false }
    let x : Sheet := { tier := .hbm, frames := [2], unwritten := false }
    let u : State := { t1 with flash := { t1.flash with moves := [v] } }
    protectedSheet u 0 o1 1 = false ∧ moveDenied u v x = none ∧ heldBack u (switchMove v x u) = false ∧
      (let w : State := { u with acl := [(2 * 256 + 0x22, 0)] };
        moveDenied w v x = some (.r, 2) ∧ heldBack w (abandonMove v (denied 0 2 0x22 .r 1 w)) = false) := by decide +kernel

theorem wit_held_StRead :
    heldBack tBs (writeNat 0 0x100008 8 5 tBs) = false := by decide +kernel

theorem wit_held_TileDrain :
    heldBack tFeed (tileStep 0 tFeed) = false := by decide +kernel

theorem wit_held_ArrayComplete :
    heldBack tDone (endArray 3 tDone) = false := by decide +kernel

theorem wit_held_ContributionAdmission :
    let u := { tCon with contribs := tCon.contribs.eraseIdx 0 }
  heldBack tCon (admitContribution (con 0x100_0000) u) = false := by decide +kernel

theorem wit_held_Fxadd :
    heldBack tPlate (plateOp hp false (fun i s => fxAddInst hp 3 .rne (i.at 0 0) i s) tPlate) = false := by decide +kernel

theorem wit_held_BufferClose :
    heldBack tPv (closeFor 0 2 tPv) = false := by decide +kernel

theorem wit_held_ApplyRuns_mismatch :
    let s := tJob 1 0 2
  let s1 := touchRead 0 0x102000 8 (touchRead 0 0x101000 128 s)
  heldBack s (nextEntry 0 (countMismatch 0 s1)) = false := by decide +kernel

theorem wit_held_ApplyRuns_skip :
    let s := tJob 1 0 2
  heldBack s (nextEntry 0 (finishEntry 0 0x101000 2 1 (countSkipped 0 s))) = false := by decide +kernel

theorem wit_held_UnitRuns :
    heldBack tUnits (rewriteEntry 0 0x101000 (fun v => v) tUnits) = false := by decide +kernel

theorem wit_held_BufResetJob :
    let s := tJob 2 0 2
    let r := writeNat 0 0x101000 8 0x200000 s
    heldBack r (nextEntry 0 (resetBuf 0 o2 1 1 (touchRead 0 0x101000 8 r))) = false := by decide +kernel

theorem wit_held_BufReset : heldBack t2 (resetBuf 0 o2 0xFF_FFFF_FFFF 1 (begun h0 t2)) = false :=
  (resetBuf_quiet (s := begun h0 t2) _ _ _ ⟨by decide, by decide⟩).heldBack

theorem wit_held_CopyComplete :
    heldBack (tCopy cpRun) (writeMem 0 (0x11 * 65536) (readMem (tCopy cpRun) 0 8 (0x10 * 65536) 65536)
      (touchRead 0 (0x10 * 65536) 65536 (tCopy cpRun))) = false := by
  have k := touchRead_unmoved 0 (0x10 * 65536) 65536 (tCopy cpRun)
  have q := writeMem_quiet (p := 0) (s := touchRead 0 (0x10 * 65536) 65536 (tCopy cpRun)) ⟨by decide, by decide⟩
    (0x11 * 65536) (readMem (tCopy cpRun) 0 8 (0x10 * 65536) 65536)
  simp only [heldBack, q.waits, q.held, k.waits, k.held, lt_irrefl, decide_false, Bool.or_self]

theorem wit_held_ContextCopy : let s : State := { t2 with array := { t2.array with copyOut := some 0 } }
    heldBack s (copyContext 0 false s) = false := (copyContext_quiet ⟨by decide, by decide⟩ rfl).heldBack

theorem wit_held_FillSheet : let s := tStby.updRes 0 fun r => { r with fills := [fl], sbState := 2 }
    checkMem s 0 (0x30 + msgT.port.val) .w (o1.base + 0 * 65536) 65536 = .ok ∧
      heldBack s (writeMem 0 (o1.base + 0 * 65536) (List.replicate 65536 1) s) = false :=
  ⟨by decide +kernel, (writeMem_quiet ⟨by decide, by decide⟩ _ _).heldBack⟩

theorem wit_held_FillRepair : let a := { as1 with repairs := [(1, 1, 0)] }
    (o1.base + 1 * 65536) % 65536 = 0 ∧ o1.base + 1 * 65536 < winLo ∧
      checkMem (tAs a) 0 (0x30 + msg.port.val) .w (o1.base + 1 * 65536) 65536 = .ok ∧
      heldBack (tAs a) (writeMem 0 (o1.base + 1 * 65536) (List.replicate 65536 1) (tAs a)) = false :=
  ⟨by decide, by decide, by decide +kernel, (writeMem_quiet ⟨by decide, by decide⟩ _ _).heldBack⟩

theorem wit_held_AssayComparison (b : List Byte) :
    let u := takenFiring 0 fireAssay (tF.updCad 0 fun x => { x with assayQ := [] })
    heldBack (tF.updCad 0 fun c => { c with assayQ := [fireAssay] })
      (writeMem 0 0x200000 b (touchRead 0 o1.base (o1.sheets * 65536) u)) = false := by
  intro u
  have k := touchRead_unmoved 0 o1.base (o1.sheets * 65536) u
  have q := writeMem_quiet (p := 0) (s := touchRead 0 o1.base (o1.sheets * 65536) u) ⟨by decide +kernel, by decide +kernel⟩
    0x200000 b
  have f : u.flash = (tF.updCad 0 fun c => { c with assayQ := [fireAssay] }).flash := rfl
  simp only [heldBack, q.waits, q.held, k.waits, k.held, f, lt_irrefl, decide_false, Bool.or_self]

theorem wit_held_GuestRate : heldBack (tGuest .up) (passGuest 0 0x10 0 (.read 8 8) 0 (tGuest .up)) = false := by
  decide +kernel

/-- R592: RES_STANDBY at 0x080 + 8s is of the standby at position 32 + s. -/
theorem test_resStandby_place :
    resWord (State.reset.updRes 0 fun r => { r with standbys := [(33, { state := 1, cover := 0xF0 })] }) 0 0x88 =
      0x2000_0000_0000_00F0 := by decide

/-- R592: with partition 1 the folio partition, partition 0's resilience registers read zero. -/
theorem test_resOther_zero :
    resWord (updVesin (fun x => { x with fvalid := true, fpart := 1 }) State.reset) 0 0 = 0 := by decide

end Sys2Proof.Tests
end

section
/-!
Every step answers a next state and keeps memory in its canonical form (log entry 10).

The step goes through most of the model's functions, so there is one lemma for each function that answers a state, in
the model's order: `memWf_f` where `f` answers a state or a tuple with one, `okWf_f` and `someWf_f` where it may answer
none, `keeps_execX` for an instruction. A function's proof follows its branches and cites the lemmas of what it calls;
an update of another part of the state than `mem` needs no argument. Memory itself changes in `putMem`, in the clearing
of frames and at a reset, whose rules stand in `Laws/Memory`.
-/
namespace Sys2Proof.Machine

/-! ### What an answer's state keeps -/

/-- The state that a success carries, read off by `π`, has its memory in the form. -/
def OkWf {ε α : Type} (π : α → State) : Except ε α → Prop
  | .ok x => memWf (π x)
  | .error _ => True

/-- The state that an answer carries, if there is one, has its memory in the form. -/
def SomeWf {α : Type} (π : α → State) : Option α → Prop
  | some x => memWf (π x)
  | none => True

/-- The outcome is a next state, whose memory is in the form where that of `s` is. -/
def Keeps (s : State) : Host.Outcome State Fault Refusal → Prop
  | .next t => memWf s → memWf t
  | _ => False

/-- The state that the end of a policy change carries, if there is one, has its memory in the form. -/
def PolicyEndWf : Option (B16 × B128 × State) ⊕ State → Prop
  | .inl none => True
  | .inl (some e) => memWf e.2.2
  | .inr t => memWf t

theorem OkWf.of_eq {ε α : Type} {π : α → State} {r : Except ε α} {x : α} (h : OkWf π r) (e : r = .ok x) :
    memWf (π x) := by
  subst e; exact h

theorem SomeWf.of_eq {α : Type} {π : α → State} {r : Option α} {x : α} (h : SomeWf π r) (e : r = some x) :
    memWf (π x) := by
  subst e; exact h

theorem PolicyEndWf.of_done {r : Option (B16 × B128 × State) ⊕ State} {e : B16 × B128 × State}
    (h : PolicyEndWf r) (k : r = .inl (some e)) : memWf e.2.2 := by
  subst k; exact h

theorem PolicyEndWf.of_begun {r : Option (B16 × B128 × State) ⊕ State} {t : State} (h : PolicyEndWf r)
    (k : r = .inr t) : memWf t := by
  subst k; exact h

theorem SomeWf.map {α β : Type} {π : α → State} {ρ : β → State} {r : Option α} {f : α → β} (h : SomeWf π r)
    (k : ∀ x, memWf (π x) → memWf (ρ (f x))) : SomeWf ρ (r.map f) := by
  cases r with
  | none => exact trivial
  | some x => exact k x h

theorem SomeWf.filter {α : Type} {π : α → State} {r : Option α} {c : α → Bool} (h : SomeWf π r) :
    SomeWf π (r.filter c) := by
  cases r with
  | none => exact trivial
  | some x =>
    rw [Option.filter_some]
    split
    · exact h
    · exact trivial

theorem SomeWf.getD {s : State} {r : Option State} (h : SomeWf id r) (hs : Machine.memWf s) :
    Machine.memWf (r.getD s) := by
  cases r with
  | none => exact hs
  | some x => exact h

theorem memWf_setArray {s : State} {a : ArrayDev} (h : memWf s) : memWf { s with array := a } := h

theorem HostOnly.memWf {p : Part} {s t : State} (h : HostOnly p s t) (hs : memWf s) : memWf t := by
  rw [Machine.memWf, h.mem]; exact hs

theorem Steady.memWf {s t : State} (h : Steady s t) (hs : memWf s) : memWf t := by
  rw [Machine.memWf, h.mem]; exact hs

theorem Unmoved.memWf {s t : State} (h : Unmoved s t) (hs : memWf s) : memWf t := by
  rw [Machine.memWf, h.mem]; exact hs

theorem memWf_of_snd {α : Type} {r : α × State} {a : α} {t : State} (e : r = (a, t)) (h : memWf r.2) : memWf t := by
  subst e; exact h

theorem memWf_of_fst {α : Type} {r : State × α} {a : α} {t : State} (e : r = (t, a)) (h : memWf r.1) : memWf t := by
  subst e; exact h

theorem memWf_ite {c : Prop} [Decidable c] {s t : State} (h : memWf s) (k : memWf t) :
    memWf (if c then s else t) := by
  split
  · exact h
  · exact k

theorem memWf_ite_snd {α : Type} {c : Prop} [Decidable c] {s t : α × State} (h : memWf s.2) (k : memWf t.2) :
    memWf (if c then s else t).2 := by
  split
  · exact h
  · exact k

theorem memWf_foldl {α : Type} {f : State → α → State} (hf : ∀ s a, memWf s → memWf (f s a)) {l : List α}
    {s : State} (h : memWf s) : memWf (l.foldl f s) :=
  List.foldlRecOn (motive := fun s => memWf s) l f h fun s k a _ => hf s a k

theorem memWf_foldl_snd {α β : Type} {f : β × State → α → β × State} (hf : ∀ s a, memWf s.2 → memWf (f s a).2)
    {l : List α} {s : β × State} (h : memWf s.2) : memWf (l.foldl f s).2 :=
  List.foldlRecOn (motive := fun x => memWf x.2) l f h fun x k a _ => hf x a k

theorem memWf_foldl_snd_snd {α β γ : Type} {f : β × γ × State → α → β × γ × State}
    (hf : ∀ s a, memWf s.2.2 → memWf (f s a).2.2) {l : List α} {s : β × γ × State} (h : memWf s.2.2) :
    memWf (l.foldl f s).2.2 :=
  List.foldlRecOn (motive := fun x => memWf x.2.2) l f h fun x k a _ => hf x a k

theorem memWf_foldl_run {α : Type} {f : RouteRun → α → RouteRun} (hf : ∀ x a, memWf x.s → memWf (f x a).s)
    {l : List α} {x : RouteRun} (h : memWf x.s) : memWf (l.foldl f x).s :=
  List.foldlRecOn (motive := fun x => memWf x.s) l f h fun x k a _ => hf x a k

variable {p : Part} {s t : State}

/-! ### Functions of `Machine/State` -/

theorem memWf_upd {f : PartState → PartState} (hs : memWf s) : memWf (s.upd p f) := hs

/-! ### Functions of `Machine/Ops` -/

theorem memWf_tick (hs : memWf s) : memWf s.tick := hs

theorem memWf_updHost {f : HostPart → HostPart} (hs : memWf s) : memWf (s.updHost p f) := memWf_upd hs

theorem memWf_updCad {f : Cad → Cad} (hs : memWf s) : memWf (s.updCad p f) := memWf_upd hs

theorem memWf_updBench {f : Bench → Bench} (hs : memWf s) : memWf (s.updBench p f) := memWf_upd hs

theorem memWf_updVeto {f : Veto → Veto} (hs : memWf s) : memWf (s.updVeto p f) := memWf_upd hs

theorem memWf_updPln {f : Planisher → Planisher} (hs : memWf s) : memWf (s.updPln p f) := memWf_upd hs

theorem memWf_updTier {f : TierRegs → TierRegs} (hs : memWf s) : memWf (s.updTier p f) := memWf_upd hs

theorem memWf_updStc {f : StcRegs → StcRegs} (hs : memWf s) : memWf (s.updStc p f) := memWf_upd hs

theorem memWf_updAcl {f : AclRegs → AclRegs} (hs : memWf s) : memWf (s.updAcl p f) := memWf_upd hs

theorem memWf_updRes {f : Res → Res} (hs : memWf s) : memWf (s.updRes p f) := memWf_upd hs

theorem memWf_updStream {st : Strm} {f : Stream → Stream} (hs : memWf s) : memWf (s.updStream p st f) :=
  memWf_updBench hs

theorem memWf_out {e : BusEvent} (hs : memWf s) : memWf (s.out e) := hs

theorem memWf_raiseIrq {v : Fin 4} (hs : memWf s) : memWf (raiseIrq p v s) := (raiseIrq_only p v s).memWf hs

theorem memWf_raiseAlert (hs : memWf s) : memWf (raiseAlert s) := memWf_foldl (fun _ _ h => memWf_raiseIrq h) hs

theorem memWf_journal {kind status opcode tag : B16} {seq : B32} {detail : BitVec 224} (hs : memWf s) :
    memWf (journal p kind status opcode tag seq detail s) := (journal_only ..).memWf hs

theorem memWf_note {kind status : B16} {detail : BitVec 224} (hs : memWf s) : memWf (note p kind status detail s) :=
  (note_only ..).memWf hs

theorem memWf_noteAll {kind status : B16} {detail : BitVec 224} {affects : Part → Bool} (hs : memWf s) :
    memWf (noteAll kind status detail affects s) := memWf_foldl (fun _ _ h => memWf_ite (memWf_note h) h) hs

theorem memWf_hostWrite {fn : Part} {addr : B64} {bytes : List Byte} (hs : memWf s) :
    memWf (hostWrite fn addr bytes s) := hs

theorem memWf_flushHeld {l : List Reply} (hs : memWf s) : memWf (flushHeld p l s) := (flushHeld_only p l s).memWf hs

theorem memWf_postReply {r : Reply} (hs : memWf s) : memWf (postReply p r s) := (postReply_only p r s).memWf hs

theorem memWf_denied {t m : Nat} {g : Right} {detail : Nat} (hs : memWf s) : memWf (denied p t m g detail s) :=
  memWf_updAcl hs

theorem memWf_finishShort {h : CmdHdr} {opcode status : B16} {result : B128} (hs : memWf s) :
    memWf (finishShort h opcode status result s) := (finishShort_only ..).memWf hs

theorem memWf_startLong {h : CmdHdr} {opcode : B16} {params : List Byte} {w : LongWork} (hs : memWf s) :
    memWf (startLong h opcode params w s) := (startLong_only ..).memWf hs

theorem memWf_dropPacket (hs : memWf s) : memWf (dropPacket p s) := memWf_updHost hs

theorem memWf_finishCmd {info : CmdInfo} {h : CmdHdr} {params : List Byte} {r : CmdOut × State} (hr : memWf r.2) :
    memWf (finishCmd info h params r) := by
  unfold finishCmd
  split
  · exact memWf_finishShort hr
  · exact memWf_startLong hr
  · exact hr

theorem memWf_hostCmd {info : CmdInfo} {i : Instr} {h : CmdHdr} {params : List Byte} {bad : Bool}
    {act : State → CmdOut × State} (hact : ∀ (a : State), memWf a → memWf (act a).2) (hs : memWf s) :
    memWf (hostCmd info i h params bad act s) := by
  unfold hostCmd
  refine memWf_ite (memWf_dropPacket hs) (memWf_ite (memWf_updHost hs) ?_)
  dsimp only
  split
  · exact memWf_finishShort (memWf_updHost hs)
  · exact memWf_finishCmd (hact _ (memWf_updHost hs))

theorem memWf_finishLong {i : Nat} {status : B16} {result : B128} (hs : memWf s) :
    memWf (finishLong p i status result s) := (finishLong_only ..).memWf hs

@[simp] theorem keeps_next : Keeps s (next s) := id

/-! ### Functions of `Machine/Arbiters` -/

theorem memWf_updArb {a : Nat} {f : Arbiter → Arbiter} (hs : memWf s) : memWf (updArb a f s) := hs

theorem memWf_windowWrite {fn : Part} {off : Nat} (hs : memWf s) : memWf (windowWrite fn off s).2 :=
  memWf_ite_snd hs (memWf_denied hs)

theorem memWf_onWindow {fn : Part} {off : Nat} {f : State → State} (hf : ∀ (a : State), memWf a → memWf (f a))
    (hs : memWf s) :
    memWf (onWindow fn off f s) := by
  unfold onWindow
  split
  rename_i s₁ e
  have h₁ : memWf s₁ := memWf_of_snd e (memWf_windowWrite hs)
  exact memWf_ite (hf _ h₁) h₁

@[simp] theorem keeps_execArbMap {fn : Part} {a : Fin 60} {shadow : Bool} {size : Nat} {value : B64} :
    Keeps s (execArbMap fn a shadow size value s) :=
  fun hs => memWf_onWindow (fun _ h => memWf_ite (memWf_updArb h) h) hs

@[simp] theorem keeps_execArbCtrl {fn : Part} {a : Fin 60} {value : B32} : Keeps s (execArbCtrl fn a value s) :=
  fun hs => memWf_onWindow (fun _ h => memWf_ite (memWf_updArb h) h) hs

theorem memWf_commitMaps (hs : memWf s) : memWf (commitMaps s) := hs

@[simp] theorem keeps_execArbCommit {fn : Part} {value : B32} : Keeps s (execArbCommit fn value s) :=
  fun hs => memWf_onWindow (fun _ h => memWf_ite (memWf_commitMaps h) h) hs

@[simp] theorem keeps_execArbiterGrant {a : Fin 60} {past : ArbPast} {cycle : Nat} {withdrawn : Bool} :
    Keeps s (execArbiterGrant a past cycle withdrawn s) := fun hs => memWf_updArb hs

theorem memWf_actAclSet {first last master row : Nat} (hs : memWf s) : memWf (actAclSet first last master row s).2 :=
  memWf_ite_snd hs (memWf_ite_snd hs hs)

@[simp] theorem keeps_execAclSet {h : CmdHdr} {first last master row : Byte} :
    Keeps s (execAclSet h first last master row s) := fun hs => memWf_hostCmd (fun _ h => memWf_actAclSet h) hs

theorem memWf_endAclSet {first last master row : Nat} (hs : memWf s) : memWf (endAclSet first last master row s) :=
  memWf_foldl (fun _ _ h => by exact h) hs

/-! ### Functions of `Machine/Nand` -/

theorem memWf_updFlash {f : Flash → Flash} (hs : memWf s) : memWf (updFlash f s) := hs

theorem memWf_updRegion {i : Nat} {f : Region → Region} (hs : memWf s) : memWf (updRegion i f s) := memWf_updFlash hs

theorem memWf_moveUnit {region u : Nat} (hs : memWf s) : memWf (moveUnit region u s) :=
  (moveUnit_steady region u s).memWf hs

theorem memWf_writeManaged {region frame : Nat} (hs : memWf s) : memWf (writeManaged region frame s) :=
  (writeManaged_steady region frame s).memWf hs

theorem someWf_rewriteUnit (hs : memWf s) : SomeWf id (rewriteUnit s) := by
  unfold rewriteUnit
  split
  · exact trivial
  · dsimp only
    split
    · exact memWf_moveUnit (memWf_updFlash hs)
    · exact memWf_updFlash hs

theorem memWf_noteReadOnly {region : Nat} (hs : memWf s) : memWf (noteReadOnly region s) := memWf_note hs

theorem memWf_retireBlock {region b : Nat} (hs : memWf s) : memWf (retireBlock region b s) :=
  memWf_ite (memWf_noteReadOnly (memWf_updRegion (memWf_updFlash hs))) (memWf_updRegion (memWf_updFlash hs))

theorem memWf_failUnit {region u : Nat} (hs : memWf s) : memWf (failUnit region u s) :=
  memWf_retireBlock (memWf_tick hs)

theorem someWf_proveUnit (hs : memWf s) : SomeWf id (proveUnit s) := by
  unfold proveUnit
  split
  · exact trivial
  · extract_lets _ s₁
    have h₁ : memWf s₁ := memWf_tick (memWf_updFlash hs)
    split
    · exact memWf_failUnit h₁
    · exact h₁

theorem memWf_markBlock {region frame : Nat} (hs : memWf s) : memWf (markBlock region frame s) :=
  memWf_tick (memWf_updFlash hs)

/-! ### Functions of `Machine/Memory` -/

theorem memWf_updObj {h : Nat} {f : Obj → Obj} (hs : memWf s) : memWf (updObj p h f s) := memWf_updTier hs

theorem memWf_updSheet {h i : Nat} {f : Sheet → Sheet} (hs : memWf s) : memWf (updSheet p h i f s) := memWf_updObj hs

theorem memWf_noteDenied {m : Nat} {g : Right} {r : Acc} (hs : memWf s) : memWf (noteDenied p m g r s) := by
  unfold noteDenied
  split
  · exact memWf_denied hs
  · exact hs

theorem memWf_dueFold (hs : memWf s) : memWf (dueFold s) := (dueFold_unmoved s).memWf hs

theorem memWf_askFold {key : Nat} {refresh : Bool} (hs : memWf s) : memWf (askFold key refresh s) :=
  (askFold_unmoved key refresh s).memWf hs

theorem memWf_admitWaiting (hs : memWf s) : memWf (admitWaiting s) := memWf_dueFold hs

theorem memWf_dropOverlay {names : List Nat} (hs : memWf s) : memWf (dropOverlay names s) :=
  memWf_ite (memWf_admitWaiting hs) hs

theorem memWf_writeStriped {region frame off : Nat} {bytes : List Byte} (hs : memWf s) :
    memWf (writeStriped region frame off bytes s) := by
  unfold writeStriped
  extract_lets _ _ s₁
  have h₁ : memWf s₁ := memWf_putMem (memWf_putMem hs _ _) _ _
  exact memWf_ite (memWf_putMem hs _ _) (memWf_ite (memWf_updFlash h₁) (memWf_dueFold (memWf_updFlash h₁)))

theorem memWf_addMove {v : Move} (hs : memWf s) : memWf (addMove v s) := hs

theorem memWf_noteLookup (hs : memWf s) : memWf (noteLookup p s) := memWf_updTier hs

theorem memWf_countRead {x : Sheet} (hs : memWf s) : memWf (countRead x s) := (countRead_unmoved x s).memWf hs

theorem memWf_touchRead {a n : Nat} (hs : memWf s) : memWf (touchRead p a n s) := (touchRead_unmoved p a n s).memWf hs

theorem memWf_writeFrame {n : Nat} {t : Tier} {region off : Nat} {bytes : List Byte} {f : Nat} (hs : memWf s) :
    memWf (writeFrame p n t region off bytes s f) := by
  unfold writeFrame
  dsimp only
  split
  · exact memWf_writeStriped (memWf_updFlash hs)
  · exact memWf_writeManaged (memWf_putMem (memWf_updFlash hs) _ _)
  · exact memWf_putMem hs _ _

theorem memWf_dirtyMoves {h i : Nat} (hs : memWf s) : memWf (dirtyMoves p h i s) := memWf_updFlash hs

theorem memWf_writeSheet {h i n off : Nat} {x : Sheet} {bytes : List Byte} (hs : memWf s) :
    memWf (writeSheet p h i n off x bytes s) := by
  unfold writeSheet
  extract_lets s₁ s₂
  have h₁ : memWf s₁ := memWf_foldl (fun _ _ h => memWf_writeFrame h) hs
  have h₂ : memWf s₂ := by
    unfold s₂
    split
    · exact memWf_putMem h₁ _ _
    · exact h₁
  exact memWf_dirtyMoves (memWf_updSheet h₂)

theorem memWf_putStake {k : Nat} {bytes : List Byte} (hs : memWf s) : memWf (putStake k bytes s) :=
  memWf_foldl (fun _ _ h => memWf_dirtyMoves (memWf_updSheet h)) (memWf_putMem hs _ _)

theorem memWf_stageSheet {h i : Nat} {x : Sheet} (hs : memWf s) : memWf (stageSheet p h i x s) := by
  unfold stageSheet
  split
  · exact hs
  · exact memWf_ite (memWf_updRes hs) hs

theorem memWf_writeRun {e : Nat × List Byte} (hs : memWf s) : memWf (writeRun p s e) := by
  unfold writeRun
  refine memWf_ite (memWf_putStake hs) ?_
  split
  · exact hs
  · dsimp only
    split
    · exact memWf_putMem hs _ _
    · split
      · exact hs
      · exact memWf_ite hs (memWf_ite (memWf_updFlash hs) (memWf_writeSheet (memWf_stageSheet (memWf_noteLookup hs))))

theorem memWf_writeMem {a : Nat} {bytes : List Byte} (hs : memWf s) : memWf (writeMem p a bytes s) :=
  memWf_foldl (fun _ _ h => memWf_writeRun h) hs

theorem memWf_writeNat {a n v : Nat} (hs : memWf s) : memWf (writeNat p a n v s) := memWf_writeMem hs

theorem memWf_stall (hs : memWf s) : memWf (stall p s t) := memWf_ite (memWf_updFlash hs) hs

theorem memWf_settle (hs : memWf s) (ht : memWf t) : memWf (settle p s t) := memWf_ite (memWf_stall hs) ht

theorem memWf_settleMsg {m : MsgHdr} {i : Instr} (hs : memWf s) (ht : memWf t) : memWf (settleMsg m i s t) :=
  memWf_ite (memWf_stall hs) ht

theorem memWf_settleCmd {i : Instr} (hs : memWf s) (ht : memWf t) : memWf (settleCmd i p s t) :=
  memWf_ite (memWf_updHost (memWf_stall hs)) ht

theorem memWf_noteBroken {h : Nat} (hs : memWf s) : memWf (noteBroken p h s) := memWf_updObj hs

theorem memWf_poisonSheet {h i : Nat} (hs : memWf s) : memWf (poisonSheet p h i s) := by
  unfold poisonSheet
  extract_lets _ s₁ _ _ s₂
  have h₁ : memWf s₁ := memWf_noteBroken (memWf_updSheet hs)
  have h₂ : memWf s₂ := by
    unfold s₂
    split
    · exact memWf_ite (memWf_markBlock (memWf_ite hs h₁)) (memWf_ite hs h₁)
    · exact memWf_ite hs h₁
  exact memWf_note h₂

theorem memWf_clearFrames {t : Tier} {region : Nat} {fs : List Nat} (hs : memWf s) :
    memWf (clearFrames t region fs s) :=
  memWf_ite (memWf_dropOverlay (memWf_updFlash (wf_clearRuns _ _ _ hs))) (memWf_updFlash (wf_clearRuns _ _ _ hs))

theorem memWf_backfill {t : Tier} {region : Nat} (hs : memWf s) : memWf (backfill p t region s) := by
  unfold backfill
  split
  · exact hs
  · split
    · exact hs
    · exact memWf_addMove hs

theorem memWf_backfills {t : Tier} {region n : Nat} (hs : memWf s) : memWf (backfills p t region n s) := by
  induction n generalizing s with
  | zero => exact hs
  | succ n ih => exact ih (memWf_backfill hs)

theorem memWf_backfillFreed {freed : List (Tier × Nat)} (hs : memWf s) : memWf (backfillFreed p freed s) :=
  memWf_foldl (fun _ _ h => memWf_ite h (memWf_backfill h)) hs

/-! ### Functions of `Machine/Buffers` -/

theorem memWf_setBufHdr {o : Obj} {b : BufHdr} (hs : memWf s) : memWf (setBufHdr p o b s) := memWf_writeNat hs

theorem memWf_setBufEntry {b : BufHdr} {n : Nat} {e : BufEntry} (hs : memWf s) : memWf (setBufEntry p b n e s) :=
  memWf_writeNat hs

theorem memWf_refuseContribution {o : Obj} {why : BufHdr → BufHdr} (hs : memWf s) :
    memWf (refuseContribution p o why s) := memWf_ite (memWf_updVeto hs) (memWf_setBufHdr (memWf_updVeto hs))

theorem memWf_addElements {b : BufHdr} {n : Nat} {adds : List (Nat × Int)} (hs : memWf s) :
    memWf (addElements p b n adds s) := memWf_foldl (fun _ _ h => memWf_writeNat h) hs

theorem memWf_addSheet {a step mask : Nat} {torn : Bool} {data : List Byte} (hs : memWf s) :
    memWf (addSheet p a step mask torn data s) := by
  unfold addSheet
  split
  · exact memWf_writeMem hs
  · refine memWf_ite (memWf_refuseContribution hs) ?_
    dsimp only
    split
    · exact memWf_refuseContribution hs
    · exact memWf_setBufEntry (memWf_addElements hs)

theorem memWf_deadlineBuf {step expect : Nat} {e : Nat × Obj} (hs : memWf s) :
    memWf (deadlineBuf p step expect s e) := memWf_ite hs (memWf_setBufHdr hs)

theorem memWf_closeBuf {o : Obj} (hs : memWf s) : memWf (closeBuf p o s) :=
  memWf_setBufHdr (memWf_foldl (fun _ _ h => memWf_ite (memWf_setBufEntry h) h) hs)

theorem memWf_zeroSheets {base n : Nat} (hs : memWf s) : memWf (zeroSheets p base n s) := by
  induction n generalizing s with
  | zero => exact hs
  | succ n ih => exact ih (memWf_writeMem hs)

theorem memWf_resetBuf {o : Obj} {step expect : Nat} (hs : memWf s) : memWf (resetBuf p o step expect s) := by
  unfold resetBuf
  extract_lets _ _ s₁
  have h₁ : memWf s₁ := memWf_setBufHdr (memWf_zeroSheets hs)
  split
  · exact memWf_updObj h₁
  · exact h₁

/-! ### Functions of `Machine/Frames` -/

theorem memWf_updPort {v : Port} {f : VPort → VPort} (hs : memWf s) : memWf (updPort v f s) := hs

theorem memWf_putFlit {v : Port} {bytes : List Byte} (hs : memWf s) : memWf (putFlit v bytes s) :=
  memWf_ite (memWf_updPort hs) hs

theorem memWf_sendIdle {v : Port} (hs : memWf s) : memWf (sendIdle v s) := memWf_putFlit hs

theorem memWf_sendLink {v : Port} {body : List Byte} (hs : memWf s) : memWf (sendLink v body s) :=
  memWf_putFlit (memWf_updPort hs)

theorem memWf_sendRun {v : Port} (hs : memWf s) : memWf (sendRun v s) := by
  unfold sendRun
  dsimp only
  split
  · exact hs
  · exact memWf_ite hs (memWf_foldl (fun _ _ h => memWf_putFlit h) (memWf_updPort hs))

theorem memWf_pump {v : Port} {n : Nat} (hs : memWf s) : memWf (pump v n s) := by
  induction n generalizing s with
  | zero => exact hs
  | succ n ih => exact memWf_ite hs (memWf_ite hs (ih (memWf_sendRun hs)))

theorem memWf_handOver {m : OutMsg} {v : Port} (hs : memWf s) : memWf (handOver m v s) :=
  memWf_pump hs

theorem memWf_dispatchMsg {m : OutMsg} (hs : memWf s) : memWf (dispatchMsg m s) := by
  unfold dispatchMsg
  dsimp only
  split
  · exact memWf_handOver hs
  · exact hs

theorem memWf_noteDropped {b : MsgBody} (hs : memWf s) : memWf (noteDropped b s) := memWf_ite (memWf_updRes hs) hs

theorem memWf_sendMsgAs {master : Option Nat} {d : Nat} {body : MsgBody} {waiter : Waiter} (hs : memWf s) :
    memWf (sendMsgAs master d body waiter s) := memWf_ite hs (memWf_ite (memWf_noteDropped hs) (memWf_dispatchMsg hs))

theorem memWf_sendMsg {d : Nat} {body : MsgBody} {waiter : Waiter} (hs : memWf s) : memWf (sendMsg d body waiter s) :=
  memWf_sendMsgAs hs

theorem memWf_sendAll {ds : List Nat} {body : MsgBody} (hs : memWf s) : memWf (sendAll ds body s) :=
  memWf_foldl (fun _ _ h => memWf_sendMsg h) hs

theorem memWf_noteSendDenied {v : Port} {m : Nat} {b : MsgBody} (hs : memWf s) : memWf (noteSendDenied p v m b s) :=
  memWf_denied hs

theorem memWf_engineSend {m d : Nat} {body : MsgBody} (hs : memWf s) : memWf (engineSend m d body s) := by
  unfold engineSend
  split
  · exact memWf_noteSendDenied hs
  · exact memWf_sendMsgAs hs

/-! ### Functions of `Machine/Cadence` -/

theorem memWf_rearm {i : Nat} {e : Event} {pos : B64} (hs : memWf s) : memWf (rearm p i e pos s) := memWf_updCad hs

theorem memWf_fireEntry {pos : B64} {i : Nat} (hs : memWf s) : memWf (fireEntry p pos s i) := by
  unfold fireEntry
  extract_lets
  split
  · exact hs
  · extract_lets _ s₁ _ s₂ s₃ s₄
    have h₂ : memWf s₂ := memWf_updCad (memWf_ite (memWf_note hs) hs)
    have h₃ : memWf s₃ := memWf_foldl (fun _ _ h => memWf_deadlineBuf h) h₂
    have h₄ : memWf s₄ := memWf_updCad h₂
    exact memWf_ite hs (memWf_ite (memWf_rearm (memWf_note (memWf_updCad hs)))
      (memWf_ite (memWf_ite (memWf_updCad h₃) (memWf_rearm h₃)) (memWf_ite h₄ (memWf_rearm h₄))))

theorem memWf_takenFiring {f : Firing} (hs : memWf s) : memWf (takenFiring p f s) := memWf_updCad hs

theorem memWf_doneFiring {f : Firing} (hs : memWf s) : memWf (doneFiring p f s) := memWf_updCad hs

theorem memWf_captureFinals {pos : B64} {fired : List Nat} (hs : memWf s) : memWf (captureFinals p pos fired s) :=
  memWf_updRes hs

theorem memWf_applyPos {pos : B64} (hs : memWf s) : memWf (applyPos p pos s) :=
  memWf_captureFinals (memWf_foldl (fun _ _ h => memWf_fireEntry h) (memWf_ite hs (memWf_updCad hs)))

theorem memWf_sendMarks {pos : B64} (hs : memWf s) : memWf (sendMarks p pos s) := memWf_ite (memWf_sendAll hs) hs

theorem memWf_noteStale (hs : memWf s) : memWf (noteStale p s) := memWf_updCad hs

theorem memWf_advance {pos : B64} (hs : memWf s) : memWf (advance p pos s).2 :=
  memWf_ite_snd (memWf_noteStale hs) (memWf_ite_snd
    (memWf_ite_snd (memWf_updRes hs) (memWf_sendMarks (memWf_applyPos (memWf_updRes hs))))
    (memWf_sendMarks (memWf_applyPos hs)))

theorem memWf_resNote {event : Nat} {status : B16} {detail : BitVec 224} (hs : memWf s) :
    memWf (resNote p event status detail s) := memWf_note hs

theorem memWf_setHold {h : BitVec 6} (hs : memWf s) : memWf (setHold p h s) :=
  memWf_ite hs (memWf_ite (memWf_resNote (memWf_updRes hs))
    (memWf_ite (memWf_sendMarks (memWf_applyPos (memWf_updRes (memWf_resNote (memWf_updRes hs)))))
    (memWf_updRes (memWf_resNote (memWf_updRes hs)))))

theorem memWf_holdReason {i : Nat} {on : Bool} (hs : memWf s) : memWf (holdReason p i on s) := memWf_setHold hs

theorem memWf_actCadAdvance {pos : B64} (hs : memWf s) : memWf (actCadAdvance p pos s).2 := by
  unfold actCadAdvance
  refine memWf_ite_snd hs (memWf_ite_snd hs ?_)
  split
  rename_i s₁ e
  exact memWf_of_snd e (memWf_advance hs)

@[simp] theorem keeps_execCadAdvance {h : CmdHdr} {pos : B64} : Keeps s (execCadAdvance h pos s) :=
  fun hs => memWf_hostCmd (fun _ h => memWf_actCadAdvance h) hs

theorem memWf_actEvtWrite {idx : Nat} {entry : B256} (hs : memWf s) : memWf (actEvtWrite p idx entry s).2 := by
  unfold actEvtWrite
  refine memWf_ite_snd hs (memWf_ite_snd hs ?_)
  split
  · exact hs
  · exact memWf_updCad hs

@[simp] theorem keeps_execEvtWrite {h : CmdHdr} {idx : B16} {entry : B256} : Keeps s (execEvtWrite h idx entry s) :=
  fun hs => memWf_hostCmd (fun _ h => memWf_actEvtWrite h) hs

@[simp] theorem keeps_execEvtClear {h : CmdHdr} {idx : B16} : Keeps s (execEvtClear h idx s) :=
  fun hs => memWf_hostCmd (fun _ h => memWf_ite_snd h (memWf_updCad h)) hs

@[simp] theorem keeps_execEvtRead {h : CmdHdr} {first count : B16} {addr : B64} :
    Keeps s (execEvtRead h first count addr s) :=
  fun hs => memWf_hostCmd (fun _ h => memWf_ite_snd h (memWf_hostWrite h)) hs

theorem memWf_loadTime {t : B64} (hs : memWf s) : memWf (loadTime t s) := memWf_ite (memWf_noteAll hs) hs

@[simp] theorem keeps_execTimeSet {h : CmdHdr} {mode : Byte} {time : B64} : Keeps s (execTimeSet h mode time s) :=
  fun hs => memWf_hostCmd (fun _ h => by exact memWf_ite_snd h (memWf_ite_snd (memWf_loadTime h) h)) hs

theorem memWf_actCadIoCfg {func part : Nat} (hs : memWf s) : memWf (actCadIoCfg p func part s).2 :=
  memWf_ite_snd hs (memWf_ite_snd hs hs)

@[simp] theorem keeps_execCadIoCfg {h : CmdHdr} {func part : Byte} : Keeps s (execCadIoCfg h func part s) :=
  fun hs => memWf_hostCmd (fun _ h => memWf_actCadIoCfg h) hs

@[simp] theorem keeps_execPpsEdge {onIo : Bool} : Keeps s (execPpsEdge onIo s) := by
  unfold execPpsEdge
  split
  · exact id
  · dsimp only
    split
    · exact fun hs => memWf_loadTime hs
    · exact id

@[simp] theorem keeps_execPpsLost : Keeps s (execPpsLost s) := fun hs => memWf_ite hs hs

/-! ### Functions of `Machine/Objects` -/

theorem memWf_updSlot {i : Nat} {f : PunchSlot → PunchSlot} (hs : memWf s) : memWf (updSlot i f s) := hs

theorem memWf_takeRefs {i n : Nat} (hs : memWf s) : memWf (takeRefs i n s) := memWf_updSlot hs

theorem memWf_dropRefs {i n : Nat} (hs : memWf s) : memWf (dropRefs i n s) := memWf_updSlot hs

theorem memWf_dropImages {region : Nat} {frames : List Nat} (hs : memWf s) : memWf (dropImages region frames s) := hs

theorem memWf_newSet {region : Nat} {m : Map Sheet} {g : Image} (hs : memWf s) : memWf (newSet region m g s) := by
  unfold newSet
  split <;> exact hs

theorem memWf_retagFrame {n : Nat} {x : Sheet} {f : Nat} (hs : memWf s) : memWf (retagFrame p n x s f) := by
  unfold retagFrame
  dsimp only
  split
  · exact hs
  · exact memWf_ite hs (memWf_updFlash (memWf_ite (memWf_putMem (memWf_putMem hs _ _) _ _) (memWf_putMem hs _ _)))

theorem memWf_addObject {kind : ObjKind} {policy : B128} {sheets : Nat} {placed : Map Sheet × List Nat × Nat}
    (hs : memWf s) :
    memWf (addObject p kind policy sheets placed s) := by
  unfold addObject
  extract_lets _ _ _ s₁ _ s₂ s₃
  have h₁ : memWf s₁ := memWf_ite (memWf_foldl (fun _ _ h => memWf_foldl (fun _ _ k => memWf_retagFrame k) h) hs)
    (memWf_foldl (fun _ _ h => memWf_clearFrames h) hs)
  have h₂ : memWf s₂ := memWf_ite h₁ (memWf_dropImages h₁)
  have h₃ : memWf s₃ := by
    unfold s₃
    split
    · exact memWf_newSet h₂
    · exact memWf_newSet h₂
    · exact h₂
  exact memWf_updTier h₃

theorem memWf_initBuf {h step expect : Nat} (hs : memWf s) : memWf (initBuf p h step expect s) := by
  unfold initBuf
  split
  · exact hs
  · exact memWf_resetBuf hs

theorem memWf_createObject {sheets : Nat} {policy : B128} {option : Byte} {block : B256} (hs : memWf s) :
    memWf (createObject p sheets policy option block s).2 := by
  unfold createObject
  refine memWf_ite_snd hs ?_
  split
  · exact hs
  · refine memWf_ite_snd hs ?_
    split
    · exact hs
    · extract_lets _ s₁ s₂
      have h₁ : memWf s₁ := memWf_addObject hs
      have h₂ : memWf s₂ := by
        unfold s₂
        split
        · exact memWf_initBuf h₁
        · exact h₁
      exact memWf_ite_snd hs h₂

theorem memWf_removeObject {h : Nat} (hs : memWf s) : memWf (removeObject p h s) := by
  unfold removeObject
  split
  · exact hs
  · exact memWf_foldl (fun _ _ h => memWf_dropRefs h) hs

theorem memWf_destroyObject {h : Nat} (hs : memWf s) : memWf (destroyObject p h s) := by
  unfold destroyObject
  split
  · exact hs
  · exact memWf_backfillFreed (memWf_removeObject hs)

theorem memWf_dropWaiting {h : Nat} (hs : memWf s) : memWf (dropWaiting p h s) := memWf_updFlash hs

theorem okWf_reservePolicy {h : Nat} {bits : B128} (hs : memWf s) : OkWf id (reservePolicy p h bits s) := by
  unfold reservePolicy
  split
  · exact trivial
  · dsimp only
    split
    · exact trivial
    · split
      · exact trivial
      · exact memWf_backfillFreed (memWf_foldl (fun _ _ h => memWf_addMove h) hs)

theorem policyEndWf_endPolicy {h : Nat} {bits : B128} {begun : Bool} (hs : memWf s) :
    PolicyEndWf (endPolicy p h bits begun s) := by
  unfold endPolicy
  dsimp only
  split
  · split
    · exact trivial
    · exact memWf_updObj hs
  · split
    · exact trivial
    · split
      · exact memWf_updObj hs
      · rename_i s₁ e
        exact (okWf_reservePolicy (memWf_dropWaiting hs)).of_eq e

theorem memWf_updMove {ident : Nat} {f : Move → Move} (hs : memWf s) : memWf (updMove ident f s) := hs

theorem memWf_endMove {ident : Nat} (hs : memWf s) : memWf (endMove ident s) := hs

theorem memWf_windowFrame {h : Nat} {o : Obj} (hs : memWf s) : memWf (windowFrame p h o s).2 := by
  unfold windowFrame
  split
  · exact memWf_updObj hs
  · dsimp only
    split
    · exact hs
    · exact memWf_updSheet hs

theorem memWf_startMove (hs : memWf s) : memWf (startMove s) := by
  unfold startMove
  dsimp only
  split
  · exact hs
  · refine memWf_ite ?_ (memWf_updMove hs)
    split
    · exact hs
    · exact memWf_updMove (memWf_windowFrame hs)

theorem memWf_arrive {n : Nat} {t : Tier} {region : Nat} {data : List Byte} {f : Nat} (hs : memWf s) :
    memWf (arrive p n t region data s f) :=
  memWf_ite (memWf_dropOverlay (memWf_updFlash (memWf_putMem hs _ _))) (memWf_writeFrame hs)

theorem memWf_releaseWrites {n : Nat} (hs : memWf s) : memWf (releaseWrites p n s) :=
  memWf_foldl (fun _ _ h => memWf_writeRun h) (memWf_updFlash hs)

theorem memWf_abandonMove {v : Move} (hs : memWf s) : memWf (abandonMove v s) :=
  memWf_ite (memWf_updObj (memWf_endMove hs)) (memWf_releaseWrites (memWf_endMove hs))

theorem memWf_switchMove {v : Move} {x : Sheet} (hs : memWf s) : memWf (switchMove v x s) := by
  unfold switchMove
  extract_lets _ s₁
  have h₁ : memWf s₁ := memWf_ite (memWf_clearFrames hs)
    (memWf_foldl (fun _ _ h => memWf_arrive h) (memWf_countRead hs))
  exact memWf_ite (memWf_updObj (memWf_updTier (memWf_endMove h₁)))
    (memWf_releaseWrites (memWf_backfillFreed (memWf_updSheet (memWf_updTier (memWf_endMove h₁)))))

theorem memWf_noteRetry {x : Sheet} (hs : memWf s) : memWf (noteRetry x s) := memWf_ite (memWf_updFlash hs) hs

theorem memWf_endCopy {v : Move} {media : Media} (hs : memWf s) : memWf (endCopy v media s) := by
  unfold endCopy
  split
  · exact memWf_abandonMove hs
  · extract_lets s₁
    have h₁ : memWf s₁ := memWf_ite (memWf_noteRetry hs) hs
    refine memWf_ite (memWf_abandonMove h₁) ?_
    split
    · exact memWf_abandonMove (memWf_denied h₁)
    · exact memWf_ite (memWf_poisonSheet (memWf_abandonMove h₁))
        (memWf_ite (memWf_abandonMove h₁) (memWf_ite (memWf_updMove h₁)
        (memWf_ite (memWf_updMove (memWf_updTier h₁)) (memWf_switchMove h₁))))

theorem memWf_endFold (hs : memWf s) : memWf (endFold s) := by
  unfold endFold
  split
  · exact hs
  · exact memWf_admitWaiting (wf_clearRuns _ _ _ (memWf_foldl (fun _ _ h => memWf_putMem h _ _) hs))

/-! ### Functions of `Machine/Stitch` -/

theorem memWf_putStitch {g : Nat} {x : Stitch} (hs : memWf s) : memWf (putStitch g x s) := hs

theorem memWf_denyStitch {m : Nat} {op : StOp} {i : Nat} {t : Option Nat} (hs : memWf s) :
    memWf (denyStitch p m op i t s) := by
  unfold denyStitch
  split
  · exact memWf_denied hs
  · exact hs

theorem memWf_grantHead {q : StReq} (hs : memWf s) : memWf (grantHead q s) := memWf_updStream hs

theorem memWf_checkWaits {g : Nat} (hs : memWf s) : memWf (checkWaits g s) :=
  memWf_foldl (fun _ _ h => memWf_grantHead h) (memWf_putStitch hs)

theorem memWf_grantLock {g : Nat} (hs : memWf s) : memWf (grantLock g s) := by
  unfold grantLock
  refine memWf_ite hs ?_
  split
  · exact hs
  · exact memWf_grantHead (memWf_putStitch hs)

theorem memWf_signalStitch {g v : Nat} (hs : memWf s) : memWf (signalStitch g v s) := by
  unfold signalStitch
  extract_lets _ _ _ s₁
  have h₁ : memWf s₁ := by
    unfold s₁
    split
    · exact memWf_updStc (memWf_putStitch hs)
    · exact memWf_putStitch hs
  exact memWf_checkWaits h₁

theorem okWf_lockStitch {g m : Nat} {st : Strm} (hs : memWf s) : OkWf id (lockStitch g m st s) := by
  unfold lockStitch
  dsimp only
  split
  · exact trivial
  · exact trivial
  · exact memWf_putStitch hs

theorem okWf_unlockStitch {g m : Nat} {st : Strm} {e : Byte} (hs : memWf s) : OkWf id (unlockStitch g m st e s) := by
  unfold unlockStitch
  dsimp only
  split
  · exact trivial
  · split
    · exact trivial
    · exact memWf_grantLock (memWf_putStitch hs)

theorem okWf_registerHead {g : Nat} {q : StReq} (hs : memWf s) : OkWf id (registerHead g q s) := by
  unfold registerHead
  dsimp only
  split
  · exact trivial
  · split
    · exact trivial
    · exact memWf_ite (memWf_grantLock (memWf_updStream (memWf_putStitch hs)))
        (memWf_checkWaits (memWf_updStream (memWf_putStitch hs)))

theorem memWf_unregister {st : Strm} (hs : memWf s) : memWf (unregister p st s) := memWf_updStream hs

theorem memWf_stopStream {f : FaultAt} (hs : memWf s) : memWf (stopStream f s) :=
  memWf_raiseIrq (memWf_note (memWf_unregister (memWf_updStream hs)))

theorem memWf_breakStitch {g : Nat} (hs : memWf s) : memWf (breakStitch g s).1 := by
  unfold breakStitch
  extract_lets _ _ _ s₁
  have h₁ : memWf s₁ := by
    unfold s₁
    split
    · exact memWf_putStitch hs
    · exact memWf_note (memWf_updStc (memWf_putStitch hs))
  exact memWf_foldl (fun _ _ h => memWf_updStream (memWf_updStc h)) h₁

theorem memWf_breakEach {gs : List Nat} (hs : memWf s) : memWf (breakEach gs s).1 := by
  induction gs generalizing s with
  | nil => exact hs
  | cons g gs ih => exact ih (memWf_breakStitch hs)

theorem memWf_runFaults {n : Nat} {l : List FaultAt} (hs : memWf s) : memWf (runFaults n l s) := by
  induction n generalizing l s with
  | zero => exact hs
  | succ n ih =>
    cases l with
    | nil => exact hs
    | cons f l => exact ih (memWf_breakEach (memWf_stopStream hs))

theorem memWf_programFault {f : FaultAt} (hs : memWf s) : memWf (programFault f s) := memWf_runFaults hs

theorem memWf_breakStitches {gs : List Nat} (hs : memWf s) : memWf (breakStitches gs s) := by
  unfold breakStitches
  split
  rename_i s₁ _ e
  have h₁ : memWf s₁ := memWf_of_fst e (memWf_breakEach hs)
  exact memWf_runFaults h₁

theorem memWf_engineSignal {m i : Nat} (hs : memWf s) : memWf (engineSignal p m i s).2 := by
  unfold engineSignal
  split
  · exact memWf_signalStitch hs
  · exact memWf_denyStitch hs

/-! ### Functions of `Machine/Punch` -/

theorem memWf_actPunchLoad {slot gen : Nat} {image : List Byte} (hs : memWf s) :
    memWf (actPunchLoad p slot gen image s).2 :=
  memWf_ite_snd hs (memWf_ite_snd hs (memWf_ite_snd (memWf_upd hs) (memWf_updSlot hs)))

@[simp] theorem keeps_execPunchLoad {h : CmdHdr} {slot gen : Byte} {addr : B64} {image : List Byte} :
    Keeps s (execPunchLoad h slot gen addr image s) := fun hs => memWf_hostCmd (fun _ h => memWf_actPunchLoad h) hs

theorem memWf_actPunchRetire {slot : Nat} (hs : memWf s) : memWf (actPunchRetire p slot s).2 :=
  memWf_ite_snd hs (memWf_ite_snd hs (memWf_ite_snd hs (memWf_updSlot hs)))

@[simp] theorem keeps_execPunchRetire {h : CmdHdr} {slot : Byte} : Keeps s (execPunchRetire h slot s) :=
  fun hs => memWf_hostCmd (fun _ h => memWf_actPunchRetire h) hs

theorem memWf_releaseWork {w : LongWork} (hs : memWf s) : memWf (releaseWork w s) := by
  unfold releaseWork
  split
  · exact memWf_foldl (fun _ _ h => memWf_dropRefs h) hs
  · exact memWf_foldl (fun _ _ h => memWf_dropRefs h) hs
  · exact hs

theorem memWf_actPack {src dst : Nat} {mask stitch : B16} (hs : memWf s) :
    memWf (actPack p src dst mask stitch s).2 := by
  unfold actPack
  split
  · split
    · exact memWf_ite_snd hs (memWf_foldl (fun _ _ h => memWf_takeRefs h) hs)
    · exact hs
  · exact hs

@[simp] theorem keeps_execPack {h : CmdHdr} {src dst : B32} {mask stitch : B16} :
    Keeps s (execPack h src dst mask stitch s) := fun hs => memWf_hostCmd (fun _ h => memWf_actPack h) hs

theorem memWf_packCheck {g : Right} {o : Obj} (hs : memWf s) : memWf (packCheck p g o s).2 := by
  unfold packCheck
  dsimp only
  split
  · exact hs
  · exact hs
  · exact memWf_noteDenied hs

theorem memWf_packSignal {stitch : B16} (hs : memWf s) : memWf (packSignal p stitch s) :=
  memWf_ite hs (memWf_engineSignal hs)

theorem memWf_packBlock {dst : Nat} {o : Obj} {blocks : Nat} {f16 : Bool} {i g : Nat}
    {form : Option (Nat × List Byte)} {data : List Byte} (hs : memWf s) :
    memWf (packBlock p dst o blocks f16 i g form data s).2 := by
  unfold packBlock
  split
  extract_lets _ _ s₁ s₂
  have h₁ : memWf s₁ := by
    unfold s₁
    split
    · exact memWf_updObj (memWf_dropRefs (memWf_writeNat (memWf_writeMem hs)))
    · exact memWf_writeNat (memWf_writeMem hs)
  have h₂ : memWf s₂ := by
    unfold s₂
    split
    · exact memWf_updObj (memWf_takeRefs h₁)
    · exact h₁
  exact memWf_upd h₂

theorem memWf_endPack {src dst : Nat} {mask stitch : B16} (hs : memWf s) :
    memWf (endPack p src dst mask stitch s).2.2 := by
  unfold endPack
  dsimp only
  split
  · split
    · split
      · rename_i s₁ e
        have h₁ : memWf s₁ := memWf_of_snd e (memWf_packCheck hs)
        exact memWf_releaseWork h₁
      · rename_i s₂ e
        have h₂ : memWf s₂ := memWf_of_snd e (memWf_packCheck hs)
        split
        · rename_i s₃ e
          have h₃ : memWf s₃ := memWf_of_snd e (memWf_packCheck h₂)
          exact memWf_releaseWork h₃
        · rename_i s₄ e
          have h₄ : memWf s₄ := memWf_of_snd e (memWf_packCheck h₂)
          split
          · exact memWf_releaseWork h₄
          · exact memWf_packSignal (memWf_releaseWork
              (memWf_foldl_snd (fun _ _ h => memWf_packBlock h) (memWf_touchRead h₄)))
    · exact memWf_releaseWork hs
  · exact memWf_releaseWork hs

theorem memWf_actUnpack {src dst : Nat} {stitch : B16} (hs : memWf s) : memWf (actUnpack p src dst stitch s).2 := by
  unfold actUnpack
  split
  · split
    · exact memWf_ite_snd hs (memWf_foldl (fun _ _ h => memWf_takeRefs h) hs)
    · exact hs
  · exact hs

@[simp] theorem keeps_execUnpack {h : CmdHdr} {src dst : B32} {stitch : B16} :
    Keeps s (execUnpack h src dst stitch s) := fun hs => memWf_hostCmd (fun _ h => memWf_actUnpack h) hs

theorem memWf_unpackBlock {src : Nat} {a : Obj} {blocks : Nat} {f16 : Bool} {dst : Nat} {b : Obj} {st : Nat × State}
    {i : Nat} (hst : memWf st.2) :
    memWf (unpackBlock p src a blocks f16 dst b st i).2 := by
  unfold unpackBlock
  dsimp only
  split
  · exact memWf_writeMem hst
  · exact memWf_noteBroken (memWf_updSheet (memWf_note (memWf_upd hst)))

theorem memWf_endUnpack {src dst : Nat} {stitch : B16} {slots : List Nat} (hs : memWf s) :
    memWf (endUnpack p src dst stitch slots s).2.2 := by
  unfold endUnpack
  dsimp only
  split
  · split
    · split
      · rename_i s₁ e
        have h₁ : memWf s₁ := memWf_of_snd e (memWf_packCheck hs)
        exact memWf_releaseWork h₁
      · rename_i s₂ e
        have h₂ : memWf s₂ := memWf_of_snd e (memWf_packCheck hs)
        split
        · rename_i s₃ e
          have h₃ : memWf s₃ := memWf_of_snd e (memWf_packCheck h₂)
          exact memWf_releaseWork h₃
        · rename_i s₄ e
          have h₄ : memWf s₄ := memWf_of_snd e (memWf_packCheck h₂)
          exact memWf_packSignal (memWf_releaseWork
            (memWf_foldl_snd (fun _ _ h => memWf_unpackBlock h) (memWf_touchRead h₄)))
    · exact memWf_releaseWork hs
  · exact memWf_releaseWork hs

/-! ### Functions of `Machine/Tier` -/

@[simp] theorem keeps_execObjCreate {h : CmdHdr} {sheets : B64} {policy : B128} {option : Byte} {block : B256} :
    Keeps s (execObjCreate h sheets policy option block s) :=
  fun hs => memWf_ite (memWf_settleCmd hs (memWf_hostCmd (fun _ h => memWf_createObject h) hs))
    (memWf_hostCmd (fun _ h => memWf_createObject h) hs)

theorem memWf_actObjDestroy {handle : Nat} (hs : memWf s) : memWf (actObjDestroy p handle s).2 := by
  unfold actObjDestroy
  split
  · exact hs
  · split
    · exact hs
    · exact memWf_ite_snd hs hs

@[simp] theorem keeps_execObjDestroy {h : CmdHdr} {handle : B32} : Keeps s (execObjDestroy h handle s) :=
  fun hs => memWf_hostCmd (fun _ h => memWf_actObjDestroy h) hs

theorem someWf_endDestroy {handle : Nat} (hs : memWf s) : SomeWf (fun x => x.2.2) (endDestroy p handle s) := by
  unfold endDestroy
  split
  · exact trivial
  · exact memWf_destroyObject hs

theorem memWf_actSetPolicy {handle : Nat} {bits : B128} (hs : memWf s) : memWf (actSetPolicy p handle bits s).2 := by
  unfold actSetPolicy
  refine memWf_ite_snd hs ?_
  split
  · exact hs
  · refine memWf_ite_snd hs (memWf_ite_snd hs (memWf_ite_snd (memWf_updObj hs) ?_))
    split
    · exact hs
    · rename_i s₁ e
      exact (okWf_reservePolicy (memWf_dropWaiting hs)).of_eq e

@[simp] theorem keeps_execSetPolicy {h : CmdHdr} {handle : B32} {policy : B128} :
    Keeps s (execSetPolicy h handle policy s) := fun hs => memWf_hostCmd (fun _ h => memWf_actSetPolicy h) hs

theorem memWf_actSheetQuery {h : CmdHdr} {handle count first : Nat} {addr : B64} (hs : memWf s) :
    memWf (actSheetQuery h handle count first addr s).2 := by
  unfold actSheetQuery
  split
  · exact hs
  · exact memWf_ite_snd hs (memWf_hostWrite hs)

@[simp] theorem keeps_execSheetQuery {h : CmdHdr} {handle count : B32} {first addr : B64} :
    Keeps s (execSheetQuery h handle count first addr s) :=
  fun hs => memWf_hostCmd (fun _ h => memWf_actSheetQuery h) hs

theorem memWf_actRegionFormat {region mode owner refresh start count : Nat} (hs : memWf s) :
    memWf (actRegionFormat region mode owner refresh start count s).2 :=
  memWf_ite_snd hs (memWf_ite_snd hs (memWf_ite_snd hs (memWf_ite_snd hs (memWf_updRegion (memWf_updFlash hs)))))

@[simp] theorem keeps_execRegionFormat {h : CmdHdr} {region mode owner refresh start count : Byte} :
    Keeps s (execRegionFormat h region mode owner refresh start count s) :=
  fun hs => memWf_hostCmd (fun _ h => memWf_actRegionFormat h) hs

theorem memWf_endFormat {region mode : Nat} (hs : memWf s) : memWf (endFormat region mode s) :=
  memWf_ite hs (memWf_admitWaiting (memWf_ite (memWf_noteReadOnly (memWf_updRegion (wf_clearRuns _ _ _ hs)))
    (memWf_updRegion (wf_clearRuns _ _ _ hs))))

theorem memWf_actRegionQuery {h : CmdHdr} {region : Nat} {addr : B64} (hs : memWf s) :
    memWf (actRegionQuery h region addr s).2 := memWf_ite_snd hs (memWf_ite_snd hs (memWf_hostWrite hs))

@[simp] theorem keeps_execRegionQuery {h : CmdHdr} {region : Byte} {addr : B64} :
    Keeps s (execRegionQuery h region addr s) := fun hs => memWf_hostCmd (fun _ h => memWf_actRegionQuery h) hs

theorem memWf_actBufReset {handle step expect : Nat} (hs : memWf s) :
    memWf (actBufReset p handle step expect s).2 := by
  unfold actBufReset
  refine memWf_ite_snd hs ?_
  split
  · exact hs
  · split
    · exact memWf_ite_snd hs (memWf_resetBuf hs)
    · exact hs

@[simp] theorem keeps_execBufReset {h : CmdHdr} {handle : B32} {step expect : B64} :
    Keeps s (execBufReset h handle step expect s) :=
  fun hs => memWf_settleCmd hs (memWf_hostCmd (fun _ h => memWf_actBufReset h) hs)

theorem memWf_actExportSet {ident handle : Nat} (hs : memWf s) : memWf (actExportSet p ident handle s).2 :=
  memWf_ite_snd (memWf_updRes hs) (memWf_ite_snd hs (memWf_ite_snd hs (memWf_updRes hs)))

@[simp] theorem keeps_execExportSet {h : CmdHdr} {ident : B16} {handle : B32} :
    Keeps s (execExportSet h ident handle s) := fun hs => memWf_hostCmd (fun _ h => memWf_actExportSet h) hs

theorem memWf_dmaCheck {g : Right} {a n : Nat} (hs : memWf s) : memWf (dmaCheck p g a n s).2 := by
  unfold dmaCheck
  dsimp only
  split
  · exact hs
  · exact memWf_noteDenied hs
  · exact hs
  · exact memWf_ite_snd (memWf_ite_snd hs (memWf_ite_snd hs hs)) hs

@[simp] theorem keeps_execHostDma {h : CmdHdr} {dir : Byte} {dev host bytes : B64} {data : List Byte} :
    Keeps s (execHostDma h dir dev host bytes data s) := fun hs => memWf_hostCmd (fun _ h => h) hs

theorem memWf_endDmaOut {dev host bytes : Nat} (hs : memWf s) : memWf (endDmaOut p dev host bytes s).2.2 := by
  unfold endDmaOut
  split
  · rename_i s₁ e
    exact memWf_of_snd e (memWf_dmaCheck hs)
  · rename_i s₂ e
    have h₂ : memWf s₂ := memWf_of_snd e (memWf_dmaCheck hs)
    exact memWf_touchRead (memWf_hostWrite h₂)

theorem memWf_endDmaIn {dev : Nat} {data : List Byte} (hs : memWf s) : memWf (endDmaIn p dev data s).2.2 := by
  unfold endDmaIn
  split
  · rename_i s₁ e
    exact memWf_of_snd e (memWf_dmaCheck hs)
  · rename_i s₂ e
    have h₂ : memWf s₂ := memWf_of_snd e (memWf_dmaCheck hs)
    exact memWf_writeMem h₂

@[simp] theorem keeps_execObjList {h : CmdHdr} {addr : B64} {max : B32} : Keeps s (execObjList h addr max s) :=
  fun hs => memWf_hostCmd (fun _ h => memWf_hostWrite h) hs

@[simp] theorem keeps_execMoveStart : Keeps s (execMoveStart s) := fun hs => memWf_startMove hs

@[simp] theorem keeps_execMoveSwitch {ident : Nat} {media : Media} : Keeps s (execMoveSwitch ident media s) := by
  unfold execMoveSwitch
  split
  · exact fun hs => memWf_settle hs (memWf_endCopy hs)
  · exact id

@[simp] theorem keeps_execOverlayAgeExpiry {region : Fin 16} {stripe : Nat} :
    Keeps s (execOverlayAgeExpiry region stripe s) := fun hs => memWf_ite hs (memWf_askFold hs)

@[simp] theorem keeps_execFold : Keeps s (execFold s) := fun hs => memWf_endFold hs

@[simp] theorem keeps_execStripeRefresh {region : Fin 16} {stripe : Nat} :
    Keeps s (execStripeRefresh region stripe s) := fun hs => memWf_ite (memWf_askFold hs) hs

/-! ### Functions of `Machine/BenchWord` -/

theorem memWf_issueHead {b : BenchHdr} {nextHead : B64} (hs : memWf s) : memWf (issueHead b nextHead s) :=
  memWf_updStream hs

theorem memWf_takeFlight {b : BenchHdr} {addr : B64} {kind : FlightKind} {opTag : B32} {foot : Foot} (hs : memWf s) :
    memWf (takeFlight b addr kind opTag foot s).2 := memWf_updBench (memWf_updStream hs)

theorem memWf_completeOp {ident : Nat} {fault : Option (Nat × Nat × Nat)} (hs : memWf s) :
    memWf (completeOp p ident fault s) := by
  unfold completeOp
  split
  · exact hs
  · dsimp only
    split
    · exact memWf_updStream (memWf_updBench hs)
    · exact memWf_programFault (memWf_updStream (memWf_updBench hs))

theorem memWf_haltHead {b : BenchHdr} {e : Halt} (hs : memWf s) : memWf (haltHead b e s) :=
  memWf_programFault (memWf_noteDenied hs)

theorem memWf_benchOp {b : BenchHdr} {ready : State → Bool} {run : State → Except Halt State}
    (hrun : ∀ (a : State), memWf a → OkWf id (run a)) (hs : memWf s) :
    memWf (benchOp b ready run s) := by
  unfold benchOp
  refine memWf_ite hs (memWf_ite (memWf_haltHead hs) ?_)
  split
  · exact memWf_haltHead hs
  · rename_i s₁ e
    exact (hrun _ hs).of_eq e

theorem memWf_blurRun {r : Nat × Nat} (hs : memWf s) : memWf (blurRun p s r) := memWf_writeMem (memWf_tick hs)

theorem memWf_blurFor {n : Option Nat} {reads : List (Nat × Nat)} (hs : memWf s) : memWf (blurFor p n reads s) :=
  memWf_foldl (fun _ _ h => memWf_blurRun h) hs

theorem memWf_smearFor {n : Option Nat} {writes : List (Nat × Nat)} (hs : memWf s) : memWf (smearFor p n writes s) :=
  memWf_foldl (fun _ _ h => memWf_blurRun h) hs

theorem memWf_readBeside {n : Option Nat} {m a k : Nat} (hs : memWf s) : memWf (readBeside p n m a k s).2 := hs

theorem memWf_writeBeside {n : Option Nat} {a : Nat} {bytes : List Byte} (hs : memWf s) :
    memWf (writeBeside p n a bytes s) := memWf_smearFor (memWf_writeMem hs)

theorem memWf_smearOp {n : Nat} (hs : memWf s) : memWf (smearOp p n s) := memWf_smearFor hs

theorem memWf_addFoot {n : Nat} {f : Foot} (hs : memWf s) : memWf (addFoot p n f s) := memWf_updBench hs

/-! ### Functions of `Machine/Bench` -/

@[simp] theorem keeps_execNop {b : BenchHdr} : Keeps s (execNop b s) :=
  fun hs => memWf_benchOp (fun _ h => memWf_issueHead h) hs

@[simp] theorem keeps_execEndOp {b : BenchHdr} : Keeps s (execEndOp b s) :=
  fun hs => memWf_benchOp (fun _ h => memWf_updStream (memWf_issueHead h)) hs

@[simp] theorem keeps_execFence {b : BenchHdr} : Keeps s (execFence b s) :=
  fun hs => memWf_benchOp (fun _ h => memWf_issueHead h) hs

theorem okWf_runJump {b : BenchHdr} {count : BitVec 14} {target : Addr} (hs : memWf s) :
    OkWf id (runJump b count target s) := by
  unfold runJump
  split
  · exact trivial
  · split
    exact memWf_updStream (memWf_issueHead hs)

@[simp] theorem keeps_execJump {b : BenchHdr} {count : BitVec 14} {target : Addr} :
    Keeps s (execJump b count target s) := fun hs => memWf_benchOp (fun _ h => okWf_runJump h) hs

theorem okWf_runCadMark {b : BenchHdr} {pos : B64} (hs : memWf s) : OkWf id (runCadMark b pos s) := by
  unfold runCadMark
  split
  · exact trivial
  · extract_lets s₁
    have h₁ : memWf s₁ := memWf_updStream (memWf_issueHead hs)
    exact memWf_ite h₁ (memWf_advance h₁)

@[simp] theorem keeps_execCadMark {b : BenchHdr} {pos : B64} : Keeps s (execCadMark b pos s) :=
  fun hs => memWf_benchOp (fun _ h => okWf_runCadMark h) hs

theorem okWf_runPosDraw {b : BenchHdr} {pos : B64} (hs : memWf s) : OkWf id (runPosDraw b pos s) := by
  unfold runPosDraw
  split
  · exact trivial
  · exact memWf_updStream (memWf_issueHead hs)

@[simp] theorem keeps_execPosDraw {b : BenchHdr} {pos : B64} : Keeps s (execPosDraw b pos s) :=
  fun hs => memWf_benchOp (fun _ h => okWf_runPosDraw h) hs

theorem memWf_issueDone {b : BenchHdr} {fault : Option (Nat × Nat)} (hs : memWf s) : memWf (issueDone b fault s) := by
  unfold issueDone
  dsimp only
  split
  · exact memWf_issueHead hs
  · exact memWf_programFault (memWf_issueHead hs)

theorem okWf_runStSignal {b : BenchHdr} {pos : Nat} {idx : B16} {arg : Nat} (hs : memWf s) :
    OkWf id (runStSignal b pos idx arg s) := by
  unfold runStSignal
  split
  · exact trivial
  · split
    · split
      · exact memWf_signalStitch (memWf_issueDone hs)
      · exact memWf_issueDone (memWf_denyStitch hs)
    · split
      · exact trivial
      · split
        · exact memWf_sendMsg (memWf_issueDone hs)
        · split
          · exact memWf_issueDone (memWf_noteSendDenied hs)
          · exact memWf_sendMsg (memWf_updBench (memWf_takeFlight (memWf_issueHead hs)))

@[simp] theorem keeps_execStSignal {b : BenchHdr} {pos : BitVec 6} {stitch : B16} {epoch : Byte} {arg : Addr} :
    Keeps s (execStSignal b pos stitch epoch arg s) := fun hs => memWf_benchOp (fun _ h => okWf_runStSignal h) hs

theorem memWf_registerWait {b : BenchHdr} {lock : Bool} {idx : B16} {threshold : B32} (hs : memWf s) :
    memWf (registerWait b lock idx threshold s) := by
  unfold registerWait
  refine memWf_ite hs ?_
  dsimp only
  split
  · exact memWf_haltHead (memWf_denyStitch hs)
  · split
    · rename_i s₁ e
      exact (okWf_registerHead hs).of_eq e
    · exact memWf_haltHead (memWf_updStc hs)
    · exact memWf_haltHead hs

theorem memWf_waitOp {b : BenchHdr} {lock : Bool} {pos : Nat} {idx : B16} {threshold : B32} {bad : Bool}
    (hs : memWf s) :
    memWf (waitOp b lock pos idx threshold bad s) := by
  unfold waitOp
  refine memWf_benchOp (fun _ h => ?_) (memWf_ite (memWf_registerWait hs) hs)
  split
  · exact trivial
  · split
    · exact trivial
    · exact memWf_issueDone h

@[simp] theorem keeps_execStWait {b : BenchHdr} {pos : BitVec 6} {stitch : B16} {epoch : Byte} {arg : Addr} :
    Keeps s (execStWait b pos stitch epoch arg s) := fun hs => memWf_waitOp hs

@[simp] theorem keeps_execStLock {b : BenchHdr} {pos : BitVec 6} {stitch : B16} {epoch : Byte} {arg : Addr} :
    Keeps s (execStLock b pos stitch epoch arg s) := fun hs => memWf_waitOp hs

@[simp] theorem keeps_execStitchWaitRegister {b : BenchHdr} {lock : Bool} {stitch : B16} {threshold : B32} :
    Keeps s (execStitchWaitRegister b lock stitch threshold s) := fun hs => memWf_registerWait hs

theorem okWf_runStUnlock {b : BenchHdr} {pos : Nat} {idx : B16} {epoch : Byte} {arg : Addr} (hs : memWf s) :
    OkWf id (runStUnlock b pos idx epoch arg s) := by
  unfold runStUnlock
  split
  · exact trivial
  · split
    · exact trivial
    · split
      · exact memWf_issueDone (memWf_denyStitch hs)
      · split
        · rename_i s₁ e
          have h₁ : memWf s₁ := (okWf_unlockStitch hs).of_eq e
          exact memWf_issueDone h₁
        · exact memWf_issueDone hs
        · exact memWf_issueDone hs

@[simp] theorem keeps_execStUnlock {b : BenchHdr} {pos : BitVec 6} {stitch : B16} {epoch : Byte} {arg : Addr} :
    Keeps s (execStUnlock b pos stitch epoch arg s) := fun hs => memWf_benchOp (fun _ h => okWf_runStUnlock h) hs

theorem okWf_runStRead {b : BenchHdr} {pos : Nat} {idx : B16} {dest : Nat} (hs : memWf s) :
    OkWf id (runStRead b pos idx dest s) := by
  unfold runStRead
  split
  · exact trivial
  · split
    · exact trivial
    · split
      · split
        · exact trivial
        · exact memWf_issueDone (memWf_noteDenied hs)
      · split
        · exact memWf_issueDone (memWf_denyStitch hs)
        · exact memWf_issueDone (memWf_writeNat hs)

@[simp] theorem keeps_execStRead {b : BenchHdr} {pos : BitVec 6} {stitch : B16} {epoch : Byte} {arg : Addr} :
    Keeps s (execStRead b pos stitch epoch arg s) :=
  fun hs => memWf_settle hs (memWf_benchOp (fun _ h => okWf_runStRead h) hs)

theorem memWf_freeLatches {which : Latch → Bool} (hs : memWf s) : memWf (freeLatches p which s) :=
  memWf_updBench (memWf_foldl (fun _ _ h => memWf_foldl (fun _ _ k => memWf_dropRefs k) h) hs)

theorem memWf_actStreamStart {n : Nat} {addr : B64} (hs : memWf s) : memWf (actStreamStart p n addr s).2 :=
  memWf_ite_snd hs (memWf_ite_snd hs (memWf_updStream (memWf_ite (memWf_breakStitches hs) hs)))

@[simp] theorem keeps_execStreamStart {h : CmdHdr} {stream : Byte} {addr : B64} :
    Keeps s (execStreamStart h stream addr s) := fun hs => memWf_hostCmd (fun _ h => memWf_actStreamStart h) hs

theorem memWf_actStreamResume {n skip : Nat} (hs : memWf s) : memWf (actStreamResume p n skip s).2 := by
  unfold actStreamResume
  extract_lets _ _ s₁ s₂
  have h₁ : memWf s₁ := by
    unfold s₁
    split
    · exact memWf_freeLatches hs
    · exact hs
  have h₂ : memWf s₂ := memWf_ite (memWf_updStream h₁) hs
  exact memWf_ite_snd hs (memWf_ite_snd hs (memWf_updStream h₂))

@[simp] theorem keeps_execStreamResume {h : CmdHdr} {stream skip : Byte} :
    Keeps s (execStreamResume h stream skip s) := fun hs => memWf_hostCmd (fun _ h => memWf_actStreamResume h) hs

theorem memWf_actStreamReset {n : Nat} (hs : memWf s) : memWf (actStreamReset p n s).2 :=
  memWf_ite_snd hs (memWf_ite_snd hs (memWf_updStream (memWf_freeLatches (memWf_unregister hs))))

@[simp] theorem keeps_execStreamReset {h : CmdHdr} {stream : Byte} : Keeps s (execStreamReset h stream s) :=
  fun hs => memWf_hostCmd (fun _ h => memWf_actStreamReset h) hs

theorem memWf_hostRead {a n : Nat} (hs : memWf s) : memWf (hostRead p a n s).2 := by
  unfold hostRead
  split
  · rename_i s₁ e
    exact memWf_of_snd e (memWf_dmaCheck hs)
  · rename_i s₂ e
    exact memWf_of_snd e (memWf_dmaCheck hs)

theorem memWf_actProgLoad {first count : Nat} {addr : B64} (hs : memWf s) :
    memWf (actProgLoad p first count addr s).2 := by
  unfold actProgLoad
  refine memWf_ite_snd hs (memWf_ite_snd hs ?_)
  split
  · rename_i s₁ e
    exact memWf_of_snd e (memWf_hostRead hs)
  · rename_i s₂ e
    have h₂ : memWf s₂ := memWf_of_snd e (memWf_hostRead hs)
    exact memWf_updBench (memWf_touchRead h₂)

@[simp] theorem keeps_execProgLoad {h : CmdHdr} {first count : B16} {addr : B64} :
    Keeps s (execProgLoad h first count addr s) := fun hs => memWf_hostCmd (fun _ h => memWf_actProgLoad h) hs

theorem memWf_actSeedSet {first count : Nat} {seeds : List B64} (hs : memWf s) :
    memWf (actSeedSet p first count seeds s).2 := memWf_ite_snd hs (memWf_ite_snd hs (memWf_updBench hs))

@[simp] theorem keeps_execSeedSet {h : CmdHdr} {first count : Byte} {seeds : List B64} :
    Keeps s (execSeedSet h first count seeds s) := fun hs => memWf_hostCmd (fun _ h => memWf_actSeedSet h) hs

theorem memWf_actCtxBase {addr : B64} (hs : memWf s) : memWf (actCtxBase p addr s).2 :=
  memWf_ite_snd hs (memWf_ite_snd hs (memWf_updBench hs))

@[simp] theorem keeps_execCtxBase {h : CmdHdr} {addr : B64} : Keeps s (execCtxBase h addr s) :=
  fun hs => memWf_hostCmd (fun _ h => memWf_actCtxBase h) hs

/-! ### Functions of `Machine/ArrayPlan` -/

theorem memWf_noteSlotWait {b : BenchHdr} {free : State → Bool} (hs : memWf s) : memWf (noteSlotWait b free s) :=
  memWf_ite (memWf_updBench (memWf_tick hs)) hs

/-! ### Functions of `Machine/Copies` -/

theorem memWf_queueCopy {b : BenchHdr} {kind : CopyKind} {opTag : B32} {foot : Foot} (hs : memWf s) :
    memWf (queueCopy b kind opTag foot s) :=
  memWf_updBench (memWf_takeFlight (memWf_issueHead hs))

theorem okWf_runCopy {b : BenchHdr} {add : Bool} {src dst pos count : Nat} (hs : memWf s) :
    OkWf id (runCopy b add src dst pos count s) := by
  unfold runCopy
  split
  · exact trivial
  · split
    · exact trivial
    · split
      · exact trivial
      · exact memWf_queueCopy hs

@[simp] theorem keeps_execCopy {b : BenchHdr} {src dst : BitVec 40} {pos : BitVec 6} {countM1 : Byte} :
    Keeps s (execCopy b src dst pos countM1 s) := fun hs => memWf_benchOp (fun _ h => okWf_runCopy h) hs

@[simp] theorem keeps_execCopyAdd {b : BenchHdr} {src dst : BitVec 40} {pos : BitVec 6} {countM1 : Byte} :
    Keeps s (execCopyAdd b src dst pos countM1 s) := fun hs => memWf_benchOp (fun _ h => okWf_runCopy h) hs

theorem okWf_runCopyRouted {b : BenchHdr} {role : Nat} {desc : Addr} (hs : memWf s) :
    OkWf id (runCopyRouted b role desc s) := by
  unfold runCopyRouted
  split
  · exact trivial
  · dsimp only
    split
    · exact trivial
    · split
      · exact trivial
      · split
        · exact trivial
        · split
          · exact trivial
          · exact memWf_touchRead (memWf_queueCopy (memWf_ite hs (memWf_updBench hs)))

@[simp] theorem keeps_execCopyRouted {b : BenchHdr} {role : BitVec 2} {desc : Addr} :
    Keeps s (execCopyRouted b role desc s) := fun hs => memWf_benchOp (fun _ h => okWf_runCopyRouted h) hs

theorem memWf_moveSheet {n : Nat} {add : Bool} {st : Option Byte × State} {e : Nat × Nat} (hst : memWf st.2) :
    memWf (moveSheet p n add st e).2 := by
  unfold moveSheet
  dsimp only
  split
  · exact memWf_noteDenied hst
  · split
    · exact memWf_noteDenied hst
    · exact memWf_ite_snd (memWf_addSheet (memWf_touchRead (memWf_readBeside hst)))
        (memWf_writeBeside (memWf_touchRead (memWf_readBeside hst)))

theorem memWf_sendSheet {ident : Nat} {add : Bool} {d : Nat} {st : Option Byte × List Nat × State} {e : Nat × Nat}
    (hst : memWf st.2.2) :
    memWf (sendSheet p ident add d st e).2.2 := by
  unfold sendSheet
  dsimp only
  split
  · exact memWf_noteDenied hst
  · split
    · exact memWf_noteSendDenied (memWf_touchRead (memWf_readBeside hst))
    · exact memWf_sendMsg (memWf_touchRead (memWf_readBeside hst))

theorem memWf_updCopy {ident : Nat} {f : CopyOp → CopyOp} (hs : memWf s) : memWf (updCopy p ident f s) :=
  memWf_updBench hs

theorem memWf_startCopy {c : CopyOp} (hs : memWf s) : memWf (startCopy p c s) := by
  unfold startCopy
  dsimp only
  split
  · exact memWf_ite (memWf_updCopy hs) (memWf_updCopy (memWf_foldl_snd_snd (fun _ _ h => memWf_sendSheet h) hs))
  · exact memWf_ite (memWf_updCopy hs) (memWf_updCopy (memWf_foldl_snd_snd (fun _ _ h => memWf_sendSheet h) hs))
  · exact memWf_updCopy hs

theorem memWf_ladleStep (hs : memWf s) : memWf (ladleStep s) := by
  unfold ladleStep
  refine memWf_ite hs ?_
  split
  · exact hs
  · exact memWf_startCopy hs

@[simp] theorem keeps_execLadleStart : Keeps s (execLadleStart s) := fun hs => memWf_ladleStep hs

theorem memWf_latchSlot {opTag : B32} {slot : Nat} (hs : memWf s) : memWf (latchSlot p opTag slot s) := by
  unfold latchSlot
  split
  · exact hs
  · exact memWf_ite hs (memWf_updBench (memWf_takeRefs hs))

theorem memWf_stop {x : RouteRun} {code detail : Nat} (hs : memWf s) : memWf (x.stop code detail s).s := hs

theorem memWf_routeBytes {c : Nat} {x : RouteRun} {q : Qtr} {src dst n : Nat} (hx : memWf x.s) :
    memWf (routeBytes p c x q src dst n).s := by
  unfold routeBytes
  split
  · exact memWf_stop (memWf_noteDenied hx)
  · split
    · exact memWf_stop hx
    · split
      rename_i s₁ e
      have h₁ : memWf s₁ := memWf_of_snd e (memWf_readBeside hx)
      exact memWf_smearFor (memWf_putStake (memWf_touchRead h₁))

theorem memWf_routeBlock {c : Nat} {d : ArrayDesc} {x : RouteRun} {e : Route} (hx : memWf x.s) :
    memWf (routeBlock p c d x e).s := by
  unfold routeBlock
  split
  · exact memWf_routeBytes hx
  · dsimp only
    split
    · exact memWf_stop (memWf_noteDenied hx)
    · split
      · exact memWf_stop (memWf_upd hx)
      · split
        · exact memWf_stop (memWf_noteDenied hx)
        · split
          · exact memWf_stop (memWf_upd hx)
          · refine memWf_routeBytes ?_
            split
            · exact hx
            · exact memWf_latchSlot hx

theorem memWf_finishCopy {c : CopyOp} {fault : Option Byte} {detail : Nat} (hs : memWf s) :
    memWf (finishCopy p c fault detail s) := memWf_completeOp (memWf_updBench hs)

theorem memWf_endCopyOp {c : CopyOp} (hs : memWf s) : memWf (endCopyOp p c s) := by
  unfold endCopyOp
  extract_lets _ s₁
  have h₁ : memWf s₁ := memWf_ite (memWf_finishCopy hs) hs
  split
  · exact memWf_ite (memWf_finishCopy (memWf_foldl_snd (fun _ _ h => memWf_moveSheet h) hs)) h₁
  · exact memWf_ite (memWf_finishCopy (memWf_foldl_snd (fun _ _ h => memWf_moveSheet h) hs)) h₁
  · exact memWf_finishCopy (memWf_foldl_run (fun _ _ h => memWf_routeBlock h) hs)

@[simp] theorem keeps_execCopyComplete {ident : Nat} : Keeps s (execCopyComplete p ident s) := by
  unfold execCopyComplete
  split
  · exact fun hs => memWf_settle hs (memWf_endCopyOp hs)
  · exact id

/-! ### Functions of `Machine/Rim` -/

theorem memWf_writeOut {d : ArrayDesc} {q : Qtr} {slice k line : Nat} {gs : List GroupOut} (hs : memWf s) :
    memWf (writeOut d q slice k line gs s) := memWf_ite (memWf_putStake (memWf_putStake hs)) (memWf_putStake hs)

theorem memWf_rimRow {o : ArrayOp} {q : Qtr} {k tr tc : Nat} {st : RimOut × State} {r : List A96 × Nat}
    (hst : memWf st.2) :
    memWf (rimRow p o q k tr tc st r).2 := memWf_foldl_snd (fun _ _ h => memWf_writeOut h) hst

theorem memWf_writeStats {o : ArrayOp} {q : Qtr} {t : Nat} {cells : List (List A96)} (hs : memWf s) :
    memWf (writeStats p o q t cells s).2 := by
  unfold writeStats
  dsimp only
  split
  · exact memWf_writeMem hs
  · exact memWf_noteDenied hs

theorem memWf_rimFx {o : ArrayOp} {q : Qtr} {tr tc : Nat} {cells : List (List A96)} (hs : memWf s) :
    memWf (rimFx p o q tr tc cells s).2 := by
  unfold rimFx
  split
  · exact hs
  · exact memWf_ite (memWf_setBufHdr hs) hs

theorem memWf_rimTile {o : ArrayOp} {q : Qtr} {t k : Nat} {cells : List (List A96)} (hs : memWf s) :
    memWf (rimTile p o q t k cells s).2.2 := by
  have h : memWf (if o.desc.fmtC = .fx64 then rimFx p o q (o.at q t).2.1 (o.at q t).2.2 cells s
      else cells.zipIdx.foldl (rimRow p o q k (o.at q t).2.1 (o.at q t).2.2) ({}, s)).2 :=
    memWf_ite_snd (memWf_rimFx hs) (memWf_foldl_snd (fun _ _ h => memWf_rimRow h) hs)
  unfold rimTile
  dsimp only
  split
  · exact memWf_writeStats h
  · exact h

/-! ### Functions of `Machine/Plate` -/

theorem memWf_setInsts {k : Nat} {l : List Inst} (hs : memWf s) : memWf (setInsts p k l s) := memWf_updBench hs

theorem okWf_runVrun {b : BenchHdr} {first last : Byte} {entry : BitVec 11} {seed : BitVec 6} {launch : Addr}
    (hs : memWf s) :
    OkWf id (runVrun b first last entry seed launch s) := by
  unfold runVrun
  split
  · exact trivial
  · split
    · exact trivial
    · split
      · exact trivial
      · split
        · exact trivial
        · exact memWf_touchRead (memWf_ite (memWf_completeOp (memWf_foldl (fun _ _ h => memWf_setInsts h)
            (memWf_takeFlight (memWf_issueHead hs)))) (memWf_foldl (fun _ _ h => memWf_setInsts h)
            (memWf_takeFlight (memWf_issueHead hs))))

@[simp] theorem keeps_execVrun {b : BenchHdr} {first last : Byte} {entry : BitVec 11} {seed : BitVec 6}
    {launch : Addr} :
    Keeps s (execVrun b first last entry seed launch s) :=
  fun hs => memWf_benchOp (fun _ h => okWf_runVrun h) (memWf_noteSlotWait hs)

theorem memWf_dropInsts {n : Nat} (hs : memWf s) : memWf (dropInsts p n s) := memWf_updBench hs

theorem memWf_spoilStores {n : Nat} (hs : memWf s) : memWf (spoilStores p n s) :=
  memWf_foldl (fun _ _ h => memWf_putStake (memWf_tick h)) hs

theorem memWf_failVrun {n code : Nat} (hs : memWf s) : memWf (failVrun p n code s) :=
  memWf_completeOp (memWf_dropInsts (memWf_spoilStores hs))

theorem memWf_loseRuns {q : Qtr} {here : Bool} (hs : memWf s) : memWf (loseRuns q here p s) :=
  memWf_foldl (fun _ _ h => memWf_ite (memWf_failVrun h) (memWf_updBench (memWf_dropInsts (memWf_spoilStores h)))) hs

theorem memWf_endLostRuns (hs : memWf s) : memWf (endLostRuns p s) :=
  memWf_foldl (fun _ _ h => memWf_completeOp h) (memWf_updBench hs)

theorem memWf_plateOp {h : PlateHdr} {bad : Bool} {f : Inst → State → PlateOut}
    (hf : ∀ (a : Inst) (a_1 : State), memWf a_1 → OkWf Prod.snd (f a a_1)) (hs : memWf s) :
    memWf (plateOp h bad f s) := by
  unfold plateOp
  split
  · exact hs
  · refine memWf_ite hs (memWf_ite (memWf_failVrun hs) ?_)
    split
    · exact memWf_failVrun (memWf_noteDenied hs)
    · rename_i s₁ e
      have h₁ : memWf s₁ := (hf _ _ hs).of_eq e
      exact memWf_setInsts h₁

theorem memWf_laneFlags {f : Flags} (hs : memWf s) : memWf (laneFlags p f s) := memWf_updBench hs

@[simp] theorem keeps_regOp {h : PlateHdr} {d s1 s2 s3 : BitVec 5} {rnd : BitVec 2}
    {f : Rnd → List F32 → List F32 → List F32 → List LaneRes} :
    Keeps s (regOp h d s1 s2 s3 rnd f s) := fun hs => memWf_plateOp (fun _ _ h => memWf_laneFlags h) hs

@[simp] theorem keeps_execPlateNop {h : PlateHdr} : Keeps s (execPlateNop h s) :=
  fun hs => memWf_plateOp (fun _ _ h => h) hs

theorem memWf_haltInst {h : PlateHdr} (hs : memWf s) : memWf (haltInst h s) := by
  unfold haltInst
  split
  · exact hs
  · exact memWf_ite hs (memWf_ite (memWf_failVrun hs)
      (memWf_ite (memWf_setInsts hs) (memWf_completeOp (memWf_setInsts hs))))

@[simp] theorem keeps_execHalt {h : PlateHdr} : Keeps s (execHalt h s) := fun hs => memWf_haltInst hs

theorem okWf_loopInst {t : Nat} {imm : B32} {i : Inst} (hs : memWf s) : OkWf Prod.snd (loopInst t imm i s) := by
  unfold loopInst
  dsimp only
  split
  · exact trivial
  · exact hs

@[simp] theorem keeps_execLoopc {h : PlateHdr} {target : BitVec 5} {imm : B32} : Keeps s (execLoopc h target imm s) :=
  fun hs => memWf_plateOp (fun _ _ h => okWf_loopInst h) hs

@[simp] theorem keeps_execSetc {h : PlateHdr} {target : BitVec 5} {imm : B32} : Keeps s (execSetc h target imm s) :=
  fun hs => memWf_plateOp (fun _ _ h => h) hs

@[simp] theorem keeps_execSetp {h : PlateHdr} {target : BitVec 5} {imm : B32} : Keeps s (execSetp h target imm s) :=
  fun hs => memWf_plateOp (fun _ _ h => h) hs

@[simp] theorem keeps_execAddp {h : PlateHdr} {target : BitVec 5} {imm : B32} : Keeps s (execAddp h target imm s) :=
  fun hs => memWf_plateOp (fun _ _ h => h) hs

@[simp] theorem keeps_execMovi {h : PlateHdr} {target : BitVec 5} {imm : B32} : Keeps s (execMovi h target imm s) :=
  fun hs => memWf_plateOp (fun _ _ h => h) hs

theorem memWf_readPlate {h : PlateHdr} {i : Inst} {off n : Nat} (hs : memWf s) : memWf (readPlate h i off n s).2 := hs

theorem memWf_writePlate {h : PlateHdr} {i : Inst} {off : Nat} {bytes : List Byte} (hs : memWf s) :
    memWf (writePlate h i off bytes s) := memWf_smearFor (memWf_putStake (memWf_addFoot hs))

theorem okWf_loadInst {h : PlateHdr} {v : BitVec 5} {f : Fmt} {off : Nat} {i : Inst} (hs : memWf s) :
    OkWf Prod.snd (loadInst h v f off i s) := by
  unfold loadInst
  split
  · exact trivial
  · split
    rename_i s₁ e
    have h₁ : memWf s₁ := memWf_of_snd e (memWf_readPlate hs)
    exact memWf_laneFlags h₁

@[simp] theorem keeps_execLd {h : PlateHdr} {v : BitVec 5} {pr : BitVec 3} {fmt : BitVec 5} {rnd : BitVec 2}
    {off : BitVec 24} :
    Keeps s (execLd h v pr fmt rnd off s) := fun hs => memWf_plateOp (fun _ _ h => okWf_loadInst h) hs

theorem okWf_storeInst {h : PlateHdr} {v : BitVec 5} {f : Fmt} {m : Rnd} {off : Nat} {i : Inst} (hs : memWf s) :
    OkWf Prod.snd (storeInst h v f m off i s) := by
  unfold storeInst
  split
  · exact trivial
  · split
    exact memWf_laneFlags (memWf_writePlate hs)

@[simp] theorem keeps_execSt {h : PlateHdr} {v : BitVec 5} {pr : BitVec 3} {fmt : BitVec 5} {rnd : BitVec 2}
    {off : BitVec 24} :
    Keeps s (execSt h v pr fmt rnd off s) := fun hs => memWf_plateOp (fun _ _ h => okWf_storeInst h) hs

theorem okWf_loadOne {h : PlateHdr} {v : BitVec 5} {f : Fmt} {off : Nat} {i : Inst} (hs : memWf s) :
    OkWf Prod.snd (loadOne h v f off i s) := by
  unfold loadOne
  dsimp only
  split
  · exact trivial
  · split
    · exact memWf_tick hs
    · exact memWf_laneFlags (memWf_readPlate hs)

@[simp] theorem keeps_execLdb {h : PlateHdr} {v : BitVec 5} {pr : BitVec 3} {fmt : BitVec 5} {rnd : BitVec 2}
    {off : BitVec 24} :
    Keeps s (execLdb h v pr fmt rnd off s) := fun hs => memWf_plateOp (fun _ _ h => okWf_loadOne h) hs

theorem okWf_loadBits {h : PlateHdr} {v : BitVec 5} {off : Nat} {i : Inst} (hs : memWf s) :
    OkWf Prod.snd (loadBits h v off i s) := by
  unfold loadBits
  split
  · exact trivial
  · split
    rename_i s₁ e
    exact memWf_of_snd e (memWf_readPlate hs)

@[simp] theorem keeps_execLdbit {h : PlateHdr} {v : BitVec 5} {pr : BitVec 3} {fmt : BitVec 5} {rnd : BitVec 2}
    {off : BitVec 24} :
    Keeps s (execLdbit h v pr fmt rnd off s) := fun hs => memWf_plateOp (fun _ _ h => okWf_loadBits h) hs

theorem okWf_storeBits {h : PlateHdr} {v : BitVec 5} {off : Nat} {i : Inst} (hs : memWf s) :
    OkWf Prod.snd (storeBits h v off i s) := by
  unfold storeBits
  split
  · exact trivial
  · exact memWf_writePlate hs

@[simp] theorem keeps_execStbit {h : PlateHdr} {v : BitVec 5} {pr : BitVec 3} {fmt : BitVec 5} {rnd : BitVec 2}
    {off : BitVec 24} :
    Keeps s (execStbit h v pr fmt rnd off s) := fun hs => memWf_plateOp (fun _ _ h => okWf_storeBits h) hs

theorem memWf_meetSheet {hd : Nat} {o : Obj} {b : BufHdr} {n : Nat} {i : Inst} (hs : memWf s) :
    memWf (meetSheet p hd o b n i s).2 := by
  unfold meetSheet
  refine memWf_ite_snd hs (memWf_ite_snd (memWf_refuseContribution hs) ?_)
  split
  · exact memWf_refuseContribution hs
  · exact memWf_setBufEntry hs

theorem memWf_fxLane {hd : Nat} {o : Obj} {m : Rnd} {st : Inst × State} {l : Nat × F32} (hst : memWf st.2) :
    memWf (fxLane p hd o m st l).2 := by
  unfold fxLane
  dsimp only
  split
  · exact memWf_ite (memWf_laneFlags hst) (memWf_setBufHdr (memWf_laneFlags hst))
  · refine memWf_ite_snd ?_ (memWf_meetSheet (memWf_laneFlags hst))
    split
    · exact memWf_addElements (memWf_setBufEntry (memWf_meetSheet (memWf_laneFlags hst)))
    · exact memWf_setBufEntry (memWf_meetSheet (memWf_laneFlags hst))
    · exact memWf_setBufEntry (memWf_meetSheet (memWf_laneFlags hst))

theorem okWf_fxAddInst {h : PlateHdr} {v : BitVec 5} {m : Rnd} {e : Nat} {i : Inst} (hs : memWf s) :
    OkWf Prod.snd (fxAddInst h v m e i s) := by
  unfold fxAddInst
  split
  · exact trivial
  · split
    · exact trivial
    · exact memWf_foldl_snd (fun _ _ h => memWf_fxLane h) hs

@[simp] theorem keeps_execFxadd {h : PlateHdr} {v : BitVec 5} {pr : BitVec 3} {fmt : BitVec 5} {rnd : BitVec 2}
    {off : BitVec 24} :
    Keeps s (execFxadd h v pr fmt rnd off s) :=
  fun hs => memWf_settle hs (memWf_plateOp (fun _ _ h => okWf_fxAddInst h) hs)

theorem memWf_fxTouch {b : BufHdr} {e : Nat} (hs : memWf s) : memWf (fxTouch p b e s) :=
  memWf_foldl (fun _ _ h => memWf_touchRead h) hs

theorem okWf_loadFx {h : PlateHdr} {v : BitVec 5} {e : Nat} {i : Inst} (hs : memWf s) :
    OkWf Prod.snd (loadFx h v e i s) := by
  unfold loadFx
  split
  · exact trivial
  · dsimp only
    split
    · exact trivial
    · exact memWf_laneFlags (memWf_fxTouch hs)

@[simp] theorem keeps_execLdx {h : PlateHdr} {v : BitVec 5} {pr : BitVec 3} {fmt : BitVec 5} {rnd : BitVec 2}
    {off : BitVec 24} :
    Keeps s (execLdx h v pr fmt rnd off s) := fun hs => memWf_plateOp (fun _ _ h => okWf_loadFx h) hs

@[simp] theorem keeps_execDraw {h : PlateHdr} {v : BitVec 5} {pr : BitVec 3} {fmt : BitVec 5} {rnd : BitVec 2}
    {off : BitVec 24} :
    Keeps s (execDraw h v pr fmt rnd off s) := fun hs => memWf_plateOp (fun _ _ h => h) hs

@[simp] theorem keeps_execFadd {h : PlateHdr} {d s1 s2 s3 : BitVec 5} {rnd : BitVec 2} :
    Keeps s (execFadd h d s1 s2 s3 rnd s) := keeps_regOp

@[simp] theorem keeps_execFsub {h : PlateHdr} {d s1 s2 s3 : BitVec 5} {rnd : BitVec 2} :
    Keeps s (execFsub h d s1 s2 s3 rnd s) := keeps_regOp

@[simp] theorem keeps_execFmul {h : PlateHdr} {d s1 s2 s3 : BitVec 5} {rnd : BitVec 2} :
    Keeps s (execFmul h d s1 s2 s3 rnd s) := keeps_regOp

@[simp] theorem keeps_execFfma {h : PlateHdr} {d s1 s2 s3 : BitVec 5} {rnd : BitVec 2} :
    Keeps s (execFfma h d s1 s2 s3 rnd s) := keeps_regOp

@[simp] theorem keeps_execFdiv {h : PlateHdr} {d s1 s2 s3 : BitVec 5} {rnd : BitVec 2} :
    Keeps s (execFdiv h d s1 s2 s3 rnd s) := keeps_regOp

@[simp] theorem keeps_execFsqrt {h : PlateHdr} {d s1 s2 s3 : BitVec 5} {rnd : BitVec 2} :
    Keeps s (execFsqrt h d s1 s2 s3 rnd s) := keeps_regOp

@[simp] theorem keeps_execFmax {h : PlateHdr} {d s1 s2 s3 : BitVec 5} {rnd : BitVec 2} :
    Keeps s (execFmax h d s1 s2 s3 rnd s) := keeps_regOp

@[simp] theorem keeps_execFmin {h : PlateHdr} {d s1 s2 s3 : BitVec 5} {rnd : BitVec 2} :
    Keeps s (execFmin h d s1 s2 s3 rnd s) := keeps_regOp

@[simp] theorem keeps_execFneg {h : PlateHdr} {d s1 s2 s3 : BitVec 5} {rnd : BitVec 2} :
    Keeps s (execFneg h d s1 s2 s3 rnd s) := keeps_regOp

@[simp] theorem keeps_execFabs {h : PlateHdr} {d s1 s2 s3 : BitVec 5} {rnd : BitVec 2} :
    Keeps s (execFabs h d s1 s2 s3 rnd s) := keeps_regOp

@[simp] theorem keeps_execFcmplt {h : PlateHdr} {d s1 s2 s3 : BitVec 5} {rnd : BitVec 2} :
    Keeps s (execFcmplt h d s1 s2 s3 rnd s) :=
  keeps_regOp (s := s.tick)

@[simp] theorem keeps_execFsel {h : PlateHdr} {d s1 s2 s3 : BitVec 5} {rnd : BitVec 2} :
    Keeps s (execFsel h d s1 s2 s3 rnd s) := keeps_regOp

@[simp] theorem keeps_execLaneid {h : PlateHdr} {d s1 s2 s3 : BitVec 5} {rnd : BitVec 2} :
    Keeps s (execLaneid h d s1 s2 s3 rnd s) := keeps_regOp

@[simp] theorem keeps_execExp {h : PlateHdr} {d s1 s2 s3 : BitVec 5} {rnd : BitVec 2} :
    Keeps s (execExp h d s1 s2 s3 rnd s) := keeps_regOp

@[simp] theorem keeps_execExp2 {h : PlateHdr} {d s1 s2 s3 : BitVec 5} {rnd : BitVec 2} :
    Keeps s (execExp2 h d s1 s2 s3 rnd s) := keeps_regOp

@[simp] theorem keeps_execLog {h : PlateHdr} {d s1 s2 s3 : BitVec 5} {rnd : BitVec 2} :
    Keeps s (execLog h d s1 s2 s3 rnd s) := keeps_regOp

@[simp] theorem keeps_execLog2 {h : PlateHdr} {d s1 s2 s3 : BitVec 5} {rnd : BitVec 2} :
    Keeps s (execLog2 h d s1 s2 s3 rnd s) := keeps_regOp

@[simp] theorem keeps_execRcp {h : PlateHdr} {d s1 s2 s3 : BitVec 5} {rnd : BitVec 2} :
    Keeps s (execRcp h d s1 s2 s3 rnd s) := keeps_regOp

@[simp] theorem keeps_execRsqrt {h : PlateHdr} {d s1 s2 s3 : BitVec 5} {rnd : BitVec 2} :
    Keeps s (execRsqrt h d s1 s2 s3 rnd s) := keeps_regOp

@[simp] theorem keeps_execTanh {h : PlateHdr} {d s1 s2 s3 : BitVec 5} {rnd : BitVec 2} :
    Keeps s (execTanh h d s1 s2 s3 rnd s) := keeps_regOp

@[simp] theorem keeps_execSigm {h : PlateHdr} {d s1 s2 s3 : BitVec 5} {rnd : BitVec 2} :
    Keeps s (execSigm h d s1 s2 s3 rnd s) := keeps_regOp

@[simp] theorem keeps_execErf {h : PlateHdr} {d s1 s2 s3 : BitVec 5} {rnd : BitVec 2} :
    Keeps s (execErf h d s1 s2 s3 rnd s) := keeps_regOp

@[simp] theorem keeps_execRmax {h : PlateHdr} {d s1 s2 s3 : BitVec 5} {rnd : BitVec 2} :
    Keeps s (execRmax h d s1 s2 s3 rnd s) := keeps_regOp

@[simp] theorem keeps_execRsum {h : PlateHdr} {d s1 s2 s3 : BitVec 5} {rnd : BitVec 2} :
    Keeps s (execRsum h d s1 s2 s3 rnd s) := keeps_regOp

/-! ### Functions of `Machine/Array` -/

theorem okWf_runArray {b : BenchHdr} {desc : Addr} (hs : memWf s) : OkWf id (runArray b desc s) := by
  unfold runArray
  split
  · exact trivial
  · split
    · exact trivial
    · extract_lets
      split
      · exact trivial
      · exact memWf_updBench (memWf_touchRead (memWf_takeFlight (memWf_issueHead hs)))

@[simp] theorem keeps_execArray {b : BenchHdr} {desc : Addr} : Keeps s (execArray b desc s) :=
  fun hs => memWf_benchOp (fun _ h => okWf_runArray h) (memWf_noteSlotWait hs)

theorem memWf_updQuarter {q : Qtr} {f : QuarterArr → QuarterArr} (hs : memWf s) : memWf (updQuarter q f s) := hs

theorem memWf_updArrayOp {ident : Nat} {f : ArrayOp → ArrayOp} (hs : memWf s) : memWf (updArrayOp p ident f s) :=
  memWf_updBench hs

theorem memWf_startRound {o : ArrayOp} (hs : memWf s) : memWf (startRound p o s) := memWf_ite (memWf_updArrayOp hs) hs

theorem memWf_feedOn (hs : memWf s) : memWf (feedOn p s) := by
  unfold feedOn
  split
  · exact hs
  · refine memWf_ite hs (memWf_ite ?_ (memWf_startRound (memWf_updArrayOp hs)))
    dsimp only
    split
    · exact memWf_updArrayOp hs
    · exact memWf_startRound (memWf_updArrayOp hs)

theorem memWf_leaveQueue {o : ArrayOp} {fault : Option (Nat × Nat)} (hs : memWf s) : memWf (leaveQueue p o fault s) :=
  memWf_completeOp (memWf_freeLatches (memWf_updBench hs))

theorem memWf_takeHead (hs : memWf s) : memWf (takeHead s) := by
  unfold takeHead
  dsimp only
  split
  · exact hs
  · refine memWf_ite hs (memWf_ite (memWf_updArrayOp (memWf_updBench hs)) (memWf_ite (memWf_updArrayOp hs) ?_))
    split
    · exact memWf_leaveQueue hs
    · exact hs
    · exact memWf_feedOn (memWf_updArrayOp (memWf_ite (memWf_updBench hs) hs))

@[simp] theorem keeps_execArrayQueueHead : Keeps s (execArrayQueueHead s) := fun hs => memWf_takeHead hs

theorem memWf_abortOp {o : ArrayOp} {code extra : Nat} (hs : memWf s) : memWf (abortOp p o code extra s) := hs

theorem memWf_noteRim {ident : Nat} {r : RimOut} (hs : memWf s) : memWf (noteRim p ident r s) :=
  memWf_updBench (memWf_updArrayOp hs)

theorem memWf_drainTile {o : ArrayOp} {q : Qtr} {t : Nat} {b : Fin 2} (hs : memWf s) :
    memWf (drainTile p o q t b s) := by
  unfold drainTile
  dsimp only
  split
  · exact memWf_abortOp (memWf_upd hs)
  · split
    · exact memWf_updQuarter (memWf_noteRim (memWf_smearOp (memWf_rimTile hs)))
    · exact memWf_updArrayOp (memWf_updQuarter (memWf_noteRim (memWf_smearOp (memWf_rimTile hs))))

theorem memWf_tileStep {q : Qtr} (hs : memWf s) : memWf (tileStep q s) := by
  unfold tileStep
  extract_lets _ s₁
  have h₁ : memWf s₁ := memWf_updQuarter hs
  split
  · exact h₁
  · extract_lets s₂
    refine memWf_feedOn ?_
    unfold s₂
    split
    · exact memWf_ite h₁ (memWf_drainTile h₁)
    · exact h₁

@[simp] theorem keeps_execTileDrain {q : Qtr} : Keeps s (execTileDrain q s) :=
  fun hs => memWf_settle hs (memWf_tileStep hs)

theorem memWf_spoilBlocks {o : ArrayOp} (hs : memWf s) : memWf (spoilBlocks o s) :=
  memWf_foldl (fun _ _ h => memWf_putStake (memWf_tick h)) hs

theorem memWf_spoilStats {o : ArrayOp} (hs : memWf s) : memWf (spoilStats p o s) :=
  memWf_foldl (fun _ _ h => memWf_ite (memWf_blurRun h) h) hs

theorem memWf_spoilAdds {o : ArrayOp} (hs : memWf s) : memWf (spoilAdds p o s) := by
  unfold spoilAdds
  split
  · exact hs
  · exact memWf_foldl (fun _ _ h => memWf_writeMem (memWf_tick h)) hs

theorem memWf_spoilOutput {o : ArrayOp} (hs : memWf s) : memWf (spoilOutput p o s) := by
  unfold spoilOutput
  extract_lets s₁
  have h₁ : memWf s₁ := memWf_ite (memWf_spoilAdds hs) (memWf_spoilBlocks hs)
  exact memWf_ite hs (memWf_ite (memWf_spoilStats h₁) h₁)

theorem memWf_holdTile {o : ArrayOp} {q : Qtr} (hs : memWf s) : memWf (holdTile p o s q) := by
  unfold holdTile
  split
  · exact hs
  · dsimp only
    split
    · exact memWf_abortOp (memWf_upd hs)
    · exact memWf_updQuarter hs

theorem memWf_reportOp {o : ArrayOp} {stall : Nat} (hs : memWf s) : memWf (reportOp p o stall s) := by
  unfold reportOp
  extract_lets _ s₁
  have h₁ : memWf s₁ := memWf_ite (memWf_spoilOutput hs) hs
  split
  extract_lets s₂
  have h₂ : memWf s₂ := memWf_ite (memWf_tick h₁) h₁
  split
  rename_i s₃ e
  have h₃ : memWf s₃ := by
    refine memWf_of_snd e ?_
    split
    · exact memWf_noteDenied (memWf_updBench h₂)
    · exact memWf_smearOp (memWf_writeMem (memWf_updBench h₂))
  exact memWf_leaveQueue h₃

theorem memWf_endArray {stall : Nat} (hs : memWf s) : memWf (endArray stall s) := by
  unfold endArray
  extract_lets
  split
  · exact hs
  · refine memWf_ite hs (memWf_ite (memWf_feedOn (memWf_reportOp hs)) (memWf_ite ?_ hs))
    extract_lets s₁
    have h₁ : memWf s₁ := memWf_foldl (fun _ _ h => memWf_holdTile h) hs
    split
    · exact memWf_feedOn (memWf_reportOp h₁)
    · exact h₁

@[simp] theorem keeps_execArrayComplete {stall : B32} : Keeps s (execArrayComplete stall s) :=
  fun hs => memWf_settle hs (memWf_endArray hs)

theorem memWf_admitContribution {c : Contribution} (hs : memWf s) : memWf (admitContribution c s) := by
  unfold admitContribution
  split
  · exact memWf_updArrayOp hs
  · dsimp only
    split
    · exact memWf_updArrayOp (memWf_noteDenied hs)
    · exact memWf_updArrayOp hs
    · refine memWf_ite (memWf_refuseContribution hs) ?_
      split
      · exact memWf_refuseContribution hs
      · exact memWf_setBufEntry (memWf_addElements (memWf_updArrayOp hs))

@[simp] theorem keeps_execContributionAdmission {i : Nat} : Keeps s (execContributionAdmission i s) := by
  unfold execContributionAdmission
  split
  · exact fun hs => memWf_settle hs (memWf_admitContribution hs)
  · exact id

theorem memWf_settleTile {o : ArrayOp} {step : Nat} {q : Qtr} (hs : memWf s) : memWf (settleTile p o step s q) := by
  unfold settleTile
  split
  · exact hs
  · dsimp only
    split
    · exact memWf_abortOp (memWf_upd hs)
    · exact memWf_updQuarter hs

theorem memWf_putCells {q : Qtr} {b : Fin 2} {cells : Map A96} (hs : memWf s) : memWf (putCells q b cells s) :=
  memWf_foldl (fun _ _ h => memWf_putMem h _ _) hs

theorem memWf_saveBank {q : Qtr} {b : Fin 2} (hs : memWf s) : memWf (saveBank q s b) :=
  memWf_ite (memWf_putCells (memWf_updQuarter hs)) hs

theorem memWf_restoreBank {c : Context} {q : Qtr} {b : Fin 2} (hs : memWf s) : memWf (restoreBank c q s b) :=
  memWf_ite (memWf_updQuarter (memWf_updQuarter hs)) (memWf_updQuarter hs)

theorem memWf_saveContext (hs : memWf s) : memWf (saveContext p s) :=
  memWf_updBench (memWf_foldl (fun _ _ h => memWf_saveBank (memWf_saveBank h)) hs)

theorem memWf_restoreContext (hs : memWf s) : memWf (restoreContext p s) :=
  memWf_updBench (memWf_foldl (fun _ _ h => memWf_updQuarter (memWf_restoreBank (memWf_restoreBank h))) hs)

theorem memWf_switchArray {step : Nat} (hs : memWf s) : memWf (switchArray step s) := by
  unfold switchArray
  extract_lets _ s₁
  have h₁ : memWf s₁ := by
    unfold s₁
    split
    · exact hs
    · exact memWf_ite (memWf_updBench (memWf_updArrayOp
        (memWf_ite hs (memWf_updArrayOp (memWf_foldl (fun _ _ h => memWf_settleTile h) hs))))) hs
  split
  · exact hs
  · exact memWf_ite hs (memWf_feedOn (memWf_endLostRuns
      (memWf_restoreContext (memWf_saveContext (memWf_foldl (fun _ _ h => memWf_updQuarter h) h₁)))))

@[simp] theorem keeps_execContextSwitch {step : BitVec 24} : Keeps s (execContextSwitch step s) :=
  fun hs => memWf_switchArray hs

@[simp] theorem keeps_execArrayQuantumExpiry : Keeps s (execArrayQuantumExpiry s) := fun hs => memWf_ite hs hs

theorem memWf_moveContext {inbound : Bool} (hs : memWf s) : memWf (moveContext p inbound s) :=
  memWf_foldl (fun _ _ h => memWf_foldl (fun _ _ k => memWf_ite (memWf_putMem (memWf_touchRead k) _ _)
    (memWf_writeMem k)) h) hs

theorem memWf_copyContext {inbound : Bool} (hs : memWf s) : memWf (copyContext p inbound s) := by
  have h : ∀ d, memWf (moveContext p d s) := fun _ => memWf_moveContext hs
  unfold copyContext
  split
  · exact memWf_ite (memWf_setArray (h true)) hs
  · exact memWf_ite (memWf_setArray (h false)) hs

@[simp] theorem keeps_execContextCopy {inbound : Bool} : Keeps s (execContextCopy p inbound s) :=
  fun hs => memWf_settle hs (memWf_copyContext hs)

theorem memWf_loseArray {q : Qtr} (hs : memWf s) : memWf (loseArray q s) := by
  unfold loseArray
  refine memWf_foldl (fun _ _ h => ?_) hs
  exact memWf_ite (memWf_feedOn (memWf_loseRuns (memWf_updBench h))) (memWf_loseRuns (memWf_updBench h))

/-! ### Functions of `Machine/Stitches` -/

theorem memWf_denyOwn {i : Nat} {t : Option Nat} (hs : memWf s) : memWf (denyOwn p i t s) := by
  unfold denyOwn
  split
  · exact memWf_denied hs
  · exact hs

theorem memWf_actStSet {i remote : Nat} {count : B32} (hs : memWf s) : memWf (actStSet p i remote count s).2 := by
  unfold actStSet
  refine memWf_ite_snd hs ?_
  split
  · exact memWf_denyOwn hs
  · exact memWf_checkWaits (memWf_putStitch hs)

@[simp] theorem keeps_execStSet {h : CmdHdr} {idx : B16} {remote : Byte} {count : B32} :
    Keeps s (execStSet h idx remote count s) := fun hs => memWf_hostCmd (fun _ h => memWf_actStSet h) hs

theorem memWf_actStRepair {i : Nat} (hs : memWf s) : memWf (actStRepair p i s).2 := by
  unfold actStRepair
  split
  · exact memWf_denyOwn hs
  · exact memWf_ite_snd hs (memWf_putStitch hs)

@[simp] theorem keeps_execStRepair {h : CmdHdr} {idx : B16} : Keeps s (execStRepair h idx s) :=
  fun hs => memWf_hostCmd (fun _ h => memWf_actStRepair h) hs

theorem memWf_actStLock {i : Nat} (hs : memWf s) : memWf (actStLock p i s).2 := by
  unfold actStLock
  split
  · exact memWf_denyStitch hs
  · split
    · exact hs
    · rename_i s₁ e
      exact (okWf_lockStitch hs).of_eq e

@[simp] theorem keeps_execStLockCmd {h : CmdHdr} {idx : B16} : Keeps s (execStLockCmd h idx s) :=
  fun hs => memWf_hostCmd (fun _ h => memWf_actStLock h) hs

theorem memWf_actStUnlock {i : Nat} {e : Byte} (hs : memWf s) : memWf (actStUnlock p i e s).2 := by
  unfold actStUnlock
  split
  · exact memWf_denyStitch hs
  · split
    · exact hs
    · rename_i s₁ e
      exact (okWf_unlockStitch hs).of_eq e

@[simp] theorem keeps_execStUnlockCmd {h : CmdHdr} {idx : B16} {epoch : Byte} :
    Keeps s (execStUnlockCmd h idx epoch s) := fun hs => memWf_hostCmd (fun _ h => memWf_actStUnlock h) hs

theorem memWf_actStSignal {i v : Nat} (hs : memWf s) : memWf (actStSignal p i v s).2 := by
  unfold actStSignal
  split
  · exact memWf_denyStitch hs
  · exact memWf_signalStitch hs

@[simp] theorem keeps_execStSignalCmd {h : CmdHdr} {idx : B16} {value : B32} :
    Keeps s (execStSignalCmd h idx value s) := fun hs => memWf_hostCmd (fun _ h => memWf_actStSignal h) hs

theorem memWf_actStRead {i : Nat} (hs : memWf s) : memWf (actStRead p i s).2 := by
  unfold actStRead
  split
  · exact memWf_denyStitch hs
  · exact hs

@[simp] theorem keeps_execStReadCmd {h : CmdHdr} {idx : B16} : Keeps s (execStReadCmd h idx s) :=
  fun hs => memWf_hostCmd (fun _ h => memWf_actStRead h) hs

theorem memWf_actStExport {importer window first count ops : Nat} (hs : memWf s) :
    memWf (actStExport p importer window first count ops s).2 :=
  memWf_ite_snd hs (memWf_ite_snd hs (memWf_ite_snd (memWf_updStc hs) (memWf_ite_snd hs (memWf_updStc hs))))

@[simp] theorem keeps_execStExport {h : CmdHdr} {importer window : Byte} {first count : B16} {ops : Byte} :
    Keeps s (execStExport h importer window first count ops s) :=
  fun hs => memWf_hostCmd (fun _ h => memWf_actStExport h) hs

/-! ### Functions of `Machine/Veto` -/

theorem memWf_updPending {ident : Nat} {f : PendingVeto → PendingVeto} (hs : memWf s) :
    memWf (updPending p ident f s) := memWf_updVeto hs

theorem memWf_recordVerdict {step : Nat} {skip : Bool} {reason : Nat} (hs : memWf s) :
    memWf (recordVerdict p step skip reason s) := memWf_updPln hs

theorem memWf_sigStitch {m : Nat} {sig : Bool} {idx : Nat} (hs : memWf s) : memWf (sigStitch p m sig idx s).2 := by
  unfold sigStitch
  refine memWf_ite_snd hs ?_
  split
  rename_i s₁ e
  exact memWf_of_snd e (memWf_engineSignal hs)

theorem memWf_endVeto {x : PendingVeto} {code reason firstPos reported : Nat} (hs : memWf s) :
    memWf (endVeto p x code reason firstPos reported s) := by
  unfold endVeto
  split
  rename_i s₁ e
  have h₁ : memWf s₁ := by
    refine memWf_of_snd e ?_
    split
    · exact memWf_noteDenied hs
    · exact memWf_writeMem hs
  split
  rename_i s₂ e
  have h₂ : memWf s₂ := memWf_of_snd e (memWf_sigStitch h₁)
  exact memWf_completeOp (memWf_updVeto h₂)

theorem memWf_applyResult {r : VetoResult} (hs : memWf s) : memWf (applyResult p r s) :=
  memWf_foldl (fun _ _ h => memWf_endVeto h)
    (memWf_recordVerdict (memWf_ite (memWf_note (memWf_updVeto hs)) (memWf_updVeto hs)))

theorem memWf_leaderTry {step : Nat} (hs : memWf s) : memWf (leaderTry p step s) :=
  memWf_ite hs (memWf_applyResult (memWf_sendAll (memWf_updVeto hs)))

theorem memWf_onVerdict {x : Verdict} (hs : memWf s) : memWf (onVerdict p x s) :=
  memWf_ite (memWf_updVeto hs) (memWf_leaderTry (memWf_updVeto hs))

theorem memWf_adoptResult {r : VetoResult} (hs : memWf s) : memWf (adoptResult p r s) :=
  memWf_applyResult (memWf_sendAll (memWf_updVeto hs))

theorem memWf_onResult {r : VetoResult} (hs : memWf s) : memWf (onResult p r s) := by
  unfold onResult
  dsimp only
  split
  · exact hs
  · exact memWf_ite (memWf_applyResult hs) (memWf_ite (memWf_updVeto hs)
      (memWf_foldl (fun _ _ h => memWf_updPending h) hs))
  · exact memWf_ite (memWf_adoptResult hs) (memWf_ite (memWf_updVeto hs)
      (memWf_foldl (fun _ _ h => memWf_updPending h) hs))

theorem memWf_endCloseOnly {x : PendingVeto} (hs : memWf s) : memWf (endCloseOnly p x s) :=
  memWf_endVeto (memWf_updVeto hs)

theorem memWf_judgeVeto {x : PendingVeto} (hs : memWf s) : memWf (judgeVeto p x s) := by
  unfold judgeVeto
  dsimp only
  split
  · exact memWf_applyResult (memWf_updPending (memWf_updVeto hs))
  · exact memWf_adoptResult (memWf_updPending (memWf_updVeto hs))
  · exact memWf_leaderTry (memWf_updPending (memWf_updVeto hs))
  · exact memWf_applyResult (memWf_updVeto (memWf_updPending (memWf_updVeto hs)))
  · exact memWf_sendMsg (memWf_updPending (memWf_updVeto hs))

theorem memWf_noteClosed {x : PendingVeto} (hs : memWf s) : memWf (noteClosed p x s) := memWf_ite hs (memWf_note hs)

theorem memWf_vetoClosed {ident : Nat} (hs : memWf s) : memWf (vetoClosed p s ident) := by
  unfold vetoClosed
  split
  · exact hs
  · exact memWf_ite hs (memWf_ite (memWf_endCloseOnly (memWf_noteClosed hs)) (memWf_judgeVeto (memWf_noteClosed hs)))

theorem okWf_runVeto {b : BenchHdr} {record : Addr} (hs : memWf s) : OkWf id (runVeto b record s) := by
  unfold runVeto
  split
  · exact trivial
  · split
    · exact trivial
    · split
      · exact trivial
      · split
        · exact trivial
        · exact memWf_vetoClosed (memWf_touchRead (memWf_updVeto (memWf_takeFlight (memWf_issueHead hs))))

@[simp] theorem keeps_execVeto {b : BenchHdr} {record : Addr} : Keeps s (execVeto b record s) :=
  fun hs => memWf_settle hs (memWf_benchOp (fun _ h => okWf_runVeto h) hs)

theorem memWf_closeFor {h : Nat} (hs : memWf s) : memWf (closeFor p h s) := by
  unfold closeFor
  extract_lets _ _ _ s₁
  have h₁ : memWf s₁ := by
    unfold s₁
    split
    · exact memWf_foldl (fun _ _ h => memWf_updPending h) hs
    · extract_lets _ s₂
      have h₂ : memWf s₂ := memWf_ite (memWf_closeBuf hs) hs
      exact memWf_ite (memWf_foldl (fun _ _ h => memWf_updPending h) hs)
        (memWf_foldl (fun _ _ h => memWf_updPending h) (memWf_ite (memWf_updVeto h₂) h₂))
  exact memWf_ite hs (memWf_foldl (fun _ _ h => memWf_vetoClosed h) h₁)

@[simp] theorem keeps_execBufferClose {handle : B32} : Keeps s (execBufferClose p handle s) :=
  fun hs => memWf_settle hs (memWf_closeFor hs)

/-! ### Functions of `Machine/Vesin` -/

theorem memWf_updVesin {f : Vesin → Vesin} (hs : memWf s) : memWf (updVesin f s) := hs

theorem memWf_noteMisroute (hs : memWf s) : memWf (noteMisroute s) := memWf_updVesin hs

theorem memWf_recordSeq {d n : Nat} {status : B16} (hs : memWf s) : memWf (recordSeq d n status s) :=
  memWf_updVesin hs

theorem memWf_discardDup {m : MsgHdr} {reply : Option (B16 → MsgBody)} (hs : memWf s) :
    memWf (discardDup m reply s) := by
  unfold discardDup
  dsimp only
  split
  · exact memWf_sendMsg (memWf_updVesin hs)
  · exact memWf_updVesin hs

theorem memWf_receive {m : MsgHdr} {reply : Option (B16 → MsgBody)} {act : Part → State → B16 × State}
    (hact : ∀ (a : Part) (a_1 : State), memWf a_1 → memWf (act a a_1).2) (hs : memWf s) :
    memWf (receive m reply act s) := by
  unfold receive
  refine memWf_ite (memWf_noteMisroute hs) (memWf_ite (memWf_discardDup hs) ?_)
  split
  rename_i s₁ e
  have h₁ : memWf s₁ := memWf_of_snd e (hact _ _ hs)
  dsimp only
  split
  · exact memWf_sendMsg (memWf_recordSeq h₁)
  · exact memWf_recordSeq h₁

theorem memWf_receivePlain {m : MsgHdr} {act : Part → State → State}
    (hact : ∀ (a : Part) (a_1 : State), memWf a_1 → memWf (act a a_1)) (hs : memWf s) :
    memWf (receivePlain m act s) := memWf_receive (fun _ _ h => hact _ _ h) hs

theorem memWf_landing {v : Port} {g : Right} {a : Nat} (hs : memWf s) : memWf (landing p v g a s).2 := by
  unfold landing
  refine memWf_ite_snd hs ?_
  split
  · exact hs
  · exact memWf_noteDenied hs

theorem memWf_applySend {v : Port} {a : Nat} {data : List Byte} (hs : memWf s) :
    memWf (applySend v a data p s).2 := by
  unfold applySend
  split
  · rename_i s₁ e
    have h₁ : memWf s₁ := memWf_of_snd e (memWf_landing hs)
    exact memWf_writeMem h₁
  · rename_i s₂ e
    exact memWf_of_snd e (memWf_landing hs)

@[simp] theorem keeps_execSend {m : MsgHdr} {addr : Addr} {sheet : List Byte} : Keeps s (execSend m addr sheet s) :=
  fun hs => memWf_settleMsg hs (memWf_receive (fun _ _ h => memWf_applySend h) hs)

theorem memWf_applyAdd {v : Port} {a step : Nat} {mask : B64} {torn : Bool} {data : List Byte} (hs : memWf s) :
    memWf (applyAdd v a step mask torn data p s).2 := by
  unfold applyAdd
  split
  · rename_i s₁ e
    have h₁ : memWf s₁ := memWf_of_snd e (memWf_landing hs)
    exact memWf_addSheet h₁
  · rename_i s₂ e
    exact memWf_of_snd e (memWf_landing hs)

@[simp] theorem keeps_execAdd {m : MsgHdr} {addr : Addr} {mask : B64} {step : BitVec 40} {torn : Bool}
    {sheet : List Byte} :
    Keeps s (execAdd m addr mask step torn sheet s) :=
  fun hs => memWf_settleMsg hs (memWf_receive (fun _ _ h => memWf_applyAdd h) hs)

theorem memWf_noteRemoteDenied (hs : memWf s) : memWf (noteRemoteDenied p s) := memWf_updStc hs

theorem memWf_applySignal {v : Port} {i : Nat} {value : B32} (hs : memWf s) :
    memWf (applySignal v i value p s).2 := by
  unfold applySignal
  refine memWf_ite_snd (memWf_noteRemoteDenied hs) ?_
  split
  · exact memWf_noteRemoteDenied (memWf_denyStitch hs)
  · exact memWf_ite_snd (memWf_signalStitch (memWf_updStc hs)) (memWf_noteRemoteDenied hs)

@[simp] theorem keeps_execSignal {m : MsgHdr} {stitch : B16} {value : B32} : Keeps s (execSignal m stitch value s) :=
  fun hs => memWf_receive (fun _ _ h => memWf_applySignal h) hs

theorem memWf_endWaiter {m : OutMsg} {fault : Option Nat} (hs : memWf s) : memWf (endWaiter m fault s) := by
  unfold endWaiter
  split
  · exact hs
  · exact memWf_updCopy hs
  · exact memWf_completeOp (memWf_updBench hs)

theorem memWf_retryWaiting (hs : memWf s) : memWf (retryWaiting s) := by
  unfold retryWaiting
  refine memWf_foldl (fun _ _ h => ?_) (memWf_updVesin hs)
  split
  · exact memWf_endWaiter (memWf_noteSendDenied h)
  · exact memWf_dispatchMsg h

theorem memWf_endMessage {m : OutMsg} {fault : Option Nat} (hs : memWf s) : memWf (endMessage m fault s) :=
  memWf_retryWaiting (memWf_endWaiter (memWf_updVesin hs))

theorem memWf_onReply {src : BitVec 6} {answered : B64} {status : B16} {fits : MsgBody → Bool} (hs : memWf s) :
    memWf (onReply src answered status fits s) := by
  unfold onReply
  split
  · exact hs
  · exact memWf_ite hs (memWf_endMessage hs)

@[simp] theorem keeps_execAck {m : MsgHdr} {answered : B64} {status : B16} : Keeps s (execAck m answered status s) :=
  fun hs => memWf_receivePlain (fun _ _ h => memWf_onReply h) hs

@[simp] theorem keeps_execSigReply {m : MsgHdr} {answered : B64} {status : B16} :
    Keeps s (execSigReply m answered status s) := fun hs => memWf_receivePlain (fun _ _ h => memWf_onReply h) hs

theorem memWf_dropMessage {m : OutMsg} (hs : memWf s) : memWf (dropMessage m s) :=
  memWf_endMessage (memWf_noteDropped hs)

theorem memWf_timeOut {m : OutMsg} (hs : memWf s) : memWf (timeOut m s) := memWf_endMessage (memWf_updVesin hs)

theorem memWf_resend {m : OutMsg} (hs : memWf s) : memWf (resend m s) :=
  memWf_ite (memWf_dropMessage hs) (memWf_dispatchMsg (memWf_updVesin hs))

@[simp] theorem keeps_execMessageTimeout {dst : BitVec 6} {seq : B64} : Keeps s (execMessageTimeout dst seq s) := by
  unfold execMessageTimeout
  split
  · exact id
  · exact fun hs => memWf_ite (memWf_timeOut hs) (memWf_resend hs)

theorem memWf_onMark {src : BitVec 6} {pos : B64} (hs : memWf s) : memWf (onMark src pos p s) :=
  memWf_ite (memWf_noteStale hs) (memWf_ite hs (memWf_ite (memWf_noteStale hs) (memWf_applyPos hs)))

@[simp] theorem keeps_execMark {m : MsgHdr} {pos : B64} : Keeps s (execMark m pos s) :=
  fun hs => memWf_receivePlain (fun _ _ h => memWf_onMark h) hs

@[simp] theorem keeps_execVerdict {m : MsgHdr} {step : BitVec 40} {verdict reason : Byte} :
    Keeps s (execVerdict m step verdict reason s) := fun hs => memWf_receivePlain (fun _ _ h => memWf_onVerdict h) hs

@[simp] theorem keeps_execResult {m : MsgHdr} {step : BitVec 40} {verdict reason firstPos : Byte}
    {reported : BitVec 40} :
    Keeps s (execResult m step verdict reason firstPos reported s) :=
  fun hs => memWf_receivePlain (fun _ _ h => memWf_onResult h) hs

/-! ### Functions of `Machine/Checkpoint` -/

theorem memWf_ckptSetProgramSheet {c : CkptSet} {slot i : Nat} (hs : memWf s) : memWf (c.programSheet slot i s) :=
  memWf_putMem (memWf_tick (memWf_writeManaged hs)) _ _

theorem memWf_ckptSetProgram {c : CkptSet} {slot i n : Nat} (hs : memWf s) : memWf (c.program slot i n s) :=
  memWf_foldl (fun _ _ h => memWf_ckptSetProgramSheet h) hs

theorem memWf_ckptSetPut {c : CkptSet} {slot : Nat} {g : Image} (hs : memWf s) : memWf (c.put slot g s) := by
  refine memWf_putMem ?_ _ _
  exact memWf_ckptSetProgram hs

theorem memWf_imgNote {event : Nat} {status : B16} {c : CkptSet} {g : Image} {cause : Nat} (hs : memWf s) :
    memWf (imgNote p event status c g cause s) := memWf_resNote hs

theorem memWf_abandonImage {c : CkptSet} {slot cause : Nat} (hs : memWf s) : memWf (abandonImage p c slot cause s) :=
  memWf_imgNote (memWf_updRes (memWf_ckptSetPut hs))

theorem memWf_sliceSignal {a : SliceArg} (hs : memWf s) : memWf (sliceSignal p a s) :=
  memWf_ite (memWf_engineSignal hs) hs

theorem memWf_markFinal {c : CkptSet} {slot : Nat} {f : Firing} (hs : memWf s) : memWf (markFinal p c slot f s) :=
  memWf_ckptSetPut (memWf_updRes hs)

theorem memWf_endSlice {c : CkptSet} {slot : Nat} {f : Firing} (hs : memWf s) : memWf (endSlice p c slot f s) :=
  memWf_doneFiring (memWf_ite (memWf_markFinal hs) hs)

theorem memWf_captureSlice {c : CkptSet} {slot : Nat} {f : Firing} {h : Nat} {o : Obj} {data : Map (List Byte)}
    {punch : List PunchRec} (hs : memWf s) :
    memWf (captureSlice p c slot f h o data punch s) := by
  unfold captureSlice
  extract_lets _ _ _ _ _ s₁
  have h₁ : memWf s₁ := memWf_ckptSetProgram (memWf_touchRead hs)
  exact memWf_endSlice (memWf_ite (memWf_foldl (fun _ _ h => memWf_engineSend h) (memWf_updRes (memWf_ckptSetPut h₁)))
    (memWf_updRes (memWf_ckptSetPut h₁)))

theorem memWf_openFor {c : CkptSet} {step : Nat} (hs : memWf s) : memWf (openFor p c step s).2 := by
  unfold openFor
  extract_lets s₁
  have h₁ : memWf s₁ := by
    unfold s₁
    split
    · exact memWf_ite (memWf_abandonImage hs) hs
    · exact hs
  split
  · exact h₁
  · exact memWf_ckptSetPut h₁

theorem memWf_startSlice {c : CkptSet} {f : Firing} (hs : memWf s) : memWf (startSlice p c f s) := by
  unfold startSlice
  refine memWf_ite (memWf_doneFiring hs) ?_
  split
  rename_i s₁ e
  have h₁ : memWf s₁ := memWf_of_snd e (memWf_openFor hs)
  refine memWf_ite (memWf_ite (memWf_endSlice (memWf_sliceSignal h₁)) (memWf_doneFiring h₁)) ?_
  split
  · exact memWf_doneFiring h₁
  · exact memWf_ite (memWf_doneFiring (memWf_abandonImage h₁))
      (memWf_ite (memWf_doneFiring (memWf_abandonImage h₁))
      (memWf_ite (memWf_doneFiring (memWf_noteDenied h₁))
      (memWf_ite (memWf_sliceSignal (memWf_updRes h₁))
      (memWf_sliceSignal (memWf_captureSlice (memWf_ite (memWf_updRes h₁) h₁))))))

theorem memWf_endStaged {x : Snap} (hs : memWf s) : memWf (endStaged p x s) := by
  unfold endStaged
  dsimp only
  split
  · split
    · exact memWf_captureSlice (memWf_updRes hs)
    · exact memWf_doneFiring (memWf_updRes hs)
  · exact memWf_doneFiring (memWf_updRes hs)

theorem memWf_checkpointStep (hs : memWf s) : memWf (checkpointStep p s) := by
  unfold checkpointStep
  split
  · exact memWf_endStaged hs
  · exact hs
  · extract_lets s₁
    have h₁ : memWf s₁ := memWf_takenFiring (memWf_updCad hs)
    split
    · exact memWf_ite (memWf_doneFiring h₁) (memWf_startSlice h₁)
    · exact memWf_doneFiring h₁

@[simp] theorem keeps_execCheckpointSlice : Keeps s (execCheckpointSlice p s) := fun hs => memWf_checkpointStep hs

theorem memWf_sealImage {c : CkptSet} {slot : Nat} {g : Image} (hs : memWf s) : memWf (sealImage p c slot g s) :=
  memWf_imgNote (memWf_updRes (memWf_ckptSetPut hs))

theorem memWf_sendRecords {c : CkptSet} {g : Image} (hs : memWf s) : memWf (sendRecords c g s) :=
  memWf_engineSend (memWf_engineSend (memWf_engineSend hs))

theorem memWf_sealStep {set : Nat} (hs : memWf s) : memWf (sealStep p set s) := by
  unfold sealStep
  split
  · exact hs
  · split
    · exact hs
    · exact memWf_ite hs (memWf_ite (memWf_sendRecords (memWf_sealImage hs))
        (memWf_ite (memWf_imgNote (memWf_sealImage hs)) (memWf_sealImage hs)))

@[simp] theorem keeps_execImageSeal {set : B32} : Keeps s (execImageSeal p set s) := fun hs => memWf_sealStep hs

theorem memWf_commitMirror {c : CkptSet} {slot src : Nat} (hs : memWf s) : memWf (commitMirror p c slot src s) :=
  memWf_sendMsg (memWf_ite hs (memWf_imgNote (memWf_ckptSetPut hs)))

theorem memWf_tryMirrorSeal {c : CkptSet} {slot : Nat} (hs : memWf s) : memWf (tryMirrorSeal p c slot s) :=
  memWf_ite hs (memWf_ite (memWf_commitMirror (memWf_updRes (memWf_sealImage hs))) (memWf_sealImage hs))

theorem someWf_mirrorSlot {c : CkptSet} {src img : Nat} (hs : memWf s) :
    SomeWf Prod.snd (mirrorSlot c src img s) := by
  unfold mirrorSlot
  split
  · exact trivial
  · extract_lets s₁
    have h₁ : memWf s₁ := by
      unfold s₁
      split
      · exact memWf_ite (memWf_ckptSetPut hs) hs
      · exact hs
    split
    · exact h₁
    · exact memWf_ckptSetPut h₁

theorem memWf_onMirror {v : Port} {src img : Nat} {data head : Bool} {f : Image → Image} (hs : memWf s) :
    memWf (onMirror v p src img data head f s) := by
  unfold onMirror
  split
  · exact hs
  · split
    · rename_i s₁ _ e
      have h₁ : memWf s₁ := (someWf_mirrorSlot hs).of_eq e
      dsimp only
      split
      · rename_i s₂ e
        exact memWf_of_snd e (memWf_landing hs)
      · exact memWf_ite (memWf_tryMirrorSeal (memWf_ckptSetPut (memWf_ite (memWf_ckptSetProgram h₁) h₁)))
          (memWf_ckptSetPut (memWf_ite (memWf_ckptSetProgram h₁) h₁))
    · exact hs

@[simp] theorem keeps_execFillMirror {m : MsgHdr} {slice : B16} {img : B32} {sheet : Nat} {data : List Byte}
    {mark : B256} :
    Keeps s (execFillMirror m slice img sheet data mark s) :=
  fun hs => memWf_receivePlain (fun _ _ h => memWf_ite (memWf_onMirror h) h) hs

@[simp] theorem keeps_execFillRecord {m : MsgHdr} {img : B32} {part : Fin 3} {data : List Byte} :
    Keeps s (execFillRecord m img part data s) := fun hs => memWf_receivePlain (fun _ _ h => memWf_onMirror h) hs

theorem memWf_commitImage {c : CkptSet} {slot : Nat} (hs : memWf s) : memWf (commitImage p c slot s) :=
  memWf_imgNote (memWf_ckptSetPut hs)

theorem memWf_commitStep (hs : memWf s) : memWf (commitStep p s) := by
  unfold commitStep
  split
  · exact hs
  · extract_lets s₁
    have h₁ : memWf s₁ := memWf_takenFiring (memWf_updCad hs)
    split
    · exact memWf_doneFiring h₁
    · split
      · exact memWf_doneFiring h₁
      · exact memWf_ite (memWf_doneFiring (memWf_commitImage h₁))
          (memWf_ite (memWf_sendMsg (memWf_updRes h₁)) (memWf_updRes h₁))

@[simp] theorem keeps_execStandbyCommit : Keeps s (execStandbyCommit p s) := fun hs => memWf_commitStep hs

theorem memWf_commitAnswered {src step : Nat} (hs : memWf s) : memWf (commitAnswered p src step s) := by
  unfold commitAnswered
  split
  · exact hs
  · extract_lets _ s₁
    have h₁ : memWf s₁ := by
      unfold s₁
      split
      · exact memWf_ite (memWf_commitImage (memWf_updRes hs)) (memWf_updRes hs)
      · exact memWf_updRes hs
    exact memWf_doneFiring h₁

theorem memWf_commitTimeout {set : Nat} (hs : memWf s) : memWf (commitTimeout p set s) := by
  unfold commitTimeout
  split
  · exact hs
  · extract_lets _ s₁
    have h₁ : memWf s₁ := by
      unfold s₁
      split
      · exact memWf_imgNote (memWf_updRes hs)
      · exact memWf_updRes hs
    exact memWf_doneFiring h₁

@[simp] theorem keeps_execMirrorCommitTimeout {set : B32} : Keeps s (execMirrorCommitTimeout p set s) :=
  fun hs => memWf_commitTimeout hs

theorem memWf_onCommitImg {src step img : Nat} (hs : memWf s) : memWf (onCommitImg src step img p s) := by
  unfold onCommitImg
  split
  · exact hs
  · split
    · exact memWf_commitMirror hs
    · exact memWf_updRes hs

@[simp] theorem keeps_execCommitImg {m : MsgHdr} {step img : BitVec 40} : Keeps s (execCommitImg m step img s) :=
  fun hs => memWf_receivePlain (fun _ _ h => memWf_onCommitImg h) hs

theorem memWf_actRestore {set slot list count : Nat} (hs : memWf s) :
    memWf (actRestore p set slot list count s).2 := by
  unfold actRestore
  refine memWf_ite_snd hs ?_
  split
  · exact hs
  · split
    · exact hs
    · refine memWf_ite_snd hs ?_
      split
      · rename_i s₁ e
        exact memWf_of_snd e (memWf_hostRead hs)
      · rename_i s₂ e
        have h₂ : memWf s₂ := memWf_of_snd e (memWf_hostRead hs)
        dsimp only
        split <;> exact h₂

@[simp] theorem keeps_execCkptRestore {h : CmdHdr} {set : B32} {slot : Byte} {list : B64} {count : B16} :
    Keeps s (execCkptRestore h set slot list count s) := fun hs => memWf_hostCmd (fun _ h => memWf_actRestore h) hs

theorem memWf_reloadPunch {r : PartRecord} (hs : memWf s) : memWf (reloadPunch p r s) :=
  memWf_foldl (fun _ _ h => memWf_ite (memWf_updSlot h) h) hs

theorem memWf_writeSlice {x : SliceRec} {o : Obj} (hs : memWf s) : memWf (writeSlice p x o s) :=
  memWf_foldl (fun _ _ h => memWf_writeMem h) hs

theorem memWf_spoilObject {h : Nat} (hs : memWf s) : memWf (spoilObject p h s) := by
  unfold spoilObject
  split
  · exact hs
  · exact memWf_foldl (fun _ _ h => memWf_writeMem (memWf_tick h)) hs

theorem memWf_restoreDraws {r : PartRecord} (hs : memWf s) : memWf (restoreDraws p r s) :=
  memWf_foldl (fun _ _ h => memWf_ite (memWf_note (memWf_updPln (memWf_unregister (memWf_updStream h))))
    (memWf_unregister (memWf_updStream h))) hs

theorem memWf_applyRecord {r : PartRecord} (hs : memWf s) : memWf (applyRecord p r s) :=
  memWf_restoreDraws (memWf_updRes (memWf_updVeto (memWf_updPln (memWf_updCad hs))))

theorem memWf_copySlices {l : List (SliceRec × Nat)} {done : List Nat} (hs : memWf s) :
    memWf (copySlices p l done s).2 := by
  induction l generalizing done s with
  | nil => exact hs
  | cons e l ih =>
    unfold copySlices
    split
    · exact ih (memWf_writeSlice hs)
    · exact memWf_foldl (fun _ _ h => memWf_spoilObject h) (memWf_resNote hs)

theorem memWf_restoreImage {g : Image} {hs : List Nat} (hw : memWf s) : memWf (restoreImage p g hs s).2 := by
  unfold restoreImage
  split
  · exact hw
  · refine memWf_ite_snd hw (memWf_ite_snd hw ?_)
    dsimp only
    split
    · exact memWf_noteDenied hw
    · exact memWf_ite_snd (memWf_applyRecord (memWf_copySlices (memWf_reloadPunch hw)))
        (memWf_copySlices (memWf_reloadPunch hw))

theorem memWf_endRestore {set slot : Nat} {hs : List Nat} (hw : memWf s) :
    memWf (endRestore p set slot hs s).2.2 := by
  unfold endRestore
  split
  · exact hw
  · split
    · exact hw
    · split
      rename_i s₁ e
      exact memWf_of_snd e (memWf_restoreImage hw)

/-! ### Functions of `Machine/Ports` -/

theorem memWf_linkNote {cause : Nat} {v : Port} {old new lanes : Nat} (hs : memWf s) :
    memWf (linkNote cause v old new lanes s) := memWf_note hs

theorem memWf_closePort {v : Port} {st : PortSt} (hs : memWf s) : memWf (closePort v st s) :=
  memWf_foldl (fun _ _ h => memWf_resend h) (memWf_updPort hs)

theorem memWf_portDown {v : Port} (hs : memWf s) : memWf (portDown v s) :=
  memWf_ite hs (memWf_linkNote (memWf_closePort (memWf_updPort hs)))

theorem memWf_isolate {v : Port} {reason : Nat} (hs : memWf s) : memWf (isolate v reason s) :=
  memWf_updPort (memWf_closePort hs)

theorem memWf_portUp {v : Port} (hs : memWf s) : memWf (portUp v s) :=
  memWf_retryWaiting (memWf_updVesin (memWf_updPort hs))

theorem memWf_startRekey {v : Port} {ident : Byte} (hs : memWf s) : memWf (startRekey v ident s) :=
  memWf_sendLink (memWf_updPort (memWf_tick hs))

@[simp] theorem keeps_execLaneLock {port : Port} {lanes : Byte} : Keeps s (execLaneLock port lanes s) :=
  fun hs => memWf_ite (memWf_updPort hs) hs

theorem memWf_endTrain {v : Port} (hs : memWf s) : memWf (endTrain v s) := by
  unfold endTrain
  refine memWf_ite hs ?_
  split
  · exact memWf_isolate hs
  · extract_lets _ s₁
    have h₁ : memWf s₁ := memWf_portUp (memWf_updPort hs)
    split
    · exact memWf_ite (memWf_startRekey h₁) (memWf_updPort h₁)
    · exact h₁

theorem memWf_trainPort {v : Port} {good peerGood : Byte} (hs : memWf s) : memWf (trainPort v good peerGood s) :=
  memWf_ite hs (memWf_ite (memWf_portDown (memWf_updPort hs))
    (memWf_endTrain (memWf_sendLink (memWf_updPort (memWf_tick hs)))))

@[simp] theorem keeps_execFullTraining {port : Port} {good peerGood : Byte} :
    Keeps s (execFullTraining port good peerGood s) := fun hs => memWf_trainPort hs

@[simp] theorem keeps_execHello {port : Port} {serial : B64} {folio : B32} {pos : BitVec 6} {peerPort keyId : Byte}
    {nonce : B128} :
    Keeps s (execHello port serial folio pos peerPort keyId nonce s) := by
  unfold execHello
  dsimp only
  split
  · exact id
  · exact fun hs => memWf_endTrain (memWf_updPort hs)

@[simp] theorem keeps_execDownRetry {port : Port} : Keeps s (execDownRetry port s) :=
  fun hs => memWf_ite (memWf_updPort hs) hs

theorem memWf_failLaser {v : Port} (hs : memWf s) : memWf (failLaser v s) :=
  memWf_linkNote (memWf_ite (memWf_updPort hs) (memWf_closePort (memWf_updPort hs)))

@[simp] theorem keeps_execLaserSourceFail {port : Port} : Keeps s (execLaserSourceFail port s) :=
  fun hs => memWf_failLaser hs

theorem memWf_startRetrain {v : Port} (hs : memWf s) : memWf (startRetrain v s) :=
  memWf_ite hs (memWf_sendLink (memWf_updPort hs))

@[simp] theorem keeps_execLaneDrop {port : Port} {lane : Fin 8} : Keeps s (execLaneDrop port lane s) := by
  unfold execLaneDrop
  dsimp only
  split
  · exact id
  · split
    · exact fun hs => memWf_startRetrain (memWf_updPort hs)
    · exact fun hs => memWf_sendLink (memWf_updPort hs)

@[simp] theorem keeps_execRetrain {port : Port} {mask : Byte} : Keeps s (execRetrain port mask s) := by
  unfold execRetrain
  dsimp only
  split
  · exact id
  · exact fun hs => memWf_startRetrain (memWf_updPort hs)

@[simp] theorem keeps_execRetryLimit {port : Port} : Keeps s (execRetryLimit port s) :=
  fun hs => memWf_ite (memWf_startRetrain hs) hs

theorem memWf_replayFrom {v : Port} {seq : B16} {anew : Bool} (hs : memWf s) : memWf (replayFrom v seq anew s) :=
  memWf_foldl (fun _ _ h => memWf_putFlit h) (memWf_updPort hs)

@[simp] theorem keeps_execReplay {port : Port} {seq : B16} : Keeps s (execReplay port seq s) :=
  fun hs => memWf_ite (memWf_replayFrom (memWf_updPort hs)) hs

theorem memWf_endRetrain {v : Port} (hs : memWf s) : memWf (endRetrain v s) := by
  unfold endRetrain
  extract_lets
  split
  · extract_lets _ _ _ s₁ s₂ s₃
    have h₁ : memWf s₁ := memWf_portUp (memWf_updPort hs)
    have h₂ : memWf s₂ := by
      unfold s₂
      split
      · exact h₁
      · exact memWf_replayFrom h₁
    have h₃ : memWf s₃ := memWf_pump h₂
    exact memWf_ite (memWf_portDown hs) (memWf_ite (memWf_raiseAlert (memWf_linkNote h₃)) h₃)
  · exact hs

@[simp] theorem keeps_execFastRetrainDone {port : Port} : Keeps s (execFastRetrainDone port s) :=
  fun hs => memWf_endRetrain hs

@[simp] theorem keeps_execLinkFlitRepeat {port : Port} : Keeps s (execLinkFlitRepeat port s) := by
  unfold execLinkFlitRepeat
  split
  · exact fun hs => memWf_sendLink hs
  · exact id

theorem memWf_switchKey {v : Port} {key : B256} (hs : memWf s) : memWf (switchKey v key s) := memWf_updPort hs

theorem memWf_onRekey {v : Port} {ident : Byte} {nonce : B128} (hs : memWf s) : memWf (onRekey v ident nonce s) := by
  unfold onRekey
  dsimp only
  split
  · exact hs
  · exact memWf_ite hs (memWf_ite (memWf_putFlit hs)
      (memWf_switchKey (memWf_updPort (memWf_ite hs (memWf_startRekey hs)))))

@[simp] theorem keeps_execRekey {port : Port} {keyId : Byte} {nonce : B128} :
    Keeps s (execRekey port keyId nonce s) := fun hs => memWf_onRekey hs

theorem memWf_actKeySwitch (hs : memWf s) : memWf (actKeySwitch s).2 := by
  unfold actKeySwitch
  split
  · exact hs
  · exact memWf_foldl (fun _ _ h => memWf_ite (memWf_startRekey h) h) hs

@[simp] theorem keeps_execKeySwitch {h : CmdHdr} : Keeps s (execKeySwitch h s) :=
  fun hs => memWf_hostCmd (fun _ h => memWf_actKeySwitch h) hs

theorem someWf_endKeySwitch (hs : memWf s) : SomeWf id (endKeySwitch s) := by
  unfold endKeySwitch
  split
  · exact memWf_updVesin hs
  · exact trivial

theorem memWf_actPortCfg {enable : Byte} {hold : Nat} (hs : memWf s) : memWf (actPortCfg enable hold s).2 :=
  memWf_ite_snd hs (memWf_foldl (fun _ _ h => memWf_ite (memWf_ite h (memWf_closePort h))
    (memWf_ite (memWf_updPort h) h)) (memWf_updVesin hs))

@[simp] theorem keeps_execPortCfg {h : CmdHdr} {enable : Byte} {linkHold : B16} :
    Keeps s (execPortCfg h enable linkHold s) := fun hs => memWf_hostCmd (fun _ h => memWf_actPortCfg h) hs

theorem memWf_retrainPort {v : Port} (hs : memWf s) : memWf (retrainPort s v) := memWf_ite (memWf_closePort hs) hs

@[simp] theorem keeps_execPortRetrain {h : CmdHdr} {mask : Byte} : Keeps s (execPortRetrain h mask s) :=
  fun hs => memWf_hostCmd (fun _ h => memWf_foldl (fun _ _ k => memWf_retrainPort k) h) hs

theorem memWf_folioChanged (hs : memWf s) : memWf (folioChanged s) :=
  memWf_foldl (fun _ _ h => memWf_ite (memWf_closePort h) h) hs

theorem memWf_askReplay {v : Port} (hs : memWf s) : memWf (askReplay v s) :=
  memWf_ite hs (memWf_sendLink (memWf_updPort hs))

theorem memWf_takeAck {v : Port} {h : Nat} (hs : memWf s) : memWf (takeAck v h s) := memWf_pump (memWf_updPort hs)

theorem memWf_deliverInstr {i : Option Instr} (hs : memWf s) : memWf (deliverInstr i s) := by
  unfold deliverInstr
  split
  · exact memWf_updVesin hs
  · exact hs

theorem memWf_deliverMsg {v : Port} {bytes : List Byte} (hs : memWf s) : memWf (deliverMsg v bytes s) := by
  unfold deliverMsg
  dsimp only
  split
  · exact memWf_deliverInstr (memWf_updPort hs)
  · exact memWf_noteMisroute (memWf_updPort hs)

theorem memWf_deliverFlit {v : Port} {e : Nat × List Byte} (hs : memWf s) : memWf (deliverFlit v s e) :=
  memWf_ite (memWf_deliverMsg (memWf_updPort hs)) (memWf_updPort hs)

theorem memWf_failRun {v : Port} {t : Nat} (hs : memWf s) : memWf (failRun v t s) :=
  memWf_ite (memWf_isolate (memWf_updPort hs)) (memWf_askReplay (memWf_updPort hs))

theorem memWf_endRun {v : Port} {ksel : Bool} {t : Nat} (hs : memWf s) : memWf (endRun v ksel t s) := by
  unfold endRun
  dsimp only
  split
  · exact memWf_failRun hs
  · split
    · exact memWf_failRun hs
    · exact memWf_foldl (fun _ _ h => memWf_deliverFlit h) (memWf_updPort hs)

theorem memWf_takeData {v : Port} {bytes : List Byte} {t : Nat} (hs : memWf s) : memWf (takeData v bytes t s) :=
  memWf_ite (memWf_ite (memWf_askReplay hs) hs) (memWf_ite (memWf_endRun (memWf_updPort hs)) (memWf_updPort hs))

theorem memWf_idleAfter {v : Port} (ht : memWf t) : memWf (idleAfter v s t) := memWf_ite (memWf_sendIdle ht) ht

theorem memWf_takeFlit {v : Port} {bytes : List Byte} {t : Nat} (hs : memWf s) : memWf (takeFlit v bytes t s) := by
  unfold takeFlit
  extract_lets _ _ s₁
  have h₁ : memWf s₁ := memWf_ite (memWf_takeAck hs) hs
  refine memWf_ite hs (memWf_ite (memWf_ite (memWf_askReplay hs) hs) ?_)
  split
  · exact memWf_ite (memWf_idleAfter (memWf_takeData h₁)) h₁
  · exact memWf_deliverInstr h₁
  · exact h₁

theorem memWf_hearWord {v : Port} {lanes : List (List Nat)} (hs : memWf s) : memWf (hearWord v s lanes) :=
  memWf_updPort (memWf_updVesin hs)

theorem memWf_nextFlit {v : Port} {t : Nat} (hs : memWf s) : memWf (nextFlit v t s) :=
  memWf_ite hs (memWf_takeFlit (memWf_updPort hs))

@[simp] theorem keeps_execFlit {port : Port} {words : List (List (List Nat))} {t : Nat} :
    Keeps s (execFlit port words t s) :=
  fun hs => memWf_ite (memWf_nextFlit (memWf_foldl (fun _ _ h => memWf_hearWord h) hs)) hs

/-! ### Functions of `Machine/Standby` -/

theorem memWf_posNote {event d sb : Nat} (hs : memWf s) : memWf (posNote p event d sb s) := memWf_resNote hs

theorem memWf_fillNote {status : B16} {ident source sheet : Nat} (hs : memWf s) :
    memWf (fillNote p status ident source sheet s) := memWf_resNote hs

theorem memWf_failMessages (hs : memWf s) : memWf (failMessages s) :=
  memWf_foldl (fun _ _ h => memWf_timeOut h) (memWf_updVesin hs)

theorem memWf_dropAssays (hs : memWf s) : memWf (dropAssays p s) :=
  memWf_foldl (fun _ _ h => memWf_doneFiring h) (memWf_updRes hs)

theorem memWf_leaveFolio (hs : memWf s) : memWf (leaveFolio p s) :=
  memWf_folioChanged (memWf_updVesin (memWf_updVeto
    (memWf_updCad (memWf_updRes (memWf_dropAssays (memWf_failMessages hs))))))

theorem memWf_ownTaken {d : Nat} (hs : memWf s) : memWf (ownTaken p d s) := memWf_leaveFolio (memWf_posNote hs)

theorem memWf_sendLeave {reason : Nat} (hs : memWf s) : memWf (sendLeave p reason s) := by
  unfold sendLeave
  split
  · exact memWf_sendMsg hs
  · exact hs

theorem memWf_endRollbackCmd {status : B16} {result : Nat} (hs : memWf s) :
    memWf (endRollbackCmd p status result s) := memWf_updHost hs

theorem memWf_refill {step : Nat} (hs : memWf s) : memWf (refill p step s) := by
  unfold refill
  extract_lets
  split
  · exact hs
  · split
    · exact hs
    · extract_lets _ s₁
      have h₁ : memWf s₁ := by
        refine memWf_foldl (fun _ _ h => ?_) hs
        split
        · exact memWf_writeSlice h
        · exact h
      split
      · exact memWf_applyRecord h₁
      · exact h₁

theorem memWf_restoreOwn {step : Nat} (hs : memWf s) : memWf (restoreOwn p step s).2 := by
  unfold restoreOwn
  dsimp only
  split
  · exact hs
  · split
    · exact hs
    · refine memWf_ite_snd (memWf_noteDenied hs) ?_
      split
      · exact hs
      · exact memWf_restoreImage hs

theorem memWf_dropUnmapped (hs : memWf s) : memWf (dropUnmapped s) := memWf_foldl (fun _ _ h => memWf_endMessage h) hs

theorem memWf_dropKept (hs : memWf s) : memWf (dropKept s p) := memWf_updVeto hs

theorem memWf_reportVeto (hs : memWf s) : memWf (reportVeto p s) := by
  unfold reportVeto
  extract_lets _ _ s₁
  have h₁ : memWf s₁ := memWf_foldl (fun _ _ h => memWf_sendMsg h) hs
  split
  · exact memWf_sendMsg h₁
  · exact h₁

theorem memWf_serve {d : Nat} (hs : memWf s) : memWf (serve p d s) :=
  memWf_ite (memWf_updCad (memWf_updRes (memWf_updVesin hs)))
    (memWf_ite (memWf_applyPos (memWf_updCad (memWf_updRes (memWf_updVesin hs))))
    (memWf_updCad (memWf_updRes (memWf_updVesin hs))))

theorem memWf_settleHolds (hs : memWf s) : memWf (settleHolds p s) := by
  unfold settleHolds
  extract_lets _ s₁
  have h₁ : memWf s₁ := memWf_ite (memWf_holdReason hs) hs
  exact memWf_ite (memWf_holdReason (memWf_holdReason h₁)) h₁

theorem memWf_commitPosition {sp d : Nat} (hs : memWf s) : memWf (commitPosition p sp d s) := by
  unfold commitPosition
  extract_lets _ _ _ _ _ s₁
  have h₁ : memWf s₁ := memWf_ite (memWf_serve (memWf_posNote (memWf_updRes (memWf_updVesin (memWf_dropKept hs)))))
    (memWf_posNote (memWf_updRes (memWf_updVesin (memWf_dropKept hs))))
  exact memWf_ite (memWf_ownTaken hs) (memWf_settleHolds
    (memWf_folioChanged (memWf_dropUnmapped (memWf_ite (memWf_reportVeto h₁) h₁))))

theorem memWf_commitTakeover {t : Takeover} (hs : memWf s) : memWf (commitTakeover p t s) :=
  memWf_commitPosition (memWf_sendAll hs)

@[simp] theorem keeps_execCommitPos {m : MsgHdr} {sp d : BitVec 6} : Keeps s (execCommitPos m sp d s) :=
  fun hs => memWf_receivePlain (fun _ _ h => memWf_commitPosition h) hs

theorem memWf_commitReady (hs : memWf s) : memWf (commitReady p s) :=
  memWf_foldl (fun _ _ h => memWf_commitTakeover h) hs

theorem memWf_runRollback (hs : memWf s) : memWf (runRollback p s) := by
  unfold runRollback
  split
  · exact hs
  · refine memWf_ite hs ?_
    extract_lets s₁ taking
    have h₁ : memWf s₁ := memWf_updRes hs
    split
    rename_i st s₂ e
    have h₂ : memWf s₂ := memWf_of_snd e (memWf_ite_snd (memWf_refill h₁) (memWf_restoreOwn h₁))
    extract_lets s₃
    have h₃ : memWf s₃ := memWf_ite (memWf_resNote h₂) h₂
    exact memWf_ite h₃ (memWf_commitReady (memWf_endRollbackCmd
      (memWf_holdReason (memWf_holdReason (memWf_updRes h₃)))))

theorem memWf_tryRollback (hs : memWf s) : memWf (tryRollback p s) := by
  unfold tryRollback
  split
  · exact hs
  · refine memWf_ite hs ?_
    split
    · exact memWf_endRollbackCmd (memWf_holdReason (memWf_updRes hs))
    · exact memWf_runRollback (memWf_updRes (memWf_sendAll hs))

theorem memWf_startRollback {command : Bool} (hs : memWf s) : memWf (startRollback p command s) := by
  unfold startRollback
  split
  · exact hs
  · exact memWf_tryRollback (memWf_sendAll (memWf_updRes hs))

theorem memWf_divergeHold (hs : memWf s) : memWf (divergeHold p s) :=
  memWf_ite hs (memWf_ite (memWf_startRollback (memWf_holdReason hs)) (memWf_holdReason hs))

@[simp] theorem keeps_execRollback {h : CmdHdr} : Keeps s (execRollback h s) :=
  fun hs => memWf_hostCmd (fun _ h => memWf_ite_snd h (memWf_startRollback h)) hs

theorem memWf_answerQuery {src : Nat} (hs : memWf s) : memWf (answerQuery src p s) := memWf_sendMsg hs

@[simp] theorem keeps_execQueryCkpt {m : MsgHdr} : Keeps s (execQueryCkpt m s) :=
  fun hs => memWf_receivePlain (fun _ _ h => memWf_answerQuery h) hs

@[simp] theorem keeps_execRollbackMsg {m : MsgHdr} {step : BitVec 40} : Keeps s (execRollbackMsg m step s) :=
  fun hs => memWf_receivePlain (fun _ _ h => memWf_ite h (memWf_runRollback (memWf_updRes h))) hs

theorem memWf_assignOne {d : Nat} (hs : memWf s) : memWf (assignOne p s d) := by
  unfold assignOne
  dsimp only
  split
  · exact memWf_holdReason (memWf_holdReason hs)
  · exact memWf_sendMsg (memWf_posNote (memWf_updRes (memWf_holdReason hs)))

theorem memWf_assignAll (hs : memWf s) : memWf (assignAll p s) := by
  unfold assignAll
  extract_lets s₁
  have h₁ : memWf s₁ := memWf_foldl (fun _ _ h => memWf_assignOne h) hs
  exact memWf_ite hs (memWf_ite (memWf_holdReason h₁) h₁)

theorem memWf_dropStandby {b : Nat} (hs : memWf s) : memWf (dropStandby p b s) :=
  memWf_assignAll (memWf_posNote (memWf_updRes hs))

theorem memWf_onArmed {src : Nat} {cover : B32} (hs : memWf s) : memWf (onArmed src cover p s) :=
  memWf_ite hs (memWf_assignAll (memWf_updRes hs))

@[simp] theorem keeps_execArmed {m : MsgHdr} {cover : B32} : Keeps s (execArmed m cover s) :=
  fun hs => memWf_receivePlain (fun _ _ h => memWf_onArmed h) hs

@[simp] theorem keeps_execStandbySilence {b : Fin 8} : Keeps s (execStandbySilence b s) := by
  unfold execStandbySilence
  split
  · exact id
  · split
    · exact id
    · exact fun hs => memWf_updRes hs

@[simp] theorem keeps_execStandbyArm : Keeps s (execStandbyArm s) := by
  unfold execStandbyArm
  split
  · exact id
  · dsimp only
    split
    · exact fun hs => memWf_updRes hs
    · split
      · exact fun hs => memWf_updRes hs
      · exact id

@[simp] theorem keeps_execArmedReportTimer : Keeps s (execArmedReportTimer s) := by
  unfold execArmedReportTimer
  split
  · exact id
  · split
    · exact id
    · split
      · exact fun hs => memWf_sendMsg hs
      · exact id

@[simp] theorem keeps_execAssign {m : MsgHdr} {d : BitVec 6} : Keeps s (execAssign m d s) :=
  fun hs => memWf_receivePlain (fun _ _ h => memWf_updRes h) hs

theorem memWf_tellCoord {step : Nat} {code : B16} (hs : memWf s) : memWf (tellCoord p step code s) := by
  unfold tellCoord
  split
  · exact memWf_sendMsg hs
  · exact hs

theorem memWf_fillFromMirror {dest ident : Nat} (hs : memWf s) : memWf (fillFromMirror p dest ident s).2 := by
  unfold fillFromMirror
  split
  · exact memWf_ite_snd hs (memWf_ite_snd (memWf_fillNote hs) (memWf_tellCoord (memWf_updRes (memWf_writeSlice hs))))
  · exact hs

theorem memWf_actFill {dest ident source : Nat} (hs : memWf s) : memWf (actFill p dest ident source s).2 := by
  unfold actFill
  refine memWf_ite_snd hs ?_
  split
  · exact hs
  · refine memWf_ite_snd (memWf_ite_snd hs ?_) (memWf_ite_snd hs (memWf_sendMsg (memWf_updRes hs)))
    split
    rename_i s₁ e
    have h₁ : memWf s₁ := memWf_of_snd e (memWf_fillFromMirror hs)
    exact memWf_ite_snd h₁ h₁

@[simp] theorem keeps_execFill {h : CmdHdr} {dest : B32} {ident : B16} {source : Byte} :
    Keeps s (execFill h dest ident source s) := fun hs => memWf_hostCmd (fun _ h => memWf_actFill h) hs

theorem memWf_updFills {f : Fill → Bool} {g : Fill → Fill} (hs : memWf s) : memWf (updFills p f g s) :=
  memWf_updRes hs

theorem memWf_onFillSheet {v : Port} {src ident sheet : Nat} {data : List Byte} {mark : B256} (hs : memWf s) :
    memWf (onFillSheet v src ident sheet data mark p s) := by
  unfold onFillSheet
  dsimp only
  split
  · exact hs
  · split
    · exact memWf_updFills hs
    · split
      · rename_i s₁ e
        have h₁ : memWf s₁ := memWf_of_snd e (memWf_landing hs)
        exact memWf_updFills h₁
      · rename_i s₂ e
        have h₂ : memWf s₂ := memWf_of_snd e (memWf_landing hs)
        exact memWf_ite (memWf_updFills (memWf_writeMem h₂))
          (memWf_ite (memWf_fillNote (memWf_updFills h₂)) (memWf_sendMsg (memWf_updFills (memWf_updRes h₂))))

@[simp] theorem keeps_execFillSheet {m : MsgHdr} {ident : B16} {sheet : Nat} {data : List Byte} {mark : B256} :
    Keeps s (execFillSheet m ident sheet data mark s) :=
  fun hs => memWf_settleMsg hs (memWf_receivePlain (fun _ _ h => memWf_onFillSheet h) hs)

theorem someWf_endFill {dest ident source : Nat} (hs : memWf s) :
    SomeWf (fun x => x.2.2) (endFill p dest ident source s) := by
  unfold endFill
  split
  · exact hs
  · dsimp only
    split
    · exact memWf_updRes hs
    · split
      · exact trivial
      · exact memWf_updRes (memWf_updRes hs)

theorem memWf_answerPull {src count ident first : Nat} (hs : memWf s) :
    memWf (answerPull src count ident first p s) := by
  unfold answerPull
  split
  · exact memWf_sendMsg hs
  · split
    · exact memWf_sendMsg hs
    · extract_lets _ _ _ _ s₁
      have h₁ : memWf s₁ := memWf_foldl (fun _ _ h => memWf_engineSend h) (memWf_touchRead hs)
      exact memWf_ite (memWf_sendMsg hs) (memWf_ite (memWf_sendMsg (memWf_noteDenied hs))
        (memWf_sendMsg (memWf_ite (memWf_sendMsg h₁) h₁)))

@[simp] theorem keeps_execPull {m : MsgHdr} {count : BitVec 40} {ident : B16} {first : Nat} :
    Keeps s (execPull m count ident first s) := fun hs => memWf_receivePlain (fun _ _ h => memWf_answerPull h) hs

theorem memWf_beReady (hs : memWf s) : memWf (beReady p s) := by
  unfold beReady
  refine memWf_ite hs (memWf_ite (memWf_commitPosition (memWf_sendAll hs)) ?_)
  split
  · exact memWf_sendMsg hs
  · exact hs

theorem memWf_tryVerify (hs : memWf s) : memWf (tryVerify p s) := by
  unfold tryVerify
  refine memWf_ite hs ?_
  split
  · exact memWf_fillNote (memWf_updRes hs)
  · exact memWf_beReady hs

theorem memWf_startVerify (hs : memWf s) : memWf (startVerify p s) :=
  memWf_tryVerify (memWf_sendAll (memWf_updRes hs))

@[simp] theorem keeps_execFillDone {h : CmdHdr} : Keeps s (execFillDone h s) :=
  fun hs => memWf_hostCmd (fun _ h => memWf_ite_snd h (memWf_ite_snd h (memWf_startVerify h))) hs

@[simp] theorem keeps_execFillCancel {h : CmdHdr} : Keeps s (execFillCancel h s) :=
  fun hs => memWf_hostCmd (fun _ h => memWf_ite_snd h (memWf_updFills (memWf_updRes h))) hs

theorem memWf_onFillRoot {src ident : Nat} {root : B256} (hs : memWf s) : memWf (onFillRoot src ident root p s) :=
  memWf_tryVerify (memWf_updRes (memWf_updFills hs))

@[simp] theorem keeps_execFillRoot {m : MsgHdr} {ident : B16} {root : B256} : Keeps s (execFillRoot m ident root s) :=
  fun hs => memWf_receivePlain (fun _ _ h => memWf_onFillRoot h) hs

theorem memWf_onReady {src d : Nat} (hs : memWf s) : memWf (onReady src d p s) := by
  unfold onReady
  refine memWf_ite hs ?_
  split
  · exact memWf_ite (memWf_commitTakeover hs) hs
  · exact memWf_ite (memWf_commitTakeover hs) (memWf_ite (memWf_startRollback (memWf_updRes hs)) (memWf_updRes hs))

@[simp] theorem keeps_execReady {m : MsgHdr} {d : BitVec 6} : Keeps s (execReady m d s) :=
  fun hs => memWf_receivePlain (fun _ _ h => memWf_onReady h) hs

theorem memWf_onAnswer {src : Nat} {words : List B64} (hs : memWf s) : memWf (onAnswer src words p s) :=
  memWf_tryRollback (memWf_updRes hs)

theorem memWf_notePosition {src : Nat} {pos : B64} (hs : memWf s) : memWf (notePosition src pos p s) :=
  memWf_ite hs (memWf_ite (memWf_tryVerify (memWf_updRes hs)) (memWf_updRes hs))

theorem memWf_onStatus {src step : Nat} {code : B16} {words : List B64} (hs : memWf s) :
    memWf (onStatus src step code words p s) := by
  unfold onStatus
  extract_lets _ s₁
  have h₁ : memWf s₁ := memWf_ite (memWf_commitAnswered (memWf_notePosition hs))
    (memWf_updFills (memWf_notePosition hs))
  exact memWf_ite (memWf_onAnswer (memWf_notePosition hs))
    (memWf_ite h₁ (memWf_ite (memWf_updRes h₁) (memWf_ite (memWf_holdReason h₁) h₁)))

@[simp] theorem keeps_execStatus {m : MsgHdr} {step : BitVec 40} {code : B16} {words : List B64} :
    Keeps s (execStatus m step code words s) := fun hs => memWf_receivePlain (fun _ _ h => memWf_onStatus h) hs

theorem memWf_loseSource {d : Nat} (hs : memWf s) : memWf (loseSource p d s) := by
  unfold loseSource
  refine memWf_foldl (fun _ _ h => ?_) hs
  dsimp only
  exact memWf_ite (memWf_updFills (memWf_fillFromMirror (memWf_fillNote h)))
    (memWf_tellCoord (memWf_updFills (memWf_fillFromMirror (memWf_fillNote h))))

theorem memWf_applyRemove {d : Nat} (hs : memWf s) : memWf (applyRemove p d s) := by
  unfold applyRemove
  extract_lets _ _ _ _ s₁ _ s₂
  have h₁ : memWf s₁ := memWf_foldl (fun _ _ h => memWf_dropMessage h)
    (memWf_posNote (memWf_updVeto (memWf_updRes hs)))
  have h₂ : memWf s₂ := memWf_tryRollback (memWf_loseSource
    (memWf_ite (memWf_foldl (fun _ _ h => memWf_leaderTry h) h₁) h₁))
  exact memWf_ite (memWf_ownTaken hs) (memWf_ite (memWf_tryVerify h₂) h₂)

theorem memWf_declareFailed {d : Nat} (hs : memWf s) : memWf (declareFailed p d s) :=
  memWf_ite (memWf_dropStandby (memWf_applyRemove (memWf_sendAll hs)))
    (memWf_assignAll (memWf_applyRemove (memWf_sendAll hs)))

@[simp] theorem keeps_execRemoveMsg {m : MsgHdr} {d : BitVec 6} : Keeps s (execRemoveMsg m d s) :=
  fun hs => memWf_receivePlain (fun _ _ h => memWf_applyRemove h) hs

@[simp] theorem keeps_execLeave {m : MsgHdr} {reason : BitVec 40} : Keeps s (execLeave m reason s) :=
  fun hs => memWf_receivePlain (fun _ _ h => memWf_ite (memWf_declareFailed h) h) hs

@[simp] theorem keeps_execRemove {h : CmdHdr} {pos : Byte} : Keeps s (execRemove h pos s) :=
  fun hs => memWf_hostCmd (fun _ h => memWf_ite_snd h (memWf_ite_snd h (memWf_ite_snd h (memWf_declareFailed h)))) hs

theorem memWf_holdExpired {d : Nat} (hs : memWf s) : memWf (holdExpired d s) := by
  unfold holdExpired
  extract_lets _ s₁
  have h₁ : memWf s₁ := memWf_foldl (fun _ _ h => memWf_timeOut h) (memWf_updVesin hs)
  exact memWf_ite hs (memWf_ite h₁ (memWf_foldl (fun _ _ h => memWf_declareFailed h) h₁))

@[simp] theorem keeps_execLinkHoldExpiry {pos : BitVec 6} : Keeps s (execLinkHoldExpiry pos s) :=
  fun hs => memWf_holdExpired hs

theorem memWf_actResCfg {armEn autoRollback claim wait : Nat} (hs : memWf s) :
    memWf (actResCfg p armEn autoRollback claim wait s).2 := by
  unfold actResCfg
  refine memWf_ite_snd hs ?_
  split
  · exact memWf_updRes (memWf_ite hs hs)
  · exact memWf_updRes hs
  · exact memWf_updRes hs
  · exact memWf_ite_snd (memWf_updRes hs) hs
  · exact hs

@[simp] theorem keeps_execResCfg {h : CmdHdr} {armEn autoRollback snapClaim : Byte} {wait : B16} :
    Keeps s (execResCfg h armEn autoRollback snapClaim wait s) :=
  fun hs => memWf_hostCmd (fun _ h => memWf_actResCfg h) hs

theorem memWf_actRbSet {set : B32} {list : B64} (hs : memWf s) : memWf (actRbSet p set list s).2 := by
  unfold actRbSet
  refine memWf_ite_snd hs ?_
  split
  · exact hs
  · exact memWf_updRes hs

@[simp] theorem keeps_execRbSet {h : CmdHdr} {set : B32} {list : B64} : Keeps s (execRbSet h set list s) :=
  fun hs => memWf_hostCmd (fun _ h => memWf_actRbSet h) hs

@[simp] theorem keeps_execHold {h : CmdHdr} {set : Byte} : Keeps s (execHold h set s) :=
  fun hs => memWf_hostCmd (fun _ h => memWf_ite_snd h (memWf_ite_snd h (memWf_holdReason h))) hs

theorem memWf_actGroupSet {folio : B32} {pos : Nat} {masks : List Byte} (hs : memWf s) :
    memWf (actGroupSet p folio pos masks s).2 := by
  unfold actGroupSet
  refine memWf_ite_snd hs (memWf_ite_snd hs ?_)
  dsimp only
  exact memWf_folioChanged
    (memWf_updCad (memWf_updRes (memWf_updVesin (memWf_ite (memWf_leaveFolio hs) hs))))

@[simp] theorem keeps_execGroupSet {h : CmdHdr} {folio : B32} {pos : Byte} {masks : List Byte} :
    Keeps s (execGroupSet h folio pos masks s) := fun hs => memWf_hostCmd (fun _ h => memWf_actGroupSet h) hs

theorem memWf_clearFolio (hs : memWf s) : memWf (clearFolio s) := hs

@[simp] theorem keeps_execGroupLeave {h : CmdHdr} : Keeps s (execGroupLeave h s) :=
  fun hs => memWf_hostCmd (fun _ h => by
    dsimp only
    exact memWf_folioChanged (memWf_clearFolio (memWf_leaveFolio (memWf_sendLeave h)))) hs

@[simp] theorem keeps_execMapSet {h : CmdHdr} {first count : Byte} {masks : List Byte} :
    Keeps s (execMapSet h first count masks s) :=
  fun hs => memWf_hostCmd (fun _ h => by
    refine memWf_ite_snd h ?_
    dsimp only
    exact memWf_folioChanged (memWf_retryWaiting (memWf_dropUnmapped (memWf_updVesin (memWf_dropKept h))))) hs

/-! ### Functions of `Machine/Assay` -/

theorem memWf_updAssay {ident step : Nat} {f : Assay → Assay} (hs : memWf s) : memWf (updAssay p ident step f s) :=
  memWf_updRes hs

theorem memWf_endAssay {ident step : Nat} (hs : memWf s) : memWf (endAssay p ident step s) := by
  unfold endAssay
  split
  · exact hs
  · exact memWf_ite hs (memWf_doneFiring (memWf_ite (memWf_engineSignal (memWf_updRes hs)) (memWf_updRes hs)))

theorem memWf_noteResult {ident step handle result block : Nat} (hs : memWf s) :
    memWf (noteResult p ident step handle result block s) :=
  memWf_ite (memWf_updRes hs) (memWf_divergeHold (memWf_resNote (memWf_updRes (memWf_updRes hs))))

theorem memWf_decideAssay {ident step result block : Nat} (hs : memWf s) :
    memWf (decideAssay p ident step result block s) := by
  unfold decideAssay
  split
  · exact hs
  · exact memWf_ite hs (memWf_endAssay (memWf_noteResult (memWf_updAssay hs)))

theorem memWf_askNode {ident step level node : Nat} (hs : memWf s) : memWf (askNode p ident step level node s) := by
  unfold askNode
  split
  · exact hs
  · exact memWf_foldl (fun _ _ h => memWf_ite h (memWf_engineSend h)) (memWf_updAssay hs)

theorem memWf_startRepair {ident step sheet source : Nat} (hs : memWf s) :
    memWf (startRepair p ident step sheet source s) := memWf_sendMsg (memWf_updAssay hs)

theorem memWf_sendResult {a : Assay} {result block : Nat} (hs : memWf s) : memWf (sendResult p a result block s) :=
  memWf_foldl (fun _ _ h => memWf_engineSend h) hs

theorem memWf_conclude {ident step : Nat} (hs : memWf s) : memWf (conclude p ident step s) := by
  unfold conclude
  split
  · exact hs
  · dsimp only
    refine memWf_decideAssay (memWf_sendResult (memWf_ite hs (memWf_foldl (fun _ _ h => ?_) hs)))
    split
    · exact h
    · exact memWf_foldl (fun _ _ k => memWf_ite (memWf_startRepair k) (memWf_engineSend k)) h

theorem memWf_followNode {ident step level node : Nat} {answers : Map (List B128)} (hs : memWf s) :
    memWf (followNode p ident step level node answers s) :=
  memWf_ite (memWf_updAssay hs) (memWf_foldl (fun _ _ h => memWf_askNode (memWf_ite (memWf_updAssay h) h)) hs)

theorem memWf_closeQuery {ident step : Nat} {q : Nat × Nat × Map (List B128)} (hs : memWf s) :
    memWf (closeQuery p ident step q s) := by
  unfold closeQuery
  dsimp only
  split
  · exact memWf_ite (memWf_conclude (memWf_followNode (memWf_updAssay hs))) (memWf_followNode (memWf_updAssay hs))
  · exact memWf_followNode (memWf_updAssay hs)

theorem memWf_compareRoots {ident step : Nat} (hs : memWf s) : memWf (compareRoots p ident step s) := by
  unfold compareRoots
  split
  · exact hs
  · exact memWf_ite (memWf_decideAssay (memWf_sendResult (memWf_updAssay hs)))
      (memWf_ite (memWf_conclude (memWf_updAssay hs))
      (memWf_askNode (memWf_ite (memWf_updAssay (memWf_updAssay hs)) (memWf_updAssay hs))))

theorem memWf_tryCompare {ident step : Nat} (hs : memWf s) : memWf (tryCompare p ident step s) := by
  unfold tryCompare
  split
  · exact hs
  · exact memWf_ite (memWf_compareRoots hs) hs

theorem memWf_decideNow {f : Firing} {ident step result stitch : Nat} {sig : Bool} (hs : memWf s) :
    memWf (decideNow p f ident step result stitch sig s) :=
  memWf_doneFiring (memWf_ite (memWf_engineSignal (memWf_updRes hs)) (memWf_updRes hs))

theorem memWf_startAssay {f : Firing} {h ident : Nat} {o : Obj} {key : B256} (hs : memWf s) :
    memWf (startAssay p f h ident o key s) := by
  unfold startAssay
  dsimp only
  refine memWf_ite (memWf_doneFiring (memWf_noteDenied hs)) (memWf_ite (memWf_doneFiring (memWf_noteDenied hs)) ?_)
  split
  · exact memWf_decideAssay (memWf_updRes (memWf_writeMem (memWf_touchRead hs)))
  · exact memWf_ite (memWf_tryCompare (memWf_updRes (memWf_writeMem (memWf_touchRead hs))))
      (memWf_engineSend (memWf_updRes (memWf_writeMem (memWf_touchRead hs))))

theorem memWf_assayStep (hs : memWf s) : memWf (assayStep p s) := by
  unfold assayStep
  split
  · exact hs
  · extract_lets s₁
    have h₁ : memWf s₁ := memWf_takenFiring (memWf_updCad hs)
    refine memWf_ite (memWf_doneFiring h₁) ?_
    split
    · exact memWf_startAssay h₁
    · exact memWf_decideNow h₁
    · exact memWf_decideNow h₁

@[simp] theorem keeps_execAssayComparison : Keeps s (execAssayComparison p s) :=
  fun hs => memWf_settle hs (memWf_assayStep hs)

theorem memWf_onRoot {src ident step : Nat} {root : B128} (hs : memWf s) :
    memWf (onRoot src ident step root p s) := by
  unfold onRoot
  split
  · exact memWf_ite (memWf_tryCompare (memWf_updAssay hs)) hs
  · exact memWf_updRes hs

@[simp] theorem keeps_execDigestRoot {m : MsgHdr} {ident : B16} {step : BitVec 40} {root : B128} :
    Keeps s (execDigestRoot m ident step root s) := fun hs => memWf_receivePlain (fun _ _ h => memWf_onRoot h) hs

@[simp] theorem keeps_execDigestQuery {m : MsgHdr} {ident : B16} {step : BitVec 40} {level : BitVec 4} {node : Nat} :
    Keeps s (execDigestQuery m ident step level node s) := by
  unfold execDigestQuery
  intro hs
  refine memWf_receivePlain (fun _ _ h => ?_) hs
  split
  · exact memWf_engineSend h
  · exact h

theorem memWf_onDigests {src ident step level node : Nat} {ds : List B128} (hs : memWf s) :
    memWf (onDigests src ident step level node ds p s) := by
  unfold onDigests
  split
  · exact hs
  · split
    · exact hs
    · exact memWf_ite (memWf_closeQuery (memWf_updAssay hs)) (memWf_updAssay hs)

@[simp] theorem keeps_execDigestReply {m : MsgHdr} {ident : B16} {step : BitVec 40} {level : BitVec 4} {node : Nat}
    {digests : List B128} :
    Keeps s (execDigestReply m ident step level node digests s) :=
  fun hs => memWf_receivePlain (fun _ _ h => memWf_onDigests h) hs

theorem memWf_onAssayResult {ident step code node : Nat} (hs : memWf s) :
    memWf (onAssayResult ident step code node p s) := by
  unfold onAssayResult
  split
  · exact memWf_decideAssay hs
  · exact memWf_ite (memWf_divergeHold hs) hs

@[simp] theorem keeps_execDigestResult {m : MsgHdr} {ident : B16} {step : BitVec 40} {code : B16} {node : Nat} :
    Keeps s (execDigestResult m ident step code node s) :=
  fun hs => memWf_receivePlain (fun _ _ h => memWf_onAssayResult h) hs

@[simp] theorem keeps_execDigestRepair {m : MsgHdr} {ident : B16} {step : BitVec 40} {sheet : Nat}
    {source : BitVec 6} :
    Keeps s (execDigestRepair m ident step sheet source s) := by
  unfold execDigestRepair
  intro hs
  refine memWf_receivePlain (fun _ _ h => ?_) hs
  split
  · exact memWf_startRepair h
  · exact h

theorem memWf_redigest {a : Assay} (hs : memWf s) : memWf (redigest p a s) := by
  unfold redigest
  split
  · dsimp only
    split
    · exact memWf_writeMem (memWf_updAssay (memWf_touchRead hs))
    · exact memWf_noteDenied (memWf_updAssay (memWf_touchRead hs))
  · exact hs

theorem memWf_onRepair {v : Port} {src ident sheet : Nat} {data : List Byte} {mark : B256} (hs : memWf s) :
    memWf (onRepair v src ident sheet data mark p s) := by
  unfold onRepair
  dsimp only
  split
  · exact hs
  · split
    · exact hs
    · refine memWf_ite ?_ (memWf_ite (memWf_endAssay (memWf_noteResult (memWf_updAssay hs)))
        (memWf_sendMsg (memWf_updAssay (memWf_updRes hs))))
      split
      · rename_i s₁ e
        have h₁ : memWf s₁ := memWf_of_snd e (memWf_landing hs)
        exact memWf_endAssay (memWf_noteResult (memWf_updAssay h₁))
      · rename_i s₂ e
        have h₂ : memWf s₂ := memWf_of_snd e (memWf_landing hs)
        exact memWf_endAssay (memWf_resNote (memWf_updRes (memWf_updAssay (memWf_redigest (memWf_writeMem h₂)))))

@[simp] theorem keeps_execFillRepair {m : MsgHdr} {ident : B16} {sheet : Nat} {data : List Byte} {mark : B256} :
    Keeps s (execFillRepair m ident sheet data mark s) :=
  fun hs => memWf_settleMsg hs (memWf_receivePlain (fun _ _ h => memWf_onRepair h) hs)

theorem memWf_assayExpired {ident step : Nat} (hs : memWf s) : memWf (assayExpired p ident step s) := by
  unfold assayExpired
  split
  · exact hs
  · exact memWf_ite hs (memWf_ite (memWf_compareRoots hs) (memWf_foldl (fun _ _ h => memWf_closeQuery h) hs))

@[simp] theorem keeps_execAssayWaitExpiry {ident : B16} {step : BitVec 40} :
    Keeps s (execAssayWaitExpiry ident step s) := by
  unfold execAssayWaitExpiry
  intro hs
  split
  · exact memWf_assayExpired hs
  · exact hs

@[simp] theorem keeps_execReplicaAssayTimeout {ident : B16} {step : BitVec 40} :
    Keeps s (execReplicaAssayTimeout ident step s) := by
  unfold execReplicaAssayTimeout
  intro hs
  split
  · split
    · exact memWf_ite hs (memWf_decideAssay hs)
    · exact hs
  · exact hs

/-! ### Functions of `Machine/Registers` -/

theorem memWf_clearArb {o : Nat} (hs : memWf s) : memWf (clearArb o s) := by
  unfold clearArb
  refine memWf_ite hs ?_
  split
  · exact memWf_updArb hs
  · exact memWf_updArb hs
  · exact memWf_updArb hs
  · exact hs

theorem memWf_clearVsn {o : Nat} (hs : memWf s) : memWf (clearVsn o s) := by
  unfold clearVsn
  refine memWf_ite (memWf_updPort hs) ?_
  split
  · exact memWf_updVesin hs
  · exact memWf_updVesin hs
  · exact memWf_updVesin hs
  · exact memWf_updVesin hs
  · exact hs

theorem memWf_updGuest {g : Fin 2} {f : Guest → Guest} (hs : memWf s) : memWf (updGuest g f s) := hs

theorem memWf_updD2d {q : Qtr} {f : D2d → D2d} (hs : memWf s) : memWf (updD2d q f s) := hs

theorem memWf_updStake {q : Qtr} {f : Stake → Stake} (hs : memWf s) : memWf (updStake q f s) := hs

theorem memWf_clearWdn {o : Nat} (hs : memWf s) : memWf (clearWdn o s) := by
  unfold clearWdn
  refine memWf_ite ?_ (memWf_ite (memWf_updGuest hs) (memWf_ite (memWf_updStake hs) ?_))
  · split
    · exact memWf_updD2d hs
    · exact memWf_updD2d hs
    · exact memWf_updD2d hs
    · exact hs
  · split <;> exact hs

theorem memWf_clearReg {o : Nat} (hs : memWf s) : memWf (clearReg p o s) := by
  unfold clearReg
  dsimp only
  split
  · exact memWf_ite (memWf_updCad hs) hs
  · exact memWf_updBench hs
  · exact memWf_updBench hs
  · exact memWf_updVeto hs
  · exact memWf_updPln hs
  · exact memWf_updTier hs
  · exact memWf_upd hs
  · exact memWf_updStc hs
  · exact memWf_ite (memWf_clearArb hs) hs
  · exact memWf_updAcl hs
  · exact memWf_ite (memWf_clearVsn hs) hs
  · exact memWf_ite (memWf_updRes hs) hs
  · exact memWf_ite (memWf_clearWdn hs) hs
  · exact hs

theorem memWf_halfRead {time high : Bool} (hs : memWf s) : memWf (halfRead p time high s).2 :=
  memWf_ite_snd (memWf_ite (memWf_tick (memWf_updCad hs)) (memWf_updCad hs))
    (memWf_ite (memWf_tick (memWf_updCad hs)) (memWf_updCad hs))

/-! ### Functions of `Machine/Resets` -/

theorem memWf_reopenRange {lo hi : Nat} {f : Nat → Bool} (hs : memWf s) : memWf (reopenRange lo hi f s) := hs

theorem memWf_resetStitches (hs : memWf s) : memWf (resetStitches p s) :=
  memWf_updStc (memWf_foldl (fun _ _ h => memWf_updStc h)
    (memWf_reopenRange (memWf_breakStitches (memWf_foldl (fun _ _ h => memWf_unregister h) hs))))

theorem memWf_openWindow {g : Fin 2} (hs : memWf s) : memWf (openWindow p s g) := by
  unfold openWindow
  split
  · exact hs
  · exact memWf_ite hs (memWf_updTier hs)

theorem memWf_openWindows (hs : memWf s) : memWf (openWindows p s) := memWf_foldl (fun _ _ h => memWf_openWindow h) hs

theorem memWf_resetFolio (hs : memWf s) : memWf (resetFolio p s) := by
  unfold resetFolio
  extract_lets _ s₁
  have h₁ : memWf s₁ := by
    refine memWf_foldl (fun _ _ h => ?_) (memWf_sendLeave hs)
    split
    · exact memWf_isolate h
    · exact h
    · exact memWf_closePort h
  exact memWf_ite hs (memWf_clearFolio (memWf_updVesin h₁))

theorem memWf_resetEngines (hs : memWf s) : memWf (resetEngines p s) := memWf_foldl (fun _ _ h => memWf_dropRefs h) hs

theorem memWf_resetTier (hs : memWf s) : memWf (resetTier p s) :=
  memWf_updTier (memWf_foldl (fun _ _ h => memWf_removeObject h) hs)

theorem memWf_freeClaims (hs : memWf s) : memWf (freeClaims p s) := hs

theorem memWf_partitionReset {cause : Nat} (hs : memWf s) : memWf (partitionReset p cause s).2 := by
  unfold partitionReset
  extract_lets _ _ _ _ s₁
  have h₁ : memWf s₁ := memWf_freeClaims (memWf_resetStitches
    (memWf_resetTier (memWf_resetEngines (memWf_foldl (fun _ _ h => memWf_releaseWork h) (memWf_resetFolio hs)))))
  exact memWf_note (memWf_ite (memWf_upd h₁) (memWf_openWindows (memWf_upd h₁)))

theorem memWf_deviceReset {cause : Nat} (hs : memWf s) : memWf (deviceReset cause s) := wf_keptMem hs

/-! ### Functions of `Machine/HostCmd` -/

@[simp] theorem keeps_execDevInfo {h : CmdHdr} : Keeps s (execDevInfo h s) :=
  fun hs => memWf_hostCmd (fun _ h => h) hs

@[simp] theorem keeps_execPing {h : CmdHdr} {echo : B128} : Keeps s (execPing h echo s) :=
  fun hs => memWf_hostCmd (fun _ h => h) hs

@[simp] theorem keeps_execRegSnapshot {h : CmdHdr} {addr : B64} : Keeps s (execRegSnapshot h addr s) :=
  fun hs => memWf_hostCmd (fun _ h => memWf_hostWrite h) hs

@[simp] theorem keeps_execJournalMark {h : CmdHdr} {text : B128} : Keeps s (execJournalMark h text s) :=
  fun hs => memWf_hostCmd (fun _ h => memWf_note h) hs

@[simp] theorem keeps_execCrashClear {h : CmdHdr} : Keeps s (execCrashClear h s) :=
  fun hs => memWf_hostCmd (fun _ h => by exact h) hs

theorem memWf_openPart {h : CmdHdr} {ring : B64} {n : Nat} (hs : memWf s) : memWf (openPart h ring n s).2 :=
  memWf_flushHeld (memWf_updHost hs)

theorem memWf_runOpen {h : CmdHdr} {ring : B64} {n options : Byte} (hs : memWf s) :
    memWf (runOpen h ring n options s) := by
  unfold runOpen
  dsimp only
  split
  · exact memWf_finishShort (memWf_updHost hs)
  · exact memWf_finishCmd (memWf_ite (memWf_openWindows (memWf_openPart (memWf_updHost hs)))
      (memWf_openPart (memWf_updHost hs)))

@[simp] theorem keeps_execPartOpen {h : CmdHdr} {ring : B64} {n options : Byte} :
    Keeps s (execPartOpen h ring n options s) := by
  unfold execPartOpen
  dsimp only
  split
  · exact fun hs => memWf_hostCmd (fun _ h => h) hs
  · split
    · exact fun hs => memWf_runOpen hs
    · split
      · exact fun hs => memWf_runOpen hs
      · exact fun hs => memWf_dropPacket hs

@[simp] theorem keeps_execPartClose {h : CmdHdr} : Keeps s (execPartClose h s) :=
  fun hs => memWf_hostCmd (fun _ h => memWf_updHost (memWf_partitionReset h)) hs

@[simp] theorem keeps_execPartReset {h : CmdHdr} : Keeps s (execPartReset h s) := by
  unfold execPartReset
  intro hs
  refine memWf_hostCmd (fun _ h => ?_) hs
  split
  rename_i s₁ e
  exact memWf_of_snd e (memWf_partitionReset h)

@[simp] theorem keeps_execDevReset {h : CmdHdr} : Keeps s (execDevReset h s) :=
  fun hs => memWf_hostCmd (fun _ h => memWf_deviceReset h) hs

@[simp] theorem keeps_execHstResetPartition : Keeps s (execHstResetPartition p s) := fun hs => memWf_partitionReset hs

theorem memWf_resetDeviceKey (hs : memWf s) : memWf (resetDeviceKey p s) := memWf_ite (memWf_deviceReset hs) hs

@[simp] theorem keeps_execHstResetDevice : Keeps s (execHstResetDevice p s) := fun hs => memWf_resetDeviceKey hs

theorem memWf_takeReplies {value : B32} (hs : memWf s) : memWf (takeReplies p value s) :=
  memWf_flushHeld (memWf_updHost hs)

@[simp] theorem keeps_execHstReplyHead {value : B32} : Keeps s (execHstReplyHead p value s) :=
  fun hs => memWf_takeReplies hs

theorem memWf_moveRange {v : Quotas} (hs : memWf s) : memWf (moveRange p v s) :=
  memWf_ite hs (memWf_updStc (memWf_reopenRange (memWf_reopenRange hs)))

theorem memWf_raiseQuota {t : Tier} {old new : Nat} (hs : memWf s) : memWf (raiseQuota p t old new s) :=
  memWf_backfills hs

theorem memWf_actSetQuota {v : Quotas} (hs : memWf s) : memWf (actSetQuota p v s).2 :=
  memWf_ite_snd hs (memWf_ite_snd hs (memWf_raiseQuota (memWf_raiseQuota (memWf_updTier (memWf_moveRange hs)))))

@[simp] theorem keeps_execSetQuota {h : CmdHdr} {part : Byte} {hbm bulk : B32}
    {stakeBase stakeLimit stitchBase stitchCount : Byte} :
    Keeps s (execSetQuota h part hbm bulk stakeBase stakeLimit stitchBase stitchCount s) :=
  fun hs => memWf_hostCmd (fun _ h => memWf_actSetQuota h) hs

theorem memWf_passArray {n : Part} (hs : memWf s) : memWf (passArray n s) :=
  memWf_ite hs (memWf_endLostRuns (memWf_updBench
    (memWf_updBench (memWf_foldl (fun _ _ h => memWf_updQuarter h) hs))))

theorem memWf_actTimeshare {on : Bool} {owner : Part} {quanta : Quad B32} (hs : memWf s) :
    memWf (actTimeshare on owner quanta s).2 := by
  unfold actTimeshare
  refine memWf_ite_snd ?_ (memWf_ite_snd hs (memWf_passArray hs))
  split
  · exact hs
  · exact memWf_ite_snd hs (memWf_ite hs hs)

@[simp] theorem keeps_execTimeshare {h : CmdHdr} {enable owner : Byte} {q0 q1 q2 q3 : B32} :
    Keeps s (execTimeshare h enable owner q0 q1 q2 q3 s) :=
  fun hs => memWf_hostCmd (fun _ h => memWf_actTimeshare h) hs

theorem memWf_actTimerFeature {on : Bool} {u : TimerUse} (hs : memWf s) : memWf (actTimerFeature p on u s).2 := by
  unfold actTimerFeature
  dsimp only
  split
  · exact hs
  · exact hs
  · exact hs
  · split
    · exact hs
    · exact hs

@[simp] theorem keeps_execTimerFeature {h : CmdHdr} {feature enable action : Byte} {period : B32} {addr : B64} :
    Keeps s (execTimerFeature h feature enable action period addr s) :=
  fun hs => memWf_hostCmd (fun _ h => memWf_actTimerFeature h) hs

theorem memWf_heartbeat (hs : memWf s) : memWf (heartbeat p s) := by
  unfold heartbeat
  split <;> exact hs

@[simp] theorem keeps_execHstHeartbeat : Keeps s (execHstHeartbeat p s) := fun hs => memWf_heartbeat hs

@[simp] theorem keeps_execHostWatchdogExpiry : Keeps s (execHostWatchdogExpiry p s) := by
  unfold execHostWatchdogExpiry
  split
  · exact id
  · exact fun hs => memWf_raiseAlert (memWf_ite (memWf_partitionReset hs) (memWf_note hs))

@[simp] theorem keeps_execStatusBlockRefresh : Keeps s (execStatusBlockRefresh s) :=
  fun hs => memWf_foldl (fun _ _ h => memWf_updHost h) hs

@[simp] theorem keeps_execStatusPush : Keeps s (execStatusPush p s) := by
  unfold execStatusPush
  split
  · exact id
  · exact fun hs => memWf_hostWrite hs

@[simp] theorem keeps_execTelemetryLog : Keeps s (execTelemetryLog s) := by
  unfold execTelemetryLog
  split
  · exact id
  · exact fun hs => memWf_note hs

@[simp] theorem keeps_execLinkSample : Keeps s (execLinkSample s) := by
  unfold execLinkSample
  split
  · exact id
  · exact fun hs => memWf_note (memWf_updVesin hs)

/-! ### Functions of `Machine/Planisher` -/

theorem memWf_updJob {f : Job → Job} (hs : memWf s) : memWf (updJob p f s) := memWf_updPln hs

theorem memWf_updEntry {f : EntryWork → EntryWork} (hs : memWf s) : memWf (updEntry p f s) := memWf_updPln hs

theorem memWf_plnFlags {f : Flags} (hs : memWf s) : memWf (plnFlags p f s) := memWf_updJob (memWf_updPln hs)

theorem memWf_writeReport {j : Job} {unfinished : Bool} (hs : memWf s) : memWf (writeReport p j unfinished s).2 := by
  unfold writeReport
  split
  · exact memWf_noteDenied hs
  · exact memWf_writeMem hs

theorem memWf_deliveryFault {code addr idx : Nat} (hs : memWf s) : memWf (deliveryFault p code addr idx s) :=
  memWf_raiseIrq (memWf_note hs)

theorem memWf_finishJob {fault : Option Nat} (hs : memWf s) : memWf (finishJob p fault s) := by
  unfold finishJob
  split
  · exact hs
  · split
    rename_i s₁ e
    have h₁ : memWf s₁ := memWf_of_snd e (memWf_writeReport hs)
    extract_lets
    split
    rename_i s₂ e
    have h₂ : memWf s₂ := memWf_of_snd e (memWf_ite_snd (memWf_sigStitch h₁) h₁)
    extract_lets s₃
    have h₃ : memWf s₃ := memWf_updPln h₂
    split
    · exact memWf_completeOp h₃
    · refine memWf_doneFiring ?_
      split
      · exact memWf_deliveryFault h₃
      · exact h₃

theorem memWf_failJob {g : Right} {e : Nat × Acc} (hs : memWf s) : memWf (failJob p g e s) :=
  memWf_finishJob (memWf_noteDenied hs)

theorem memWf_nextEntry (hs : memWf s) : memWf (nextEntry p s) := by
  unfold nextEntry
  extract_lets s₁
  have h₁ : memWf s₁ := memWf_updJob (memWf_updPln hs)
  split
  · exact h₁
  · exact memWf_ite (memWf_finishJob h₁) h₁

theorem memWf_countSkipped (hs : memWf s) : memWf (countSkipped p s) := memWf_updJob (memWf_updPln hs)

theorem memWf_countMismatch (hs : memWf s) : memWf (countMismatch p s) := memWf_updJob (memWf_updPln hs)

theorem memWf_countAlready (hs : memWf s) : memWf (countAlready p s) := memWf_updJob hs

theorem memWf_countZero {n : Nat} (hs : memWf s) : memWf (countZero p n s) := memWf_updJob (memWf_updPln hs)

theorem memWf_countApplied {step : Nat} (hs : memWf s) : memWf (countApplied p step s) :=
  memWf_updJob (memWf_updPln hs)

theorem memWf_rewriteEntry {addr : Nat} {f : Nat → Nat} (hs : memWf s) : memWf (rewriteEntry p addr f s) :=
  memWf_writeNat hs

theorem memWf_smearJob (hs : memWf s) : memWf (smearJob p s) := by
  unfold smearJob
  split
  · exact memWf_smearFor hs
  · exact hs

theorem okWf_runPlanish {b : BenchHdr} {record : Addr} (hs : memWf s) : OkWf id (runPlanish b record s) := by
  unfold runPlanish
  split
  · exact trivial
  · split
    · exact trivial
    · split
      · exact trivial
      · split
        rename_i s₁ e
        have h₁ : memWf s₁ := memWf_of_snd e (memWf_takeFlight (memWf_issueHead hs))
        exact memWf_touchRead (memWf_updPln h₁)

@[simp] theorem keeps_execPlanish {b : BenchHdr} {record : Addr} : Keeps s (execPlanish b record s) :=
  fun hs => memWf_benchOp (fun _ h => okWf_runPlanish h) (memWf_noteSlotWait hs)

theorem memWf_finishEntry {addr handle step : Nat} (hs : memWf s) : memWf (finishEntry p addr handle step s) := by
  unfold finishEntry
  split
  · exact hs
  · extract_lets _ s₁
    have h₁ : memWf s₁ := by
      unfold s₁
      split
      · exact memWf_resetBuf hs
      · exact hs
    exact memWf_smearJob (memWf_rewriteEntry h₁)

theorem memWf_closeEntry {addr handle step : Nat} {count : State → State}
    (hcount : ∀ (a : State), memWf a → memWf (count a)) (hs : memWf s) :
    memWf (closeEntry p addr handle step count s) := by
  unfold closeEntry
  split
  · exact memWf_failJob hs
  · exact memWf_nextEntry (memWf_finishEntry (hcount _ hs))

theorem memWf_beginEntry {addr : Nat} {e : Entry} {step hd : Nat} {o : Obj} (hs : memWf s) :
    memWf (beginEntry p addr e step hd o s) := by
  unfold beginEntry
  split
  · exact memWf_failJob hs
  · extract_lets _ _ _ s₁
    have h₁ : memWf s₁ := memWf_ite (memWf_updPln hs) hs
    exact memWf_ite (memWf_closeEntry (fun _ h => memWf_countZero h) hs)
      (memWf_ite (memWf_closeEntry (fun _ h => memWf_countApplied h) (memWf_updPln h₁)) (memWf_updPln h₁))

theorem memWf_judgedEntry {addr : Nat} {e : Entry} {step hd : Nat} {o : Obj} (hs : memWf s) :
    memWf (judgedEntry p addr e step hd o s) := by
  unfold judgedEntry
  split
  · exact memWf_ite (memWf_closeEntry (fun _ h => memWf_countSkipped h) (memWf_updJob hs))
      (memWf_beginEntry (memWf_updJob hs))
  · exact memWf_ite (memWf_updJob hs) (memWf_nextEntry (memWf_countSkipped hs))

theorem memWf_startEntry {j : Job} (hs : memWf s) : memWf (startEntry p j s) := by
  unfold startEntry
  dsimp only
  split
  · exact memWf_failJob hs
  · refine memWf_ite (memWf_finishJob (memWf_touchRead hs)) ?_
    split
    · exact memWf_finishJob (memWf_touchRead hs)
    · exact memWf_nextEntry (memWf_touchRead hs)
    · refine memWf_ite (memWf_nextEntry (memWf_countAlready (memWf_touchRead hs)))
        (memWf_ite (memWf_nextEntry (memWf_countMismatch (memWf_touchRead hs))) ?_)
      split
      · exact memWf_failJob (memWf_touchRead hs)
      · split
        · exact memWf_nextEntry (memWf_countMismatch (memWf_touchRead (memWf_touchRead hs)))
        · split
          · exact memWf_failJob (memWf_touchRead (memWf_touchRead hs))
          · exact memWf_ite (memWf_judgedEntry (memWf_touchRead (memWf_touchRead hs)))
              (memWf_nextEntry (memWf_countMismatch (memWf_touchRead (memWf_touchRead hs))))

theorem memWf_applyStep (hs : memWf s) : memWf (applyStep p s) := by
  unfold applyStep
  split
  · exact memWf_ite hs (memWf_startEntry hs)
  · exact hs

@[simp] theorem keeps_execApply : Keeps s (execApply p s) := fun hs => memWf_settle hs (memWf_applyStep hs)

theorem memWf_resetOne {j : Job} (hs : memWf s) : memWf (resetOne p j s) := by
  unfold resetOne
  split
  · exact memWf_failJob hs
  · dsimp only
    split
    · exact memWf_finishJob (memWf_touchRead hs)
    · split
      · exact memWf_failJob (memWf_touchRead hs)
      · refine memWf_ite (memWf_nextEntry (memWf_countMismatch (memWf_touchRead hs))) ?_
        split
        · exact memWf_failJob (memWf_touchRead hs)
        · exact memWf_nextEntry (memWf_smearJob (memWf_resetBuf (memWf_touchRead hs)))

theorem memWf_deriveOne {j : Job} (hs : memWf s) : memWf (deriveOne p j s) := by
  unfold deriveOne
  dsimp only
  split
  · exact memWf_failJob hs
  · refine memWf_ite (memWf_finishJob (memWf_touchRead hs))
      (memWf_ite (memWf_finishJob (memWf_touchRead hs))
      (memWf_ite (memWf_nextEntry (memWf_countMismatch (memWf_touchRead hs))) ?_))
    split
    · exact memWf_failJob (memWf_touchRead hs)
    · exact memWf_updPln (memWf_touchRead hs)

theorem memWf_runEntries {code n : Nat} {one : Part → Job → State → State}
    (hone : ∀ p j s, memWf s → memWf (one p j s)) (hs : memWf s) : memWf (runEntries p code one n s) := by
  induction n generalizing s with
  | zero => exact hs
  | succ n ih =>
    unfold runEntries
    split
    · exact memWf_ite (hone _ _ _ hs) (ih (hone _ _ _ hs))
    · exact hs

@[simp] theorem keeps_execBufResetJob : Keeps s (execBufResetJob p s) :=
  fun hs => memWf_settle hs (memWf_runEntries (fun _ _ _ h => memWf_resetOne h) hs)

theorem memWf_deriveStep (hs : memWf s) : memWf (deriveStep p s) := by
  unfold deriveStep
  split
  · exact memWf_ite hs (memWf_deriveOne hs)
  · exact hs

@[simp] theorem keeps_execDerive : Keeps s (execDerive p s) := fun hs => memWf_settle hs (memWf_deriveStep hs)

theorem memWf_touchRuns {l : List (Nat × Nat)} (hs : memWf s) : memWf (touchRuns p l s) :=
  memWf_foldl (fun _ _ h => memWf_touchRead h) hs

theorem memWf_computeUnit {code : Nat} {w : EntryWork} (hs : memWf s) : memWf (computeUnit p code w s) := by
  unfold computeUnit
  extract_lets _ s₁ _ _ s₂ give
  have h₂ : memWf s₂ := memWf_touchRuns hs
  have hg : ∀ x t, memWf t → memWf (give x t) := fun _ _ h => memWf_plnFlags (memWf_updEntry h)
  refine memWf_ite (hg _ _ h₂) ?_
  split
  · exact memWf_finishJob h₂
  · exact memWf_ite (memWf_ite (memWf_updEntry (memWf_countZero h₂)) (hg _ _ h₂))
      (memWf_ite (hg _ _ h₂) (memWf_ite (hg _ _ (memWf_tick h₂)) (hg _ _ h₂)))

theorem memWf_unitStep (hs : memWf s) : memWf (unitStep p s) := by
  unfold unitStep
  split
  · exact memWf_ite hs (memWf_computeUnit hs)
  · exact hs

@[simp] theorem keeps_execPlanisherUnit : Keeps s (execPlanisherUnit p s) :=
  fun hs => memWf_settle hs (memWf_unitStep hs)

theorem memWf_writeUnit (hs : memWf s) : memWf (writeUnit p s) := by
  unfold writeUnit
  split
  · split
    · exact hs
    · extract_lets s₁
      have h₁ : memWf s₁ := memWf_smearJob (memWf_foldl (fun _ _ h => memWf_writeMem h) hs)
      exact memWf_ite (memWf_ite (memWf_updEntry h₁) (memWf_nextEntry (memWf_countApplied (memWf_updEntry h₁))))
        (memWf_ite (memWf_updEntry h₁) (memWf_ite (memWf_updEntry (memWf_rewriteEntry h₁))
        (memWf_closeEntry (fun _ h => memWf_countApplied h) (memWf_updEntry (memWf_rewriteEntry h₁)))))
  · exact hs

@[simp] theorem keeps_execPlanisherUnitWritten : Keeps s (execPlanisherUnitWritten p s) :=
  fun hs => memWf_settle hs (memWf_writeUnit hs)

theorem memWf_reportRefused {f : Firing} (hs : memWf s) : memWf (reportRefused p f s) :=
  memWf_ite hs (memWf_ite hs (memWf_writeReport hs))

theorem memWf_deliver (hs : memWf s) : memWf (deliver p s) := by
  unfold deliver
  split
  · exact hs
  · extract_lets s₁
    have h₁ : memWf s₁ := memWf_takenFiring (memWf_updCad hs)
    refine memWf_ite hs ?_
    split
    · exact memWf_updPln (memWf_touchRead h₁)
    · exact memWf_doneFiring (memWf_deliveryFault (memWf_reportRefused (memWf_noteDenied h₁)))

@[simp] theorem keeps_execLateUpdateDelivery : Keeps s (execLateUpdateDelivery p s) :=
  fun hs => memWf_settle hs (memWf_deliver hs)

@[simp] theorem keeps_execDeliveryRerun : Keeps s (execDeliveryRerun p s) := fun hs => memWf_ite (memWf_updJob hs) hs

theorem memWf_losePlanisher (hs : memWf s) : memWf (losePlanisher p s) := by
  unfold losePlanisher
  refine memWf_ite (memWf_writeUnit hs) ?_
  split
  · exact memWf_writeUnit hs
  · split
    · exact memWf_finishJob (memWf_writeUnit hs)
    · exact memWf_writeReport (memWf_updJob (memWf_updPln (memWf_writeUnit hs)))

/-! ### Functions of `Machine/Package` -/

theorem memWf_loseContribution {c : Contribution} (hs : memWf s) : memWf (loseContribution s c) := by
  unfold loseContribution
  refine memWf_ite (memWf_tick hs) ?_
  split
  · exact memWf_tick hs
  · extract_lets _ _ _ s₁
    have h₁ : memWf s₁ := memWf_admitContribution (memWf_tick hs)
    exact memWf_ite h₁ (memWf_setBufEntry h₁)

theorem memWf_loseCopies {q : Qtr} {e : Nat × Obj} (hs : memWf s) : memWf (loseCopies q p s e) := by
  unfold loseCopies
  extract_lets _ _ _ _ _ s₁
  have h₁ : memWf s₁ := memWf_noteBroken (memWf_updObj hs)
  exact memWf_ite hs (memWf_ite h₁ (memWf_note h₁))

theorem memWf_loseStake {q : Qtr} (hs : memWf s) : memWf (loseStake q s) :=
  memWf_foldl (fun _ _ h => memWf_foldl (fun _ _ k => memWf_loseCopies k) h) hs

theorem memWf_noteFence {q : Qtr} {reason : Nat} (hs : memWf s) : memWf (noteFence q reason s) :=
  memWf_raiseAlert (memWf_noteAll hs)

theorem memWf_d2dDown {q : Qtr} {reason : Nat} (hs : memWf s) : memWf (d2dDown q reason s) := memWf_updD2d hs

theorem memWf_fence {q : Qtr} {reason : Nat} (hs : memWf s) : memWf (fence q reason s) :=
  memWf_ite hs (memWf_noteFence (memWf_loseStake
    (memWf_losePlanisher (memWf_loseArray (memWf_foldl (fun _ _ h => memWf_loseContribution h) hs)))))

@[simp] theorem keeps_execQuarterClockLoss {q : Qtr} : Keeps s (execQuarterClockLoss q s) := fun hs => memWf_fence hs

@[simp] theorem keeps_execQuarterFatalError {q : Qtr} : Keeps s (execQuarterFatalError q s) :=
  fun hs => memWf_fence hs

theorem memWf_noteHeat (hs : memWf s) : memWf (noteHeat s) := memWf_noteAll hs

theorem memWf_chooseHeat (hs : memWf s) : memWf (chooseHeat s) := by
  unfold chooseHeat
  split
  · exact hs
  · exact memWf_ite (memWf_noteHeat hs) hs

@[simp] theorem keeps_execHeatEvaluation : Keeps s (execHeatEvaluation s) := by
  unfold execHeatEvaluation
  extract_lets s₁ s₂ s₃
  intro hs
  have h₃ : memWf s₃ := by
    refine memWf_chooseHeat (memWf_foldl (fun _ _ h => ?_) (memWf_foldl (fun _ _ h => ?_) hs))
    · exact memWf_ite (memWf_updStake h) h
    · exact memWf_ite (memWf_fence h) h
  clear_value s₃
  exact memWf_ite h₃ h₃

@[simp] theorem keeps_execStakeSensorSample {q : Qtr} {readings : List B16} :
    Keeps s (execStakeSensorSample q readings s) := by
  unfold execStakeSensorSample
  split
  · exact id
  · exact fun hs => memWf_ite (memWf_fence (memWf_updStake hs)) (memWf_updStake hs)

@[simp] theorem keeps_execQuarterService {h : CmdHdr} {quarter : Byte} : Keeps s (execQuarterService h quarter s) :=
  fun hs => memWf_hostCmd (fun _ h => memWf_ite_snd h h) hs

theorem memWf_zeroStake {q : Qtr} (hs : memWf s) : memWf (zeroStake q s) := wf_clearRun hs _ _

theorem someWf_endService {q : Qtr} {ok : Bool} (hs : memWf s) : SomeWf Prod.snd (endService q ok s) := by
  unfold endService
  extract_lets _ _ s₁ s₂ s₃
  have h₁ : memWf s₁ := memWf_zeroStake hs
  have h₂ : memWf s₂ := memWf_updStake (memWf_updD2d h₁)
  have h₃ : memWf s₃ := memWf_chooseHeat h₂
  split
  · exact hs
  · split
    · exact trivial
    · split
      · dsimp only [SomeWf]
        exact memWf_noteAll h₃
      · dsimp only [SomeWf]
        exact memWf_noteFence (memWf_d2dDown hs)

theorem memWf_retrain {q : Qtr} {mask : Nat} {phase : D2dSt} (hs : memWf s) : memWf (retrain q mask phase s) :=
  memWf_updD2d hs

@[simp] theorem keeps_execD2dRetrain {q : Qtr} {cause : D2dCause} : Keeps s (execD2dRetrain q cause s) := by
  unfold execD2dRetrain
  dsimp only
  split
  · exact fun hs => memWf_ite (memWf_retrain hs) hs
  · split
    · exact id
    · exact fun hs => memWf_ite (memWf_updD2d (memWf_updD2d hs)) (memWf_retrain (memWf_updD2d hs))

theorem memWf_fenceLink {q : Qtr} {reason : Nat} (hs : memWf s) : memWf (fenceLink q reason s) :=
  memWf_ite (memWf_fence hs) (memWf_d2dDown hs)

theorem memWf_disagree {q : Qtr} {token : B32} {mask : Nat} (hs : memWf s) : memWf (disagree q token mask s) :=
  memWf_ite (memWf_fenceLink (memWf_noteAll (memWf_updD2d hs))) (memWf_retrain (memWf_noteAll (memWf_updD2d hs)))

theorem memWf_badToken {q : Qtr} {token : B32} (hs : memWf s) : memWf (badToken q token s) :=
  memWf_ite (memWf_updD2d hs) (memWf_disagree hs)

@[simp] theorem keeps_execPropose {q : Qtr} {token : B32} : Keeps s (execPropose q token s) := by
  unfold execPropose
  dsimp only
  split
  · exact id
  · split
    · exact fun hs => memWf_badToken hs
    · split
      · exact id
      · split
        · exact fun hs => memWf_fenceLink hs
        · exact fun hs => memWf_updD2d hs

@[simp] theorem keeps_execConfirm {q : Qtr} {token : B32} : Keeps s (execConfirm q token s) := by
  unfold execConfirm
  dsimp only
  split
  · exact id
  · split
    · exact id
    · split
      · exact fun hs => memWf_badToken hs
      · split
        · exact id
        · split
          · exact fun hs => memWf_updD2d hs
          · exact fun hs => memWf_disagree hs

theorem memWf_answerGuest {g : Fin 2} {m : Byte} {status : B16} {data : List Byte} (hs : memWf s) :
    memWf (answerGuest g m status data s) := memWf_updGuest hs

theorem memWf_fenceSite {g : Fin 2} {reason : Nat} (hs : memWf s) : memWf (fenceSite g reason s) :=
  memWf_ite hs (memWf_noteAll (memWf_breakStitches
    (memWf_foldl (fun _ _ h => memWf_answerGuest h) (memWf_updGuest hs))))

theorem memWf_noteViolations {g : Fin 2} {t : Nat} (hs : memWf s) : memWf (noteViolations g t s) := by
  unfold noteViolations
  refine memWf_ite hs ?_
  split
  · exact hs
  · exact memWf_updGuest (memWf_foldl (fun _ _ h => memWf_ite (memWf_note h) h) hs)

theorem memWf_violate {g : Fin 2} {m : Byte} {kind detail t : Nat} (hs : memWf s) :
    memWf (violate g m kind detail t s) := by
  unfold violate
  extract_lets _ _ s₁
  have h₁ : memWf s₁ := memWf_noteViolations (memWf_answerGuest (memWf_updGuest hs))
  exact memWf_ite (memWf_fenceSite h₁) h₁

theorem memWf_noteRowDenial {m : Byte} {r : GuestReq} (hs : memWf s) : memWf (noteRowDenial m r s) := by
  unfold noteRowDenial
  split
  · exact hs
  · dsimp only
    split
    · split
      · exact memWf_denied hs
      · exact hs
    · exact memWf_noteDenied hs
    · exact hs

theorem memWf_refuseGuest {g : Fin 2} {m : Byte} {r : GuestReq} {kind detail t : Nat} (hs : memWf s) :
    memWf (refuseGuest g m r kind detail t s) := memWf_violate (memWf_ite (memWf_noteRowDenial hs) hs)

theorem memWf_guestStitch {g : Fin 2} {m : Byte} {r : GuestReq} {i : B16} {op : StOp} (hs : memWf s) :
    memWf (guestStitch g m p r i op s) := by
  unfold guestStitch
  dsimp only
  split
  · exact memWf_answerGuest (memWf_denyStitch hs)
  · split
    · exact memWf_answerGuest (memWf_signalStitch hs)
    · exact memWf_answerGuest hs
    · split
      · rename_i s₁ e
        have h₁ : memWf s₁ := (okWf_lockStitch hs).of_eq e
        exact memWf_answerGuest h₁
      · exact memWf_answerGuest hs
    · split
      · rename_i s₂ e
        have h₂ : memWf s₂ := (okWf_unlockStitch hs).of_eq e
        exact memWf_answerGuest h₂
      · exact memWf_answerGuest hs
    · exact memWf_answerGuest hs

theorem memWf_passGuest {g : Fin 2} {m : Byte} {r : GuestReq} {t : Nat} (hs : memWf s) :
    memWf (passGuest g m p r t s) := by
  unfold passGuest
  dsimp only
  split
  · exact memWf_guestStitch (memWf_updGuest hs)
  · split
    · exact memWf_answerGuest (memWf_updGuest hs)
    · split
      · exact memWf_answerGuest (memWf_touchRead (memWf_updGuest hs))
      · exact memWf_answerGuest (memWf_writeMem (memWf_updGuest hs))
      · exact memWf_answerGuest (memWf_writeNat (memWf_updGuest hs))
      · exact memWf_updGuest hs
  · exact memWf_updGuest hs

theorem memWf_settleGuest {g : Fin 2} {m : Byte} {req : GuestReq} (hs : memWf s) (ht : memWf t) :
    memWf (settleGuest g m req p s t) := memWf_ite (memWf_updGuest (memWf_stall hs)) ht

@[simp] theorem keeps_execGuestRequest {site : Fin 2} {ident : Byte} {req : GuestReq} {t : Nat} :
    Keeps s (execGuestRequest site ident req t s) := by
  unfold execGuestRequest
  split
  · exact fun hs => memWf_answerGuest hs
  · split
    · exact fun hs => memWf_refuseGuest hs
    · split
      · exact fun hs => memWf_updGuest hs
      · exact fun hs => memWf_settleGuest hs (memWf_passGuest hs)
  · split
    · exact fun hs => memWf_refuseGuest hs
    · exact fun hs => memWf_answerGuest hs

@[simp] theorem keeps_execGuestRateRelease {site : Fin 2} {t : Nat} : Keeps s (execGuestRateRelease site t s) := by
  unfold execGuestRateRelease
  split
  · exact id
  · dsimp only
    split
    · exact fun hs => memWf_refuseGuest (memWf_updGuest hs)
    · exact fun hs => memWf_ite (memWf_stall hs) (memWf_passGuest (memWf_updGuest hs))

@[simp] theorem keeps_execGuestLinkLoss {site : Fin 2} : Keeps s (execGuestLinkLoss site s) :=
  fun hs => memWf_fenceSite hs

@[simp] theorem keeps_execGuestPowerCheck {site : Fin 2} {meanMw : Nat} :
    Keeps s (execGuestPowerCheck site meanMw s) := fun hs => memWf_ite (memWf_fenceSite hs) hs

@[simp] theorem keeps_execGuestSiteFault {site : Fin 2} : Keeps s (execGuestSiteFault site s) :=
  fun hs => memWf_fenceSite hs

/-! ### Functions of `Machine/Power` -/

theorem memWf_updPower {f : Power → Power} (hs : memWf s) : memWf (updPower f s) := hs

theorem memWf_crash {cause core : Nat} {named : Option Nat} (hs : memWf s) : memWf (crash cause core named s) :=
  memWf_tick hs

theorem memWf_loseOverlay (hs : memWf s) : memWf (loseOverlay s) := wf_clearRun hs _ _

theorem memWf_detach {cause : Nat} (hs : memWf s) : memWf (detach p cause s) :=
  memWf_breakStitches (memWf_updHost (memWf_note hs))

theorem memWf_loseLink {l : Fin 4} (hs : memWf s) : memWf (loseLink l s) :=
  memWf_foldl (fun _ _ h => memWf_detach h) hs

theorem memWf_loseLinks (hs : memWf s) : memWf (loseLinks s) :=
  memWf_foldl (fun _ _ h => memWf_ite (memWf_loseLink h) h) hs

theorem memWf_powerDown {cause : Option (Nat × Option Nat)} (hs : memWf s) : memWf (powerDown cause s) := by
  unfold powerDown
  extract_lets s₁
  have h₁ : memWf s₁ := by
    unfold s₁
    split
    · exact memWf_crash hs
    · exact hs
  exact memWf_ite hs (memWf_updPower (memWf_loseLinks (memWf_loseOverlay h₁)))

theorem memWf_powerDownKey (hs : memWf s) : memWf (powerDownKey p s) := memWf_ite (memWf_powerDown hs) hs

@[simp] theorem keeps_execHstResetPowerDown : Keeps s (execHstResetPowerDown p s) := fun hs => memWf_powerDownKey hs

@[simp] theorem keeps_execSbOffN : Keeps s (execSbOffN s) := fun hs => memWf_powerDown hs

@[simp] theorem keeps_execPwrEnDeassert : Keeps s (execPwrEnDeassert s) :=
  fun hs => memWf_updPower (memWf_ite (memWf_powerDown hs) hs)

theorem memWf_trip {sensor : Option Nat} (hs : memWf s) : memWf (trip sensor s) :=
  memWf_ite hs (memWf_powerDown (memWf_updPower hs))

@[simp] theorem keeps_execThermalTrip {sensor : Fin 17} {reading : B16} :
    Keeps s (execThermalTrip sensor reading s) := fun hs => memWf_ite (memWf_trip hs) hs

@[simp] theorem keeps_execSbTripN : Keeps s (execSbTripN s) := fun hs => memWf_trip hs

@[simp] theorem keeps_execSbResetN : Keeps s (execSbResetN s) := fun hs => memWf_ite hs (memWf_deviceReset hs)

theorem memWf_failStart {reason : Nat} (hs : memWf s) : memWf (failStart reason s) :=
  memWf_updPower (memWf_noteAll hs)

theorem memWf_enterMinimal {reason : Byte} {recovery : Bool} (hs : memWf s) :
    memWf (enterMinimal reason recovery s) := by
  unfold enterMinimal
  extract_lets s₁
  have h₁ : memWf s₁ := by
    unfold s₁
    split
    · exact memWf_sendLeave hs
    · exact hs
  exact memWf_noteAll (memWf_updPower h₁)

theorem memWf_failAtOnce {reason : Nat} {recovery : Bool} (hs : memWf s) : memWf (failAtOnce reason recovery s) :=
  memWf_enterMinimal (memWf_failStart hs)

theorem memWf_faultRail {r : Nat} (hs : memWf s) : memWf (faultRail r s) :=
  memWf_ite (memWf_updPower hs) (memWf_ite (memWf_updPower (memWf_fence (memWf_updPower hs)))
    (memWf_ite (memWf_updPower (memWf_fenceSite (memWf_updPower hs)))
    (memWf_ite (memWf_foldl (fun _ _ h => memWf_failLaser h) (memWf_updPower (memWf_updPower hs)))
    (memWf_ite (memWf_failStart (memWf_updPower hs)) (memWf_powerDown (memWf_updPower hs))))))

@[simp] theorem keeps_execRailFault {rail : Fin 24} : Keeps s (execRailFault rail s) :=
  fun hs => memWf_ite (memWf_faultRail hs) hs

theorem memWf_setInput {mv : B16} (hs : memWf s) : memWf (setInput mv s) := memWf_updPower hs

@[simp] theorem keeps_execInputVoltageFault {mv : B16} : Keeps s (execInputVoltageFault mv s) := by
  unfold execInputVoltageFault
  split
  · exact id
  · exact fun hs => memWf_ite (memWf_powerDown (memWf_setInput hs)) (memWf_setInput hs)

@[simp] theorem keeps_execInputVoltageBand {mv : B16} : Keeps s (execInputVoltageBand mv s) :=
  fun hs => memWf_ite (memWf_raiseAlert (memWf_noteAll (memWf_setInput hs))) (memWf_setInput hs)

theorem memWf_setPowerClock {mhz mean : Nat} (hs : memWf s) : memWf (setPowerClock mhz mean s) :=
  memWf_ite hs (memWf_noteAll hs)

@[simp] theorem keeps_execPowerSample {watts : B16} : Keeps s (execPowerSample watts s) :=
  fun hs => memWf_ite (memWf_setPowerClock hs) hs

@[simp] theorem keeps_execPowerWindow {mean : B16} : Keeps s (execPowerWindow mean s) :=
  fun hs => memWf_ite (memWf_powerDown (memWf_ite (memWf_updPower (memWf_setPowerClock (memWf_updPower hs)))
    (memWf_setPowerClock (memWf_updPower hs))))
    (memWf_ite (memWf_updPower (memWf_setPowerClock (memWf_updPower hs))) (memWf_setPowerClock (memWf_updPower hs)))

theorem memWf_raiseCounter {kind svn : Nat} (hs : memWf s) : memWf (raiseCounter kind svn s) := memWf_updPower hs

theorem memWf_updSlotFw {b : Bool} {f : FwSlot → FwSlot} (hs : memWf s) : memWf (updSlotFw b f s) := memWf_updPower hs

theorem memWf_runFrom {b trial : Bool} (hs : memWf s) : memWf (runFrom b trial s) := memWf_updPower hs

theorem memWf_stage2 (hs : memWf s) : memWf (stage2 s) := memWf_ite (memWf_updPower hs) (memWf_failAtOnce hs)

theorem memWf_stage1 (hs : memWf s) : memWf (stage1 s) := by
  unfold stage1
  extract_lets _ s₁
  have h₁ : memWf s₁ := by
    unfold s₁
    split
    · exact memWf_runFrom hs
    · exact hs
  refine memWf_ite (memWf_enterMinimal h₁) ?_
  split
  · exact memWf_failAtOnce (memWf_updPower hs)
  · exact memWf_stage2 (memWf_runFrom (memWf_updPower hs))

@[simp] theorem keeps_execBootStage1 {pufOk : Bool} : Keeps s (execBootStage1 pufOk s) :=
  fun hs => memWf_ite hs (memWf_ite (memWf_stage1 hs) (memWf_failAtOnce hs))

theorem memWf_noteStaleStripes (hs : memWf s) : memWf (noteStaleStripes s) :=
  memWf_foldl (fun _ _ h => memWf_ite h (memWf_note h)) hs

theorem memWf_trainSite {report : StartReport} {g : Fin 2} (hs : memWf s) : memWf (trainSite report s g) :=
  memWf_ite hs (memWf_ite (memWf_updGuest hs) (memWf_fenceSite (memWf_updGuest hs)))

theorem memWf_stage3 {report : StartReport} (hs : memWf s) : memWf (stage3 report s) := by
  unfold stage3
  extract_lets _ s₁ s₂
  have h₁ : memWf s₁ := by
    unfold s₁
    split
    · exact memWf_faultRail (memWf_updPower hs)
    · exact memWf_updPower hs
  have h₂ : memWf s₂ := memWf_foldl (fun _ _ h => memWf_ite h (memWf_fence h)) h₁
  exact memWf_ite h₁ (memWf_ite (memWf_failStart h₁)
    (memWf_ite (memWf_failStart h₁) (memWf_ite (memWf_failStart h₁)
    (memWf_ite (memWf_failStart h₂) (memWf_updPower
    (memWf_noteStaleStripes (memWf_foldl (fun _ _ h => memWf_trainSite h) h₂)))))))

@[simp] theorem keeps_execPwrEnAssert {lowMs : Nat} {report : StartReport} :
    Keeps s (execPwrEnAssert lowMs report s) := by
  unfold execPwrEnAssert
  dsimp only
  split
  · exact fun hs => memWf_stage3 (memWf_updPower hs)
  · exact fun hs => memWf_updPower (memWf_updPower hs)
  · exact fun hs => memWf_ite (memWf_deviceReset (memWf_updPower (memWf_updPower hs))) (memWf_updPower hs)
  · exact fun hs => memWf_updPower hs

@[simp] theorem keeps_execStartReady : Keeps s (execStartReady s) := by
  unfold execStartReady
  split
  · exact id
  · exact fun hs => memWf_raiseCounter (memWf_updPower hs)

@[simp] theorem keeps_execStartFailure {reason : Byte} : Keeps s (execStartFailure reason s) := by
  unfold execStartFailure
  dsimp only
  split
  · exact id
  · exact fun hs => memWf_ite (memWf_failAtOnce hs) (memWf_failStart hs)

@[simp] theorem keeps_execStartTimeout : Keeps s (execStartTimeout s) := fun hs => memWf_ite (memWf_failStart hs) hs

@[simp] theorem keeps_execStartRetry : Keeps s (execStartRetry s) :=
  fun hs => memWf_ite (memWf_deviceReset (cause := 4) hs) hs

@[simp] theorem keeps_execHousekeepingPowerUp {pcieSplit i3cAddr : BitVec 2} :
    Keeps s (execHousekeepingPowerUp pcieSplit i3cAddr s) := by
  unfold execHousekeepingPowerUp
  split
  · exact id
  · exact fun hs => memWf_updPower (memWf_deviceReset (cause := 4) hs)

@[simp] theorem keeps_execPowerLoss : Keeps s (execPowerLoss s) :=
  fun hs => memWf_deviceReset (cause := 4) (memWf_loseOverlay hs)

@[simp] theorem keeps_execWardenWatchdog {core : Fin 4} : Keeps s (execWardenWatchdog core s) := by
  unfold execWardenWatchdog
  split
  · exact id
  · exact fun hs => memWf_ite (memWf_failStart (memWf_crash hs)) (memWf_crash hs)

@[simp] theorem keeps_execWardenFault {core : Fin 4} : Keeps s (execWardenFault core s) :=
  fun hs => memWf_ite hs (memWf_crash hs)

theorem memWf_beginStage {path : StagePath} (hs : memWf s) : memWf (beginStage path s) :=
  memWf_updPower (memWf_ite hs (memWf_updSlotFw hs))

theorem memWf_writeSlot {offset : Nat} {data : List Byte} (hs : memWf s) : memWf (writeSlot offset data s) :=
  memWf_updSlotFw hs

@[simp] theorem keeps_execFwStage {h : CmdHdr} {offset length : B32} {addr : B64} {data : List Byte} :
    Keeps s (execFwStage h offset length addr data s) :=
  fun hs => memWf_hostCmd (fun _ h => memWf_ite_snd h (memWf_ite_snd h (memWf_beginStage h))) hs

theorem memWf_endActivate (hs : memWf s) : memWf (endActivate s).2 := by
  unfold endActivate
  extract_lets _ _ s₁
  have h₁ : memWf s₁ := memWf_updPower (memWf_updSlotFw hs)
  exact memWf_ite_snd (memWf_updPower h₁) h₁

@[simp] theorem keeps_execFwActivate {h : CmdHdr} : Keeps s (execFwActivate h s) :=
  fun hs => memWf_hostCmd (fun _ h => h) hs

theorem memWf_endRecord {data : List Byte} (hs : memWf s) : memWf (endRecord data s).2 :=
  memWf_ite_snd (memWf_updPower (memWf_raiseCounter hs)) hs

@[simp] theorem keeps_execConfigRecord {h : CmdHdr} {addr : B64} {length : B32} {data : List Byte} :
    Keeps s (execConfigRecord h addr length data s) := fun hs => memWf_hostCmd (fun _ h => h) hs

theorem memWf_respond {l : List Byte} (hs : memWf s) : memWf (respond l s) := memWf_updPower hs

@[simp] theorem keeps_execRequestUpdate : Keeps s (execRequestUpdate s) := by
  unfold execRequestUpdate
  split
  · exact id
  · split
    · exact fun hs => memWf_respond hs
    · exact fun hs => memWf_respond (memWf_updPower hs)

@[simp] theorem keeps_execRequestFirmwareData {offset : B32} {data : List Byte} :
    Keeps s (execRequestFirmwareData offset data s) := by
  unfold execRequestFirmwareData
  split
  · exact id
  · exact fun hs => memWf_writeSlot (memWf_beginStage hs)

@[simp] theorem keeps_execActivateFirmware : Keeps s (execActivateFirmware s) := by
  unfold execActivateFirmware
  split
  · exact id
  · split
    · exact fun hs => memWf_respond hs
    · exact fun hs => memWf_respond (memWf_endActivate hs)

theorem memWf_actKeyInstall {kind ident : Nat} {blob : List Byte} (hs : memWf s) :
    memWf (actKeyInstall kind ident blob s).2 :=
  memWf_ite_snd hs (memWf_ite_snd hs (memWf_ite_snd (memWf_updPower (memWf_raiseCounter hs))
    (memWf_updVesin (memWf_raiseCounter hs))))

@[simp] theorem keeps_execKeyInstall {h : CmdHdr} {kind ident : Byte} {addr : B64} {length : B32} {blob : List Byte} :
    Keeps s (execKeyInstall h kind ident addr length blob s) :=
  fun hs => memWf_hostCmd (fun _ h => memWf_actKeyInstall h) hs

theorem memWf_signedData {nonce : B256} {data : List Byte} (hs : memWf s) : memWf (signedData nonce data s).2 :=
  memWf_tick (memWf_tick hs)

theorem memWf_respondSigned {nonce : B256} {data : List Byte} (hs : memWf s) :
    memWf (respondSigned nonce data s) := by
  unfold respondSigned
  split
  rename_i s₁ e
  have h₁ : memWf s₁ := memWf_of_snd e (memWf_signedData hs)
  exact memWf_respond h₁

@[simp] theorem keeps_execGetMeasurements {index : Byte} {nonce : B256} :
    Keeps s (execGetMeasurements index nonce s) := by
  unfold execGetMeasurements
  dsimp only
  split
  · exact id
  · split
    · exact fun hs => memWf_respondSigned hs
    · split
      · exact fun hs => memWf_respondSigned hs
      · exact fun hs => memWf_respond hs

@[simp] theorem keeps_execChallenge {slot : Byte} {nonce : B256} : Keeps s (execChallenge slot nonce s) := by
  unfold execChallenge
  split
  · exact id
  · split
    · exact fun hs => memWf_respondSigned hs
    · exact fun hs => memWf_respond hs

@[simp] theorem keeps_execGetCertificate {slot : Byte} {offset length : B16} :
    Keeps s (execGetCertificate slot offset length s) := by
  unfold execGetCertificate
  split
  · exact id
  · split <;> exact fun hs => memWf_respond hs

@[simp] theorem keeps_execPldmSensorUpdate {readings : SensorReadings} :
    Keeps s (execPldmSensorUpdate readings s) := by
  unfold execPldmSensorUpdate
  split
  · exact id
  · exact fun hs => memWf_updPower hs

/-! ### Functions of `Machine/HostIf` -/

theorem memWf_breakLong {w : LongWork} (hs : memWf s) : memWf (breakLong p w s) := by
  unfold breakLong
  split
  · exact memWf_updObj hs
  · exact memWf_updObj hs
  · exact memWf_updFlash hs
  · exact memWf_releaseWork hs
  · exact memWf_releaseWork hs
  · exact memWf_updRes hs
  · exact memWf_updRes hs
  · exact hs

theorem someWf_workDone {w : LongWork} (hs : memWf s) : SomeWf (fun x => x.2.2) (workDone p w s) := by
  unfold workDone
  split
  · exact hs
  · exact (someWf_endService hs).map fun _ h => h
  · exact someWf_endDestroy hs
  · exact trivial
  · exact memWf_endFormat hs
  · exact memWf_endDmaOut hs
  · exact memWf_endDmaIn hs
  · exact memWf_endRestore hs
  · exact someWf_endFill hs
  · exact trivial
  · exact (someWf_endKeySwitch hs).map fun _ h => h
  · split
    · exact trivial
    · exact memWf_endAclSet hs
  · exact memWf_writeSlot hs
  · exact memWf_endActivate hs
  · exact memWf_endRecord hs
  · exact memWf_endPack hs
  · exact memWf_endUnpack hs

theorem memWf_longDone {i : Nat} {w : LongWork} {ok : Bool} (hs : memWf s) : memWf (longDone p i w ok s) := by
  unfold longDone
  dsimp only
  split
  · split
    · rename_i s₁ e
      have h₁ : memWf s₁.2 := (someWf_endService hs).of_eq e
      exact memWf_finishLong h₁
    · exact hs
  · exact memWf_finishLong hs
  · exact memWf_finishLong (memWf_breakLong hs)
  · split
    · exact hs
    · rename_i e
      have h₁ := (policyEndWf_endPolicy hs).of_done e
      exact memWf_finishLong h₁
    · rename_i e
      exact memWf_updHost ((policyEndWf_endPolicy hs).of_begun e)
  · split
    · exact hs
    · rename_i s₂ e
      have h₂ : memWf s₂.2.2 := (someWf_workDone hs).of_eq e
      exact memWf_finishLong h₂

@[simp] theorem keeps_execLongCommandDone {i : Fin 16} {ok : Bool} : Keeps s (execLongCommandDone p i ok s) := by
  unfold execLongCommandDone
  split
  · exact id
  · exact fun hs => memWf_settle hs (memWf_longDone hs)

theorem memWf_acceptPacket {fn : Part} {slot : Fin 64} {w : WaitingPacket} (hs : memWf s) :
    memWf (acceptPacket fn slot w s) := memWf_updHost hs

theorem memWf_acceptWaiting {fn : Part} {n : Nat} (hs : memWf s) : memWf (acceptWaiting fn n s) := by
  induction n generalizing s with
  | zero => exact hs
  | succ n ih =>
    unfold acceptWaiting
    dsimp only
    split
    · exact memWf_ite (ih (memWf_acceptPacket hs)) hs
    · exact hs

theorem memWf_refusePacket {k : Packet} {pk : List Byte} {st : B16} (hs : memWf s) : memWf (refusePacket k pk st s) :=
  memWf_postReply (memWf_journal hs)

theorem memWf_badOpcode {k : Packet} {i : Instr} (hs : memWf s) : memWf (badOpcode k i s) :=
  memWf_ite (memWf_updHost hs) (memWf_finishShort (memWf_updHost hs))

theorem memWf_sealOpen {fn : Part} {slot : Fin 64} {pk data : List Byte} (hs : memWf s) :
    memWf (sealOpen fn slot pk data s) :=
  memWf_ite (memWf_refusePacket (memWf_updHost (memWf_updHost hs)))
    (memWf_ite (memWf_refusePacket (memWf_updHost hs))
    (memWf_ite (memWf_acceptWaiting (memWf_acceptPacket (memWf_updHost hs))) (memWf_updHost (memWf_updHost hs))))

theorem memWf_sealShut {fn : Part} {slot : Fin 64} {pk : List Byte} (hs : memWf s) : memWf (sealShut fn slot pk s) :=
  memWf_ite (memWf_acceptWaiting (memWf_runOpen (memWf_updHost hs))) (memWf_dropPacket (memWf_updHost hs))

@[simp] theorem keeps_execCommandSeal {fn : Part} {slot : Fin 64} {packet data : List Byte} :
    Keeps s (execCommandSeal fn slot packet data s) := by
  unfold execCommandSeal
  dsimp only
  split
  · exact fun hs => memWf_badOpcode hs
  · split
    · exact fun hs => memWf_dropPacket hs
    · split
      · exact fun hs => memWf_sealOpen hs
      · exact fun hs => memWf_sealShut hs

theorem memWf_windowRead {fn : Part} {o size : Nat} (hs : memWf s) : memWf (windowRead fn o size s).2 := by
  unfold windowRead
  refine memWf_ite_snd hs (memWf_ite_snd ?_ (memWf_ite_snd (memWf_clearReg hs) (memWf_clearReg (memWf_clearReg hs))))
  split
  rename_i s₁ e
  exact memWf_of_snd e (memWf_halfRead hs)

theorem memWf_bar0Read {fn : Part} {o size : Nat} (hs : memWf s) : memWf (bar0Read fn o size s).2 :=
  memWf_ite_snd hs (memWf_ite_snd hs (memWf_ite_snd hs (memWf_ite_snd hs (memWf_ite_snd (memWf_windowRead hs) hs))))

@[simp] theorem keeps_execRegisterReadClear {fn : Part} {offset : BitVec 26} {size : Nat} :
    Keeps s (execRegisterReadClear fn offset size s) := by
  unfold execRegisterReadClear
  dsimp only
  split
  · exact id
  · split
    · exact fun hs => memWf_out (memWf_denied hs)
    · exact fun hs => memWf_out (memWf_bar0Read hs)

@[simp] theorem keeps_execCadPosHalfRead {fn : Part} {time high : Bool} :
    Keeps s (execCadPosHalfRead fn time high s) := by
  unfold execCadPosHalfRead
  split
  · exact id
  · split
    · exact fun hs => memWf_out (memWf_denied hs)
    · exact fun hs => memWf_out (memWf_halfRead hs)

theorem memWf_arbRegWrite {a r size : Nat} {v : B64} (hs : memWf s) : memWf (arbRegWrite a r size v s) :=
  memWf_ite (memWf_updArb hs) (memWf_ite (memWf_updArb hs) (memWf_ite (memWf_updArb hs) hs))

theorem memWf_windowReg32 {fn : Part} {o v : Nat} (hs : memWf s) : memWf (windowReg32 fn o v s) := by
  unfold windowReg32
  split
  · exact memWf_ite (memWf_updCad hs) hs
  · exact memWf_updBench hs
  · exact memWf_updBench hs
  · exact memWf_updPln hs
  · exact memWf_ite (memWf_commitMaps hs) hs
  · exact memWf_ite (memWf_updAcl hs) hs
  · exact memWf_ite (memWf_updPower hs) hs
  · exact hs

theorem memWf_windowWriteReg {fn : Part} {o size : Nat} {v : B64} (hs : memWf s) :
    memWf (windowWriteReg fn o size v s) :=
  memWf_ite (memWf_ite (memWf_arbRegWrite hs) hs)
    (memWf_ite (memWf_windowReg32 (memWf_windowReg32 hs)) (memWf_windowReg32 hs))

theorem memWf_controlWrite {fn : Part} {o v : Nat} (hs : memWf s) : memWf (controlWrite fn o v s) := by
  unfold controlWrite
  split
  · exact memWf_takeReplies hs
  · exact memWf_ite (memWf_partitionReset hs)
      (memWf_ite (memWf_resetDeviceKey hs) (memWf_ite (memWf_powerDownKey hs) hs))
  · exact memWf_heartbeat hs
  · exact memWf_updHost hs
  · exact memWf_updHost hs
  · exact memWf_updHost hs
  · exact memWf_updHost hs
  · exact hs

@[simp] theorem keeps_execRegisterWrite {fn : Part} {offset : BitVec 26} {size : Nat} {value : B64} :
    Keeps s (execRegisterWrite fn offset size value s) := by
  unfold execRegisterWrite
  dsimp only
  split
  · exact id
  · split
    · exact fun hs => memWf_onWindow (fun _ h => memWf_windowWriteReg h) hs
    · split
      · exact fun hs => memWf_ite (memWf_controlWrite (memWf_controlWrite hs)) (memWf_controlWrite hs)
      · exact id

@[simp] theorem keeps_execBar2Read {fn : Part} {offset : BitVec 39} {bytes : Nat} {media : Media} :
    Keeps s (execBar2Read fn offset bytes media s) := by
  unfold execBar2Read
  split
  · exact id
  · split
    · exact fun hs => memWf_out (memWf_noteDenied hs)
    · dsimp only
      split
      · exact fun hs => memWf_touchRead (memWf_out hs)
      · exact fun hs => memWf_touchRead (memWf_noteRetry (memWf_out hs))
      · exact fun hs => memWf_touchRead (memWf_out hs)
      · exact fun hs => memWf_poisonSheet (memWf_out hs)
      · exact fun hs => memWf_out hs

@[simp] theorem keeps_execBar2Write {fn : Part} {offset : BitVec 39} {data : List Byte} {blockFailed : Bool} :
    Keeps s (execBar2Write fn offset data blockFailed s) := by
  unfold execBar2Write
  split
  · exact id
  · split
    · dsimp only
      split
      · exact fun hs => memWf_ite (memWf_failUnit (memWf_writeMem hs)) (memWf_writeMem hs)
      · exact fun hs => memWf_writeMem hs
    · exact fun hs => memWf_out (memWf_noteDenied hs)

@[simp] theorem keeps_execConfigRequest {fn : Part} {bar2Log : Option (BitVec 6)} :
    Keeps s (execConfigRequest fn bar2Log s) := by
  unfold execConfigRequest
  split
  · exact id
  · split
    · exact fun hs => memWf_out hs
    · intro hs
      refine memWf_out ?_
      split
      · exact memWf_ite (memWf_updHost hs) hs
      · exact hs

@[simp] theorem keeps_execPcieLinkUp {link : Fin 4} {partner64 : Bool} {lanes : BitVec 5} :
    Keeps s (execPcieLinkUp link partner64 lanes s) := by
  unfold execPcieLinkUp
  dsimp only
  split <;> exact id

@[simp] theorem keeps_execFunctionLevelReset {fn : Part} : Keeps s (execFunctionLevelReset fn s) :=
  fun hs => memWf_detach hs

@[simp] theorem keeps_execLinkLoss {link : Fin 4} {_fundamental : Bool} :
    Keeps s (execLinkLoss link _fundamental s) := fun hs => memWf_ite (memWf_loseLink hs) hs

/-! ### Functions of `Machine/Dispatch` -/

theorem keeps_exec {i : Instr} : Keeps s (exec i s) := by
  cases i <;> simp [exec]

/-! ### Functions of `Machine/Tick` -/

theorem someWf_stateOf {o : Host.Outcome State Fault Refusal} (h : Keeps s o) (hs : memWf s) :
    SomeWf id (stateOf o) := by
  unfold stateOf
  split
  · exact h hs
  · exact trivial

theorem someWf_startAccepted (hs : memWf s) : SomeWf id (startAccepted s p) := by
  unfold startAccepted
  split
  · exact trivial
  · exact (someWf_stateOf keeps_exec (memWf_updHost hs)).filter

theorem someWf_takeMessage (hs : memWf s) : SomeWf id (takeMessage s) := by
  unfold takeMessage
  split
  · exact trivial
  · exact someWf_stateOf keeps_exec hs

theorem someWf_rollbackNow (hs : memWf s) : SomeWf id (rollbackNow s p) := by
  unfold rollbackNow
  split
  · exact memWf_runRollback hs
  · exact trivial

theorem memWf_registerHeadOf {st : Strm} (hs : memWf s) : memWf (registerHeadOf p s st) := by
  unfold registerHeadOf
  split
  · exact hs
  · split
    · exact memWf_ite (memWf_registerWait hs) hs
    · exact memWf_ite (memWf_registerWait hs) hs
    · exact hs

theorem memWf_tryHead {st : Strm} (hs : memWf s) : memWf (tryHead p st s) := by
  unfold tryHead
  split
  · exact memWf_benchOp (fun _ _ => trivial) hs
  · split
    · have h : ∀ i, memWf ((stateOf (exec i s)).getD s) := fun _ => (someWf_stateOf keeps_exec hs).getD hs
      exact memWf_ite (h _) (memWf_touchRead (h _))
    · exact memWf_benchOp (fun _ _ => trivial) hs

theorem memWf_tryHeads {l : List Strm} (hs : memWf s) : memWf (tryHeads p l s) := by
  induction l generalizing s with
  | nil => exact hs
  | cons st l ih => exact memWf_ite (ih (memWf_tryHead hs)) (memWf_tryHead hs)

theorem someWf_benchTurn (hs : memWf s) : SomeWf id (benchTurn s p) := by
  unfold benchTurn
  split
  · exact trivial
  · dsimp only
    split
    · exact memWf_foldl (fun _ _ h => memWf_registerHeadOf h) hs
    · split
      · exact trivial
      · exact memWf_tryHeads hs

theorem memWf_plateNext {k : Nat} {i : Inst} (hs : memWf s) : memWf (plateNext p k i s) := by
  unfold plateNext
  refine memWf_ite (memWf_failVrun hs) ?_
  split
  · exact (someWf_stateOf keeps_exec hs).getD hs
  · exact memWf_failVrun hs

theorem memWf_of_mem_plateTurns (hs : memWf s) (ht : t ∈ plateTurns s p) : memWf t := by
  unfold plateTurns at ht
  split at ht
  · exact absurd ht List.not_mem_nil
  · obtain ⟨e, -, he⟩ := List.mem_filterMap.mp ht
    obtain ⟨i, -, rfl⟩ := Option.map_eq_some_iff.mp he
    exact memWf_plateNext hs

theorem memWf_of_mem_ownSteps (hs : memWf s) (ht : t ∈ ownSteps s) : memWf t := by
  unfold ownSteps at ht
  split at ht
  · exact (someWf_startAccepted hs).of_eq (Option.mem_toList.mp ht)
  · split at ht
    · exact absurd ht List.not_mem_nil
    · simp only [List.mem_append, List.mem_filterMap, List.mem_flatMap, Option.mem_toList] at ht
      obtain (((((⟨p, -, h⟩ | h) | ⟨p, -, h⟩) | ⟨p, -, h⟩) | ⟨p, -, h⟩) | h) | h := ht
      · exact (someWf_startAccepted hs).of_eq h
      · exact (someWf_takeMessage hs).of_eq h
      · exact (someWf_rollbackNow hs).of_eq h
      · exact (someWf_benchTurn hs).of_eq h
      · exact memWf_of_mem_plateTurns hs h
      · exact (someWf_rewriteUnit hs).of_eq h
      · exact (someWf_proveUnit hs).of_eq h

theorem memWf_ownStep (hs : memWf s) : memWf (ownStep s) := by
  unfold ownStep
  split
  · exact hs
  · rename_i t e
    exact memWf_of_mem_ownSteps hs (e ▸ List.mem_singleton_self t)
  · have h : SomeWf id ((ownSteps s.tick)[Config.freeNat s.freeCtr % (ownSteps s.tick).length]?) := by
      cases e : (ownSteps s.tick)[Config.freeNat s.freeCtr % (ownSteps s.tick).length]? with
      | none => exact trivial
      | some t => exact memWf_of_mem_ownSteps (memWf_tick hs) (List.mem_of_getElem? e)
    exact h.getD (memWf_tick hs)

/-! ### Functions of `Machine/Step` -/

theorem keeps_step : Keeps s (step s) := by
  unfold step
  split
  · exact keeps_exec
  · exact fun hs => memWf_ownStep hs

theorem exists_next_of_keeps {o : Host.Outcome State Fault Refusal} (h : Keeps s o) : ∃ t, o = .next t := by
  cases o with
  | next t => exact ⟨t, rfl⟩
  | fault => exact h.elim
  | refused => exact h.elim

end Sys2Proof.Machine

namespace Sys2Proof
open Machine

/-- Settles O59: the outcome of every instruction's arm is a next state, and so is that of the tick. -/
theorem everyStepCompletes : Obligations.EveryStepCompletes :=
  fun _ => exists_next_of_keeps keeps_step

/-- Settles O60: every function that a step calls keeps the form, by the lemmas above. -/
theorem memoryFormKept : Obligations.MemoryFormKept := by
  intro s t hs ht
  have h : Keeps s (step s) := keeps_step
  rw [ht] at h
  exact h hs

end Sys2Proof
end

section
/-!
The position, its events and wall time (R47 to R86, R645), and the messages that other positions send (R508 to R516, R523).

An advance or a mark is either not later than the position, and then only counts, or becomes the position; `advance` and
`applyPos` are said once for each case. A host command's statement is its own effect under the conditions of `MayRun`, a
message's its own effect under those of `Accepted`: `answers_of_act`, `delivers_of_accepted`, `replies_of_accepted` and
`replies_of_settled` carry the effect over to the instruction. A SEND or ADD ends only where no write of its waits; that
its reply makes nothing wait is `sendMsg_flash`.
-/
namespace Sys2Proof.Machine

variable {p : Part} {s t : State}

/-! ### Positions not later than the current one (R52) -/

theorem advance_of_not_later {pos : B64} (h : pos ≤ (s.part p).cad.pos) : advance p pos s = (false, noteStale p s) :=
  if_pos h

theorem onMark_of_not_later {src : BitVec 6} {pos : B64} (h : malformed pos = true ∨ pos ≤ (s.part p).cad.pos)
    (hs : src = 0) (hr : (s.part p).cad.role = .follower) : onMark src pos p s = noteStale p s := by
  unfold onMark
  split
  · rfl
  · rename_i hm
    simp [hs, hr, h.resolve_left hm]

/-! ### Later positions (R58, R70, R85) -/

theorem advance_of_later {pos : B64} (h : (s.part p).cad.pos < pos) (hr : (s.part p).cad.role = .standalone) :
    advance p pos s = (true, sendMarks p pos (applyPos p pos s)) := by
  simp [advance, BitVec.not_le.mpr h, hr]

theorem onMark_of_later {src : BitVec 6} {pos : B64} (hm : malformed pos = false) (h : (s.part p).cad.pos < pos)
    (hs : src = 0) (hr : (s.part p).cad.role = .follower) : onMark src pos p s = applyPos p pos s := by
  simp [onMark, hm, hs, hr, BitVec.not_le.mpr h]

theorem dueEntries_of_no_events {c : Cad} {pos : B64} (h : c.events = []) : dueEntries c pos = [] := by
  simp [dueEntries, h, sortBy]

theorem captureFinals_nil {pos : B64} : captureFinals p pos [] s = s :=
  State.upd_self s p _ (by simp)

/-- Where no event is scheduled, a position applied is the position and the pulse on CAD_IO. -/
theorem applyPos_of_no_events {pos : B64} (h : (s.part p).cad.events = []) :
    applyPos p pos s = if s.cad.ioFunc = 2 && s.cad.ioPart = p then
      { s.updCad p fun c => { c with pos } with cad := { s.cad with ioPulses := s.cad.ioPulses + 1 } }
    else s.updCad p fun c => { c with pos } := by
  have fire (u : State) (hu : (u.part p).cad.events = []) :
      captureFinals p pos (dueEntries (u.part p).cad pos)
        ((dueEntries (u.part p).cad pos).foldl (fireEntry p pos) u) = u := by
    rw [dueEntries_of_no_events hu, List.foldl_nil, captureFinals_nil]
  refine fire _ ?_
  split
  · simp [h]
  · simp [h]

/-- It changes the position of its own partition alone. -/
theorem applyPos_frame_of_no_events {pos : B64} (h : (s.part p).cad.events = []) :
    ((applyPos p pos s).part p).cad = { (s.part p).cad with pos } ∧ (applyPos p pos s).mem = s.mem ∧
      ∀ q, q ≠ p → (applyPos p pos s).part q = s.part q := by
  have others (q : Part) (hq : q ≠ p) : (s.updCad p fun c => { c with pos }).part q = s.part q :=
    State.updCad_part_of_ne s p hq _
  rw [applyPos_of_no_events h]
  split
  · exact ⟨by simp, rfl, others⟩
  · exact ⟨by simp, rfl, others⟩

theorem applyPos_of_no_pulse {pos : B64} (h : (s.part p).cad.events = []) (hio : s.cad.ioFunc ≠ 2) :
    applyPos p pos s = s.updCad p fun c => { c with pos } :=
  (applyPos_of_no_events h).trans (if_neg fun hc => hio (of_decide_eq_true (Bool.and_eq_true_iff.mp hc).1))

theorem sendMarks_of_not_leader {pos : B64} (h : (s.part p).cad.role ≠ .leader) : sendMarks p pos s = s := by
  simp [sendMarks, h]

/-! ### Wall time (R81) -/

/-- Where wall time is not set, no load moves it backwards. -/
theorem loadTime_of_unset {time : B64} (h : s.cad.wall = 0) :
    loadTime time s = { s.tick with cad := { s.cad with wall := time, loads := s.cad.loads + 1 } } := by
  simp [loadTime, State.timeNow, h]

/-! ### A host command's effect, and its answer -/

/-- A host command that may run and ends at once with OK is answered. -/
theorem answers_of_act {op : B16} {long minimal : Bool} {issuer : Issuer} {i : Instr} {h : CmdHdr} {params : List Byte}
    {act : State → CmdOut × State} {r : B128} (hm : MayRun ⟨op, long, minimal, issuer⟩ h s)
    (he : exec i s = next (hostCmd ⟨op, long, minimal, issuer⟩ i h params false act s))
    (ha : act (begun h s) = (.done stOk r, t)) : Answers i h op r s t := by
  obtain ⟨ho, hs, hc⟩ := hm
  have hb : act (s.updHost h.fn fun x => { x with starting := false }) = (.done stOk r, t) := ha
  rw [Answers, he, hostCmd_run ho hs hc, hb]
  rfl

/-- CAD_ADVANCE not later than the position answers the position, with bit 0 clear (R52, R645). -/
theorem cadAdvance_of_not_later {h : CmdHdr} {pos : B64} (hm : MayRun { opcode := 0x0400 } h s)
    (hr : (s.part h.fn).cad.role ≠ .follower) (hp : malformed pos = false) (hl : pos ≤ (s.part h.fn).cad.pos) :
    Answers (.cadAdvance h pos) h 0x0400 (place 128 64 (s.part h.fn).cad.pos.toNat) s
      ((begun h s).updCad h.fn fun c => { c with stale := satAdd c.stale 1 }) := by
  refine answers_of_act hm rfl ?_
  have ha : advance h.fn pos (begun h s) = (false, noteStale h.fn (begun h s)) :=
    advance_of_not_later (by simpa using hl)
  simp [actCadAdvance, hp, hr, ha, noteStale, bit, place]

/-- CAD_ADVANCE later than the position of a STANDALONE partition answers the new position, with bit 0 set (R61, R645). -/
theorem cadAdvance_of_later {h : CmdHdr} {pos : B64} (hm : MayRun { opcode := 0x0400 } h s)
    (hr : (s.part h.fn).cad.role = .standalone) (hp : malformed pos = false) (hl : (s.part h.fn).cad.pos < pos)
    (he : (s.part h.fn).cad.events = []) (hio : s.cad.ioFunc ≠ 2) :
    Answers (.cadAdvance h pos) h 0x0400 (place 128 64 pos.toNat ||| 1) s
      ((begun h s).updCad h.fn fun c => { c with pos }) := by
  refine answers_of_act hm rfl ?_
  have ha : advance h.fn pos (begun h s) = (true, (begun h s).updCad h.fn fun c => { c with pos }) := by
    rw [advance_of_later (by simpa using hl) (by simpa using hr),
      applyPos_of_no_pulse (s := begun h s) (by simpa using he) hio, sendMarks_of_not_leader (by simp [hr])]
  simp [actCadAdvance, hp, hr, ha, bit, place]

/-! ### Events and CAD_IO (R71, R72, R84) -/

@[simp] theorem releaseEntry_events {i : Nat} {c : Cad} : (releaseEntry i c).events = c.events := rfl

/-- EVT_WRITE of an entry with a KIND, at a slot it names and a target later than the position. -/
theorem actEvtWrite_of_later {idx : Nat} {entry : B256} (hi : idx < 1024) (hb : eventBad entry = false)
    (hk : (Event.ofBits entry).kind ≠ 0) (hm : malformed (Event.ofBits entry).target = false)
    (hl : (s.part p).cad.pos < (Event.ofBits entry).target) : actEvtWrite p idx entry s =
      (.done stOk (res 0 idx), s.updCad p fun c =>
        { releaseEntry idx c with events := Map.insert c.events idx (Event.ofBits entry) }) := by
  have hbad : (eventBad entry || (1024 ≤ idx && idx ≠ 0xFFFF)) = false := by simp [hb, hi]
  have hlate : (decide ((Event.ofBits entry).kind ≠ 0) && (malformed (Event.ofBits entry).target ||
      decide ((Event.ofBits entry).target ≤ (s.part p).cad.pos))) = false := by simp [hm, BitVec.not_le.mpr hl]
  have hx : idx ≠ 0xFFFF := by omega
  simp only [actEvtWrite, hbad, hlate, if_neg hx, if_neg hk, Bool.false_eq_true, if_false, releaseEntry_events]

/-- CAD_IO_CFG of a pin that serves nobody. -/
theorem actCadIoCfg_of_free {func part : Nat} (hf : func ≤ 2) (hp : part ≤ 3) (hio : s.cad.ioFunc = 0) :
    actCadIoCfg p func part s = (cmdOk, { s with cad := { s.cad with
      ioFunc := BitVec.ofNat 2 func, ioPart := Fin.ofNat 4 part, ioHolder := p, settings := s.cad.settings + 1 } }) := by
  simp [actCadIoCfg, Nat.not_lt.mpr hf, Nat.not_lt.mpr hp, hio]

/-! ### The pulse input (R81, R82) -/

/-- An edge of the pulse input loads the time that waits for one. -/
theorem execPpsEdge_of_waiting {time : B64} {onIo : Bool} (hi : onIo = decide (s.cad.ioFunc = 1))
    (he : s.cad.onEdge = some time) (hw : s.cad.wall = 0) : execPpsEdge onIo s = next { s.tick with
      cad := { s.cad with ppsLost := false, onEdge := none, wall := time, loads := s.cad.loads + 1 } } := by
  unfold execPpsEdge
  rw [if_neg (not_not.mpr hi)]
  dsimp only
  rw [he]
  exact congrArg next (loadTime_of_unset hw)

theorem execPpsLost_of_set (h : s.cad.wall ≠ 0) :
    execPpsLost s = next { s with cad := { s.cad with ppsLost := true, losses := s.cad.losses + 1 } } :=
  congrArg next (if_pos (by simpa using .inr h))

/-! ### CAD_MARK (R235) -/

/-- CAD_MARK not later than the position issues, and of the cadence only counts (R52, R235). -/
theorem cadMark_of_not_later {b : BenchHdr} {pos : B64} (hm : MayIssue b s) (hr : (s.part b.p).cad.role ≠ .follower)
    (hp : malformed pos = false) (hl : pos ≤ (s.part b.p).cad.pos) : ∃ t, exec (.cadMark b pos) s = .next t ∧
      (t.part b.p).cad = { (s.part b.p).cad with stale := satAdd (s.part b.p).cad.stale 1 } := by
  let u := (issueHead b (afterHead b s) s).updStream b.p b.st fun x => { x with drawPos := pos }
  have hc : (u.part b.p).cad = (s.part b.p).cad := by simp [u, issueHead, State.updStream]
  have hrun : runCadMark b pos s = .ok (noteStale b.p u) := by
    have ha : advance b.p pos u = (false, noteStale b.p u) := advance_of_not_later (by rw [hc]; exact hl)
    have hu : (u.part b.p).cad.role ≠ .follower := by rw [hc]; exact hr
    simp only [runCadMark, hp, Bool.false_eq_true, if_false]
    exact congrArg Except.ok ((if_neg hu).trans (congrArg Prod.snd ha))
  refine ⟨noteStale b.p u, congrArg next ?_, by simp [noteStale, hc]⟩
  rw [benchOp_runs hm rfl, hrun]
  rfl

/-! ### Messages put on their way keep the flash, so that they make no write wait -/

@[simp] theorem putFlit_flash {v : Port} {bytes : List Byte} : (putFlit v bytes s).flash = s.flash := by
  unfold putFlit
  extract_lets
  split
  · rfl
  · rfl

theorem putFlits_flash {α : Type} {v : Port} {f : α → List Byte} {l : List α} :
    (l.foldl (fun s a => putFlit v (f a) s) s).flash = s.flash :=
  List.foldlRecOn (motive := fun (t : State) => t.flash = s.flash) l _ rfl fun _ h _ _ => putFlit_flash.trans h

@[simp] theorem sendRun_flash {v : Port} : (sendRun v s).flash = s.flash := by
  unfold sendRun
  dsimp only
  split
  · rfl
  · split
    · rfl
    · exact putFlits_flash

@[simp] theorem pump_flash {v : Port} {n : Nat} : (pump v n s).flash = s.flash := by
  induction n generalizing s with
  | zero => rfl
  | succ n ih =>
    unfold pump
    extract_lets
    split
    · rfl
    · split
      · rfl
      · exact ih.trans sendRun_flash

@[simp] theorem dispatchMsg_flash {m : OutMsg} : (dispatchMsg m s).flash = s.flash := by
  unfold dispatchMsg
  extract_lets
  split
  · exact pump_flash
  · rfl

@[simp] theorem noteDropped_flash {b : MsgBody} : (noteDropped b s).flash = s.flash := by
  unfold noteDropped
  split
  · rfl
  · rfl

@[simp] theorem sendMsg_flash {d : Nat} {body : MsgBody} {waiter : Waiter} :
    (sendMsg d body waiter s).flash = s.flash := by
  unfold sendMsg sendMsgAs
  split
  · rfl
  · split
    · exact noteDropped_flash
    · exact dispatchMsg_flash

@[simp] theorem recordSeq_flash {d n : Nat} {status : B16} : (recordSeq d n status s).flash = s.flash := rfl

@[simp] theorem updVesin_flash {f : Vesin → Vesin} : (updVesin f s).flash = s.flash := rfl

theorem noteDenied_flash {m : Nat} {g : Right} {r : Acc} : (noteDenied p m g r s).flash = s.flash := by
  unfold noteDenied
  split
  · rfl
  · rfl

theorem heldBack_congr {u : State} (h : u.flash = t.flash) : heldBack s u = heldBack s t := by
  simp [heldBack, h]

theorem heldBack_of_flash_eq (h : t.flash = s.flash) : heldBack s t = false := by
  simp [heldBack, h]

/-! ### Waiting writes (R374, R393) -/

theorem stall_mem : (stall p s t).mem = s.mem := by
  unfold stall
  split
  · rfl
  · rfl

theorem settleMsg_of_heldBack {m : MsgHdr} {i : Instr} (h : heldBack s t = true) :
    settleMsg m i s t = { stall s.vesin.fpart s t with vesin := { s.vesin with
      inbox := i :: s.vesin.inbox, applying := m :: s.vesin.applying } } := if_pos h

theorem settleMsg_of_not_heldBack {m : MsgHdr} {i : Instr} (h : heldBack s t = false) : settleMsg m i s t = t :=
  if_neg (by simp [h])

theorem settleMsg_of_flash_eq {m : MsgHdr} {i : Instr} (h : t.flash = s.flash) : settleMsg m i s t = t :=
  settleMsg_of_not_heldBack (heldBack_of_flash_eq h)

/-! ### A message arrives (R514, R523) -/

theorem receive_of_misrouted {m : MsgHdr} {reply : Option (B16 → MsgBody)} {act : Part → State → B16 × State}
    (h : misrouted m s = true) : receive m reply act s = noteMisroute s := if_pos h

/-- A message received again is answered with the status first given, or with BUSY while it is still being applied. -/
theorem receive_of_duplicate {m : MsgHdr} {reply : B16 → MsgBody} {act : Part → State → B16 × State} {st : B16}
    (hm : misrouted m s = false) (hd : seqNew s m.src.toNat m.seq.toNat = false ∨ stillApplied m s = true)
    (hst : (if stillApplied m s then some stBusy else Map.find? (srcRecord s m.src.toNat).seen m.seq.toNat) = some st) :
    receive m (some reply) act s = sendMsg m.src.toNat (reply st) .none
      (updVesin (fun x => { x with dup := satAdd x.dup 1 }) s) := by
  have hc : (!seqNew s m.src.toNat m.seq.toNat || stillApplied m s) = true := by simpa using hd
  simp only [receive, hm, hc, discardDup, hst, Bool.false_eq_true, if_false, if_true]

/-- An accepted message has its effect, its number is recorded, and its sender is answered. -/
theorem receive_of_accepted {m : MsgHdr} {reply : B16 → MsgBody} {act : Part → State → B16 × State} {st : B16}
    (ha : Accepted m s) (h : act s.vesin.fpart s = (st, t)) : receive m (some reply) act s =
      sendMsg m.src.toNat (reply st) .none (recordSeq m.src.toNat m.seq.toNat st t) := by
  obtain ⟨hm, hn, hs⟩ := ha
  simp [receive, hm, hn, hs, h]

theorem delivers_of_accepted {i : Instr} {m : MsgHdr} {act : Part → State → State} (ha : Accepted m s)
    (he : exec i s = next (receivePlain m act s)) (h : act s.vesin.fpart s = t) : Delivers i m s t := by
  obtain ⟨hm, hn, hs⟩ := ha
  simp [Delivers, he, receivePlain, receive, hm, hn, hs, h]

theorem replies_of_accepted {i : Instr} {m : MsgHdr} {reply : B64 → B16 → MsgBody} {act : Part → State → B16 × State}
    {st : B16} (ha : Accepted m s) (he : exec i s = next (receive m (some (reply m.seq)) act s))
    (h : act s.vesin.fpart s = (st, t)) : Replies i m reply st s t :=
  he.trans (congrArg next (receive_of_accepted ha h))

/-- A SEND or ADD none of whose writes waits is applied and answered. -/
theorem replies_of_settled {i : Instr} {m : MsgHdr} {reply : B64 → B16 → MsgBody} {act : Part → State → B16 × State}
    {st : B16} (ha : Accepted m s) (he : exec i s = next (settleMsg m i s (receive m (some (reply m.seq)) act s)))
    (h : act s.vesin.fpart s = (st, t)) (hh : heldBack s t = false) : Replies i m reply st s t := by
  rw [Replies, he, receive_of_accepted ha h, settleMsg_of_not_heldBack]
  rw [heldBack_congr (sendMsg_flash.trans recordSeq_flash), hh]

/-- A SEND or ADD with a write that waits stays the first message to be taken, and is still being applied. -/
theorem waits_of_heldBack {i : Instr} {m : MsgHdr} {reply : B16 → MsgBody} {act : Part → State → B16 × State} {st : B16}
    (ha : Accepted m s) (he : exec i s = next (settleMsg m i s (receive m (some reply) act s)))
    (h : act s.vesin.fpart s = (st, t)) (hh : heldBack s t = true) :
    ∃ u, exec i s = .next u ∧ u.mem = s.mem ∧ u.vesin = { s.vesin with
      inbox := i :: s.vesin.inbox, applying := m :: s.vesin.applying } := by
  rw [he, receive_of_accepted ha h, settleMsg_of_heldBack]
  · exact ⟨_, rfl, stall_mem, rfl⟩
  · rw [heldBack_congr (sendMsg_flash.trans recordSeq_flash), hh]

/-! ### SEND and ADD (R510) -/

theorem landing_of_ok {v : Port} {g : Right} {a : Nat} (ha : a % 65536 = 0) (hw : a < winLo)
    (hc : checkMem s p (portMaster v) g a 65536 = .ok) : landing p v g a s = (true, s) := by
  simp [landing, sheetBytes, ha, Nat.not_le.mpr hw, hc]

theorem landing_of_not_ok {v : Port} {g : Right} {a : Nat} (ha : a % 65536 = 0) (hw : a < winLo)
    (hc : checkMem s p (portMaster v) g a 65536 ≠ .ok) :
    landing p v g a s = (false, noteDenied p (portMaster v) g (checkMem s p (portMaster v) g a 65536) s) := by
  unfold landing
  rw [if_neg (by simp [sheetBytes, ha, Nat.not_le.mpr hw])]
  split
  · rename_i h
    exact absurd h hc
  · rfl

theorem applySend_of_ok {v : Port} {a : Nat} {data : List Byte} (ha : a % 65536 = 0) (hw : a < winLo)
    (hc : checkMem s p (portMaster v) .w a 65536 = .ok) : applySend v a data p s = (stOk, writeMem p a data s) := by
  simp [applySend, landing_of_ok ha hw hc]

theorem applySend_of_not_ok {v : Port} {a : Nat} {data : List Byte} (ha : a % 65536 = 0) (hw : a < winLo)
    (hc : checkMem s p (portMaster v) .w a 65536 ≠ .ok) : applySend v a data p s =
      (stNoAccess, noteDenied p (portMaster v) .w (checkMem s p (portMaster v) .w a 65536) s) := by
  simp [applySend, landing_of_not_ok ha hw hc]

theorem execSend_of_duplicate {m : MsgHdr} {addr : Addr} {sheet : List Byte} {st : B16} (hm : misrouted m s = false)
    (hd : seqNew s m.src.toNat m.seq.toNat = false ∨ stillApplied m s = true)
    (hst : (if stillApplied m s then some stBusy else Map.find? (srcRecord s m.src.toNat).seen m.seq.toNat) = some st) :
    execSend m addr sheet s = next (sendMsg m.src.toNat (.ack m.seq st) .none
      (updVesin (fun x => { x with dup := satAdd x.dup 1 }) s)) := by
  rw [execSend, receive_of_duplicate hm hd hst, settleMsg_of_flash_eq (sendMsg_flash.trans updVesin_flash)]

theorem execSend_of_misrouted {m : MsgHdr} {addr : Addr} {sheet : List Byte} (hm : misrouted m s = true) :
    execSend m addr sheet s = next (noteMisroute s) := by
  rw [execSend, receive_of_misrouted hm, settleMsg_of_flash_eq (t := noteMisroute s) updVesin_flash]

theorem applyAdd_of_ok {v : Port} {a step : Nat} {mask : B64} {torn : Bool} {data : List Byte} (ha : a % 65536 = 0)
    (hw : a < winLo) (hc : checkMem s p (portMaster v) .a a 65536 = .ok) :
    applyAdd v a step mask torn data p s = (stOk, addSheet p a step mask.toNat torn data s) := by
  simp [applyAdd, landing_of_ok ha hw hc]

/-! ### SIGNAL (R457, R458) -/

theorem applySignal_of_remote {v : Port} {i g : Nat} {value : B32} (hi : i < 0x8000)
    (hg : reachStitch s p (portMaster v) .signal i = .ok g) (hr : (s.stitch g).remote = true) :
    applySignal v i value p s =
      (stOk, signalStitch g value.toNat (s.updStc p fun r => { r with remoteIn := satAdd r.remoteIn 1 })) := by
  simp [applySignal, Nat.not_le.mpr hi, hg, hr]

theorem applySignal_of_not_remote {v : Port} {i g : Nat} {value : B32} (hi : i < 0x8000)
    (hg : reachStitch s p (portMaster v) .signal i = .ok g) (hr : (s.stitch g).remote = false) :
    applySignal v i value p s = (stNoAccess, noteRemoteDenied p s) := by
  simp [applySignal, Nat.not_le.mpr hi, hg, hr]

/-! ### Replies and timeouts (R512, R516) -/

theorem onReply_of_awaited {src : BitVec 6} {n : B64} {status : B16} {fits : MsgBody → Bool} {a : OutMsg}
    (h : (s.vesin.awaiting.find? fun a => a.dst = src && a.seq = n && fits a.body) = some a) (hs : status ≠ 0x0010) :
    onReply src n status fits s = endMessage a (if status = 0x0030 then some ftAccess else none) s := by
  unfold onReply
  rw [h]
  exact if_neg hs

theorem execMessageTimeout_of_awaited {d : BitVec 6} {n : B64} {a : OutMsg}
    (h : (s.vesin.awaiting.find? fun a => a.dst = d && a.seq = n) = some a) (hr : isRemoved s d.toNat = false) :
    execMessageTimeout d n s = next (if 4 ≤ a.tries then timeOut a s else dispatchMsg a (updVesin (fun x => { x with
      resent := satAdd x.resent 1, awaiting := x.awaiting.filter fun b => !b.same a }) s)) := by
  have hd : a.dst = d := by
    have := List.find?_some h
    simp only [Bool.and_eq_true, decide_eq_true_eq] at this
    exact this.1
  have hrs : resend a s = dispatchMsg a (updVesin (fun x => { x with
      resent := satAdd x.resent 1, awaiting := x.awaiting.filter fun b => !b.same a }) s) :=
    if_neg (by simp [hd, hr])
  simp [execMessageTimeout, h, hr, hrs]

end Sys2Proof.Machine

namespace Sys2Proof
open Machine

/-- Settles O22: each way to a mark or advance ends in the count where its position is not later (R52); a later one without
events changes its own partition's position alone. -/
theorem lateMarksAreDiscarded : Obligations.LateMarksAreDiscarded := by
  refine ⟨fun p pos s => ⟨fun h => ?_, fun h hr he _ => ?_⟩,
    fun h pos s hm hr hp hl => cadAdvance_of_not_later hm hr hp hl,
    fun b pos s hm hr hp hl => cadMark_of_not_later hm hr hp hl, fun m pos s ha hs hr hl => ?_⟩
  · rw [advance_of_not_later h]
    exact ⟨rfl, rfl⟩
  · obtain ⟨hcad, hmem, hpart⟩ := applyPos_frame_of_no_events (pos := pos) he
    rw [advance_of_later h hr, sendMarks_of_not_leader (by simp [hcad, hr])]
    exact ⟨rfl, by rw [hcad], hmem, hpart⟩
  · exact delivers_of_accepted ha rfl (onMark_of_not_later (.inr hl) hs hr)

/-- Settles O21: each clause by the command's own effect, in the state that the command has begun. -/
theorem cadenceCommandsRun : Obligations.CadenceCommandsRun := by
  refine ⟨fun h pos s hm hr hp hl he hio _ => cadAdvance_of_later hm hr hp hl he hio,
    fun h pos s hm hr hp hl => cadAdvance_of_not_later hm hr hp hl,
    fun h idx entry s hm hi hb hk hp hl => answers_of_act hm rfl ?_, fun h idx s hm hi => answers_of_act hm rfl ?_,
    fun h first count addr s hm hi => answers_of_act hm rfl ?_, fun h time s hm => answers_of_act hm rfl ?_,
    fun h time s hm hw => answers_of_act hm rfl ?_, fun h func part s hm hf hp hio => answers_of_act hm rfl ?_,
    fun s time onIo hon he hw => ?_, fun s hw => ?_⟩
  · exact actEvtWrite_of_later hi hb hk hp (by simpa using hl)
  · exact if_neg (Nat.not_le.mpr hi)
  · simp [Nat.not_lt.mpr hi]
  · rfl
  · exact congrArg (Prod.mk cmdOk) (loadTime_of_unset hw)
  · exact actCadIoCfg_of_free hf hp hio
  · exact execPpsEdge_of_waiting hon he hw
  · exact execPpsLost_of_set hw

/-- Settles O51: each clause by the message's own effect, in a state that accepts it, or by its discarding where it was taken
before or is misrouted. -/
theorem messagesRun : Obligations.MessagesRun := by
  refine ⟨fun m addr sheet s ha => ⟨fun hal hw hc hh => ?_, fun hal hw hc hh => ?_, fun hal hw hc => ?_,
      fun mask step torn hal hw hc hh => ?_⟩,
    fun m stitch value s g ha hi hg => ⟨fun hr => ?_, fun hr => ?_⟩,
    fun m n st s a ha hst => ⟨fun hf => ?_, fun hf => ?_⟩,
    fun m pos s ha hsrc hr => ⟨fun hp hl => ?_, fun hl => ?_⟩,
    fun m step reported verdict reason first s ha => ⟨?_, ?_⟩,
    fun d n s a hf hr => ⟨fun ht => ?_, fun ht => ?_⟩,
    fun m addr sheet st s hm => ⟨fun ha hn hs => ?_, fun ha => ?_⟩,
    fun m addr sheet s hm => ?_⟩
  · exact replies_of_settled ha rfl (applySend_of_ok hal hw hc) hh
  · exact waits_of_heldBack ha rfl (applySend_of_ok hal hw hc) hh
  · exact replies_of_settled ha rfl (applySend_of_not_ok hal hw hc) (heldBack_of_flash_eq noteDenied_flash)
  · exact replies_of_settled ha rfl (applyAdd_of_ok hal hw hc) hh
  · exact replies_of_accepted ha rfl (applySignal_of_remote hi hg hr)
  · exact replies_of_accepted ha rfl (applySignal_of_not_remote hi hg hr)
  · exact delivers_of_accepted ha rfl (onReply_of_awaited hf hst)
  · exact delivers_of_accepted ha rfl (onReply_of_awaited hf hst)
  · exact delivers_of_accepted ha rfl (onMark_of_later hp hl hsrc hr)
  · exact delivers_of_accepted ha rfl (onMark_of_not_later hl hsrc hr)
  · exact delivers_of_accepted ha rfl rfl
  · exact delivers_of_accepted ha rfl rfl
  · exact (execMessageTimeout_of_awaited hf hr).trans (congrArg next (if_neg (Nat.not_le.mpr ht)))
  · exact (execMessageTimeout_of_awaited hf hr).trans (congrArg next (if_pos ht))
  · exact execSend_of_duplicate hm (.inl hn) (by simp [ha, hs])
  · exact execSend_of_duplicate hm (.inr ha) (if_pos ha)
  · exact execSend_of_misrouted hm

end Sys2Proof
end

section
/-!
Reads and writes of device memory change the store alone: the bytes, the flash's books, and each partition's objects and
staged sheets. They read nothing else either, so that they give the same store over any state that has it (`OnStore`).
-/
namespace Sys2Proof.Machine

/-- The state `u` with the store of `s`. -/
def State.graft (s u : State) : State :=
  { u with mem := s.mem, flash := s.flash
           parts := u.parts.mapIdx fun q x => { x with tier := (s.part q).tier, res := (s.part q).res } }

variable {p : Part} {s t u : State}

@[simp] theorem graft_flash : (s.graft u).flash = s.flash := rfl
@[simp] theorem graft_region {i : Nat} : (s.graft u).region i = s.region i := rfl

@[simp] theorem graft_part : (s.graft u).part p = { u.part p with tier := (s.part p).tier, res := (s.part p).res } :=
  Quad.get_mapIdx _ _ _

theorem graft_self : s.graft s = s := rfl

/-- A change that reads and changes the store alone. -/
def OnStore (f : State → State) : Prop := ∀ s u, f (s.graft u) = (f s).graft u

namespace OnStore

variable {f g : State → State}

theorem eq_graft (h : OnStore f) : f s = (f s).graft s := by
  rw [← h, graft_self]

theorem array (h : OnStore f) : (f s).array = s.array := (congrArg State.array (h s s) :)

theorem host (h : OnStore f) : (f s).host = s.host := (congrArg State.host (h s s) :)

theorem stitches (h : OnStore f) : (f s).stitches = s.stitches := (congrArg State.stitches (h s s) :)

theorem bench (h : OnStore f) : ((f s).part p).bench = (s.part p).bench := by
  rw [h.eq_graft, graft_part]

theorem pln (h : OnStore f) : ((f s).part p).pln = (s.part p).pln := by
  rw [h.eq_graft, graft_part]

/-- Where two states have one store, the change gives them one memory. -/
theorem mem_congr (h : OnStore f) (ht : t = s.graft t) : (f t).mem = (f s).mem := by
  rw [ht, h]
  rfl

theorem comp (hf : OnStore f) (hg : OnStore g) : OnStore fun s => f (g s) := fun s u =>
  (congrArg f (hg s u)).trans (hf (g s) u)

theorem foldl {α : Type} {f : State → α → State} (h : ∀ a, OnStore fun s => f s a) (l : List α) :
    OnStore fun s => l.foldl f s := by
  intro s u
  induction l generalizing s with
  | nil => rfl
  | cons a l ih => exact (congrArg (l.foldl f) (h a s u)).trans (ih _)

theorem id : OnStore fun s => s := fun _ _ => rfl

end OnStore

/-- A branch whose condition the store decides. -/
theorem ite_graft {c : Prop} {i j : Decidable c} {a b x y : State} (ha : x = a.graft u) (hb : y = b.graft u) :
    @ite State c i x y = (@ite State c j a b).graft u := by
  cases Subsingleton.elim i j
  split
  · exact ha
  · exact hb

/-! ### Changes of one part of the store -/

theorem putMem_onStore {k : Nat} {b : List Byte} : OnStore (putMem k b) := fun _ _ => rfl

theorem updFlash_onStore {f : Flash → Flash} : OnStore (updFlash f) := fun _ _ => rfl

theorem graft_updTier {f : TierRegs → TierRegs} : (s.graft u).updTier p f = (s.updTier p f).graft u :=
  match p with
  | 0 => rfl
  | 1 => rfl
  | 2 => rfl
  | 3 => rfl

theorem graft_updRes {f : Res → Res} : (s.graft u).updRes p f = (s.updRes p f).graft u :=
  match p with
  | 0 => rfl
  | 1 => rfl
  | 2 => rfl
  | 3 => rfl

/-! ### The flash's books -/

theorem programSheet_onStore {r n : Nat} : OnStore (programSheet r n) := by
  intro s u
  have hc (x : Nat) : (if ((s.graft u).region r).fill = some x then s.graft u else beginUnit r x (s.graft u)) =
      (if (s.region r).fill = some x then s else beginUnit r x s).graft u := ite_graft rfl rfl
  dsimp only [programSheet]
  rw [hc]
  rfl

theorem moveUnit_onStore {r n : Nat} : OnStore (moveUnit r n) := by
  intro s u
  have h (l : List Nat) : OnStore fun s => l.foldl (fun s n => programSheet r n s) s :=
    .foldl (fun _ => programSheet_onStore) l
  have hc : (if ((s.graft u).region r).fill = some n then updRegion r (fun r => { r with fill := none }) (s.graft u)
      else s.graft u) = (if (s.region r).fill = some n then updRegion r (fun r => { r with fill := none }) s
      else s).graft u := ite_graft rfl rfl
  unfold moveUnit
  rw [hc]
  exact h _ _ u

theorem levelRegion_onStore {r : Nat} : OnStore (levelRegion r) := by
  intro s u
  simp only [levelRegion, graft_flash, graft_region]
  split
  · rfl
  · exact ite_graft (moveUnit_onStore s u) rfl

theorem writeManaged_onStore {r n : Nat} : OnStore (writeManaged r n) := by
  intro s u
  simp only [writeManaged, programSheet_onStore s u]
  exact ite_graft rfl (levelRegion_onStore _ u)

theorem dueFold_onStore : OnStore dueFold := by
  intro s u
  simp only [dueFold, graft_flash]
  split
  · rfl
  · rfl
  · exact ite_graft rfl rfl

theorem askFold_onStore {k : Nat} {r : Bool} : OnStore (askFold k r) := fun s u =>
  ite_graft rfl (dueFold_onStore { s with flash := { s.flash with foldQ := s.flash.foldQ ++ [(k, r)] } } u)

/-! ### Reads -/

theorem noteLookup_onStore : OnStore (noteLookup p) := fun _ _ => graft_updTier

theorem countRead_onStore {x : Sheet} : OnStore (countRead x) := by
  intro s u
  unfold countRead
  split
  · rfl
  · exact ite_graft rfl (ite_graft (OnStore.comp askFold_onStore updFlash_onStore s u) rfl)
  · rfl

theorem touchSheet_onStore {n : Nat} : OnStore fun s => touchSheet p s n := by
  intro s u
  simp only [touchSheet, noteLookup_onStore s u, graft_part]
  split
  · rfl
  · split
    · rfl
    · rename_i x _
      have hc := countRead_onStore (x := x) (noteLookup p s) u
      refine ite_graft rfl ?_
      rw [hc, graft_updTier]
      exact ite_graft (ite_graft rfl rfl) rfl

theorem touchRead_onStore {a n : Nat} : OnStore (touchRead p a n) :=
  .foldl (fun _ => touchSheet_onStore) _

/-! ### Writes -/

theorem writeStriped_onStore {r n o : Nat} {b : List Byte} : OnStore (writeStriped r n o b) := fun s u =>
  ite_graft rfl (ite_graft rfl (dueFold_onStore (updFlash (enterOverlay (overlayName r n))
    (putMem (overlayKey r n + o) b (putMem (overlayKey r n) (getMem s (frameKey .striped r n) sheetBytes) s))) u))

theorem writeFrame_onStore {n r o : Nat} {c : Tier} {b : List Byte} {f : Nat} :
    OnStore fun s => writeFrame p n c r o b s f := by
  unfold writeFrame
  extract_lets tag
  have ht : OnStore tag := updFlash_onStore
  split
  · exact .comp writeStriped_onStore ht
  · exact .comp writeManaged_onStore (.comp putMem_onStore ht)
  · exact putMem_onStore

theorem dirtyMoves_onStore {h i : Nat} : OnStore (dirtyMoves p h i) := updFlash_onStore

theorem updSheet_onStore {h i : Nat} {f : Sheet → Sheet} : OnStore (updSheet p h i f) := by
  intro s u
  unfold updSheet updObj
  exact graft_updTier

theorem stageSheet_onStore {h i : Nat} {x : Sheet} : OnStore (stageSheet p h i x) := by
  intro s u
  simp only [stageSheet, graft_part]
  split
  · rfl
  · exact ite_graft (graft_updRes) rfl

theorem writeSheet_onStore {h i n o : Nat} {x : Sheet} {b : List Byte} : OnStore (writeSheet p h i n o x b) := by
  have hf : OnStore fun s => x.alive.foldl (writeFrame p n x.tier x.region o b) s := .foldl (fun _ => writeFrame_onStore) _
  unfold writeSheet
  refine .comp dirtyMoves_onStore (.comp updSheet_onStore ?_)
  split
  · exact .comp putMem_onStore hf
  · exact hf

theorem putStake_onStore {k : Nat} {b : List Byte} : OnStore (putStake k b) := by
  intro s u
  have h (l : List (Part × Nat × Nat)) : OnStore fun s => l.foldl (fun s e => dirtyMoves e.1 e.2.1 e.2.2
      (updSheet e.1 e.2.1 e.2.2 (fun y => { y with unwritten := false }) s)) s :=
    .foldl (fun _ => .comp dirtyMoves_onStore updSheet_onStore) l
  exact h _ (putMem k b s) u

theorem writeRun_onStore {e : Nat × List Byte} : OnStore fun s => writeRun p s e := by
  intro s u
  simp only [writeRun, graft_part]
  refine ite_graft (putStake_onStore s u) ?_
  split
  · rfl
  · split
    · rfl
    · split
      · rfl
      · exact ite_graft rfl (ite_graft rfl
          (OnStore.comp writeSheet_onStore (.comp stageSheet_onStore noteLookup_onStore) s u))

/-- A write of device memory reads and changes the store alone. -/
theorem writeMem_onStore {a : Nat} {b : List Byte} : OnStore (writeMem p a b) :=
  .foldl (fun _ => writeRun_onStore) _

end Sys2Proof.Machine
end

section
/-!
The array's queue and quarters (R90, R94, R103 to R113): how a quarter's banks read after a change, what `feedOn` can do,
and what becomes of the operation at the head of the queue.
-/
namespace Sys2Proof.Machine

variable {p : Part} {q : Qtr} {s : State} {o : ArrayOp} {d : ArrayDesc} {x : QuarterArr} {b : Fin 2}

/-! ### Banks and quarters -/

@[simp] theorem bank_setBank_self {k : Bank} : (x.setBank b k).bank b = k := by
  fin_cases b
  · rfl
  · rfl

theorem bank_setBank_of_ne {c : Fin 2} {k : Bank} (h : c ≠ b) : (x.setBank b k).bank c = x.bank c := by
  fin_cases b <;> fin_cases c
  · exact absurd rfl h
  · rfl
  · rfl
  · exact absurd rfl h

@[simp] theorem updQuarter_quarter {f : QuarterArr → QuarterArr} :
    (updQuarter q f s).array.quarters.get q = f (s.array.quarters.get q) := Quad.get_modify_self _ _ _

/-- The bank that a tile takes is FREE, or HELD for an operation that continues a chain (R104). -/
theorem tileBank_state (h : tileBank d x = some b) : (x.bank b).state = .free ∨ (x.bank b).state = .held := by
  have hok (c : Fin 2) (hc : (if d.cont then decide ((x.bank c).state = .held) && decide ((x.bank c).holder = some d.predTag)
      else decide ((x.bank c).state = .free)) = true) : (x.bank c).state = .free ∨ (x.bank c).state = .held := by
    split at hc
    · exact .inr (of_decide_eq_true (Bool.and_eq_true_iff.mp hc).1)
    · exact .inl (of_decide_eq_true hc)
  refine hok b ?_
  unfold tileBank at h
  split at h
  · grind
  · grind

/-- With BANK = AUTO the one FREE bank is taken. -/
theorem tileBank_auto (hd : d.bank = 0) (hc : d.cont = false) (h0 : x.bank0.state = .free) (h1 : x.bank1.state = .held) :
    tileBank d x = some 0 := by
  simp [tileBank, ArrayDesc.named, QuarterArr.bank, hd, hc, h0, h1]

/-- A quarter with a tile makes the largest number of tiles positive. -/
theorem most_pos {sh : Quad Nat} (h : (d.range sh q).1 < (d.range sh q).2) : 0 < d.most sh := by
  have hm : (d.range sh q).2 - (d.range sh q).1 ≤ d.most sh := by
    simp only [ArrayDesc.most, four, List.map, List.foldl]
    fin_cases q
    · simp
    · simp
    · simp
    · simp
  omega

/-! ### The operations in the queue -/

@[simp] theorem updArrayOp_arrayQ {n : Nat} {f : ArrayOp → ArrayOp} : ((updArrayOp p n f s).part p).bench.arrayQ =
    (s.part p).bench.arrayQ.map fun o => if o.ident = n then f o else o := by
  simp [updArrayOp]

@[simp] theorem updArrayOp_array {n : Nat} {f : ArrayOp → ArrayOp} : (updArrayOp p n f s).array = s.array := rfl

@[simp] theorem updArrayOp_mem {n : Nat} {f : ArrayOp → ArrayOp} : (updArrayOp p n f s).mem = s.mem := rfl

/-- The quarters have taken operation `n` of the partition's queue. -/
def IsTaken (p : Part) (n : Nat) (s : State) : Prop :=
  ∃ x, (s.part p).bench.arrayQ.find? (fun x => x.ident = n) = some x ∧ x.phase ≠ .queued

/-- A change of an operation that keeps its number and puts it back into no queue. -/
def KeepsTaken (f : ArrayOp → ArrayOp) : Prop :=
  ∀ x, (f x).ident = x.ident ∧ (x.phase ≠ .queued → (f x).phase ≠ .queued)

theorem find?_updArrayOp {n m : Nat} {f : ArrayOp → ArrayOp} (hf : ∀ x, (f x).ident = x.ident) :
    ((updArrayOp p m f s).part p).bench.arrayQ.find? (fun x => x.ident = n) =
      ((s.part p).bench.arrayQ.find? fun x => x.ident = n).map fun x => if x.ident = m then f x else x := by
  have hi : ((fun x : ArrayOp => decide (x.ident = n)) ∘ fun x => if x.ident = m then f x else x) =
      fun x => decide (x.ident = n) := by
    funext x
    simp only [Function.comp, apply_ite ArrayOp.ident, hf, ite_self]
  rw [updArrayOp_arrayQ, List.find?_map, hi]

theorem IsTaken.updArrayOp {n m : Nat} {f : ArrayOp → ArrayOp} (h : IsTaken p n s) (hf : KeepsTaken f) :
    IsTaken p n (updArrayOp p m f s) := by
  obtain ⟨x, hx, hp⟩ := h
  refine ⟨if x.ident = m then f x else x, ?_, ?_⟩
  · rw [find?_updArrayOp fun x => (hf x).1, hx]
    rfl
  · split
    · exact (hf x).2 hp
    · exact hp

/-- An operation of the queue is taken. -/
theorem isTaken_updArrayOp {f : ArrayOp → ArrayOp} (h : o ∈ (s.part p).bench.arrayQ) (hi : ∀ x, (f x).ident = x.ident)
    (hf : ∀ x, (f x).phase = .taken) : IsTaken p o.ident (updArrayOp p o.ident f s) := by
  have hs : ((s.part p).bench.arrayQ.find? fun x => x.ident = o.ident).isSome :=
    List.find?_isSome.mpr ⟨o, h, by simp⟩
  obtain ⟨x, hx⟩ := Option.isSome_iff_exists.mp hs
  have hn : x.ident = o.ident := by simpa using List.find?_some hx
  refine ⟨f x, ?_, by simp [hf]⟩
  rw [find?_updArrayOp hi, hx]
  simp [hn]

/-! ### The next tiles -/

/-- A quarter in a round of an operation: it starts its tile, if it has one, in the bank there is for it. -/
def ArrayOp.begin (o : ArrayOp) (q : Qtr) (x : QuarterArr) : QuarterArr :=
  match o.tile q o.round, tileBank o.desc x with
  | some t, some b => x.start o t b
  | _, _ => x

/-- A round of an operation in every quarter. -/
def beginRound (p : Part) (o : ArrayOp) (s : State) : State :=
  updArrayOp p o.ident (fun o => { o with round := o.round + 1 })
    { s with array := { s.array with quarters := s.array.quarters.mapIdx o.begin } }

/-- Every quarter that has a tile in the round has a bank for it. -/
def roundReady (o : ArrayOp) (s : State) : Bool :=
  four.all fun q => (o.tile q o.round).isNone || (tileBank o.desc (s.array.quarters.get q)).isSome

theorem startRound_eq : startRound p o s = if roundReady o s then beginRound p o s else s := rfl

theorem begin_cases : o.begin q x = x ∨ ∃ t b, tileBank o.desc x = some b ∧ o.begin q x = x.start o t b := by
  unfold ArrayOp.begin
  split
  · exact .inr ⟨_, _, ‹_›, rfl⟩
  · exact .inl rfl

/-- `feedOn` changes nothing, or marks an operation and then may start a round. -/
theorem feedOn_cases : feedOn p s = s ∨ ∃ n f, KeepsTaken f ∧ (feedOn p s = updArrayOp p n f s ∨
    ∃ o, feedOn p s = startRound p o (updArrayOp p n f s)) := by
  unfold feedOn
  split
  · exact .inl rfl
  · rename_i o _
    split
    · exact .inl rfl
    · split
      · refine .inr ⟨o.ident, fun o => { o with phase := .fed, step := 0 }, fun x => ⟨rfl, fun _ => nofun⟩, ?_⟩
        dsimp only
        split
        · exact .inl rfl
        · exact .inr ⟨_, rfl⟩
      · exact .inr ⟨o.ident, fun o => { o with step := 0 }, fun x => ⟨rfl, id⟩, .inr ⟨_, rfl⟩⟩

theorem feedOn_of_none (h : feedOp s p = none) : feedOn p s = s := by
  simp [feedOn, h]

/-- With no tile being fed, the operation that feeds goes on to its next round. -/
theorem feedOn_of_some (h : feedOp s p = some o) (ha : anyFeeds s = false) (hr : o.round < o.desc.most o.shares) :
    feedOn p s = startRound p o (updArrayOp p o.ident (fun o => { o with step := 0 }) s) := by
  simp [feedOn, h, ha, Nat.not_le.mpr hr]

/-- What holds of a state holds after `feedOn`, if marking an operation and starting a round keep it. -/
theorem feedOn_induction {P : State → Prop} (h : P s) (hu : ∀ s n f, KeepsTaken f → P s → P (updArrayOp p n f s))
    (hb : ∀ s o, P s → P (beginRound p o s)) : P (feedOn p s) := by
  obtain e | ⟨n, f, hf, e | ⟨o, e⟩⟩ := feedOn_cases (p := p) (s := s)
  · rwa [e]
  · rw [e]
    exact hu s n f hf h
  · rw [e, startRound_eq]
    split
    · exact hb _ o (hu s n f hf h)
    · exact hu s n f hf h

@[simp] theorem feedOn_mem : (feedOn p s).mem = s.mem :=
  feedOn_induction (P := fun t => t.mem = s.mem) rfl (fun _ _ _ _ h => h) fun _ _ h => h

@[simp] theorem feedOn_shares : (feedOn p s).array.shares = s.array.shares :=
  feedOn_induction (P := fun t => t.array.shares = s.array.shares) rfl (fun _ _ _ _ h => h) fun _ _ h => h

theorem IsTaken.feedOn {n : Nat} (h : IsTaken p n s) : IsTaken p n (feedOn p s) :=
  feedOn_induction h (fun _ _ _ hf h => h.updArrayOp hf) fun s o h =>
    IsTaken.updArrayOp (s := { s with array := { s.array with quarters := s.array.quarters.mapIdx o.begin } }) h
      fun _ => ⟨rfl, id⟩

/-! ### The head of the queue -/

/-- The quarters take an operation; a chain it begins again under a broken chain's tag is another chain (R142). -/
def taking (p : Part) (o : ArrayOp) (s : State) : State :=
  updArrayOp p o.ident (fun o => { o with phase := .taken }) (if o.desc.hold then s.updBench p fun y => { y with
    lostChains := y.lostChains.filter fun e => e ≠ (o.desc.bank.toNat, o.desc.opTag) } else s)

/-- The operation at the head, not lost and continuing no chain, as its rules decide. -/
theorem takeHead_eq (hq : (s.part (arrayPart s)).bench.arrayQ.find? (fun o => o.phase = .queued) = some o)
    (ha : holdsArray s (arrayPart s) = true) (hm : mayTake s (arrayPart s) = true) (hl : linksUp s = true)
    (hn : o.lost = false) (hc : o.desc.cont = false) : takeHead s = match headRule s o with
      | .fault c => leaveQueue (arrayPart s) o (some (c, 0)) s
      | .waits => s
      | .issues => feedOn (arrayPart s) (taking (arrayPart s) o s) := by
  simp only [takeHead, hq, ha, hm, hl, hn, hc, Bool.not_true, Bool.or_self, Bool.false_and, Bool.false_eq_true, if_false]
  rfl

@[simp] theorem taking_mem : (taking p o s).mem = s.mem := by
  unfold taking
  split
  · rfl
  · rfl

@[simp] theorem taking_array : (taking p o s).array = s.array := by
  unfold taking
  split
  · rfl
  · rfl

theorem taking_arrayQ : ((taking p o s).part p).bench.arrayQ =
    (s.part p).bench.arrayQ.map fun x => if x.ident = o.ident then { x with phase := .taken } else x := by
  unfold taking
  split
  · simp
  · simp

theorem isTaken_taking (h : o ∈ (s.part p).bench.arrayQ) : IsTaken p o.ident (taking p o s) := by
  refine isTaken_updArrayOp ?_ (fun _ => rfl) fun _ => rfl
  split
  · simpa using h
  · exact h

/-- An operation alone in the queue, BANK = AUTO, taken while nothing is fed: each quarter with a tile and one FREE bank
fills it (R94, R103, R108). -/
theorem feedOn_taking (hq : (s.part p).bench.arrayQ = [o]) (ha : anyFeeds s = false) (hb : o.desc.bank = 0)
    (hc : o.desc.cont = false) (hr : o.round = 0)
    (hf : ∀ q, (o.desc.range o.shares q).1 < (o.desc.range o.shares q).2 →
      (s.array.quarters.get q).bank0.state = .free ∧ (s.array.quarters.get q).bank1.state = .held)
    (h : (o.desc.range o.shares q).1 < (o.desc.range o.shares q).2) :
    (feedOn p (taking p o s)).array.quarters.get q =
      (s.array.quarters.get q).start { o with phase := .taken } (o.desc.range o.shares q).1 0 := by
  have hop : feedOp (taking p o s) p = some { o with phase := .taken } := by
    simp [feedOp, taking_arrayQ, hq]
  have hbank (i : Qtr) (hi : (o.desc.range o.shares i).1 < (o.desc.range o.shares i).2) :
      tileBank o.desc (s.array.quarters.get i) = some 0 := tileBank_auto hb hc (hf i hi).1 (hf i hi).2
  have hready : roundReady { o with phase := .taken }
      (updArrayOp p o.ident (fun o => { o with step := 0 }) (taking p o s)) = true := by
    refine List.all_eq_true.mpr fun i _ => ?_
    by_cases hi : (o.desc.range o.shares i).1 < (o.desc.range o.shares i).2
    · simp [hbank i hi]
    · simp [ArrayOp.tile, hr, hi]
  have hround : ({ o with phase := .taken } : ArrayOp).round < o.desc.most o.shares := by
    simpa [hr] using most_pos h
  have hfeeds : anyFeeds (taking p o s) = false := by simpa [anyFeeds] using ha
  rw [feedOn_of_some hop hfeeds hround, startRound_eq, if_pos hready]
  simp [beginRound, ArrayOp.begin, ArrayOp.tile, hr, h, hbank q h]

end Sys2Proof.Machine

namespace Sys2Proof
open Machine

/-- Settles O28: `takeHead` by the head's rule; of an operation that issues, `feedOn` starts the first round. -/
theorem arrayQueueHeadDecides : Obligations.ArrayQueueHeadDecides := by
  intro s o p hq ha hm hl hn hc hr
  have he := takeHead_eq hq ha hm hl hn hc
  refine ⟨fun h => ?_, fun c h => ?_, fun h => ?_⟩
  · rw [h] at he
    exact congrArg next he
  · rw [h] at he
    exact congrArg next he
  · rw [h] at he
    obtain ⟨x, hx, hp⟩ := (isTaken_taking (List.mem_of_find?_eq_some hq)).feedOn
    refine ⟨feedOn p (taking p o s), x, congrArg next he, hx, hp, by simp, fun hq1 hf hb hfree q hrange => ?_⟩
    rw [feedOn_taking hq1 hf hb hc hr hfree hrange]
    exact ⟨rfl, rfl⟩

end Sys2Proof
end

section
/-!
Tiles drain (R112 to R122), and an operation whose tiles have drained completes (R128 to R130, R205).

The rim's writes change the store alone, and so does the writing of a report; a drain or a completion is followed through the
array's quarters and the partition's bench, which they leave as they are.
-/
namespace Sys2Proof.Machine

variable {p : Part} {q : Qtr} {s t : State} {o : ArrayOp}

/-! ### What the rim leaves of the array -/

theorem noteDenied_array {m : Nat} {g : Right} {r : Acc} : (noteDenied p m g r s).array = s.array := by
  unfold noteDenied
  split
  · rfl
  · rfl

theorem writeOut_array {d : ArrayDesc} {n k line : Nat} {gs : List GroupOut} :
    (writeOut d q n k line gs s).array = s.array := by
  unfold writeOut
  dsimp only
  split
  · exact putStake_onStore.array.trans putStake_onStore.array
  · exact putStake_onStore.array

theorem rimRow_array {k tr tc : Nat} {x : RimOut × State} {r : List A96 × Nat} :
    (rimRow p o q k tr tc x r).2.array = x.2.array :=
  List.foldlRecOn (motive := fun (y : RimOut × State) => y.2.array = x.2.array) _ _ rfl
    fun _ h _ _ => writeOut_array.trans h

theorem rimFx_array {tr tc : Nat} {cells : List (List A96)} : (rimFx p o q tr tc cells s).2.array = s.array := by
  unfold rimFx
  split
  · rfl
  · dsimp only
    split
    · exact writeMem_onStore.array
    · rfl

theorem writeStats_array {n : Nat} {cells : List (List A96)} : (writeStats p o q n cells s).2.array = s.array := by
  unfold writeStats
  dsimp only
  split
  · exact writeMem_onStore.array
  · exact noteDenied_array

theorem rimTile_array {n k : Nat} {cells : List (List A96)} : (rimTile p o q n k cells s).2.2.array = s.array := by
  have hrows (tr tc : Nat) : (cells.zipIdx.foldl (rimRow p o q k tr tc) ({}, s)).2.array = s.array :=
    List.foldlRecOn (motive := fun (y : RimOut × State) => y.2.array = s.array) _ _ rfl
      fun _ h _ _ => rimRow_array.trans h
  unfold rimTile
  dsimp only
  split
  · split
    · exact writeStats_array.trans rimFx_array
    · exact writeStats_array.trans (hrows _ _)
  · split
    · exact rimFx_array
    · exact hrows _ _

theorem smearOp_array {n : Nat} : (smearOp p n s).array = s.array :=
  List.foldlRecOn (motive := fun (y : State) => y.array = s.array) _ _ rfl
    fun y h _ _ => (writeMem_onStore.array (s := y.tick)).trans h

theorem noteRim_array {n : Nat} {r : RimOut} : (noteRim p n r s).array = s.array := rfl

theorem blurOp_of_alone {n : Nat} (h : Alone s p (some n)) : blurOp p n s = s := blurFor_alone h

theorem smearOp_of_alone {n : Nat} (h : Alone s p (some n)) : smearOp p n s = s := smearFor_alone h

/-! ### A tile drains -/

/-- Bank `b` of a quarter drains, and no tile is being fed in it. -/
def Drains (b : Fin 2) (x : QuarterArr) : Prop := (x.bank b).state = .draining ∧ ∀ k, x.cur ≠ some (k, b)

/-- The rim takes the tile from its bank, which drains. -/
def QuarterArr.toDrain (b : Fin 2) (x : QuarterArr) : QuarterArr :=
  { x.setBank b { x.bank b with state := .draining, cells := [] } with cur := none }

theorem drains_toDrain {b : Fin 2} {x : QuarterArr} : Drains b (x.toDrain b) := by
  have h : (x.toDrain b).bank b = { x.bank b with state := .draining, cells := [] } := bank_setBank_self
  exact ⟨by rw [h], fun _ => nofun⟩

/-- A quarter starts its next tile in a bank that does not drain. -/
theorem Drains.begin {b : Fin 2} {x : QuarterArr} (h : Drains b x) : Drains b (o.begin q x) := by
  obtain e | ⟨k, c, hc, e⟩ := begin_cases (o := o) (q := q) (x := x)
  · rwa [e]
  · have hcb : b ≠ c := by
      rintro rfl
      have := tileBank_state hc
      simp [h.1] at this
    have hb : (x.start o k c).bank b = x.bank b := bank_setBank_of_ne hcb
    rw [e]
    refine ⟨by rw [hb, h.1], fun j hj => hcb ?_⟩
    exact (congrArg Prod.snd (Option.some.inj hj)).symm

theorem Drains.feedOn {b : Fin 2} (h : Drains b (s.array.quarters.get q)) :
    Drains b ((feedOn p s).array.quarters.get q) :=
  feedOn_induction (P := fun t => Drains b (t.array.quarters.get q)) h (fun _ _ _ _ h => h) fun t o h => by
    have e : (beginRound p o t).array.quarters.get q = o.begin q (t.array.quarters.get q) := Quad.get_mapIdx _ _ _
    rw [e]
    exact h.begin

theorem drainTile_array {k : Nat} {b : Fin 2} {cells : List (List A96)} (ha : Alone s p (some o.ident))
    (hc : tileCells s p o q k ((s.array.quarters.get q).bank b) (o.desc.valid k).1 (o.desc.valid k).2 o.step o.desc.kPad =
      .ok cells) : (drainTile p o q k b s).array = (updQuarter q (.toDrain b) s).array := by
  have hw (r : Nat) : (updQuarter q (.toDrain b) (noteRim p o.ident (rimTile p o q k r cells s).1
      (smearOp p o.ident (rimTile p o q k r cells s).2.2))).array = (updQuarter q (.toDrain b) s).array := by
    simp only [updQuarter, noteRim_array, smearOp_array, rimTile_array]
  simp only [drainTile, blurOp_of_alone ha, hc]
  split
  · exact hw _
  · exact hw _

theorem tileStep_of_none (h : feedOp s (arrayPart s) = none) : tileStep q s = updQuarter q .drained s := by
  have hu : feedOp (updQuarter q .drained s) (arrayPart s) = none := h
  simp only [tileStep, hu]

theorem tileStep_of_some {k : Nat} {b : Fin 2} (h : feedOp (updQuarter q .drained s) (arrayPart s) = some o)
    (hc : ((updQuarter q .drained s).array.quarters.get q).cur = some (k, b)) (hh : o.desc.hold = false) :
    tileStep q s = feedOn (arrayPart s) (drainTile (arrayPart s) o q k b (updQuarter q .drained s)) := by
  simp only [tileStep, h, hc, hh, Bool.false_eq_true, if_false]

theorem settle_of_not_heldBack (h : heldBack s t = false) : settle p s t = t :=
  if_neg (by simp [h])

/-! ### An operation completes -/

theorem OnStore.rivals {f : State → State} (h : OnStore f) {n : Option Nat} :
    Machine.rivals (f s) p n = Machine.rivals s p n := by
  rw [h.eq_graft]
  match p with
  | 0 => rfl
  | 1 => rfl
  | 2 => rfl
  | 3 => rfl

/-- The counts of a report go to the partition's registers (R119, R129). -/
def countReport (p : Part) (o : ArrayOp) (stall : Nat) (s : State) : State :=
  s.updBench p fun y => { y with
    nfPos := if y.nfPos.getLsbD 63 then y.nfPos else o.nfPos
    occCyc := satAdd y.occCyc (reportNumbers o stall).1
    lostCyc := satAdd y.lostCyc (((reportNumbers o stall).2.1 + (reportNumbers o stall).2.2.1 +
      (reportNumbers o stall).2.2.2.1 + (reportNumbers o stall).2.2.2.2) / 1048576) }

theorem benchAccess_updBench {f : Bench → Bench} {g : Right} {a n : Nat} :
    benchAccess (s.updBench p f) p g a n = benchAccess s p g a n :=
  match p with
  | 0 => rfl
  | 1 => rfl
  | 2 => rfl
  | 3 => rfl

theorem countReport_bench {stall : Nat} (h : o.lost = false) :
    ((countReport p o stall s).part p).bench.arrayQ = (s.part p).bench.arrayQ ∧
      ((countReport p o stall s).part p).bench.flight = (s.part p).bench.flight ∧
      ((countReport p o stall s).part p).bench.latches = (s.part p).bench.latches ∧
      ((countReport p o stall s).part p).bench.occCyc = satAdd (s.part p).bench.occCyc (o.desc.occ o.shares + stall) := by
  simp [countReport, reportNumbers, h]

theorem countReport_alone {stall : Nat} {n : Option Nat} (h : Alone s p n) : Alone (countReport p o stall s) p n := by
  match p, h with
  | 0, h => exact h
  | 1, h => exact h
  | 2, h => exact h
  | 3, h => exact h

/-- The counts leave the store as it is. -/
theorem countReport_graft {stall : Nat} : countReport p o stall s = s.graft (countReport p o stall s) :=
  match p with
  | 0 => rfl
  | 1 => rfl
  | 2 => rfl
  | 3 => rfl

/-- An operation alone in flight, neither lost nor with a fault, writes its report and leaves the queue (R130, R205). -/
theorem reportOp_of_ok {stall : Nat} (hl : o.lost = false) (hf : o.fault = none)
    (ha : (benchAccess s p .w o.desc.report 64).1 = none) (h : Alone s p (some o.ident)) : reportOp p o stall s =
      leaveQueue p o none (writeMem p o.desc.report (reportBytes o stall 0) (countReport p o stall s)) := by
  have hnone : (benchAccess (countReport p o stall s) p .w o.desc.report 64).1 = none := by
    rw [countReport, benchAccess_updBench, ha]
  have halone : Alone (writeMem p o.desc.report (reportBytes o stall 0) (countReport p o stall s)) p (some o.ident) :=
    writeMem_onStore.rivals.trans (countReport_alone h)
  obtain ⟨acc, hacc⟩ : ∃ acc, benchAccess (countReport p o stall s) p .w o.desc.report 64 = (none, acc) :=
    ⟨_, Prod.ext hnone rfl⟩
  simp only [reportOp, hl, hf, Option.isSome_none, Bool.or_self, Bool.false_and, Bool.false_eq_true, if_false]
  rw [← countReport, hacc]
  exact congrArg (leaveQueue p o none) (smearOp_of_alone halone)

/-! ### Leaving the queue -/

theorem completeOp_none_bench {n : Nat} :
    ((completeOp p n none s).part p).bench.arrayQ = (s.part p).bench.arrayQ ∧
      ((completeOp p n none s).part p).bench.occCyc = (s.part p).bench.occCyc ∧
      ((completeOp p n none s).part p).bench.flight = (s.part p).bench.flight.filter (fun f => f.ident ≠ n) := by
  unfold completeOp
  split
  · rename_i h
    refine ⟨rfl, rfl, (List.filter_eq_self.mpr fun f hf => ?_).symm⟩
    simpa using List.find?_eq_none.mp h f hf
  · rename_i f h
    have hn : f.ident = n := by simpa using List.find?_some h
    simp [Bench.land, State.updStream, hn]

theorem completeOp_none_mem {n : Nat} : (completeOp p n none s).mem = s.mem := by
  unfold completeOp
  split
  · rfl
  · rfl

theorem freeLatches_of_nil {which : Latch → Bool} (h : (s.part p).bench.latches = []) : freeLatches p which s = s := by
  have hs : (s.updBench p fun y => { y with latches := y.latches.filter fun l => !which l }) = s :=
    State.upd_self s p _ (by
      dsimp only
      rw [List.filter_eq_self.mpr (by simp [h])])
  simpa [freeLatches, h] using hs

/-- Without a latch entry to free, an operation leaves the queue and completes. -/
theorem leaveQueue_none_eq (h : (s.part p).bench.latches = []) : leaveQueue p o none s =
    completeOp p o.ident none (s.updBench p fun y => { y with arrayQ := y.arrayQ.filter fun x => x.ident ≠ o.ident }) := by
  simp only [leaveQueue]
  rw [freeLatches_of_nil (by simpa using h)]
  rfl

theorem leaveQueue_none_mem (h : (s.part p).bench.latches = []) : (leaveQueue p o none s).mem = s.mem := by
  rw [leaveQueue_none_eq h, completeOp_none_mem, State.updBench_mem]

theorem leaveQueue_none_bench (h : (s.part p).bench.latches = []) :
    ((leaveQueue p o none s).part p).bench.arrayQ = (s.part p).bench.arrayQ.filter (fun x => x.ident ≠ o.ident) ∧
      ((leaveQueue p o none s).part p).bench.occCyc = (s.part p).bench.occCyc ∧
      ((leaveQueue p o none s).part p).bench.flight = (s.part p).bench.flight.filter (fun f => f.ident ≠ o.ident) := by
  obtain ⟨hq, ho, hf⟩ := completeOp_none_bench (p := p) (n := o.ident)
    (s := s.updBench p fun y => { y with arrayQ := y.arrayQ.filter fun x => x.ident ≠ o.ident })
  rw [leaveQueue_none_eq h, hq, ho, hf, State.updBench_part]
  exact ⟨rfl, rfl, rfl⟩

theorem feedOp_of_nil (h : (s.part p).bench.arrayQ = []) : feedOp s p = none := by
  simp [feedOp, h]

/-- ARRAY_COMPLETE of an operation alone in the queue whose tiles are all fed: its drains end, and it reports. -/
theorem endArray_of_fed {stall : Nat} (hq : (s.part (arrayPart s)).bench.arrayQ = [o]) (hp : o.phase = .fed)
    (hc : s.contribs = []) : endArray stall s = feedOn (arrayPart s) (reportOp (arrayPart s) o stall
      { s with array := { s.array with quarters := s.array.quarters.mapIdx fun _ => .drainedOf o.ident } }) := by
  simp [endArray, hq, hp, hc]

end Sys2Proof.Machine

namespace Sys2Proof
open Machine

/-- Settles O29: a drain by what the rim leaves of the quarter and what the next round may start; a completion by the
report's write and the operation's leaving of the queue. -/
theorem arrayEngineRuns : Obligations.ArrayEngineRuns := by
  refine ⟨?_, ?_, ?_⟩
  · intro q s h
    have hw : heldBack s (tileStep q s) = false := heldBack_of_flash_eq (by rw [tileStep_of_none h]; rfl)
    exact congrArg next ((settle_of_not_heldBack hw).trans (tileStep_of_none h))
  · intro q s o k b cells p u ho hk hh ha hc hw
    have harr : (drainTile p o q k b u).array = (updQuarter q (.toDrain b) u).array := drainTile_array ha hc
    have hd : Drains b ((tileStep q s).array.quarters.get q) := by
      rw [tileStep_of_some ho hk hh]
      refine Drains.feedOn ?_
      rw [harr, updQuarter_quarter]
      exact drains_toDrain
    refine ⟨tileStep q s, congrArg next (settle_of_not_heldBack hw), hd.1, hd.2 k, ?_⟩
    rw [tileStep_of_some ho hk hh, feedOn_shares, harr]
    rfl
  · intro s o stall p hq hp hn hl hf hb hacc ha hw
    let s₁ : State := { s with array := { s.array with quarters := s.array.quarters.mapIdx fun _ => .drainedOf o.ident } }
    let s₂ := countReport p o stall.toNat s₁
    let f := writeMem p o.desc.report (reportBytes o stall.toNat 0)
    have hf₂ : OnStore f := writeMem_onStore
    obtain ⟨hq₂, hfl₂, hb₂, ho₂⟩ := countReport_bench (p := p) (s := s₁) (stall := stall.toNat) hl
    have hb₃ : ((f s₂).part p).bench.latches = [] := by rw [hf₂.bench, hb₂]; exact hb
    obtain ⟨hq₃, ho₃, hfl₃⟩ := leaveQueue_none_bench (o := o) hb₃
    have hempty : ((leaveQueue p o none (f s₂)).part p).bench.arrayQ = [] := by
      rw [hq₃, hf₂.bench, hq₂]
      show (s.part p).bench.arrayQ.filter _ = []
      simp [hq]
    have hend : endArray stall.toNat s = leaveQueue p o none (f s₂) := by
      rw [endArray_of_fed hq hp hn, reportOp_of_ok (s := s₁) hl hf hacc ha]
      exact feedOn_of_none (feedOp_of_nil hempty)
    refine ⟨leaveQueue p o none (f s₂), ?_, hempty, ?_, ?_, ?_⟩
    · rw [← hend]
      exact congrArg next (settle_of_not_heldBack hw)
    · rw [hfl₃, hf₂.bench, hfl₂]
      rfl
    · rw [ho₃, hf₂.bench, ho₂]
      rfl
    · rw [leaveQueue_none_mem hb₃]
      exact hf₂.mem_congr countReport_graft

end Sys2Proof
end

section
/-!
The array passes from partition to partition (R131 to R138, R617 to R619).

At an expired quantum with nothing fed a switch saves no cells: what drains ends, the context is recorded, and the next
holder finds FREE banks. The copies of a context move bytes alone: the outbound one writes device memory, the inbound one
reads it and changes the staging region.
-/
namespace Sys2Proof.Machine

variable {p n : Part} {q : Qtr} {s t : State}

/-! ### Who holds the array next -/

theorem nextHolder_ne (h : nextHolder s = some n) : n ≠ s.array.holder := by
  have hne : ∀ (a : Part), ∀ b ∈ [1, 2, 3].map fun i => Fin.ofNat 4 (a.val + i), b ≠ a := by decide
  exact hne _ _ (List.mem_of_find?_eq_some h)

/-! ### The array's own record -/

/-- Another record of the array. -/
def setArray (a : ArrayDev) (s : State) : State := { s with array := a }

variable {a : ArrayDev}

@[simp] theorem setArray_array : (setArray a s).array = a := rfl
@[simp] theorem setArray_part : (setArray a s).part p = s.part p := rfl
@[simp] theorem setArray_setArray {c : ArrayDev} : setArray c (setArray a s) = setArray c s := rfl

theorem updQuarter_eq {f : QuarterArr → QuarterArr} :
    updQuarter q f s = setArray { s.array with quarters := s.array.quarters.modify q f } s := rfl

/-! ### Saving and restoring with every bank FREE (R132, R134) -/

/-- The drains of every quarter end (R113). -/
def allDrained (s : State) : State :=
  setArray { s.array with quarters := s.array.quarters.mapIdx fun _ => .drained } s

theorem foldl_drained : four.foldl (fun s q => updQuarter q .drained s) s = allDrained s := by
  simp only [four, List.foldl, updQuarter_eq, setArray_array, setArray_setArray]
  rfl

/-- Where each bank is FREE or drains, each is FREE once the drains have ended. -/
theorem drained_free {x : QuarterArr} {b : Fin 2} (h : ∀ b, (x.bank b).state = .free ∨ (x.bank b).state = .draining) :
    (x.drained.bank b).state = .free := by
  have hone (y : QuarterArr) (c : Fin 2) (hy : (y.bank c).state = .free ∨ (y.bank c).state = .draining) :
      ((if (y.bank c).state = .draining then y.free c else y).bank c).state = .free := by
    split
    · exact congrArg Bank.state bank_setBank_self
    · exact hy.resolve_right ‹_›
  have hother (y : QuarterArr) (c e : Fin 2) (he : e ≠ c) :
      ((if (y.bank c).state = .draining then y.free c else y).bank e) = y.bank e := by
    split
    · exact bank_setBank_of_ne he
    · rfl
  unfold QuarterArr.drained
  dsimp only
  fin_cases b
  · exact (congrArg Bank.state (hother _ 1 0 (by decide))).trans (hone x 0 (h 0))
  · refine hone _ 1 ?_
    rw [hother x 0 1 (by decide)]
    exact h 1

theorem saveBank_of_free {b : Fin 2} (h : ((s.array.quarters.get q).bank b).state = .free) : saveBank q s b = s := by
  simp [saveBank, h]

/-- With every bank FREE the context is recorded and no cell is saved. -/
theorem saveContext_of_free (h : ∀ q b, ((s.array.quarters.get q).bank b).state = .free) : saveContext p s =
    s.updBench p fun y => { y with context := some { quarters := s.array.quarters.mapIdx fun _ => .noted } } := by
  have hs : four.foldl (fun s q => saveBank q (saveBank q s 0) 1) s = s := by
    simp [four, saveBank_of_free (h _ _)]
  simp only [saveContext, hs]

/-- Every quarter as after a reset. -/
def emptied (s : State) : State := setArray { s.array with quarters := .all {} } s

theorem updQuarter_emptied {f : QuarterArr → QuarterArr} (h : f {} = {}) : updQuarter q f (emptied s) = emptied s := by
  have hq : (Quad.all ({} : QuarterArr)).modify q f = .all {} := by
    have hs := Quad.set_get (Quad.all ({} : QuarterArr)) q
    rw [Quad.get_all] at hs
    rw [Quad.modify, Quad.get_all, h, hs]
  simp only [emptied, updQuarter_eq, setArray_array, setArray_setArray, hq]

theorem restoreBank_emptied {b : Fin 2} : restoreBank {} q (emptied s) b = emptied s := by
  have hb (b : Fin 2) : (((({} : Context).quarters.get q)).bank b) = {} := by
    rw [show ({} : Context).quarters = Quad.all {} from rfl, Quad.get_all]
    fin_cases b
    · rfl
    · rfl
  simp only [restoreBank, hb]
  refine updQuarter_emptied ?_
  fin_cases b
  · rfl
  · rfl

/-- A partition without a saved context finds FREE banks. -/
theorem restoreContext_of_none (h : (s.part p).bench.context = none) :
    restoreContext p s = (emptied s).updBench p fun y => { y with context := none } := by
  have hq (q : Qtr) : updQuarter q (fun x => { x with
      cur := (({} : Context).quarters.get q).cur, lastFreed := (({} : Context).quarters.get q).lastFreed }) (emptied s) =
      emptied s := by
    refine updQuarter_emptied ?_
    rw [show ({} : Context).quarters = Quad.all {} from rfl, Quad.get_all]
  have he : ({ s with array := { s.array with quarters := .all {} } } : State) = emptied s := rfl
  simp only [restoreContext, h, Option.getD_none, he, four, List.foldl, restoreBank_emptied, hq]

theorem endLostRuns_of_nil (h : (s.part p).bench.lostRuns = []) :
    endLostRuns p s = s.updBench p fun y => { y with lostRuns := [] } := by
  simp [endLostRuns, h]

/-! ### The switch (R131, R138, R618) -/

/-- The array passed from its holder to `n`, with `c` the old holder's context, and nothing to restore. -/
def passed (n : Part) (c : Context) (s : State) : State :=
  setArray { s.array with
    quarters := .all {}, holder := n, expired := false, copyOut := some s.array.holder, copyIn := none }
    (((emptied (s.updBench s.array.holder fun y => { y with context := some c })).updBench n fun y =>
      { y with context := none }).updBench n fun y => { y with lostRuns := [] })

theorem passed_mem {c : Context} : (passed n c s).mem = s.mem := rfl

theorem passed_context {c : Context} (h : n ≠ s.array.holder) :
    ((passed n c s).part s.array.holder).bench.context = some c := by
  rw [passed, setArray_part, State.updBench_part_of_ne _ _ h.symm, State.updBench_part_of_ne _ _ h.symm, emptied,
    setArray_part, State.updBench_part]

theorem passed_arrayQ {c : Context} (h : n ≠ s.array.holder) :
    ((passed n c s).part n).bench.arrayQ = (s.part n).bench.arrayQ := by
  rw [passed, setArray_part, State.updBench_part, State.updBench_part, emptied, setArray_part,
    State.updBench_part_of_ne _ _ h]

/-- A switch at an expired quantum, at an operation boundary, with nothing to save and nothing to restore. -/
theorem switchArray_of_idle (he : s.host.tsEn = true) (hn : nextHolder s = some n) (hx : s.array.expired = true)
    (hf : feedOp s s.array.holder = none) (hco : s.array.copyOut = none) (hc : (s.part n).bench.context = none)
    (hl : (s.part n).bench.lostRuns = []) (hfn : feedOp s n = none)
    (hb : ∀ q b, ((s.array.quarters.get q).bank b).state = .free ∨ ((s.array.quarters.get q).bank b).state = .draining) :
    switchArray 0 s =
      passed n { quarters := (allDrained s).array.quarters.mapIdx fun _ => .noted } (allDrained s) := by
  have hne := nextHolder_ne hn
  have hcut : mayCut s 0 = true := by simp [mayCut, hf, hx]
  have hfree (q : Qtr) (b : Fin 2) : (((allDrained s).array.quarters.get q).bank b).state = .free := by
    rw [allDrained, setArray_array, Quad.get_mapIdx]
    exact drained_free (hb q)
  have hsave := saveContext_of_free (p := s.array.holder) hfree
  have hcn : ((saveContext s.array.holder (allDrained s)).part n).bench.context = none := by
    rw [hsave, State.updBench_part_of_ne _ _ hne]
    exact hc
  have hln : ((restoreContext n (saveContext s.array.holder (allDrained s))).part n).bench.lostRuns = [] := by
    rw [restoreContext_of_none hcn, State.updBench_part, emptied, setArray_part, hsave, State.updBench_part_of_ne _ _ hne]
    exact hl
  have hpass : feedOp (passed n { quarters := (allDrained s).array.quarters.mapIdx fun _ => .noted } (allDrained s)) n =
      none := by
    rw [feedOp, passed_arrayQ (s := allDrained s) hne]
    exact hfn
  simp only [switchArray, hn, hc, hco, he, hcut, hf, Option.isNone_none, Bool.true_or, Bool.not_true, Bool.or_self,
    Option.isSome_none, Bool.false_eq_true, if_false, foldl_drained]
  rw [endLostRuns_of_nil hln, restoreContext_of_none hcn, hsave]
  exact feedOn_of_none hpass

/-! ### Saved cells (R133) -/

/-- A saved cell's 128 bits hold each of its fields. -/
theorem ofSaved_saved {c : A96} (ha : c.anchor < 512) (hl : -(2 ^ 95) ≤ c.value) (hh : c.value < 2 ^ 95) :
    c.saved < 2 ^ 108 ∧ A96.ofSaved c.saved = c := by
  obtain ⟨v, a, g, i⟩ := c
  dsimp only at ha hl hh
  have hg := g.isLt
  have hi : bit i ≤ 1 := by cases i <;> decide
  have hv : ((v % 2 ^ 96).toNat : Int) = v % 2 ^ 96 := Int.toNat_of_nonneg (Int.emod_nonneg _ (by decide))
  generalize hw : (v % 2 ^ 96).toNat = w at hv
  have hs : A96.saved ⟨v, a, g, i⟩ = bit i * 2 ^ 107 + g.toNat * 2 ^ 105 + a * 2 ^ 96 + w := by
    simp only [A96.saved, hw, Nat.mod_eq_of_lt ha]
  rw [hs]
  have hvalue : signed 96 (field (bit i * 2 ^ 107 + g.toNat * 2 ^ 105 + a * 2 ^ 96 + w) 95 0) = v := by
    have hfield : field (bit i * 2 ^ 107 + g.toNat * 2 ^ 105 + a * 2 ^ 96 + w) 95 0 = w := by
      simp only [field]
      omega
    rw [hfield, signed, Nat.testBit_eq_decide_div_mod_eq]
    split
    · rename_i h
      have := of_decide_eq_true h
      omega
    · rename_i h
      have : ¬ w / 2 ^ 95 % 2 = 1 := by simpa using h
      omega
  have hanchor : field (bit i * 2 ^ 107 + g.toNat * 2 ^ 105 + a * 2 ^ 96 + w) 104 96 = a := by
    simp only [field]
    omega
  have htag : field (bit i * 2 ^ 107 + g.toNat * 2 ^ 105 + a * 2 ^ 96 + w) 106 105 = g.toNat := by
    simp only [field]
    omega
  have hinexact : (bit i * 2 ^ 107 + g.toNat * 2 ^ 105 + a * 2 ^ 96 + w).testBit 107 = i := by
    have hdiv : (bit i * 2 ^ 107 + g.toNat * 2 ^ 105 + a * 2 ^ 96 + w) / 2 ^ 107 = bit i := by omega
    rw [Nat.testBit_eq_decide_div_mod_eq, hdiv]
    cases i
    · rfl
    · rfl
  refine ⟨by omega, ?_⟩
  rw [A96.ofSaved, hvalue, hanchor, htag, hinexact, BitVec.ofNat_toNat, BitVec.setWidth_eq]

/-! ### Reads keep the objects -/

theorem updTier_objects {r : Part} {f : TierRegs → TierRegs} (hf : ∀ x, (f x).objects = x.objects) :
    ((s.updTier p f).part r).tier.objects = (s.part r).tier.objects := by
  by_cases h : r = p
  · subst h
    rw [State.updTier_part, hf]
  · rw [State.updTier_part_of_ne _ _ h]

theorem dueFold_parts : (dueFold s).parts = s.parts := by
  unfold dueFold
  split
  · rfl
  · rfl
  · split
    · rfl
    · rfl

theorem askFold_parts {k : Nat} {r : Bool} : (askFold k r s).parts = s.parts := by
  unfold askFold
  split
  · rfl
  · exact dueFold_parts

theorem countRead_parts {x : Sheet} : (countRead x s).parts = s.parts := by
  unfold countRead
  dsimp only
  split
  · rfl
  · split
    · rfl
    · split
      · exact askFold_parts
      · rfl
  · rfl

theorem touchSheet_objects {r : Part} {k : Nat} :
    ((touchSheet p s k).part r).tier.objects = (s.part r).tier.objects := by
  have hl : ((noteLookup p s).part r).tier.objects = (s.part r).tier.objects := updTier_objects fun _ => rfl
  have hc (x : Sheet) : ((countRead x (noteLookup p s)).part r).tier.objects = (s.part r).tier.objects := by
    rw [State.part, countRead_parts]
    exact hl
  have hm (x : Sheet) : (((countRead x (noteLookup p s)).updTier p fun t =>
      { t with fetchMiss := satAdd t.fetchMiss 1 }).part r).tier.objects = (s.part r).tier.objects := by
    refine (updTier_objects ?_).trans (hc x)
    exact fun _ => rfl
  unfold touchSheet
  dsimp only
  split
  · exact hl
  · split
    · exact hl
    · split
      · exact hl
      · split
        · split
          · exact hm _
          · exact hm _
        · exact hc _

theorem touchRead_objects {r : Part} {a k : Nat} :
    ((touchRead p a k s).part r).tier.objects = (s.part r).tier.objects :=
  List.foldlRecOn (motive := fun (t : State) => (t.part r).tier.objects = (s.part r).tier.objects) _ _ rfl
    fun _ h _ _ => touchSheet_objects.trans h

/-! ### Copies of a context (R138) -/

/-- What bringing a context in leaves of a state: only the inbound half of the staging region has other bytes. -/
structure BroughtIn (s t : State) : Prop where
  array   : t.array = s.array
  bench   : ∀ q, (t.part q).bench = (s.part q).bench
  objects : ∀ q, (t.part q).tier.objects = (s.part q).tier.objects
  waits   : t.flash.overlayWait = s.flash.overlayWait
  held    : t.flash.heldWrites = s.flash.heldWrites
  cells   : ∀ k,
    (∀ q sl, sl < 64 → k < sliceKey q sl (stagingOff 1 0) ∨ sliceKey q sl (stagingOff 1 0) + halfBytes ≤ k) →
      t.cell k = s.cell k

theorem BroughtIn.refl : BroughtIn s s := ⟨rfl, fun _ => rfl, fun _ => rfl, rfl, rfl, fun _ _ => rfl⟩

theorem BroughtIn.trans {u : State} (h : BroughtIn s t) (k : BroughtIn t u) : BroughtIn s u :=
  ⟨k.array.trans h.array, fun q => (k.bench q).trans (h.bench q), fun q => (k.objects q).trans (h.objects q),
    k.waits.trans h.waits, k.held.trans h.held, fun i hi => (k.cells i hi).trans (h.cells i hi)⟩

theorem broughtIn_slice {sl i m : Nat} {l : List Byte} (hs : sl < 64) (hl : l.length = halfBytes) :
    BroughtIn s (putMem (sliceKey q sl (stagingOff 1 0)) l (touchRead p i m s)) where
  array := putMem_onStore.array.trans touchRead_onStore.array
  bench _ := putMem_onStore.bench.trans touchRead_onStore.bench
  objects _ := touchRead_objects
  waits := (touchRead_unmoved p i m s).waits
  held := (touchRead_unmoved p i m s).held
  cells k hk := by
    rw [cell_putMem_of_outside (by rw [hl]; exact hk q sl hs), State.cell, (touchRead_unmoved p i m s).mem]
    rfl

theorem broughtIn_moveContext : BroughtIn s (moveContext p true s) := by
  unfold moveContext
  refine List.foldlRecOn (motive := fun t => BroughtIn s t) _ _ .refl fun t h q _ => ?_
  refine List.foldlRecOn (motive := fun t => BroughtIn s t) _ _ h fun u h sl hsl => h.trans ?_
  exact broughtIn_slice (List.mem_range.mp hsl) (by simp [readMem])

/-- What taking a context out leaves of a state: the stitches and the partition's bench. -/
structure TakenOut (p : Part) (s t : State) : Prop where
  stitches : t.stitches = s.stitches
  bench    : (t.part p).bench = (s.part p).bench

theorem TakenOut.writeMem {i : Nat} {l : List Byte} (h : TakenOut p s t) : TakenOut p s (writeMem p i l t) :=
  ⟨writeMem_onStore.stitches.trans h.stitches, writeMem_onStore.bench.trans h.bench⟩

theorem takenOut_moveContext : TakenOut p s (moveContext p false s) := by
  unfold moveContext
  refine List.foldlRecOn (motive := TakenOut p s) _ _ ⟨rfl, rfl⟩ fun t h q _ => ?_
  exact List.foldlRecOn (motive := TakenOut p s) _ _ h fun u h sl _ => h.writeMem

/-- CONTEXT_COPY of a saved context that is to come back. -/
theorem copyContext_in (hc : (s.part p).bench.context.isSome = true) (ho : s.array.copyOut ≠ some p)
    (hh : s.array.holder ≠ p) : copyContext p true s =
      setArray { (moveContext p true s).array with copyIn := some p } (moveContext p true s) := by
  simp only [copyContext, hc, ho, hh, ne_eq, not_false_eq_true, decide_true, Bool.and_self, if_true]
  rfl

theorem exec_contextSwitch : exec (.contextSwitch 0) s = next (switchArray 0 s) := rfl

theorem exec_contextCopy_of_not_heldBack {inbound : Bool} (h : heldBack s (copyContext p inbound s) = false) :
    exec (.contextCopy p inbound) s = next (copyContext p inbound s) :=
  congrArg next (settle_of_not_heldBack h)

/-- CONTEXT_COPY of a context that comes back makes nothing wait, and the copy is in. -/
theorem exec_contextCopy_in (he : copyContext p true s = setArray { t.array with copyIn := some p } t) (hb : BroughtIn s t) :
    exec (.contextCopy p true) s = .next (setArray { s.array with copyIn := some p } t) := by
  have hw : heldBack s (copyContext p true s) = false := by
    rw [he]
    simp [heldBack, setArray, hb.waits, hb.held]
  rw [exec_contextCopy_of_not_heldBack hw, he, hb.array]

theorem contextCopy_in (hc : (s.part p).bench.context.isSome = true) (ho : s.array.copyOut ≠ some p)
    (hh : s.array.holder ≠ p) : ∃ t, BroughtIn s t ∧
      exec (.contextCopy p true) s = .next (setArray { s.array with copyIn := some p } t) :=
  ⟨_, broughtIn_moveContext, exec_contextCopy_in (copyContext_in hc ho hh) broughtIn_moveContext⟩

/-- CONTEXT_COPY of a saved context that reaches its area. -/
theorem contextCopy_out (ho : s.array.copyOut = some p) (hw : heldBack s (copyContext p false s) = false) :
    ∃ t, TakenOut p s t ∧ exec (.contextCopy p false) s = .next (setArray { t.array with copyOut := none } t) := by
  refine ⟨moveContext p false s, takenOut_moveContext, ?_⟩
  rw [exec_contextCopy_of_not_heldBack hw, copyContext_eq ho]
  rfl

end Sys2Proof.Machine

namespace Sys2Proof
open Machine

/-- Settles O30: the quantum's end sets one mark; an idle switch passes the array on, and a saved cell holds its fields; the
copies change the store alone, the inbound one no more of memory than its half of the staging region. -/
theorem arrayIsShared : Obligations.ArrayIsShared := by
  refine ⟨?_, ?_, ?_, fun c ha hl hh => ofSaved_saved ha hl hh, ?_, ?_⟩
  · intro s h
    exact congrArg next (if_pos h)
  · intro s h
    exact congrArg next (if_neg (by simp [h]))
  · intro s n p he hn hx hf hco hc hl hfn hb
    have hs := switchArray_of_idle he hn hx hf hco hc hl hfn hb
    refine ⟨_, { quarters := (allDrained s).array.quarters.mapIdx fun _ => .noted },
      exec_contextSwitch.trans (congrArg next hs), rfl, rfl, rfl, rfl,
      passed_context (s := allDrained s) (nextHolder_ne hn), rfl, fun q => ?_, passed_mem⟩
    rw [Quad.get_mapIdx, allDrained, setArray_array, Quad.get_mapIdx]
  · intro p s hc ho hh
    obtain ⟨t, hb, ht⟩ := contextCopy_in hc ho hh
    exact ⟨_, ht, rfl, fun q => ⟨hb.bench q, hb.objects q⟩, hb.cells⟩
  · intro p s ho hw
    obtain ⟨t, hb, ht⟩ := contextCopy_out ho hw
    exact ⟨_, ht, rfl, hb.stitches, congrArg Bench.context hb.bench⟩

end Sys2Proof
end

section
/-!
The instructions of a plate (R242 to R247, R187 to R192, R259).

An instruction that runs is one `plateOp`, so that its statement is what it does to the plate's first `Inst`:
`next_plateOp_of_runs` carries that over, `regOp_of_runs` for the whole register form at once. A load or store of a VRUN
that is alone meets no rival's bytes (R207): it reads what memory holds and leaves what it writes. Of FXADD every lane
keeps `Adds`.
-/
namespace Sys2Proof.Machine

variable {h : PlateHdr} {i : Inst} {rest : List Inst} {p : Part} {s t : State}

/-! ### An instruction that runs (R242 to R245) -/

theorem next_plateOp_of_runs {bad : Bool} {f : Inst → State → PlateOut} {j : Inst} (r : Runs h i rest s)
    (hb : bad = false) (hf : f { i with pc := i.pc + 1 } s = .ok (j, t)) :
    next (plateOp h bad f s) = .next (setInsts h.p h.plate.val (j :: rest) t) := by
  rw [hb, plateOp_runs r hf]

theorem runs_tick (r : Runs h i rest s) : Runs h i rest s.tick := r

/-- The register form: the lanes go to D, and their flags to the partition's (R244). -/
theorem regOp_of_runs {d s1 s2 s3 : BitVec 5} {rnd : BitVec 2} {m : Rnd}
    {f : Rnd → List F32 → List F32 → List F32 → List LaneRes} (r : Runs h i rest s) (hm : arithRnd rnd = some m) :
    regOp h d s1 s2 s3 rnd f s =
      let out := f m (i.vreg s1) (i.vreg s2) (i.vreg s3)
      .next (setInsts h.p h.plate.val ({ i with pc := i.pc + 1 }.setV d (out.map LaneRes.bits) :: rest)
        (laneFlags h.p (orFlags out) s)) :=
  next_plateOp_of_runs r (by rw [hm]; rfl) (by rw [hm]; rfl)

/-- The comparison's bit does not depend on what a NaN raises. -/
theorem map_bits_cmpLane {n : Nat} {l : List (F32 × F32)} : (l.map fun e => cmpLane n e.1 e.2).map LaneRes.bits =
    l.map fun e => if f32Lt e.1 e.2 then f32One else 0 := by
  rw [List.map_map]
  rfl

/-! ### The register form's operations of three sources, of none, and over all lanes (R244) -/

section
variable {d s1 s2 s3 : BitVec 5} {rnd : BitVec 2}

/-- Lane by lane, of three sources. -/
def lanes3 (f : Rnd → F32 → F32 → F32 → LaneRes) : Rnd → List F32 → List F32 → List F32 → List LaneRes :=
  fun m a b c => ((a.zip b).zip c).map fun e => f m e.1.1 e.1.2 e.2

theorem exec_ffma : exec (.ffma h d s1 s2 s3 rnd) s =
    regOp h d s1 s2 s3 rnd (lanes3 fun m a b c => f32Fma a b c m) s := rfl

theorem exec_fsel : exec (.fsel h d s1 s2 s3 rnd) s =
    regOp h d s1 s2 s3 rnd (lanes3 fun _ a b c => quiet (selLane a b c)) s := rfl

theorem exec_laneid : exec (.laneid h d s1 s2 s3 rnd) s =
    regOp h d s1 s2 s3 rnd (fun _ _ _ _ => (List.range 64).map fun l => quiet (f32OfNat l)) s := rfl

theorem exec_rmax : exec (.rmax h d s1 s2 s3 rnd) s =
    regOp h d s1 s2 s3 rnd (fun _ a _ _ => List.replicate 64 (quiet (maxLanes a))) s := rfl

theorem exec_rsum : exec (.rsum h d s1 s2 s3 rnd) s =
    regOp h d s1 s2 s3 rnd (fun m a _ _ => List.replicate 64 (treeSum 6 a m)) s := rfl

end

/-! ### The slice, with no rival (R207, R246, R247) -/

variable {off n : Nat} {v : BitVec 5}

/-- The run of `n` bytes at an offset of the plate's slice, as the stake window names it. -/
def sliceRun (h : PlateHdr) (off n : Nat) : List (Nat × Nat) := [(stakeAddr (plateKey h off), n)]

/-- The run is known to be read by the VRUN. -/
def sliceRead (h : PlateHdr) (i : Inst) (off n : Nat) (s : State) : State :=
  addFoot h.p i.vrun { reads := sliceRun h off n } s

/-- The bytes are in the slice, and their run is known to be written by the VRUN. -/
def sliceWrote (h : PlateHdr) (i : Inst) (off : Nat) (bytes : List Byte) (s : State) : State :=
  putStake (plateKey h off) bytes (addFoot h.p i.vrun { writes := sliceRun h off bytes.length } s)

theorem readPlate_of_alone (ha : Alone s h.p (some i.vrun)) :
    readPlate h i off n s = (getMem s (plateKey h off) n, sliceRead h i off n s) := by
  have hr : rivals (sliceRead h i off n s) h.p (some i.vrun) = [] := rivals_addFoot.trans ha
  have hv := blurFor_alone (reads := sliceRun h off n) hr
  simp only [sliceRead, sliceRun] at hv
  simp only [readPlate, hv]
  rfl

theorem writePlate_of_alone {bytes : List Byte} (ha : Alone s h.p (some i.vrun)) :
    writePlate h i off bytes s = sliceWrote h i off bytes s :=
  smearFor_alone ((OnStore.rivals putStake_onStore).trans (rivals_addFoot.trans ha))

/-! ### Loads and stores (R192, R244, R259) -/

theorem loadInst_of_alone {f : Fmt} (ha : Alone s h.p (some i.vrun)) (hd : off % (8 * f.bits) = 0)
    (hs : sliceOk s h.p off f.laneBytes = true) :
    loadInst h v f off i s =
      let out := loadLanes f (getMem s (plateKey h off) f.laneBytes)
      .ok (i.setV v (out.map LaneRes.bits), laneFlags h.p (orFlags out) (sliceRead h i off f.laneBytes s)) := by
  rw [loadInst, if_neg (by simp [hd, hs]), readPlate_of_alone ha]

theorem storeInst_of_alone {f : Fmt} {m : Rnd} (ha : Alone s h.p (some i.vrun)) (hd : off % (8 * f.bits) = 0)
    (hs : sliceOk s h.p off f.laneBytes = true) :
    storeInst h v f m off i s =
      let out := storeLanes f m (fun l => instDraw s h.p i i.object (off * 8 / f.bits + l)) (i.vreg v)
      .ok (i.stored (plateKey h off) f.laneBytes, laneFlags h.p out.2 (sliceWrote h i off out.1 s)) := by
  rw [storeInst, if_neg (by simp [hd, hs])]
  simp only [writePlate_of_alone ha]

theorem loadOne_of_alone {f : Fmt} (ha : Alone s h.p (some i.vrun)) (hf : f.scaled = false)
    (hd : off % max 1 (f.bits / 8) = 0) (hs : sliceOk s h.p off (max 1 (f.bits / 8)) = true) :
    loadOne h v f off i s =
      let n := max 1 (f.bits / 8)
      let r := laneOf (f.element (codeIn f.bits (getMem s (plateKey h off) n).toArray 0))
      .ok (i.setV v (List.replicate 64 r.bits), laneFlags h.p r.flags (sliceRead h i off n s)) := by
  simp only [loadOne]
  rw [if_neg (by simp [hd, hs]), if_neg (by simp [hf]), readPlate_of_alone ha]

theorem loadBits_of_alone (ha : Alone s h.p (some i.vrun)) (hd : off % 8 = 0) (hs : sliceOk s h.p off 8 = true) :
    loadBits h v off i s = .ok (i.setV v ((List.range 64).map fun l =>
      if (leNat (getMem s (plateKey h off) 8)).testBit l then f32One else 0), sliceRead h i off 8 s) := by
  rw [loadBits, if_neg (by simp [hd, hs]), readPlate_of_alone ha]

theorem storeBits_of_alone (ha : Alone s h.p (some i.vrun)) (hd : off % 8 = 0) (hs : sliceOk s h.p off 8 = true) :
    storeBits h v off i s = .ok (i.stored (plateKey h off) 8,
      sliceWrote h i off (leBytes 8 (bitPlane (i.vreg v))) s) := by
  rw [storeBits, if_neg (by simp [hd, hs]), writePlate_of_alone ha]

/-! ### FXADD (R246, R267 to R272) -/

theorem setBufHdr_stitches {o : Obj} {b : BufHdr} : (setBufHdr p o b s).stitches = s.stitches :=
  writeMem_onStore.stitches

theorem setBufEntry_stitches {b : BufHdr} {e : BufEntry} : (setBufEntry p b n e s).stitches = s.stitches :=
  writeMem_onStore.stitches

theorem addElements_stitches {b : BufHdr} {l : List (Nat × Int)} : (addElements p b n l s).stitches = s.stitches :=
  List.foldlRecOn (motive := fun t : State => t.stitches = s.stitches) _ _ rfl
    fun _ ht _ _ => writeMem_onStore.stitches.trans ht

theorem refuseContribution_stitches {o : Obj} {why : BufHdr → BufHdr} :
    (refuseContribution p o why s).stitches = s.stitches := by
  unfold refuseContribution
  dsimp only
  split
  · rfl
  · exact setBufHdr_stitches

/-- What an add to a buffer leaves as it is: the place in the program, the V registers, and every stitch. -/
structure Adds (x y : Inst × State) : Prop where
  pc       : y.1.pc = x.1.pc
  regs     : y.1.v = x.1.v
  stitches : y.2.stitches = x.2.stitches

theorem Adds.refl (x : Inst × State) : Adds x x := ⟨rfl, rfl, rfl⟩

theorem Adds.trans {x y z : Inst × State} (hxy : Adds x y) (hyz : Adds y z) : Adds x z :=
  ⟨hyz.pc.trans hxy.pc, hyz.regs.trans hxy.regs, hyz.stitches.trans hxy.stitches⟩

/-- A further change, of the state alone, that keeps the stitches. -/
theorem Adds.setState {x y : Inst × State} (hxy : Adds x y) (ht : t.stitches = y.2.stitches) : Adds x (y.1, t) :=
  ⟨hxy.pc, hxy.regs, ht.trans hxy.stitches⟩

variable {hd : Nat} {o : Obj}

theorem meetSheet_adds {b : BufHdr} : Adds (i, s) (meetSheet p hd o b n i s) := by
  unfold meetSheet
  dsimp only
  split
  · exact .refl _
  · split
    · exact ⟨rfl, rfl, refuseContribution_stitches⟩
    · split
      · exact ⟨rfl, rfl, refuseContribution_stitches⟩
      · exact ⟨rfl, rfl, setBufEntry_stitches⟩

theorem fxLane_adds {m : Rnd} {x : Inst × State} {l : Nat × F32} : Adds x (fxLane p hd o m x l) := by
  obtain ⟨i, s⟩ := x
  unfold fxLane
  dsimp -zeta only
  extract_lets b r c fl u
  have hu : Adds (i, s) (i, u) := Adds.setState (.refl (i, s)) rfl
  split
  · refine hu.setState ?_
    split
    · rfl
    · exact setBufHdr_stitches
  · refine hu.trans ?_
    clear_value c
    split
    · refine meetSheet_adds.setState ?_
      cases c with
      | add v lost => exact addElements_stitches.trans setBufEntry_stitches
      | range lost => exact setBufEntry_stitches
      | nonfinite => exact setBufEntry_stitches
    · exact meetSheet_adds

theorem fxAddInst_of_access {m : Rnd} {e : Nat} (hb : bufAt s h.p i.buf.toNat = some (hd, o))
    (hx : fxAccess s h.p .a (bufHdr s h.p o) e = none) : ∃ y, fxAddInst h v m e i s = .ok y ∧ Adds (i, s) y := by
  refine ⟨_, by simp only [fxAddInst, hb, hx]; rfl, ?_⟩
  exact List.foldlRecOn (motive := Adds (i, s)) _ _ (.refl _) fun _ hy _ _ => hy.trans fxLane_adds

/-- FXADD with no write that waits is the lanes' adds, past the instruction. -/
theorem execFxadd_of_runs {pr : BitVec 3} {fmt : BitVec 5} {rnd : BitVec 2} {w : BitVec 24} (r : Runs h i rest s)
    (hr : rnd ≠ 3) (hb : bufAt s h.p i.buf.toNat = some (hd, o))
    (hx : fxAccess s h.p .a (bufHdr s h.p o) (i.at pr w) = none)
    (hw : heldBack s (plateOp h (rnd = 3) (fun i s => fxAddInst h v ((Rnd.ofCode rnd).getD .rne) (i.at pr w) i s) s) =
      false) :
    ∃ y, Adds ({ i with pc := i.pc + 1 }, s) y ∧
      execFxadd h v pr fmt rnd w s = .next (setInsts h.p h.plate.val (y.1 :: rest) y.2) := by
  obtain ⟨y, hy, ha⟩ := fxAddInst_of_access (i := { i with pc := i.pc + 1 }) (v := v)
    (m := (Rnd.ofCode rnd).getD .rne) hb hx
  refine ⟨y, ha, ?_⟩
  rw [execFxadd, settle_of_not_heldBack hw]
  exact next_plateOp_of_runs r (decide_eq_false hr) hy

/-! ### LDX (R183, R246) -/

/-- Lane `l` of LDX from element `e` of a buffer: the element's number rounded once, or a free value beyond the buffer. -/
def fxValue (s : State) (p : Part) (b : BufHdr) (e l : Nat) : LaneRes :=
  match b.elem (e + l) with
  | some (n, k) =>
    laneRound (Exact.ofInt (signed 64 (readNat s p (benchMaster p) (b.data + n * sheetBytes + 8 * k) 8)) b.e) .rne
  | none => ⟨BitVec.ofNat 32 (Config.freeNat (s.freeCtr + l)), {}⟩

theorem fxValue_of_elem {b : BufHdr} {e l k : Nat} (hk : b.elem (e + l) = some (n, k)) : fxValue s p b e l =
    laneRound (Exact.ofInt (signed 64 (readNat s p (8 + p.val) (b.data + n * 65536 + 8 * k) 8)) b.e) .rne := by
  simp only [fxValue, hk]
  rfl

theorem loadFx_of_access {e : Nat} (hb : bufAt s h.p i.buf.toNat = some (hd, o))
    (hx : fxAccess s h.p .r (bufHdr s h.p o) e = none) :
    loadFx h v e i s =
      let out := (List.range 64).map (fxValue s h.p (bufHdr s h.p o) e)
      .ok (i.setV v (out.map LaneRes.bits), laneFlags h.p (orFlags out)
        (fxTouch h.p (bufHdr s h.p o) e { s with freeCtr := s.freeCtr + 64 })) := by
  simp only [loadFx, hb, hx]
  rfl

end Sys2Proof.Machine

namespace Sys2Proof
open Machine

/-- Settles O34: each form by its load or store of a VRUN that is alone, or, of FXADD, by what every lane's add keeps. -/
theorem plateMemoryRuns : Obligations.PlateMemoryRuns := by
  intro h i rest s v pr fmt rnd off r ha hr
  have hb : decide (rnd = 3) = false := decide_eq_false hr
  refine ⟨fun f hf hd hs => ?_, fun f hf hd hs => ?_, fun f hf hc hd hs => ?_, fun hd hs => ⟨?_, ?_⟩,
    fun hd o ho => ⟨fun hx hw => ?_, fun hx => ?_⟩, next_plateOp_of_runs r hb rfl⟩
  · refine next_plateOp_of_runs r (by rw [hb, hf]; rfl) ?_
    rw [hf]
    exact loadInst_of_alone ha hd hs
  · refine next_plateOp_of_runs r (by rw [hb, hf]; rfl) ?_
    rw [hf]
    exact storeInst_of_alone ha hd hs
  · refine next_plateOp_of_runs r (by rw [hb, hf]; rfl) ?_
    rw [hf]
    exact loadOne_of_alone ha hc hd hs
  · exact next_plateOp_of_runs r hb (loadBits_of_alone ha hd hs)
  · exact next_plateOp_of_runs r hb (storeBits_of_alone ha hd hs)
  · obtain ⟨y, hy, he⟩ := execFxadd_of_runs (fmt := fmt) r hr ho hx hw
    exact ⟨y.1, y.2, he, hy.pc, hy.regs, hy.stitches⟩
  · refine ⟨_, next_plateOp_of_runs r hb (loadFx_of_access ho hx), by simp, fun k n e hk he => ?_⟩
    rw [List.getElem?_map, List.getElem?_range hk]
    exact congrArg some (fxValue_of_elem he)

/-- Settles O35: each form is one register operation, FCMPLT's in the state that has drawn its free value. -/
theorem plateLanesRun : Obligations.PlateLanesRun := by
  intro h i rest s d s1 s2 s3 rnd m r hm
  exact ⟨regOp_of_runs r hm, regOp_of_runs r hm, regOp_of_runs r hm, exec_ffma.trans (regOp_of_runs r hm),
    regOp_of_runs r hm, regOp_of_runs r hm, regOp_of_runs r hm, regOp_of_runs r hm, regOp_of_runs r hm,
    regOp_of_runs r hm, exec_fsel.trans (regOp_of_runs r hm), exec_laneid.trans (regOp_of_runs r hm),
    exec_rmax.trans (regOp_of_runs r hm), exec_rsum.trans (regOp_of_runs r hm), _,
    regOp_of_runs (runs_tick r) hm, map_bits_cmpLane⟩

/-- Settles O36: each function is one register operation over the lanes of S1. -/
theorem plateFunctionsRun : Obligations.PlateFunctionsRun := by
  intro h i rest s d s1 s2 s3 rnd m r hm
  exact ⟨regOp_of_runs r hm, regOp_of_runs r hm, regOp_of_runs r hm, regOp_of_runs r hm, regOp_of_runs r hm,
    regOp_of_runs r hm, regOp_of_runs r hm, regOp_of_runs r hm, regOp_of_runs r hm⟩

end Sys2Proof
end

section
/-!
Words (R201, R202, R208, R214, R227, R229, R233, R235 to R238, R243 to R245).

An opcode fixes the form of its words. For each form an `Arm` says how the decoder reads the words of an opcode: for a plate
the register, memory and immediate forms, for the bench the header and whatever operand. A form's `reads` lemma then needs no
more than the fields of its word, for all opcodes of the form.
-/
namespace Sys2Proof.Machine

/-! ### Bench words (R201, R202, R208, R214, R227, R229, R233, R235 to R238) -/

section
variable {b : BenchHdr} {op w : Nat}

/-- The first 34 bits of `w` are the opcode and the header. -/
structure Headed (op : Nat) (b : BenchHdr) (w : Nat) : Prop where
  opcode : op < 256
  least  : benchHead op b ≤ w
  most   : w < benchHead op b + 2 ^ 94

/-- The header that a bench word spells, with its reserved bits `rsvd`. -/
def wordHdr (p : Part) (st : Strm) (w rsvd : Nat) : BenchHdr :=
  { p, st, prio := BitVec.ofNat 2 (field w 119 118), outTag := BitVec.ofNat 6 (field w 117 112)
    in0 := BitVec.ofNat 6 (field w 111 106), in1 := BitVec.ofNat 6 (field w 105 100)
    in2 := BitVec.ofNat 6 (field w 99 94), rsvd := decide (rsvd ≠ 0) }

theorem Headed.lt (h : Headed op b w) : w < 2 ^ 128 := by
  obtain ⟨ho, _, hm⟩ := h
  simp only [benchHead] at hm
  omega

theorem Headed.field_opcode (h : Headed op b w) : field w 127 120 = op := by
  obtain ⟨ho, hl, hm⟩ := h
  simp only [benchHead] at hl hm
  simp only [field]
  omega

theorem Headed.wordHdr_eq (h : Headed op b w) (hb : b.rsvd = false) : wordHdr b.p b.st w 0 = b := by
  obtain ⟨ho, hl, hm⟩ := h
  simp only [benchHead] at hl hm
  have hprio : field w 119 118 = b.prio.toNat := by simp only [field]; omega
  have htag : field w 117 112 = b.outTag.toNat := by simp only [field]; omega
  have h0 : field w 111 106 = b.in0.toNat := by simp only [field]; omega
  have h1 : field w 105 100 = b.in1.toNat := by simp only [field]; omega
  have h2 : field w 99 94 = b.in2.toNat := by simp only [field]; omega
  simp [wordHdr, hprio, htag, h0, h1, h2, ← hb]

/-- A bench operation whose reserved bits are zero is read back from its word, which has 128 bits. -/
def BenchReads (i : Instr) : Prop :=
  ∀ b w, benchWord i = some w → benchSeat i = some b → b.rsvd = false → benchOf b.p b.st w = some i ∧ w < 2 ^ 128

/-- How `benchOf` reads the words of an opcode: the reserved bits, and the operation from its header and the word. -/
def BenchArm (op : Nat) (rsvd : Nat → Nat) (f : BenchHdr → Nat → Instr) : Prop :=
  ∀ p st w, field w 127 120 = op → benchOf p st w = some (f (wordHdr p st w (rsvd w)) w)

theorem BenchArm.reads {i : Instr} {rsvd : Nat → Nat} {f : BenchHdr → Nat → Instr} (ha : BenchArm op rsvd f)
    (hh : Headed op b w) (hw : benchWord i = some w) (hs : benchSeat i = some b) (hr : rsvd w = 0) (hf : f b w = i) :
    BenchReads i := by
  intro b' w' hw' hs' hb
  obtain rfl : w = w' := Option.some.inj (hw.symm.trans hw')
  obtain rfl : b = b' := Option.some.inj (hs.symm.trans hs')
  refine ⟨?_, hh.lt⟩
  rw [ha _ _ _ hh.field_opcode, hr, hh.wordHdr_eq hb, hf]

theorem headed_add {x : Nat} (ho : op < 256) (hx : x < 2 ^ 94) : Headed op b (benchHead op b + x) :=
  ⟨ho, by omega, by omega⟩

/-- An operation of the head alone. -/
theorem reads_bare {f : BenchHdr → Instr} (ha : BenchArm op (fun _ => 0) fun b _ => f b) (ho : op < 256)
    (hw : benchWord (f b) = some (benchHead op b)) (hs : benchSeat (f b) = some b) : BenchReads (f b) :=
  ha.reads ⟨ho, le_rfl, by omega⟩ hw hs rfl rfl

/-- An operation with an address. -/
theorem reads_addr {f : BenchHdr → Addr → Instr} {a : Addr}
    (ha : BenchArm op (field · 93 56) fun b w => f b (BitVec.ofNat 56 (field w 55 0))) (ho : op < 256)
    (hw : benchWord (f b a) = some (benchHead op b + a.toNat)) (hs : benchSeat (f b a) = some b) :
    BenchReads (f b a) := by
  refine ha.reads (headed_add ho (by omega)) hw hs ?_ ?_
  · simp only [field, benchHead]; omega
  · have he : field (benchHead op b + a.toNat) 55 0 = a.toNat := by simp only [field, benchHead]; omega
    simp only [he, BitVec.ofNat_toNat, BitVec.setWidth_eq]

/-- An operation with a position. -/
theorem reads_pos {f : BenchHdr → B64 → Instr} {pos : B64}
    (ha : BenchArm op (field · 93 64) fun b w => f b (BitVec.ofNat 64 (field w 63 0))) (ho : op < 256)
    (hw : benchWord (f b pos) = some (benchHead op b + pos.toNat)) (hs : benchSeat (f b pos) = some b) :
    BenchReads (f b pos) := by
  refine ha.reads (headed_add ho (by omega)) hw hs ?_ ?_
  · simp only [field, benchHead]; omega
  · have he : field (benchHead op b + pos.toNat) 63 0 = pos.toNat := by simp only [field, benchHead]; omega
    simp only [he, BitVec.ofNat_toNat, BitVec.setWidth_eq]

theorem reads_copy {f : BenchHdr → BitVec 40 → BitVec 40 → BitVec 6 → Byte → Instr} {src dst : BitVec 40}
    {pos : BitVec 6} {n : Byte} (ha : BenchArm op (fun _ => 0) fun b w => f b (BitVec.ofNat 40 (field w 93 54))
      (BitVec.ofNat 40 (field w 53 14)) (BitVec.ofNat 6 (field w 13 8)) (BitVec.ofNat 8 w)) (ho : op < 256)
    (hw : benchWord (f b src dst pos n) = some (copyWord op b src dst pos n))
    (hs : benchSeat (f b src dst pos n) = some b) : BenchReads (f b src dst pos n) := by
  have h1 : field (copyWord op b src dst pos n) 93 54 = src.toNat := by simp only [field, copyWord, benchHead]; omega
  have h2 : field (copyWord op b src dst pos n) 53 14 = dst.toNat := by simp only [field, copyWord, benchHead]; omega
  have h3 : field (copyWord op b src dst pos n) 13 8 = pos.toNat := by simp only [field, copyWord, benchHead]; omega
  have h4 : BitVec.ofNat 8 (copyWord op b src dst pos n) = n := by
    refine BitVec.eq_of_toNat_eq ?_
    simp only [BitVec.toNat_ofNat, copyWord, benchHead]
    omega
  refine ha.reads ⟨ho, ?_, ?_⟩ hw hs rfl ?_
  · simp only [copyWord]; omega
  · simp only [copyWord]; omega
  · simp only [h1, h2, h3, h4, BitVec.ofNat_toNat, BitVec.setWidth_eq]

theorem reads_stitch {f : BenchHdr → BitVec 6 → B16 → Byte → Addr → Instr} {pos : BitVec 6} {idx : B16} {e : Byte}
    {a : Addr} (ha : BenchArm op (field · 63 56) fun b w => f b (BitVec.ofNat 6 (field w 93 88))
      (BitVec.ofNat 16 (field w 87 72)) (BitVec.ofNat 8 (field w 71 64)) (BitVec.ofNat 56 (field w 55 0)))
    (ho : op < 256) (hw : benchWord (f b pos idx e a) = some (stitchWord op b pos idx e a))
    (hs : benchSeat (f b pos idx e a) = some b) : BenchReads (f b pos idx e a) := by
  have hr : field (stitchWord op b pos idx e a) 63 56 = 0 := by simp only [field, stitchWord, benchHead]; omega
  have h1 : field (stitchWord op b pos idx e a) 93 88 = pos.toNat := by simp only [field, stitchWord, benchHead]; omega
  have h2 : field (stitchWord op b pos idx e a) 87 72 = idx.toNat := by simp only [field, stitchWord, benchHead]; omega
  have h3 : field (stitchWord op b pos idx e a) 71 64 = e.toNat := by simp only [field, stitchWord, benchHead]; omega
  have h4 : field (stitchWord op b pos idx e a) 55 0 = a.toNat := by simp only [field, stitchWord, benchHead]; omega
  refine ha.reads ⟨ho, ?_, ?_⟩ hw hs hr ?_
  · simp only [stitchWord]; omega
  · simp only [stitchWord]; omega
  · simp only [h1, h2, h3, h4, BitVec.ofNat_toNat, BitVec.setWidth_eq]

theorem reads_jump {n : BitVec 14} {a : Addr} : BenchReads (.jump b n a) := by
  have h1 : field (benchHead 0x02 b + n.toNat * 2 ^ 80 + a.toNat) 93 80 = n.toNat := by
    simp only [field, benchHead]; omega
  have h2 : field (benchHead 0x02 b + n.toNat * 2 ^ 80 + a.toNat) 55 0 = a.toNat := by
    simp only [field, benchHead]; omega
  refine BenchArm.reads (op := 0x02) (rsvd := (field · 79 56)) (f := fun b w =>
      .jump b (BitVec.ofNat 14 (field w 93 80)) (BitVec.ofNat 56 (field w 55 0)))
    (fun p st w e => by simp only [benchOf, e]; rfl) ⟨by decide, ?_, ?_⟩ rfl rfl ?_ ?_
  · omega
  · omega
  · simp only [field, benchHead]; omega
  · simp only [h1, h2, BitVec.ofNat_toNat, BitVec.setWidth_eq]

theorem reads_copyRouted {r : BitVec 2} {a : Addr} : BenchReads (.copyRouted b r a) := by
  have h1 : field (benchHead 0x21 b + r.toNat * 2 ^ 92 + a.toNat) 93 92 = r.toNat := by
    simp only [field, benchHead]; omega
  have h2 : field (benchHead 0x21 b + r.toNat * 2 ^ 92 + a.toNat) 55 0 = a.toNat := by
    simp only [field, benchHead]; omega
  refine BenchArm.reads (op := 0x21) (rsvd := (field · 91 56)) (f := fun b w =>
      .copyRouted b (BitVec.ofNat 2 (field w 93 92)) (BitVec.ofNat 56 (field w 55 0)))
    (fun p st w e => by simp only [benchOf, e]; rfl) ⟨by decide, ?_, ?_⟩ rfl rfl ?_ ?_
  · omega
  · omega
  · simp only [field, benchHead]; omega
  · simp only [h1, h2, BitVec.ofNat_toNat, BitVec.setWidth_eq]

theorem reads_vrun {first last : Byte} {entry : BitVec 11} {seed : BitVec 6} {a : Addr} :
    BenchReads (.vrun b first last entry seed a) := by
  let w := benchHead 0x18 b + first.toNat * 2 ^ 86 + last.toNat * 2 ^ 78 + entry.toNat * 2 ^ 67 + seed.toNat * 2 ^ 61 +
    a.toNat
  have h1 : field w 93 86 = first.toNat := by simp only [field, benchHead, w]; omega
  have h2 : field w 85 78 = last.toNat := by simp only [field, benchHead, w]; omega
  have h3 : field w 77 67 = entry.toNat := by simp only [field, benchHead, w]; omega
  have h4 : field w 66 61 = seed.toNat := by simp only [field, benchHead, w]; omega
  have h5 : field w 55 0 = a.toNat := by simp only [field, benchHead, w]; omega
  refine BenchArm.reads (op := 0x18) (w := w) (rsvd := (field · 60 56)) (f := fun b w =>
      .vrun b (BitVec.ofNat 8 (field w 93 86)) (BitVec.ofNat 8 (field w 85 78)) (BitVec.ofNat 11 (field w 77 67))
        (BitVec.ofNat 6 (field w 66 61)) (BitVec.ofNat 56 (field w 55 0)))
    (fun p st w e => by simp only [benchOf, e]; rfl) ⟨by decide, ?_, ?_⟩ rfl rfl ?_ ?_
  · simp only [w]; omega
  · simp only [w]; omega
  · simp only [field, benchHead, w]; omega
  · simp only [h1, h2, h3, h4, h5, BitVec.ofNat_toNat, BitVec.setWidth_eq]

end

/-! ### Plate words (R243, R244) -/

section
variable {h : PlateHdr} {op : Nat}

/-- How `plateOf` reads the words of an opcode of the register form. -/
def RegArm (op : Nat) (f : PlateHdr → BitVec 5 → BitVec 5 → BitVec 5 → BitVec 5 → BitVec 2 → Instr) : Prop :=
  ∀ p plate w, field w 63 56 = op → plateOf p plate w = some (f ⟨p, plate, decide (field w 33 0 ≠ 0)⟩
    (BitVec.ofNat 5 (field w 55 51)) (BitVec.ofNat 5 (field w 50 46)) (BitVec.ofNat 5 (field w 45 41))
    (BitVec.ofNat 5 (field w 40 36)) (BitVec.ofNat 2 (field w 35 34)))

/-- How `plateOf` reads the words of an opcode of the memory form. -/
def MemArm (op : Nat) (f : PlateHdr → BitVec 5 → BitVec 3 → BitVec 5 → BitVec 2 → BitVec 24 → Instr) : Prop :=
  ∀ p plate w, field w 63 56 = op → plateOf p plate w = some (f ⟨p, plate, decide (field w 40 24 ≠ 0)⟩
    (BitVec.ofNat 5 (field w 55 51)) (BitVec.ofNat 3 (field w 50 48)) (BitVec.ofNat 5 (field w 47 43))
    (BitVec.ofNat 2 (field w 42 41)) (BitVec.ofNat 24 (field w 23 0)))

/-- How `plateOf` reads the words of an opcode of the immediate form. -/
def ImmArm (op : Nat) (f : PlateHdr → BitVec 5 → B32 → Instr) : Prop :=
  ∀ p plate w, field w 63 56 = op → plateOf p plate w = some (f ⟨p, plate, decide (field w 50 32 ≠ 0)⟩
    (BitVec.ofNat 5 (field w 55 51)) (BitVec.ofNat 32 (field w 31 0)))

/-- A plate instruction whose reserved bits are zero is read back from its word, which has 64 bits. -/
def PlateReads (i : Instr) : Prop :=
  ∀ h w, plateWord i = some w → plateSeat i = some h → h.rsvd = false → plateOf h.p h.plate w = some i ∧ w < 2 ^ 64

theorem plateReads_of {i : Instr} {w : Nat} (hw : plateWord i = some w) (hs : plateSeat i = some h)
    (hi : h.rsvd = false → plateOf h.p h.plate w = some i ∧ w < 2 ^ 64) : PlateReads i := by
  intro h' w' hw' hs' hh
  obtain rfl : w = w' := Option.some.inj (hw.symm.trans hw')
  obtain rfl : h = h' := Option.some.inj (hs.symm.trans hs')
  exact hi hh

theorem RegArm.reads {f} {d s1 s2 s3 : BitVec 5} {rnd : BitVec 2} (ha : RegArm op f) (ho : op < 256)
    (hw : plateWord (f h d s1 s2 s3 rnd) = some (regWord op d s1 s2 s3 rnd)) (hs : plateSeat (f h d s1 s2 s3 rnd) = some h) :
    PlateReads (f h d s1 s2 s3 rnd) := by
  have hop : field (regWord op d s1 s2 s3 rnd) 63 56 = op := by simp only [field, regWord]; omega
  have hd : field (regWord op d s1 s2 s3 rnd) 55 51 = d.toNat := by simp only [field, regWord]; omega
  have h1 : field (regWord op d s1 s2 s3 rnd) 50 46 = s1.toNat := by simp only [field, regWord]; omega
  have h2 : field (regWord op d s1 s2 s3 rnd) 45 41 = s2.toNat := by simp only [field, regWord]; omega
  have h3 : field (regWord op d s1 s2 s3 rnd) 40 36 = s3.toNat := by simp only [field, regWord]; omega
  have hm : field (regWord op d s1 s2 s3 rnd) 35 34 = rnd.toNat := by simp only [field, regWord]; omega
  have hr : field (regWord op d s1 s2 s3 rnd) 33 0 = 0 := by simp only [field, regWord]; omega
  refine plateReads_of hw hs fun hh => ⟨?_, by simp only [regWord]; omega⟩
  rw [ha _ _ _ hop]
  simp [hd, h1, h2, h3, hm, hr, ← hh]

theorem MemArm.reads {f} {v : BitVec 5} {pr : BitVec 3} {fmt : BitVec 5} {rnd : BitVec 2} {off : BitVec 24}
    (ha : MemArm op f) (ho : op < 256) (hw : plateWord (f h v pr fmt rnd off) = some (memWord op v pr fmt rnd off))
    (hs : plateSeat (f h v pr fmt rnd off) = some h) :
    PlateReads (f h v pr fmt rnd off) := by
  have hop : field (memWord op v pr fmt rnd off) 63 56 = op := by simp only [field, memWord]; omega
  have hv : field (memWord op v pr fmt rnd off) 55 51 = v.toNat := by simp only [field, memWord]; omega
  have hp : field (memWord op v pr fmt rnd off) 50 48 = pr.toNat := by simp only [field, memWord]; omega
  have hf : field (memWord op v pr fmt rnd off) 47 43 = fmt.toNat := by simp only [field, memWord]; omega
  have hm : field (memWord op v pr fmt rnd off) 42 41 = rnd.toNat := by simp only [field, memWord]; omega
  have hr : field (memWord op v pr fmt rnd off) 40 24 = 0 := by simp only [field, memWord]; omega
  have hoff : field (memWord op v pr fmt rnd off) 23 0 = off.toNat := by simp only [field, memWord]; omega
  refine plateReads_of hw hs fun hh => ⟨?_, by simp only [memWord]; omega⟩
  rw [ha _ _ _ hop]
  simp [hv, hp, hf, hm, hr, hoff, ← hh]

theorem ImmArm.reads {f} {target : BitVec 5} {imm : B32} (ha : ImmArm op f) (ho : op < 256)
    (hw : plateWord (f h target imm) = some (immWord op target imm)) (hs : plateSeat (f h target imm) = some h) :
    PlateReads (f h target imm) := by
  have hop : field (immWord op target imm) 63 56 = op := by simp only [field, immWord]; omega
  have ht : field (immWord op target imm) 55 51 = target.toNat := by simp only [field, immWord]; omega
  have hr : field (immWord op target imm) 50 32 = 0 := by simp only [field, immWord]; omega
  have hi : field (immWord op target imm) 31 0 = imm.toNat := by simp only [field, immWord]; omega
  refine plateReads_of hw hs fun hh => ⟨?_, by simp only [immWord]; omega⟩
  rw [ha _ _ _ hop]
  simp [ht, hr, hi, ← hh]

end

end Sys2Proof.Machine

namespace Sys2Proof
open Machine

/-- Settles O57: an opcode fixes where its words hold their operand, and the header and each field come back. -/
theorem benchWordsRoundTrip : Obligations.BenchWordsRoundTrip := by
  intro i
  change BenchReads i
  cases i with
  | nop b | endOp b | fence b => exact reads_bare (fun _ _ _ e => by simp only [benchOf, e]; rfl) (by decide) rfl rfl
  | jump b n a => exact reads_jump
  | array b a | veto b a | planish b a =>
    exact reads_addr (fun _ _ _ e => by simp only [benchOf, e]; rfl) (by decide) rfl rfl
  | vrun b f l e sd a => exact reads_vrun
  | copy b x y pos n | copyAdd b x y pos n =>
    exact reads_copy (fun _ _ _ e => by simp only [benchOf, e]; rfl) (by decide) rfl rfl
  | copyRouted b r a => exact reads_copyRouted
  | stSignal b pos x e a | stWait b pos x e a | stLock b pos x e a | stUnlock b pos x e a | stRead b pos x e a =>
    exact reads_stitch (fun _ _ _ e => by simp only [benchOf, e]; rfl) (by decide) rfl rfl
  | cadMark b pos | posDraw b pos =>
    exact reads_pos (fun _ _ _ e => by simp only [benchOf, e]; rfl) (by decide) rfl rfl
  | _ => exact fun _ _ hw => nomatch hw

/-- Settles O58: an opcode fixes the form of its words, and each form gives its fields back. -/
theorem plateWordsRoundTrip : Obligations.PlateWordsRoundTrip := by
  intro i
  change PlateReads i
  cases i with
  | plateNop h =>
    exact ImmArm.reads (f := fun h _ _ => .plateNop h) (fun _ _ _ e => by simp only [plateOf, e]) (by decide) rfl rfl
  | halt h => exact ImmArm.reads (f := fun h _ _ => .halt h) (fun _ _ _ e => by simp only [plateOf, e]) (by decide) rfl rfl
  | loopc h t x | setc h t x | setp h t x | addp h t x | movi h t x =>
    exact ImmArm.reads (fun _ _ _ e => by simp only [plateOf, e]) (by decide) rfl rfl
  | ld h v p f r o | st h v p f r o | ldb h v p f r o | ldbit h v p f r o | stbit h v p f r o | fxadd h v p f r o
  | ldx h v p f r o | draw h v p f r o =>
    exact MemArm.reads (fun _ _ _ e => by simp only [plateOf, e]) (by decide) rfl rfl
  | fadd h d a b c r | fsub h d a b c r | fmul h d a b c r | ffma h d a b c r | fdiv h d a b c r | fsqrt h d a b c r
  | fmax h d a b c r | fmin h d a b c r | fneg h d a b c r | fabs h d a b c r | fcmplt h d a b c r | fsel h d a b c r
  | laneid h d a b c r | exp h d a b c r | exp2 h d a b c r | log h d a b c r | log2 h d a b c r | rcp h d a b c r
  | rsqrt h d a b c r | tanh h d a b c r | sigm h d a b c r | erf h d a b c r | rmax h d a b c r | rsum h d a b c r =>
    exact RegArm.reads (fun _ _ _ e => by simp only [plateOf, e]) (by decide) rfl rfl
  | _ => exact fun _ _ hw => nomatch hw

end Sys2Proof
end

section
/-!
The stream and program commands (R173, R195, R204, R213, R240, R644).

A command's statement is its effect in the state that it has begun: `answers_of_act` carries it over where it answers OK,
`exec_of_act_done` with any status. What an answer changes besides is the host interface alone, so that the bench reads as
the effect left it (`HostOnly.bench`).
-/
namespace Sys2Proof.Machine

variable {h : CmdHdr} {p : Part} {s t : State}

/-! ### The outcome of a host command -/

/-- A host command that may run and ends at once is answered with its status. -/
theorem exec_of_act_done {op st : B16} {long minimal : Bool} {issuer : Issuer} {i : Instr} {params : List Byte}
    {act : State → CmdOut × State} {r : B128} (hm : MayRun ⟨op, long, minimal, issuer⟩ h s)
    (he : exec i s = next (hostCmd ⟨op, long, minimal, issuer⟩ i h params false act s))
    (ha : act (begun h s) = (.done st r, t)) : exec i s = .next (finishShort h op st r t) := by
  obtain ⟨ho, hs, hc⟩ := hm
  have hb : act (s.updHost h.fn fun x => { x with starting := false }) = (.done st r, t) := ha
  rw [he, hostCmd_run ho hs hc, hb]
  rfl

theorem HostOnly.bench (k : HostOnly p s t) (q : Part) : (t.part q).bench = (s.part q).bench := by
  by_cases hq : q = p
  · rw [hq, k.part]
  · rw [k.part_of_ne hq]

theorem HostOnly.stream (k : HostOnly p s t) (q : Part) (st : Strm) : t.stream q st = s.stream q st :=
  congrArg (fun b : Bench => b.streams.get st) (k.bench q)

/-! ### Streams (R195, R213, R644) -/

section
variable {st : Strm}

theorem toNat_stream : (BitVec.ofNat 8 st.val).toNat = st.val := by
  simp only [BitVec.toNat_ofNat]
  omega

theorem ofNat_stream : (Fin.ofNat 4 st.val : Strm) = st := Fin.ofNat_val_eq_self st

theorem actStreamStart_of_busy {addr : B64} (ha : addr.toNat < 2 ^ 56)
    (hs : (s.stream p st).state = .run ∨ (s.stream p st).state = .stopped) :
    actStreamStart p (BitVec.ofNat 8 st.val).toNat addr s = (.done stBusy 0, s) := by
  rw [toNat_stream, actStreamStart, if_neg (by simp; omega), ofNat_stream]
  exact if_pos (by simpa using hs)

theorem actStreamStart_of_idle {addr : B64} (ha : addr.toNat < 2 ^ 56) (hs : (s.stream p st).state = .idle) :
    actStreamStart p (BitVec.ofNat 8 st.val).toNat addr s = (cmdOk, s.updStream p st fun x => { x with
      state := .run, head := addr, fault := 0, lc := 0, tags := [], unissued := false }) := by
  rw [toNat_stream, actStreamStart, if_neg (by simp; omega), ofNat_stream]
  simp only [hs, reduceCtorEq, decide_false, Bool.or_self, Bool.false_eq_true, if_false]

theorem actStreamResume_of_busy {skip : Nat} (hk : skip ≤ 1) (hs : (s.stream p st).state ≠ .stopped) :
    actStreamResume p (BitVec.ofNat 8 st.val).toNat skip s = (.done stBusy 0, s) := by
  rw [toNat_stream, actStreamResume, if_neg (by simp; omega), ofNat_stream]
  exact if_pos hs

theorem actStreamResume_of_stopped (hs : (s.stream p st).state = .stopped) :
    actStreamResume p (BitVec.ofNat 8 st.val).toNat 0 s = (cmdOk, s.updStream p st fun x => { x with
      state := .run, fault := 0, unissued := false }) := by
  rw [toNat_stream, actStreamResume, if_neg (by simp; omega), ofNat_stream]
  exact if_neg (by simpa using hs)

theorem actStreamReset_of_run (hs : (s.stream p st).state = .run) :
    actStreamReset p (BitVec.ofNat 8 st.val).toNat s = (.done stBusy 0, s) := by
  rw [toNat_stream, actStreamReset, if_neg (by omega), ofNat_stream]
  exact if_pos (by simp [hs])

theorem actStreamReset_of_clear (hs : (s.stream p st).state ≠ .run) (hf : inFlight s p st = 0) (ht : s.stitches = []) :
    actStreamReset p (BitVec.ofNat 8 st.val).toNat s = (cmdOk,
      (freeLatches p (fun l => l.st = st && !l.issued) (unregister p st s)).updStream p st fun x =>
        { drawPos := x.drawPos, issued := x.issued }) := by
  rw [toNat_stream, actStreamReset, if_neg (by omega), ofNat_stream]
  exact if_neg (by simp [hs, hf, heldStitches, ht])

/-- Freeing latch-table entries changes the punch-set slots and the latch table alone. -/
theorem freeLatches_eq {which : Latch → Bool} : ∃ slots, freeLatches p which s =
    ({ s with slots } : State).updBench p fun y => { y with latches := y.latches.filter fun l => !which l } := by
  have hd : ∃ slots, ((s.part p).bench.latches.filter which).foldl (fun s l => l.slots.foldl (fun s i => dropRefs i 1 s) s) s =
      { s with slots } := by
    refine List.foldlRecOn (motive := fun t : State => ∃ slots, t = { s with slots }) _ _ ⟨_, rfl⟩ fun t h l _ => ?_
    refine List.foldlRecOn (motive := fun t : State => ∃ slots, t = { s with slots }) _ _ h fun u h i _ => ?_
    obtain ⟨slots, rfl⟩ := h
    exact ⟨_, rfl⟩
  obtain ⟨slots, hs⟩ := hd
  exact ⟨slots, by rw [freeLatches, hs]⟩

/-- What stays of a stream's partition, and of the stitches where none differs from reset, when the stream is reset. -/
theorem streamReset_frame {which : Latch → Bool} {f : Stream → Stream} (ht : s.stitches = [])
    (he : t = (freeLatches p which (unregister p st s)).updStream p st f) :
    (∀ x, x ≠ st → t.stream p x = s.stream p x) ∧ t.mem = s.mem ∧ t.stitches = [] := by
  obtain ⟨slots, hs⟩ := freeLatches_eq (p := p) (which := which) (s := unregister p st s)
  subst he
  rw [hs]
  refine ⟨fun x hx => ?_, rfl, ?_⟩
  · rw [State.updStream_stream_of_ne _ _ hx, State.stream, State.updBench_part]
    exact State.updStream_stream_of_ne s p hx _
  · show ((Map.mapVal s.stitches _).filter _) = []
    rw [ht]
    rfl

end

/-! ### The program store (R240) -/

theorem Map.sorted_setD {α : Type} [DecidableEq α] {d a : α} {m : Map α} {k : Nat} (h : Map.sorted m = true) :
    Map.sorted (Map.setD d m k a) = true := by
  rw [Map.sorted_iff] at *
  unfold Map.setD
  split
  · exact Map.pairwise_erase h k
  · exact Map.pairwise_insert h k a

/-- The words loaded stand in the store from `first` on. -/
theorem getD_loaded {first n : Nat} {word : Nat → B64} {m : Map B64} (h : Map.sorted m = true) :
    Map.sorted (((List.range n).map fun i => (first + i, word i)).foldl (fun m e => Map.setD 0 m e.1 e.2) m) = true ∧
      ∀ i, i < n → Map.getD (((List.range n).map fun i => (first + i, word i)).foldl
        (fun m e => Map.setD 0 m e.1 e.2) m) (first + i) 0 = word i := by
  induction n with
  | zero => exact ⟨h, fun i hi => absurd hi (Nat.not_lt_zero i)⟩
  | succ n ih =>
    obtain ⟨hs, hw⟩ := ih
    simp only [List.range_succ, List.map_append, List.foldl_append, List.map_cons, List.map_nil, List.foldl_cons,
      List.foldl_nil]
    refine ⟨Map.sorted_setD hs, fun i hi => ?_⟩
    by_cases hn : i = n
    · rw [hn, Map.getD_setD_self hs]
    · rw [Map.getD_setD_of_ne (by omega), hw i (by omega)]

theorem actProgLoad_of_ok {first count : Nat} {addr : B64} (hn : first + count ≤ 2048) (hr : anyRunning s p = false)
    (hd : dmaCheck p .r addr.toNat (8 * count) s = (none, s)) : actProgLoad p first count addr s =
      (cmdOk, (touchRead p addr.toNat (8 * count) s).updBench p fun y => { y with
        prog := ((List.range count).map fun i =>
          (first + i, BitVec.ofNat 64 (readNat s p p.val (addr.toNat + 8 * i) 8))).foldl
            (fun m e => Map.setD 0 m e.1 e.2) y.prog }) := by
  simp [actProgLoad, Nat.not_lt.mpr hn, hr, hostRead, hd]

theorem actSeedSet_of_ok {first count : Nat} {seeds : List B64} (hn : first + count ≤ 64) (hl : seeds.length = count)
    (hr : anyRunning s p = false) : actSeedSet p first count seeds s = (cmdOk, s.updBench p fun y => { y with
      seeds := (seeds.zipIdx first).foldl (fun m e => Map.setD 0 m e.2 e.1) y.seeds }) := by
  subst hl
  simp [actSeedSet, Nat.not_lt.mpr hn, hr, takePad]

theorem actCtxBase_of_ok {addr : B64} {n : Nat} {o : Obj} (ha : addr.toNat % 65536 = 0)
    (ho : findObj (s.part p).tier addr.toNat = some (n, o))
    (hb : addr.toNat + 32 * 2 ^ 20 ≤ o.base + o.sheets * 65536) (hc : (s.part p).bench.context = none) :
    actCtxBase p addr s = (cmdOk, s.updBench p fun y => { y with ctxBase := addr, ctxSet := true }) := by
  have hi : addr.toNat + contextBytes ≤ o.base + o.sheets * sheetBytes := hb
  have hd : addr.toNat % sheetBytes = 0 := ha
  simp [actCtxBase, hd, ho, hc, hi]

end Sys2Proof.Machine

namespace Sys2Proof
open Machine

/-- Settles O17: the stream's state decides BUSY, and the command's begin does not change it. -/
theorem streamCommandsBusy : Obligations.StreamCommandsBusy := by
  intro h st s
  refine ⟨fun addr hm ha hs => exec_of_act_done hm rfl (actStreamStart_of_busy ha (by simpa using hs)),
    fun skip hm hk hs => exec_of_act_done hm rfl (actStreamResume_of_busy hk (by simpa using hs)),
    fun hm hs => exec_of_act_done hm rfl (actStreamReset_of_run (by simpa using hs))⟩

/-- Settles O16: each clause by the command's own effect, in the state that the command has begun; what STREAM_RESET frees
and PROG_LOAD reads changes no stream, stitch or byte besides. -/
theorem programCommandsRun : Obligations.ProgramCommandsRun := by
  refine ⟨fun h st addr s hm ha hs => answers_of_act hm rfl (actStreamStart_of_idle ha (by simpa using hs)),
    fun h st s hm hs => answers_of_act hm rfl (actStreamResume_of_stopped (by simpa using hs)),
    fun h st s hm hs hf ht => ?_, fun h first count addr s hm hn hr hd hp => ?_,
    fun h first count seeds s hm hn hl hr => answers_of_act hm rfl (actSeedSet_of_ok hn hl hr),
    fun h addr s n o hm ha ho hb hc =>
      answers_of_act hm rfl (actCtxBase_of_ok ha (by simpa using ho) hb (by simpa using hc))⟩
  · have hb : inFlight (begun h s) h.fn st = 0 := by simpa [inFlight] using hf
    have hx := exec_of_act_done (i := .streamReset h (BitVec.ofNat 8 st.val)) hm rfl
      (actStreamReset_of_clear (s := begun h s) (by simpa using hs) hb ht)
    have ho := finishShort_only h 0x0302 stOk 0 ((freeLatches h.fn (fun l => l.st = st && !l.issued)
      (unregister h.fn st (begun h s))).updStream h.fn st fun x => { drawPos := x.drawPos, issued := x.issued })
    obtain ⟨hoth, hmem, hsti⟩ := streamReset_frame (p := h.fn) (s := begun h s) ht rfl
    refine ⟨_, hx, ?_⟩
    simp only [ho.stream, ho.mem, ho.stitches, State.updStream_stream]
    exact ⟨trivial, trivial, trivial, trivial, fun x hx => (hoth x hx).trans (by simp), hmem, hsti⟩
  · have hx := exec_of_act_done (i := .progLoad h first count addr) hm rfl (actProgLoad_of_ok (s := begun h s) hn hr hd)
    refine ⟨_, hx, ?_, fun i hi => ?_⟩
    · rw [(finishShort_only ..).mem]
      exact (touchRead_unmoved _ _ _ _).mem
    · rw [(finishShort_only ..).bench, State.updBench_part]
      have hb : ((touchRead h.fn addr.toNat (8 * count.toNat) (begun h s)).part h.fn).bench = (s.part h.fn).bench :=
        touchRead_onStore.bench.trans (begun_bench h s h.fn)
      rw [hb]
      obtain ⟨_, hw⟩ := getD_loaded (first := first.toNat) hp
      exact hw i hi

end Sys2Proof
end

section
/-!
Heads that issue at once, wait or stop (R195, R198, R202, R203, R208, R235, R236, R251, R252).

An operation that may issue leaves what its own part gives (`next_benchOp_of_ok`), mostly one change of its stream
(`next_benchOp_of_issued`). A program fault stops its stream; the stitches that the stream held break and stop further
streams, all of which keeps memory, every plate's instances, and every stream's head and count (`Stops`).
-/
namespace Sys2Proof.Machine

variable {b : BenchHdr} {p : Part} {st : Strm} {s t : State}

/-! ### A head that issues (R198, R202, R208) -/

/-- An operation that waits for nothing of its own issues. -/
theorem next_benchOp_of_ok {ready : State → Bool} {run : State → Except Halt State} (m : MayIssue b s)
    (hr : ready s = true) (h : run s = .ok t) : next (benchOp b ready run s) = .next t := by
  rw [benchOp_runs m hr, h]
  rfl

theorem issueHead_updStream {n : B64} {f : Stream → Stream} : (issueHead b n s).updStream b.p b.st f =
    s.updStream b.p b.st fun x =>
      f { x with issued := satAdd x.issued 1, head := n, registered := false, granted := false } :=
  State.updStream_updStream s b.p b.st _ f

/-- An operation that issues and changes its stream. -/
theorem next_benchOp_of_issued {ready : State → Bool} {run : State → Except Halt State} {n : B64} {f : Stream → Stream}
    (m : MayIssue b s) (hr : ready s = true) (h : run s = .ok ((issueHead b n s).updStream b.p b.st f)) :
    next (benchOp b ready run s) = .next (s.updStream b.p b.st fun x =>
      f { x with issued := satAdd x.issued 1, head := n, registered := false, granted := false }) := by
  rw [next_benchOp_of_ok m hr h, issueHead_updStream]

/-- A stream's change depends on that stream alone. -/
theorem updStream_congr {f g : Stream → Stream} (h : f (s.stream p st) = g (s.stream p st)) :
    s.updStream p st f = s.updStream p st g := by
  have e (f : Stream → Stream) : s.updStream p st f = s.updStream p st fun _ => f (s.stream p st) := rfl
  rw [e f, e g, h]

theorem runJump_of_mapped {count : BitVec 14} {target : Addr} (ha : target.toNat % 16 = 0)
    (hm : (benchAccess s b.p .r target.toNat 16).2 ≠ .outside) : runJump b count target s =
      .ok ((issueHead b (if (jumpStep (s.stream b.p b.st).lc count).2 then target.setWidth 64 else afterHead b s)
        s).updStream b.p b.st fun x => { x with lc := (jumpStep (s.stream b.p b.st).lc count).1 }) := by
  simp [runJump, ha, hm]

theorem runJump_of_no_count {target : Addr} (ha : target.toNat % 16 = 0)
    (hm : (benchAccess s b.p .r target.toNat 16).2 ≠ .outside) :
    runJump b 0 target s = .ok (issueHead b (target.setWidth 64) s) := by
  rw [runJump_of_mapped ha hm, issueHead_updStream]
  exact congrArg Except.ok (updStream_congr rfl)

theorem runJump_of_count {count : BitVec 14} {target : Addr} (hc : count ≠ 0) (ha : target.toNat % 16 = 0)
    (hm : (benchAccess s b.p .r target.toNat 16).2 ≠ .outside) :
    let n := (if (s.stream b.p b.st).lc = 0 then count else (s.stream b.p b.st).lc) - 1
    runJump b count target s = .ok (s.updStream b.p b.st fun x => { x with
      issued := satAdd x.issued 1, head := if n = 0 then afterHead b s else target.setWidth 64
      registered := false, granted := false, lc := n }) := by
  intro n
  have hj : jumpStep (s.stream b.p b.st).lc count = (n, decide (n ≠ 0)) := if_neg hc
  rw [runJump_of_mapped ha hm, issueHead_updStream, hj]
  simp

theorem runPosDraw_of_wellFormed {pos : B64} (h : malformed pos = false) : runPosDraw b pos s =
    .ok ((issueHead b (afterHead b s) s).updStream b.p b.st fun x => { x with drawPos := pos }) := by
  simp [runPosDraw, h]

@[simp] theorem updStream_cad {f : Stream → Stream} : ((s.updStream p st f).part p).cad = (s.part p).cad := by
  simp [State.updStream]

theorem runCadMark_of_follower {pos : B64} (h : malformed pos = false) (hr : (s.part b.p).cad.role = .follower) :
    runCadMark b pos s =
      .ok ((issueHead b (afterHead b s) s).updStream b.p b.st fun x => { x with drawPos := pos }) := by
  simp [runCadMark, h, hr, issueHead]

theorem runCadMark_of_not_follower {pos : B64} (h : malformed pos = false) (hr : (s.part b.p).cad.role ≠ .follower) :
    runCadMark b pos s = .ok (advance b.p pos
      ((issueHead b (afterHead b s) s).updStream b.p b.st fun x => { x with drawPos := pos })).2 := by
  simp [runCadMark, h, hr, issueHead]

/-! ### Streams that stop (R251, R252) -/

/-- What the stopping of streams leaves as it is: memory, the plates' instances, and of a stream its head and count; a
stream that has stopped stays so. -/
structure Stops (s t : State) : Prop where
  mem    : t.mem = s.mem
  insts  : ∀ p, (t.part p).bench.insts = (s.part p).bench.insts
  head   : ∀ p st, (t.stream p st).head = (s.stream p st).head
  issued : ∀ p st, (t.stream p st).issued = (s.stream p st).issued
  stays  : ∀ p st, (s.stream p st).state = .stopped → (t.stream p st).state = .stopped

theorem Stops.refl (s : State) : Stops s s := ⟨rfl, fun _ => rfl, fun _ _ => rfl, fun _ _ => rfl, fun _ _ h => h⟩

theorem Stops.trans {u : State} (h : Stops s t) (k : Stops t u) : Stops s u :=
  ⟨k.mem.trans h.mem, fun p => (k.insts p).trans (h.insts p), fun p st => (k.head p st).trans (h.head p st),
    fun p st => (k.issued p st).trans (h.issued p st), fun p st hs => k.stays p st (h.stays p st hs)⟩

theorem Stops.foldl {α : Type} {f : State → α → State} (h : ∀ s a, Stops s (f s a)) (l : List α) :
    Stops s (l.foldl f s) :=
  List.foldlRecOn (motive := Stops s) l f (.refl s) fun t k a _ => k.trans (h t a)

/-- A change after which every partition's bench is as it was. -/
theorem Stops.of_bench (hm : t.mem = s.mem) (hb : ∀ q, (t.part q).bench = (s.part q).bench) : Stops s t := by
  have hs (q : Part) (x : Strm) : t.stream q x = s.stream q x := congrArg (fun b : Bench => b.streams.get x) (hb q)
  exact ⟨hm, fun q => by rw [hb q], fun q x => by rw [hs], fun q x => by rw [hs], fun q x h => by rw [hs]; exact h⟩

theorem HostOnly.stops (k : HostOnly p s t) : Stops s t := .of_bench k.mem k.bench

theorem updStc_stops {f : StcRegs → StcRegs} : Stops s (s.updStc p f) := by
  refine .of_bench rfl fun q => ?_
  by_cases hq : q = p
  · subst hq
    simp
  · rw [State.updStc_part_of_ne _ _ hq]

theorem updStream_stops {f : Stream → Stream} (hh : ∀ x, (f x).head = x.head) (hi : ∀ x, (f x).issued = x.issued)
    (hs : ∀ x, x.state = .stopped → (f x).state = .stopped) : Stops s (s.updStream p st f) := by
  have hx (q : Part) (x : Strm) : (s.updStream p st f).stream q x = s.stream q x ∨
      (s.updStream p st f).stream q x = f (s.stream q x) := by
    by_cases hq : q = p
    · subst hq
      by_cases hx : x = st
      · subst hx
        exact .inr (State.updStream_stream ..)
      · exact .inl (State.updStream_stream_of_ne s q hx f)
    · exact .inl (congrArg (fun y : PartState => y.bench.streams.get x) (State.updStream_part_of_ne s p hq st f))
  refine ⟨rfl, fun q => ?_, fun q x => ?_, fun q x => ?_, fun q x h => ?_⟩
  · by_cases hq : q = p
    · subst hq
      simp [State.updStream]
    · rw [State.updStream_part_of_ne _ _ hq]
  · rcases hx q x with h | h
    · rw [h]
    · rw [h, hh]
  · rcases hx q x with h | h
    · rw [h]
    · rw [h, hi]
  · rcases hx q x with k | k
    · rw [k, h]
    · rw [k, hs _ h]

theorem unregister_stops : Stops s (unregister p st s) := by
  refine Stops.trans ?_ (updStream_stops (fun _ => rfl) (fun _ => rfl) fun _ h => h)
  exact .of_bench rfl fun _ => rfl

theorem stopStream_stops {f : FaultAt} : Stops s (stopStream f s) := by
  have hx : Stops s (s.updStream f.p f.st fun x => { x with
      state := .stopped, fault := BitVec.ofNat 8 f.code, faultPc := f.addr, unissued := x.unissued || f.unissued }) :=
    updStream_stops (fun _ => rfl) (fun _ => rfl) fun _ _ => rfl
  exact ((hx.trans unregister_stops).trans (note_only ..).stops).trans (raiseIrq_only ..).stops

theorem breakStitch_stops {g : Nat} : Stops s (breakStitch g s).1 := by
  unfold breakStitch
  refine Stops.trans ?_ (.foldl (fun u q => ?_) _)
  · have hp : Stops s (putStitch g { s.stitch g with state := .broken, epoch := (s.stitch g).epoch + 1, reqs := [] } s) :=
      .of_bench rfl fun _ => rfl
    split
    · exact hp
    · exact (hp.trans updStc_stops).trans (note_only ..).stops
  · exact updStc_stops.trans (updStream_stops (fun _ => rfl) (fun _ => rfl) fun _ h => h)

theorem breakEach_stops {gs : List Nat} : Stops s (breakEach gs s).1 := by
  induction gs generalizing s with
  | nil => exact .refl s
  | cons g gs ih => exact breakStitch_stops.trans ih

theorem runFaults_stops {n : Nat} {l : List FaultAt} : Stops s (runFaults n l s) := by
  induction n generalizing l s with
  | zero => exact .refl s
  | succ n ih =>
    cases l with
    | nil => exact .refl s
    | cons f l => exact (stopStream_stops.trans breakEach_stops).trans ih

theorem programFault_stops {f : FaultAt} : Stops s (programFault f s) := runFaults_stops

theorem stopStream_stream {f : FaultAt} : (stopStream f s).stream f.p f.st = { s.stream f.p f.st with
    state := .stopped, fault := BitVec.ofNat 8 f.code, faultPc := f.addr
    unissued := (s.stream f.p f.st).unissued || f.unissued, registered := false, granted := false } := by
  rw [stopStream, (raiseIrq_only ..).stream, (note_only ..).stream, unregister, State.updStream_stream]
  show ({ (s.updStream f.p f.st _).stream f.p f.st with registered := false, granted := false } : Stream) = _
  rw [State.updStream_stream]

/-- A program fault stops its stream, whatever else it brings about. -/
theorem programFault_state {f : FaultAt} : ((programFault f s).stream f.p f.st).state = .stopped := by
  refine (breakEach_stops.trans runFaults_stops).stays f.p f.st ?_
  rw [stopStream_stream]

/-- Where no stitch differs from reset, a program fault stops its stream and nothing else. -/
theorem programFault_of_no_stitches {f : FaultAt} (h : s.stitches = []) : programFault f s = stopStream f s := by
  have hs : (stopStream f s).stitches = [] := by
    rw [stopStream, (raiseIrq_only ..).stitches, (note_only ..).stitches]
    show (Map.mapVal s.stitches _).filter _ = []
    rw [h]
    rfl
  have hn : heldStitches (stopStream f s) (benchMaster f.p) (some f.st) = [] := by rw [heldStitches, hs]; rfl
  simp [programFault, runFaults, hn, breakEach]

end Sys2Proof.Machine

namespace Sys2Proof
open Machine

/-- Settles O23: each operation waits for nothing of its own, and leaves its head's issue and one change of its stream. -/
theorem benchControlIssues : Obligations.BenchControlIssues := by
  intro b s m x issued
  refine ⟨next_benchOp_of_ok m rfl rfl, fun hf => next_benchOp_of_ok m (decide_eq_true hf) rfl,
    fun hf => next_benchOp_of_issued (n := x.head + 16) (f := fun y => { y with state := .halted }) m
      (decide_eq_true hf) rfl,
    fun count target ha hm => ⟨fun hc => ?_, fun hc => next_benchOp_of_ok m rfl (runJump_of_count hc ha hm)⟩,
    fun pos hp => ⟨?_, fun hr => ?_, fun hr => ?_⟩⟩
  · rw [hc]
    exact next_benchOp_of_ok m rfl (runJump_of_no_count ha hm)
  · exact next_benchOp_of_issued m rfl (runPosDraw_of_wellFormed hp)
  · exact next_benchOp_of_issued m rfl (runCadMark_of_follower hp hr)
  · refine (next_benchOp_of_ok m rfl (runCadMark_of_not_follower hp hr)).trans ?_
    rw [issueHead_updStream]
    rfl

/-- Settles O24: `benchOp` holds back a head that is not ready; a reserved bit of one that is raises the fault, and a fault
stops its stream (`Stops`). -/
theorem headWaitsOrStops : Obligations.HeadWaitsOrStops := by
  intro b s
  refine ⟨fun h => ?_, fun h hr => ?_⟩
  · have w {ready : State → Bool} {run : State → Except Halt State} : benchOp b ready run s = s := benchOp_waits (.inl h)
    refine ⟨congrArg next w, congrArg next w, congrArg next w, fun _ _ => congrArg next w, fun _ => congrArg next w,
      fun _ => congrArg next w, fun record => ?_⟩
    show next (settle b.p s (benchOp b _ _ s)) = _
    rw [w, settle_of_not_heldBack (heldBack_of_flash_eq rfl)]
  · refine ⟨haltHead b { code := ftWordRsvd } s, congrArg next (benchOp_rsvd h rfl hr), programFault_state,
      programFault_stops.head _ _, programFault_stops.issued _ _, programFault_stops.mem, fun hs => ?_⟩
    have hx : (haltHead b { code := ftWordRsvd } s).stream b.p b.st = _ :=
      (congrArg (fun u : State => u.stream b.p b.st) (programFault_of_no_stitches hs)).trans stopStream_stream
    rw [hx]
    exact ⟨rfl, rfl⟩

end Sys2Proof
end

section
/-!
The operations in flight and their tags (R205): what issue adds (`tagged`) and completion takes back (`untagged`).
-/
namespace Sys2Proof.Machine

variable {b : BenchHdr} {p : Part} {st : Strm} {s t : State}

/-! ### Tags and the flight list (R205) -/

theorem Map.getD_setD_of_ne_default {α : Type} [DecidableEq α] {d a : α} {m : Map α} {k : Nat} (h : a ≠ d) :
    Map.getD (Map.setD d m k a) k d = a := by
  rw [Map.setD, if_neg h, Map.getD_insert_self]

theorem updBench_stream {f : Bench → Bench} {x : Strm} :
    (s.updBench p f).stream p x = (f (s.part p).bench).streams.get x := by
  rw [State.stream, State.updBench_part]

/-- The stream of an operation that has taken its place among those in flight. -/
def tagged (b : BenchHdr) (x : Stream) : Stream :=
  if b.outTag = 0 then x else { x with tags := Map.setD 0 x.tags b.outTag.toNat (x.tag b.outTag + 1) }

theorem tagged_tag {x : Stream} (h : b.outTag ≠ 0) : (tagged b x).tag b.outTag = x.tag b.outTag + 1 := by
  rw [tagged, if_neg h]
  exact Map.getD_setD_of_ne_default (Nat.succ_ne_zero _)

theorem takeFlight_stream {addr : B64} {kind : FlightKind} {opTag : B32} {foot : Foot} :
    (takeFlight b addr kind opTag foot s).2.stream b.p b.st = tagged b (s.stream b.p b.st) :=
  updBench_stream.trans (State.updStream_stream ({ s with array := { s.array with nextOp := s.array.nextOp + 1 } }) ..)

theorem takeFlight_flight {addr : B64} {kind : FlightKind} {opTag : B32} {foot : Foot} :
    ((takeFlight b addr kind opTag foot s).2.part b.p).bench.flight = (s.part b.p).bench.flight ++
      [{ ident := s.array.nextOp, st := b.st, outTag := b.outTag, addr, kind, opTag, foot, live := s.array.live
         mates := (s.part b.p).bench.flight.map Flight.ident }] := by
  simp only [takeFlight, State.updBench_part, State.updStream]
  rfl

/-- The stream of a flight that has landed. -/
def untagged (f : Flight) (x : Stream) : Stream :=
  if f.outTag = 0 then x else { x with tags := Map.setD 0 x.tags f.outTag.toNat (x.tag f.outTag - 1) }

theorem completeOp_of_found {n : Nat} {f : Flight} (h : (s.part p).bench.flight.find? (fun f => f.ident = n) = some f) :
    completeOp p n none s = (s.updBench p (Bench.land f)).updStream p f.st (untagged f) := by
  simp only [completeOp, h]
  rfl

theorem completeOp_fault_of_found {n : Nat} {f : Flight} {e : Nat × Nat × Nat}
    (h : (s.part p).bench.flight.find? (fun f => f.ident = n) = some f) : completeOp p n (some e) s =
      programFault { p, st := f.st, code := e.1, addr := f.addr, opTag := f.opTag, idx := e.2.1, extra := e.2.2 }
        (completeOp p n none s) := by
  simp only [completeOp, h]

theorem completeOp_stream_of_found {n : Nat} {f : Flight}
    (h : (s.part p).bench.flight.find? (fun f => f.ident = n) = some f) :
    (completeOp p n none s).stream p f.st = untagged f (s.stream p f.st) := by
  rw [completeOp_of_found h, State.updStream_stream, updBench_stream]
  rfl

theorem completeOp_stream_of_ne {n : Nat} {f : Flight} {x : Strm}
    (h : (s.part p).bench.flight.find? (fun f => f.ident = n) = some f) (hx : x ≠ f.st) :
    (completeOp p n none s).stream p x = s.stream p x := by
  rw [completeOp_of_found h, State.updStream_stream_of_ne _ _ hx, updBench_stream]
  rfl

theorem untagged_tag {f : Flight} {x : Stream} (h : f.outTag ≠ 0) (hs : Map.sorted x.tags = true) :
    (untagged f x).tag f.outTag = x.tag f.outTag - 1 := by
  rw [untagged, if_neg h]
  exact Map.getD_setD_self hs

@[simp] theorem untagged_state {f : Flight} {x : Stream} : (untagged f x).state = x.state := by
  unfold untagged
  split
  · rfl
  · rfl

@[simp] theorem untagged_head {f : Flight} {x : Stream} : (untagged f x).head = x.head := by
  unfold untagged
  split
  · rfl
  · rfl

theorem completeOp_part_of_ne {n : Nat} {q : Part} (hq : q ≠ p) : (completeOp p n none s).part q = s.part q := by
  unfold completeOp
  split
  · rfl
  · exact (State.updStream_part_of_ne _ _ hq _ _).trans (State.updBench_part_of_ne _ _ hq _)

theorem completeOp_stitches {n : Nat} : (completeOp p n none s).stitches = s.stitches := by
  unfold completeOp
  split
  · rfl
  · rfl

end Sys2Proof.Machine

namespace Sys2Proof
open Machine

/-- Settles O27: issue is `tagged` of its stream, completion `untagged`, and a fault follows the completion. -/
theorem tagsCountOperationsInFlight : Obligations.TagsCountOperationsInFlight := by
  refine ⟨fun b addr kind opTag foot s => ?_, fun p ident f s hf => ?_, fun p ident code idx extra f s hf => ?_⟩
  · refine ⟨fun h => ?_, fun h => ?_, ?_, rfl⟩
    · rw [takeFlight_stream, tagged_tag h]
    · rw [takeFlight_stream, tagged, if_pos h]
    · rw [takeFlight_flight, List.length_append, List.length_singleton]
  · obtain ⟨_, _, hflight⟩ := completeOp_none_bench (p := p) (n := ident) (s := s)
    refine ⟨hflight, fun h hs => ?_, ?_, ?_, fun x hx => completeOp_stream_of_ne hf hx,
      fun q hq => completeOp_part_of_ne hq, completeOp_none_mem, completeOp_stitches⟩
    · rw [completeOp_stream_of_found hf, untagged_tag h hs]
    · rw [completeOp_stream_of_found hf, untagged_state]
    · rw [completeOp_stream_of_found hf, untagged_head]
  · exact completeOp_fault_of_found hf

end Sys2Proof
end

section
/-!
Plate control, and the end of a VRUN by PLATE_FIELD (R242, R244, R245, R254).
-/
namespace Sys2Proof.Machine

variable {h : PlateHdr} {i : Inst} {rest : List Inst} {p : Part} {s t : State}

/-! ### Control (R242, R244) -/

theorem haltInst_of_runs (r : Runs h i rest s) : haltInst h s =
    if vrunRuns (setInsts h.p h.plate.val rest s) h.p i.vrun then setInsts h.p h.plate.val rest s
    else completeOp h.p i.vrun none (setInsts h.p h.plate.val rest s) := by
  obtain ⟨hi, ha, hr⟩ := r
  simp [haltInst, hi, ha, hr]

theorem loopInst_of_inside {k : Nat} {imm : B32} (h0 : 0 ≤ (i.pc : Int) + imm.toInt) (h1 : (i.pc : Int) + imm.toInt ≤ 2047) :
    let n := i.c.getD k 0 - 1
    loopInst k imm { i with pc := i.pc + 1 } s = .ok ({ i with
      c := setAt i.c k n, pc := if n = 0 then i.pc + 1 else ((i.pc : Int) + imm.toInt).toNat }, s) := by
  intro n
  have hd : ((i.pc + 1 : Nat) : Int) - 1 + imm.toInt = (i.pc : Int) + imm.toInt := by omega
  simp only [loopInst, hd]
  rw [if_neg (by simp; omega)]
  split
  · rfl
  · rfl

/-! ### PLATE_FIELD (R245, R254) -/

theorem plateOp_of_not_held {bad : Bool} {f : Inst → State → PlateOut} (hi : plateInsts s h.p h.plate.val = i :: rest)
    (ha : holdsArray s h.p = false) : plateOp h bad f s = s := by
  simp [plateOp, hi, ha]

theorem plateOp_of_bad {bad : Bool} {f : Inst → State → PlateOut} (hi : plateInsts s h.p h.plate.val = i :: rest)
    (ha : holdsArray s h.p = true) (hb : (h.rsvd || bad) = true) : plateOp h bad f s = failVrun h.p i.vrun ftPlateField s := by
  rw [plateOp, hi]
  simp only [ha, Bool.not_true, Bool.false_eq_true, if_false, hb, if_true]

theorem haltInst_of_not_held (hi : plateInsts s h.p h.plate.val = i :: rest) (ha : holdsArray s h.p = false) :
    haltInst h s = s := by
  simp [haltInst, hi, ha]

theorem haltInst_of_rsvd (hi : plateInsts s h.p h.plate.val = i :: rest) (ha : holdsArray s h.p = true)
    (hr : h.rsvd = true) : haltInst h s = failVrun h.p i.vrun ftPlateField s := by
  simp [haltInst, hi, ha, hr]

theorem arithRnd_of_high {rnd : BitVec 2} (hr : 2 ≤ rnd.toNat) : arithRnd rnd = none := by
  unfold arithRnd
  split
  · omega
  · omega
  · rfl

theorem regOp_of_high {d s1 s2 s3 : BitVec 5} {rnd : BitVec 2} {f : Rnd → List F32 → List F32 → List F32 → List LaneRes}
    (hi : plateInsts s h.p h.plate.val = i :: rest) (ha : holdsArray s h.p = true) (hr : 2 ≤ rnd.toNat) :
    regOp h d s1 s2 s3 rnd f s = .next (failVrun h.p i.vrun ftPlateField s) :=
  congrArg next (plateOp_of_bad hi ha (by simp [arithRnd_of_high hr]))

/-- No completion, with a fault or without one, changes the plates' instances. -/
theorem completeOp_insts {n : Nat} {e : Option (Nat × Nat × Nat)} :
    ((completeOp p n e s).part p).bench.insts = (s.part p).bench.insts := by
  have hn : ((completeOp p n none s).part p).bench.insts = (s.part p).bench.insts := by
    unfold completeOp
    split
    · rfl
    · simp [Bench.land, State.updStream]
  cases e with
  | none => exact hn
  | some e =>
    cases hf : (s.part p).bench.flight.find? (fun f => f.ident = n) with
    | none => simp [completeOp, hf]
    | some f => rw [completeOp_fault_of_found hf, programFault_stops.insts, hn]

theorem vrunRuns_failVrun {n code : Nat} : vrunRuns (failVrun p n code s) p n = false := by
  rw [vrunRuns, failVrun, completeOp_insts]
  simp [dropInsts]

end Sys2Proof.Machine

namespace Sys2Proof
open Machine

/-- Settles O33: each instruction is one change of what runs on its plate, put back with its next instruction. -/
theorem plateControlRuns : Obligations.PlateControlRuns := by
  intro h i rest s r put gone
  refine ⟨next_plateOp_of_runs r rfl rfl, fun hv => congrArg next ((haltInst_of_runs r).trans (if_pos hv)),
    fun hv => congrArg next ((haltInst_of_runs r).trans (if_neg (ne_true_of_eq_false hv))),
    fun k imm hk => ⟨?_, fun h0 h1 => ?_⟩, fun k imm hk => ⟨?_, ?_⟩, fun k imm => next_plateOp_of_runs r rfl rfl⟩
  · exact next_plateOp_of_runs r (by simpa using hk) rfl
  · exact next_plateOp_of_runs r (by simpa using hk) (loopInst_of_inside h0 h1)
  · exact next_plateOp_of_runs r (by simpa using hk) rfl
  · exact next_plateOp_of_runs r (by simpa using hk) rfl

/-- Settles O37: an instruction waits without the array; a field fault ends the VRUN with all its instances. -/
theorem plateFieldFaults : Obligations.PlateFieldFaults := by
  intro h i rest s hi
  refine ⟨fun ha => ⟨congrArg next (plateOp_of_not_held hi ha), congrArg next (haltInst_of_not_held hi ha),
      fun d s1 s2 s3 rnd => congrArg next (plateOp_of_not_held hi ha)⟩,
    fun ha hr => ⟨congrArg next (plateOp_of_bad hi ha (by simp [hr])), congrArg next (haltInst_of_rsvd hi ha hr)⟩,
    fun ha d s1 s2 s3 rnd hr => ⟨regOp_of_high hi ha hr, regOp_of_high hi ha hr, regOp_of_high hi ha hr⟩, vrunRuns_failVrun⟩

end Sys2Proof
end

section
/-!
The stitch operations of the bench (R233, R234, R444 to R448).

A wait or lock registers first, in a step of its own or with its issue, and issues once its request is answered; the other
operations issue with their effect on the stitch.
-/
namespace Sys2Proof.Machine

variable {b : BenchHdr} {p : Part} {st : Strm} {s t : State} {g : Nat} {idx : B16}

/-! ### Stitch operations (R233, R234, R444 to R448) -/

theorem stitch_putStitch {x : Stitch} (h : Map.sorted s.stitches = true) : (putStitch g x s).stitch g = x :=
  Map.getD_setD_self h

theorem runStSignal_of_reached {arg : Nat} (ha : arg < 2 ^ 32)
    (hg : reachStitch s b.p (benchMaster b.p) .signal idx.toNat = .ok g) :
    runStSignal b 63 idx arg s = .ok (signalStitch g arg (issueHead b (afterHead b s) s)) := by
  rw [runStSignal, if_neg (by omega), if_pos rfl, hg]
  rfl

theorem registerWait_of_registered {lock : Bool} {threshold : B32} (h : (s.stream b.p b.st).registered = true) :
    registerWait b lock idx threshold s = s := by
  simp [registerWait, h]

/-- A wait or lock whose request is answered issues. -/
theorem next_waitOp_of_granted {lock bad : Bool} {threshold : B32} (m : MayIssue b s)
    (hr : (s.stream b.p b.st).registered = true) (hg : (s.stream b.p b.st).granted = true) (hb : bad = false) :
    next (waitOp b lock 63 idx threshold bad s) = .next (issueHead b (afterHead b s) s) := by
  rw [waitOp, if_pos rfl, registerWait_of_registered hr]
  exact next_benchOp_of_ok m (by simp [hg]) (by simp [hb, issueDone])

/-- A request that its stitch cannot answer stays registered, and the stream's head with it. -/
theorem registerHead_of_locked {q : StReq} (hl : (s.stitch g).state = .locked)
    (ho : q.lock = true → (s.stitch g).owner.toNat ≠ benchMaster q.p)
    (hw : q.lock = false → (s.stitch g).count.toNat < q.threshold.toNat ∧ (s.stitch g).reqs = [])
    (hs : Map.sorted s.stitches = true) : ∃ t, registerHead g q s = .ok t ∧ t.mem = s.mem ∧
      (t.stitch g).reqs = (s.stitch g).reqs ++ [q] ∧
      t.stream q.p q.st = { s.stream q.p q.st with registered := true } := by
  let x : Stitch := { s.stitch g with reqs := (s.stitch g).reqs ++ [q] }
  let u := (putStitch g x s).updStream q.p q.st fun t => { t with registered := true }
  have hu : u.stitch g = x := stitch_putStitch hs
  have hst : u.stream q.p q.st = { s.stream q.p q.st with registered := true } :=
    State.updStream_stream (putStitch g x s) ..
  have hreg : registerHead g q s = .ok (if q.lock then grantLock g u else checkWaits g u) := by
    rw [registerHead, if_neg (by simp [hl]), if_neg (by simpa [hl] using fun h h' => absurd h' (ho h))]
  refine ⟨_, hreg, ?_⟩
  cases hq : q.lock with
  | true =>
    have hk : grantLock g u = u := by simp [grantLock, hu, x, hl]
    simp only [if_true, hk, hu]
    exact ⟨rfl, rfl, hst⟩
  | false =>
    obtain ⟨hc, hn⟩ := hw hq
    have hk : checkWaits g u = putStitch g x u := by
      simp [checkWaits, hu, x, hn, hq, Nat.not_le.mpr hc]
    have hx : (putStitch g x u).stitch g = x := stitch_putStitch (Map.sorted_setD hs)
    simp only [Bool.false_eq_true, if_false, hk, hx]
    exact ⟨rfl, rfl, hst⟩

/-- A wait or lock at a head that may register does so (R445). -/
theorem registerWait_of_reached {lock : Bool} {threshold : B32} (hr : (s.stream b.p b.st).state = .run)
    (ht : tagsClear b s = true) (hn : (s.stream b.p b.st).registered = false)
    (hg : reachStitch s b.p (benchMaster b.p) (if lock then .lock else .wait) idx.toNat = .ok g)
    (h : registerHead g { p := b.p, st := b.st, lock, threshold, idx } s = .ok t) :
    registerWait b lock idx threshold s = t := by
  simp [registerWait, hr, ht, hn, hg, h]

theorem putStitch_stops {x : Stitch} : Stops s (putStitch g x s) := .of_bench rfl fun _ => rfl

theorem grantHead_stops {q : StReq} : Stops s (grantHead q s) :=
  updStream_stops (fun _ => rfl) (fun _ => rfl) fun _ h => h

theorem grantLock_stops : Stops s (grantLock g s) := by
  unfold grantLock
  extract_lets x
  split
  · exact .refl s
  · split
    · exact .refl s
    · exact putStitch_stops.trans grantHead_stops

theorem runStUnlock_of_owned {x : Stitch} (hx : s.stitch g = x)
    (hg : reachStitch s b.p (benchMaster b.p) .unlock idx.toNat = .ok g) (hl : x.state = .locked)
    (ho : x.owner.toNat = benchMaster b.p) (hs : x.stream = b.st) :
    runStUnlock b 63 idx x.epoch 0 s = .ok (issueHead b (afterHead b s)
      (grantLock g (putStitch g { x with state := .opened, owner := 0xFF, stream := 0 } s))) := by
  have hu : unlockStitch g (benchMaster b.p) b.st x.epoch s =
      .ok (grantLock g (putStitch g { x with state := .opened, owner := 0xFF, stream := 0 } s)) := by
    simp [unlockStitch, hx, hl, ho, hs]
  rw [runStUnlock, if_neg (by simp), if_neg (by simp), hg]
  simp only [hu, issueDone, afterHead, grantLock_stops.head]
  rfl

theorem runStRead_of_reached {dest : Nat} (hd : dest % 8 = 0) (ha : (benchAccess s b.p .w dest 8).1 = none)
    (hg : reachStitch s b.p (benchMaster b.p) .read idx.toNat = .ok g) : runStRead b 63 idx dest s =
      .ok (issueHead b (afterHead b s) (writeNat b.p dest 8 (s.stitch g).word.toNat s)) := by
  have hw : afterHead b (writeNat b.p dest 8 (s.stitch g).word.toNat s) = afterHead b s :=
    congrArg (fun y : Bench => (y.streams.get b.st).head + 16) writeMem_onStore.bench
  rw [runStRead, if_neg (by simp), if_neg (by simp [hd])]
  split
  · rename_i c acc he
    simp [he] at ha
  · rw [hg]
    simp only [issueDone, hw]

end Sys2Proof.Machine

namespace Sys2Proof
open Machine

/-- Settles O25: a wait or lock issues on its answer, and a request that its stitch cannot answer only registers; the others
issue with their change of the stitch, or, of ST_READ, of memory. -/
theorem benchStitchOpsIssue : Obligations.BenchStitchOpsIssue := by
  refine ⟨fun b idx e arg s g m ha hg => next_benchOp_of_ok m rfl (runStSignal_of_reached ha hg),
    fun b idx e arg s m ha hr hg => next_waitOp_of_granted m hr hg (decide_eq_false (Nat.not_le.mpr ha)),
    fun b idx e s m hr hg => next_waitOp_of_granted m hr hg rfl, ?_,
    fun b idx s g m hg hl ho hs => next_benchOp_of_ok m rfl (runStUnlock_of_owned rfl hg hl ho hs),
    fun b idx e dest s g m hd ha hg hh => ?_⟩
  · intro b lock idx threshold s g _ hr ht hn hg hl ho hw hs
    obtain ⟨t, hreg, hmem, hreqs, hst⟩ := registerHead_of_locked
      (q := { p := b.p, st := b.st, lock, threshold, idx }) hl ho hw hs
    refine ⟨t, congrArg next (registerWait_of_reached hr ht hn hg hreg), ?_, ?_, hreqs, hmem⟩
    · rw [hst]
    · rw [hst]
  · have hx := runStRead_of_reached hd ha hg
    show next (settle b.p s (benchOp b _ (runStRead b 63 idx dest.toNat) s)) = _
    rw [benchOp_runs m rfl, hx]
    exact congrArg next (settle_of_not_heldBack ((heldBack_congr rfl).trans hh))

end Sys2Proof
end

section
/-!
Ladles (R231, R232, R511): the copy they take up, and how one ends.
-/
namespace Sys2Proof.Machine

variable {p : Part} {s t : State} {c : CopyOp}

/-! ### Ladles (R231, R232, R511) -/

/-- A choice from a list whose members are all one. -/
theorem foldl_eq_some {α : Type} {f : Option α → α → Option α} {a : α} {l : List α} (h0 : f none a = some a)
    (h1 : f (some a) a = some a) (hl : ∀ x ∈ l, x = a) (hn : l ≠ []) : l.foldl f none = some a := by
  obtain ⟨n, rfl⟩ : ∃ n, l = List.replicate n a := ⟨_, List.eq_replicate_of_mem hl⟩
  cases n with
  | zero => exact absurd rfl hn
  | succ n =>
    rw [List.replicate_succ, List.foldl_cons, h0]
    exact List.foldlRecOn (motive := fun o => o = some a) _ f rfl fun o ho x hx => by
      rw [ho, List.eq_of_mem_replicate hx, h1]

/-- The copies of every partition, with the partition. -/
def allCopies (s : State) : List (Part × CopyOp) := four.flatMap fun p => (s.part p).bench.copies.map fun c => (p, c)

theorem mem_four (q : Part) : q ∈ four := by
  fin_cases q <;> decide

theorem mem_allCopies {e : Part × CopyOp} : e ∈ allCopies s ↔ e.2 ∈ (s.part e.1).bench.copies := by
  obtain ⟨q, x⟩ := e
  simp [allCopies, mem_four]

theorem length_running : ((allCopies s).filter fun e => e.2.running).length =
    ((four.flatMap fun q => (s.part q).bench.copies).filter fun x => x.running).length := by
  have h : (four.flatMap fun q => (s.part q).bench.copies) = (allCopies s).map Prod.snd := by
    simp [allCopies, List.map_flatMap, Function.comp_def]
  rw [h, List.filter_map, List.length_map]
  rfl

theorem ladleStep_of_one (hc : c ∈ (s.part p).bench.copies) (hr : c.running = false)
    (h1 : ∀ q x, x ∈ (s.part q).bench.copies → x.running = false → q = p ∧ x = c)
    (hn : ((four.flatMap fun q => (s.part q).bench.copies).filter fun x => x.running).length < 16) :
    ladleStep s = startCopy p c s := by
  have hl : ¬ ((allCopies s).filter fun e => e.2.running).length ≥ 16 := by
    rw [length_running]
    omega
  have hw : (p, c) ∈ (allCopies s).filter fun e => !e.2.running :=
    List.mem_filter.mpr ⟨mem_allCopies.mpr hc, by simp [hr]⟩
  have h : ∀ e ∈ (allCopies s).filter fun e => !e.2.running, e = (p, c) := by
    intro e he
    obtain ⟨hm, hx⟩ := List.mem_filter.mp he
    obtain ⟨hp, hc⟩ := h1 e.1 e.2 (mem_allCopies.mp hm) (by simpa using hx)
    exact Prod.ext hp hc
  simp only [allCopies] at hl hw h
  simp only [ladleStep]
  rw [if_neg hl, foldl_eq_some rfl (if_neg (Nat.lt_irrefl _)) h (List.ne_nil_of_mem hw)]

theorem startCopy_of_local (h : ∀ src dst n pos, c.kind = .plain src dst n pos ∨ c.kind = .add src dst n pos → pos = 63) :
    startCopy p c s = updCopy p c.ident (fun c => { c with running := true }) s := by
  unfold startCopy
  cases hk : c.kind with
  | plain src dst n pos =>
    simp [h src dst n pos (.inl hk)]
  | add src dst n pos =>
    simp [h src dst n pos (.inr hk)]
  | routed role d sh => rfl

theorem completeOp_copies {n : Nat} : ((completeOp p n none s).part p).bench.copies = (s.part p).bench.copies := by
  unfold completeOp
  split
  · rfl
  · simp [Bench.land, State.updStream]

theorem finishCopy_none_flash {k : Nat} : (finishCopy p c none k s).flash = s.flash := by
  unfold finishCopy completeOp
  dsimp only [Option.map]
  split
  · rfl
  · rfl

theorem finishCopy_none_mem {k : Nat} : (finishCopy p c none k s).mem = s.mem :=
  completeOp_none_mem.trans rfl

theorem finishCopy_none_bench {k : Nat} :
    ((finishCopy p c none k s).part p).bench.copies = ((s.part p).bench.copies.filter fun x => x.ident ≠ c.ident) ∧
      ((finishCopy p c none k s).part p).bench.flight = ((s.part p).bench.flight.filter fun f => f.ident ≠ c.ident) := by
  have hc : ((completeOp p c.ident none (s.updBench p fun y => { y with
      copies := y.copies.filter fun x => x.ident ≠ c.ident })).part p).bench.copies =
      (s.part p).bench.copies.filter fun x => x.ident ≠ c.ident := by
    rw [completeOp_copies, State.updBench_part]
  obtain ⟨_, _, hflight⟩ := completeOp_none_bench (p := p) (n := c.ident) (s := s.updBench p fun y => { y with
    copies := y.copies.filter fun x => x.ident ≠ c.ident })
  refine ⟨hc, hflight.trans ?_⟩
  rw [State.updBench_part]

/-- A sheet that may be read and written is moved, where nothing is in flight beside its copy. -/
theorem moveSheet_of_alone {n a d : Nat} {e : Option Byte} (hs : (benchAccess s p .r a sheetBytes).1 = none)
    (hd : (benchAccess s p .w d sheetBytes).1 = none) (ha : Alone s p (some n)) : moveSheet p n false (e, s) (a, d) =
      (e, writeMem p d (readMem s p (benchMaster p) a sheetBytes) (touchRead p a sheetBytes s)) := by
  have hb : readBeside p (some n) (benchMaster p) a sheetBytes s = (readMem s p (benchMaster p) a sheetBytes, s) := by
    rw [readBeside, blurFor_alone ha]
  have hm : rivals (writeMem p d (readMem s p (benchMaster p) a sheetBytes) (touchRead p a sheetBytes s)) p (some n) = [] :=
    (OnStore.rivals writeMem_onStore).trans ((OnStore.rivals touchRead_onStore).trans ha)
  rw [moveSheet]
  -- The two accesses become variables: a match on them would have the kernel evaluate them.
  simp only [Bool.false_eq_true, if_false]
  rw [hb]
  generalize benchAccess s p .r a sheetBytes = x at hs ⊢
  generalize benchAccess s p .w d sheetBytes = y at hd ⊢
  obtain ⟨_, _⟩ := x
  obtain ⟨_, _⟩ := y
  subst hs hd
  rw [writeBeside, smearFor_alone hm]

/-- A copy of one sheet within the module, with nothing in flight beside it, moves the sheet and completes. -/
theorem endCopyOp_of_one {src dst : Nat} (hk : c.kind = .plain src dst 1 63)
    (hs : (benchAccess s p .r (src * 65536) 65536).1 = none) (hd : (benchAccess s p .w (dst * 65536) 65536).1 = none)
    (ha : Alone s p (some c.ident)) : endCopyOp p c s = finishCopy p c none 0
      (writeMem p (dst * 65536) (readMem s p (benchMaster p) (src * 65536) 65536)
        (touchRead p (src * 65536) 65536 s)) := by
  have hpair : sheetPairs src dst 1 = [(src * 65536, dst * 65536)] := by simp [sheetPairs, sheetBytes]
  have hmove : moveSheet p c.ident false (none, s) (src * 65536, dst * 65536) =
      (none, writeMem p (dst * 65536) (readMem s p (benchMaster p) (src * 65536) 65536)
        (touchRead p (src * 65536) 65536 s)) := moveSheet_of_alone hs hd ha
  simp only [endCopyOp, hk, hpair, List.foldl_cons, List.foldl_nil, hmove, if_true]

theorem endCopyOp_of_remote {src dst n pos : Nat} (hk : c.kind = .plain src dst n pos) (hp : pos ≠ 63) :
    endCopyOp p c s = if c.waits.isEmpty then finishCopy p c c.fault c.detail s else s := by
  simp [endCopyOp, hk, hp]

theorem exec_copyComplete_of_settled {n : Nat}
    (hf : (s.part p).bench.copies.find? (fun x => x.ident = n && x.running) = some c)
    (hh : heldBack s (endCopyOp p c s) = false) : exec (.copyComplete p n) s = .next (endCopyOp p c s) := by
  show execCopyComplete p n s = _
  rw [execCopyComplete, hf]
  exact congrArg next (settle_of_not_heldBack hh)

end Sys2Proof.Machine

namespace Sys2Proof
open Machine

/-- Settles O31: the one waiting copy is the ladles' choice; a sheet within the module is moved by one write, and a copy to
another position ends once it waits for no message. -/
theorem copiesRun : Obligations.CopiesRun := by
  refine ⟨fun s p c hc hr h1 hn hk => congrArg next ((ladleStep_of_one hc hr h1 hn).trans (startCopy_of_local hk)),
    fun s p c src dst hf hk hs hd ha => ?_,
    fun s p c src dst n pos hf hk hp => ⟨fun hw => ?_, fun hw hn => ?_⟩⟩
  · intro t hh
    have he := endCopyOp_of_one hk hs hd ha
    rw [exec_copyComplete_of_settled hf, he]
    · rfl
    · rw [he]
      exact (heldBack_congr finishCopy_none_flash).trans hh
  · have he : endCopyOp p c s = s := (endCopyOp_of_remote hk hp).trans (if_neg (by simpa using hw))
    rw [exec_copyComplete_of_settled hf, he]
    rw [he]
    exact heldBack_of_flash_eq rfl
  · have he : endCopyOp p c s = finishCopy p c none c.detail s := by
      rw [endCopyOp_of_remote hk hp, hw, hn]
      rfl
    refine ⟨_, exec_copyComplete_of_settled hf ?_, ?_⟩
    · rw [he]
      exact heldBack_of_flash_eq finishCopy_none_flash
    · rw [he]
      exact ⟨finishCopy_none_mem, finishCopy_none_bench⟩

end Sys2Proof
end

section
/-!
Operations that stay in flight (R196, R210 to R212, R218, R230, R241, R285, R311).

Such an operation leaves its head issued, its place among those in flight (`flown`), and its entry in a queue. `Sent` says
the first two, and an entry and the read of a record keep it.
-/
namespace Sys2Proof.Machine

variable {b : BenchHdr} {p : Part} {s t u : State} {kind : FlightKind} {opTag : B32} {foot : Foot}

/-! ### Taking flight (R196, R205, R207) -/

/-- The head has issued as an operation in flight. -/
def flown (b : BenchHdr) (kind : FlightKind) (opTag : B32) (foot : Foot) (s : State) : State :=
  (takeFlight b (s.stream b.p b.st).head kind opTag foot (issueHead b (afterHead b s) s)).2

/-- The place in flight that the head takes. -/
def flightOf (b : BenchHdr) (kind : FlightKind) (opTag : B32) (foot : Foot) (s : State) : Flight :=
  { ident := s.array.nextOp, st := b.st, outTag := b.outTag, addr := (s.stream b.p b.st).head, kind, opTag, foot
    live := s.array.live, mates := (s.part b.p).bench.flight.map Flight.ident }

theorem updStream_part {st : Strm} {f : Stream → Stream} : (s.updStream p st f).part p = { s.part p with
    bench := { (s.part p).bench with streams := (s.part p).bench.streams.modify st f } } :=
  State.updBench_part ..

theorem takeFlight_part {addr : B64} : (takeFlight b addr kind opTag foot s).2.part b.p = { s.part b.p with
    bench := { (s.part b.p).bench with
      streams := (s.part b.p).bench.streams.modify b.st (tagged b)
      flight := (s.part b.p).bench.flight ++ [{ flightOf b kind opTag foot s with addr }] } } := by
  have he : (takeFlight b addr kind opTag foot s).2 =
      ((setArray { s.array with nextOp := s.array.nextOp + 1 } s).updStream b.p b.st (tagged b)).updBench b.p
        fun y => { y with flight := y.flight ++ [{ flightOf b kind opTag foot s with
          addr, mates := y.flight.map Flight.ident }] } := rfl
  rw [he, State.updBench_part, updStream_part, setArray_part]
  rfl

/-- The stream of a head that issues, with `n` its next head. -/
def issuedTo (n : B64) (x : Stream) : Stream :=
  { x with issued := satAdd x.issued 1, head := n, registered := false, granted := false }

theorem issueHead_eq {n : B64} : issueHead b n s = s.updStream b.p b.st (issuedTo n) := rfl

/-- Of its partition, the head and the flight list change alone. -/
theorem flown_part : (flown b kind opTag foot s).part b.p = { s.part b.p with
    bench := { (s.part b.p).bench with
      streams := ((s.part b.p).bench.streams.modify b.st (issuedTo (afterHead b s))).modify b.st (tagged b)
      flight := (s.part b.p).bench.flight ++ [flightOf b kind opTag foot s] } } := by
  have hf : { flightOf b kind opTag foot (issueHead b (afterHead b s) s) with addr := (s.stream b.p b.st).head } =
      flightOf b kind opTag foot s := by
    rw [flightOf, issueHead_eq, updStream_part]
    rfl
  rw [flown, takeFlight_part, hf, issueHead_eq, updStream_part]

theorem flown_stream : (flown b kind opTag foot s).stream b.p b.st =
    tagged b (issuedTo (afterHead b s) (s.stream b.p b.st)) := by
  rw [State.stream, flown_part]
  simp only [Quad.get_modify_self]
  rfl

@[simp] theorem tagged_head {x : Stream} : (tagged b x).head = x.head := by
  unfold tagged
  split
  · rfl
  · rfl

@[simp] theorem tagged_issued {x : Stream} : (tagged b x).issued = x.issued := by
  unfold tagged
  split
  · rfl
  · rfl

@[simp] theorem tagged_state {x : Stream} : (tagged b x).state = x.state := by
  unfold tagged
  split
  · rfl
  · rfl

/-- What an operation that stays in flight leaves of its stream, memory and the flight list. -/
structure Sent (b : BenchHdr) (kind : FlightKind) (opTag : B32) (s t : State) : Prop where
  head   : (t.stream b.p b.st).head = (s.stream b.p b.st).head + 16
  issued : (t.stream b.p b.st).issued = satAdd (s.stream b.p b.st).issued 1
  state  : (t.stream b.p b.st).state = .run
  mem    : t.mem = s.mem
  flight : ∃ foot, (t.part b.p).bench.flight = (s.part b.p).bench.flight ++ [flightOf b kind opTag foot s]
  tag    : b.outTag ≠ 0 → (t.stream b.p b.st).tag b.outTag = (s.stream b.p b.st).tag b.outTag + 1

theorem state_of_mayIssue (m : MayIssue b s) : (s.stream b.p b.st).state = .run := by
  have h := m.1
  simp only [headReady, Bool.and_eq_true, decide_eq_true_eq] at h
  obtain ⟨⟨⟨⟨h, _⟩, _⟩, _⟩, _⟩ := h
  exact h

theorem sent_flown (hr : (s.stream b.p b.st).state = .run) : Sent b kind opTag s (flown b kind opTag foot s) where
  head := by rw [flown_stream, tagged_head]; rfl
  issued := by rw [flown_stream, tagged_issued]; rfl
  state := by rw [flown_stream, tagged_state]; exact hr
  mem := rfl
  flight := ⟨foot, by rw [flown_part]⟩
  tag h := by rw [flown_stream, tagged_tag h]; rfl

/-- A later change that keeps the stream, memory and the flight list. -/
theorem Sent.keep (h : Sent b kind opTag s t) (hs : (u.part b.p).bench.streams = (t.part b.p).bench.streams)
    (hf : (u.part b.p).bench.flight = (t.part b.p).bench.flight) (hm : u.mem = t.mem) : Sent b kind opTag s u := by
  have hx : u.stream b.p b.st = t.stream b.p b.st := congrArg (fun q : Quad Stream => q.get b.st) hs
  obtain ⟨head, issued, state, mem, flight, tag⟩ := h
  exact ⟨by rw [hx, head], by rw [hx, issued], by rw [hx, state], hm.trans mem, by rwa [hf], fun ht => by rw [hx, tag ht]⟩

theorem Sent.updBench {f : Bench → Bench} (h : Sent b kind opTag s t) (hs : ∀ y, (f y).streams = y.streams)
    (hf : ∀ y, (f y).flight = y.flight) : Sent b kind opTag s (t.updBench b.p f) :=
  h.keep (by rw [State.updBench_part, hs]) (by rw [State.updBench_part, hf]) rfl

theorem Sent.updVeto {f : Veto → Veto} (h : Sent b kind opTag s t) : Sent b kind opTag s (t.updVeto b.p f) :=
  h.keep (by rw [State.updVeto_part]) (by rw [State.updVeto_part]) rfl

theorem Sent.updPln {f : Planisher → Planisher} (h : Sent b kind opTag s t) : Sent b kind opTag s (t.updPln b.p f) :=
  h.keep (by rw [State.updPln_part]) (by rw [State.updPln_part]) rfl

theorem Sent.touchRead {a n : Nat} (h : Sent b kind opTag s t) : Sent b kind opTag s (touchRead b.p a n t) :=
  h.keep (congrArg Bench.streams touchRead_onStore.bench) (congrArg Bench.flight touchRead_onStore.bench)
    (touchRead_unmoved ..).mem

theorem Sent.setInsts {k : Nat} {l : List Inst} (h : Sent b kind opTag s t) :
    Sent b kind opTag s (setInsts b.p k l t) := h.updBench (fun _ => rfl) fun _ => rfl

/-! ### Slots (R210, R256) -/

theorem noteSlotWait_of_free {free : State → Bool} (h : free s = true) : noteSlotWait b free s = s :=
  if_neg (by simp [h])

/-- An operation that finds its slots issues. -/
theorem next_benchOp_of_slots {ready free : State → Bool} {run : State → Except Halt State} (m : MayIssue b s)
    (hf : free s = true) (hr : ready s = true) (h : run s = .ok t) :
    next (benchOp b ready run (noteSlotWait b free s)) = .next t := by
  rw [noteSlotWait_of_free hf]
  exact next_benchOp_of_ok m hr h

/-! ### ARRAY (R211, R213) -/

/-- The operation that an ARRAY puts into the queue. -/
def arrayOpOf (b : BenchHdr) (d : ArrayDesc) (s : State) : ArrayOp :=
  { ident := s.array.nextOp, st := b.st, outTag := b.outTag, addr := (s.stream b.p b.st).head, desc := d
    shares := sharesFor s b.p d.opTag, drawPos := (s.stream b.p b.st).drawPos
    lost := (latchOf s b.p d.opTag).any fun l => l.lost }

theorem runArray_of_ok {desc : Addr} {d : ArrayDesc} (hd : fetchDesc s b.p desc.toNat = .ok d) (hl : anyLive s = true)
    (hf : descFault s b.p d (sharesFor s b.p d.opTag) = none) : ∃ foot, runArray b desc s =
      .ok ((touchRead b.p desc.toNat 128 (flown b .array d.opTag foot s)).updBench b.p fun y => { y with
        latches := y.latches.map fun l => if l.opTag = d.opTag then { l with issued := true } else l
        arrayQ := y.arrayQ ++ [arrayOpOf b d s] }) := by
  refine ⟨arrayFoot d (sharesFor s b.p d.opTag), ?_⟩
  rw [runArray, hd]
  simp only [hl, hf, Bool.not_true, Bool.false_eq_true, if_false]
  rfl

theorem exec_array_of_ok {desc : Addr} {d : ArrayDesc} (m : MayIssue b s) (hd : fetchDesc s b.p desc.toNat = .ok d)
    (hl : anyLive s = true) (ha : holdsArray s b.p = true)
    (hs : slotsFree s b.p (platesOf fun q => (sharesFor s b.p d.opTag).get q ≠ 0) = true)
    (hf : descFault s b.p d (sharesFor s b.p d.opTag) = none) : ∃ t, exec (.array b desc) s = .next t ∧
      Sent b .array d.opTag s t ∧ (t.part b.p).bench.arrayQ = (s.part b.p).bench.arrayQ ++ [arrayOpOf b d s] := by
  obtain ⟨foot, hrun⟩ := runArray_of_ok hd hl hf
  have hfree : arraySlots s b.p desc = true := by
    rw [arraySlots, hd]
    exact hs
  have hb : ((touchRead b.p desc.toNat 128 (flown b .array d.opTag foot s)).part b.p).bench =
      ((flown b .array d.opTag foot s).part b.p).bench := touchRead_onStore.bench
  refine ⟨_, next_benchOp_of_slots (free := fun s => arraySlots s b.p desc) m hfree (by simp [ha, hfree]) hrun,
    (sent_flown (state_of_mayIssue m)).touchRead.updBench (fun _ => rfl) fun _ => rfl, ?_⟩
  rw [State.updBench_part, hb, flown_part]

/-! ### VRUN (R210, R239, R241) -/

theorem plateInsts_setInsts {k : Nat} {i : Inst} {l : List Inst} :
    plateInsts (setInsts p k (l ++ [i]) s) p k = l ++ [i] := by
  rw [plateInsts, setInsts, State.updBench_part]
  exact Map.getD_setD_of_ne_default (by simp)

theorem runVrun_of_one {first last : Byte} {entry : BitVec 11} {seed : BitVec 6} {launch : Addr} {r : List Byte} {k : Nat}
    (hn : first.toNat ≤ last.toNat) (hr : fetchRec s b.p launch.toNat 64 64 = .ok r) (hz : leNat (r.drop 60) = 0)
    (hl : anyLive s = true) (hk : vrunPlates s first last = [k]) : runVrun b first last entry seed launch s =
      .ok (touchRead b.p launch.toNat 64 (setInsts b.p k (plateInsts s b.p k ++
        [newInst s.array.nextOp entry seed (s.stream b.p b.st).drawPos (launch.setWidth 64) r])
        (flown b .vrun 0 {} s))) := by
  have hi : plateInsts (flown b .vrun 0 {} s) b.p k = plateInsts s b.p k := by
    rw [plateInsts, flown_part]
    rfl
  rw [runVrun, if_neg (Nat.not_lt.mpr hn), hr, ← hi]
  simp only [hz, hl, hk, ne_eq, not_true, if_false, Bool.not_true, Bool.false_eq_true, List.foldl_cons, List.foldl_nil,
    List.isEmpty_cons]
  rfl

theorem exec_vrun_of_one {first last : Byte} {entry : BitVec 11} {seed : BitVec 6} {launch : Addr} {r : List Byte}
    {k : Nat} (m : MayIssue b s) (hn : first.toNat ≤ last.toNat) (hr : fetchRec s b.p launch.toNat 64 64 = .ok r)
    (hz : leNat (r.drop 60) = 0) (hl : anyLive s = true) (ha : holdsArray s b.p = true)
    (hs : slotsFree s b.p (vrunPlates s first last) = true) (hk : vrunPlates s first last = [k]) :
    ∃ t, exec (.vrun b first last entry seed launch) s = .next t ∧ Sent b .vrun 0 s t ∧
      plateInsts t b.p k = plateInsts s b.p k ++
        [newInst s.array.nextOp entry seed (s.stream b.p b.st).drawPos (launch.setWidth 64) r] := by
  refine ⟨_, next_benchOp_of_slots (free := fun s => slotsFree s b.p (vrunPlates s first last)) m hs (by simp [ha, hs])
    (runVrun_of_one hn hr hz hl hk), (sent_flown (state_of_mayIssue m)).setInsts.touchRead, ?_⟩
  rw [plateInsts, touchRead_onStore.bench]
  exact plateInsts_setInsts

/-! ### COPY, COPY_ADD and COPY_ROUTED (R212, R218, R230) -/

theorem queueCopy_eq {k : CopyKind} : queueCopy b k opTag foot s = (flown b .copy opTag foot s).updBench b.p
    fun y => { y with copies := y.copies ++ [{ ident := s.array.nextOp, kind := k }] } := rfl

theorem sent_queueCopy {k : CopyKind} (hr : (s.stream b.p b.st).state = .run) :
    Sent b .copy opTag s (queueCopy b k opTag foot s) := by
  rw [queueCopy_eq]
  exact (sent_flown hr).updBench (fun _ => rfl) fun _ => rfl

theorem queueCopy_bench {k : CopyKind} :
    ((queueCopy b k opTag foot s).part b.p).bench.copies =
        (s.part b.p).bench.copies ++ [{ ident := s.array.nextOp, kind := k }] ∧
      ((queueCopy b k opTag foot s).part b.p).bench.latches = (s.part b.p).bench.latches := by
  rw [queueCopy_eq, State.updBench_part, flown_part]
  exact ⟨rfl, rfl⟩

theorem runCopy_of_ok {add : Bool} {src dst n : Nat} (hs : copyRange s b.p src n = true)
    (hd : copyRange s b.p dst n = true) : ∃ foot, runCopy b add src dst 63 n s =
      .ok (queueCopy b (if add then .add src dst n 63 else .plain src dst n 63) 0 foot s) := by
  rw [runCopy, if_neg (by decide), if_neg (by simp), if_neg (by simp [hs, hd])]
  exact ⟨_, rfl⟩

theorem exec_copy_of_ok {src dst : BitVec 40} {cm1 : Byte} (m : MayIssue b s) (hq : ladleFree s b.p = true)
    (hs : copyRange s b.p src.toNat (cm1.toNat + 1) = true) (hd : copyRange s b.p dst.toNat (cm1.toNat + 1) = true) :
    ∃ t, exec (.copy b src dst 63 cm1) s = .next t ∧ Sent b .copy 0 s t ∧ (t.part b.p).bench.copies =
      (s.part b.p).bench.copies ++ [{ ident := s.array.nextOp, kind := .plain src.toNat dst.toNat (cm1.toNat + 1) 63 }] := by
  obtain ⟨foot, hrun⟩ := runCopy_of_ok (add := false) hs hd
  obtain ⟨hcopies, _⟩ := queueCopy_bench
  exact ⟨_, next_benchOp_of_ok m hq hrun, sent_queueCopy (state_of_mayIssue m), hcopies⟩

theorem exec_copyAdd_of_ok {src dst : BitVec 40} {cm1 : Byte} (m : MayIssue b s) (hq : ladleFree s b.p = true)
    (hs : copyRange s b.p src.toNat (cm1.toNat + 1) = true) (hd : copyRange s b.p dst.toNat (cm1.toNat + 1) = true) :
    ∃ t, exec (.copyAdd b src dst 63 cm1) s = .next t ∧ Sent b .copy 0 s t ∧ (t.part b.p).bench.copies =
      (s.part b.p).bench.copies ++ [{ ident := s.array.nextOp, kind := .add src.toNat dst.toNat (cm1.toNat + 1) 63 }] := by
  obtain ⟨foot, hrun⟩ := runCopy_of_ok (add := true) hs hd
  obtain ⟨hcopies, _⟩ := queueCopy_bench
  exact ⟨_, next_benchOp_of_ok m hq hrun, sent_queueCopy (state_of_mayIssue m), hcopies⟩

theorem runCopyRouted_of_ok {role : Nat} {desc : Addr} {d : ArrayDesc} (hd : fetchDesc s b.p desc.toNat = .ok d)
    (hl : (s.part b.p).bench.latches = []) (hr : role < 2)
    (hi : (d.fmtOf (role % 2 = 0)).inputClass.isSome = true) (hc : d.chain = false)
    (ho : (routes d role s.array.shares).any (fun e => !sliceOk s b.p e.off (e.bytes d)) = false) :
    runCopyRouted b role desc s = .ok (touchRead b.p desc.toNat 128 (queueCopy b (.routed role d s.array.shares) d.opTag
      (routedFoot d role s.array.shares) (s.updBench b.p fun y =>
        { y with latches := y.latches ++ [{ opTag := d.opTag, shares := s.array.shares, st := b.st }] }))) := by
  have hlatch : latchOf s b.p d.opTag = none := by rw [latchOf, hl]; rfl
  have hsh : sharesFor s b.p d.opTag = s.array.shares := by rw [sharesFor, hlatch]
  have h2 : role ≠ 2 := by omega
  have h3 : role ≠ 3 := by omega
  have hn : (d.fmtOf (role % 2 = 0)).inputClass.isNone = false := by simpa using hi
  rw [runCopyRouted, hd]
  simp only [hsh, h2, h3, hn, hc, ho, hlatch, decide_false, Bool.false_and, Bool.or_self, Bool.false_eq_true, if_false,
    Option.isSome_none]

/-- A change of the bench before the head issues, of neither its streams nor its flight list. -/
theorem Sent.of_updBench {f : Bench → Bench} (h : Sent b kind opTag (s.updBench b.p f) t)
    (hs : ∀ y, (f y).streams = y.streams) (hf : ∀ y, (f y).flight = y.flight) : Sent b kind opTag s t := by
  have hx : (s.updBench b.p f).stream b.p b.st = s.stream b.p b.st := by
    rw [updBench_stream, hs]
    rfl
  have hl : ((s.updBench b.p f).part b.p).bench.flight = (s.part b.p).bench.flight := by
    rw [State.updBench_part, hf]
  have hfl (foot : Foot) : flightOf b kind opTag foot (s.updBench b.p f) = flightOf b kind opTag foot s := by
    simp only [flightOf, hx, hl, State.updBench_array]
  obtain ⟨head, issued, state, mem, ⟨foot, flight⟩, tag⟩ := h
  rw [hx] at head issued tag
  exact ⟨head, issued, state, mem, ⟨foot, by rw [flight, hl, hfl]⟩, tag⟩

theorem exec_copyRouted_of_ok {role : BitVec 2} {desc : Addr} {d : ArrayDesc} (m : MayIssue b s)
    (hd : fetchDesc s b.p desc.toNat = .ok d) (hq : ladleFree s b.p = true)
    (hl : (s.part b.p).bench.latches = []) (hr : role.toNat < 2)
    (hi : (d.fmtOf (role.toNat % 2 = 0)).inputClass.isSome = true) (hc : d.chain = false)
    (ho : (routes d role.toNat s.array.shares).any (fun e => !sliceOk s b.p e.off (e.bytes d)) = false) :
    ∃ t, exec (.copyRouted b role desc) s = .next t ∧ Sent b .copy d.opTag s t ∧
      (t.part b.p).bench.latches = [{ opTag := d.opTag, shares := s.array.shares, st := b.st }] ∧
      (t.part b.p).bench.copies = (s.part b.p).bench.copies ++
        [{ ident := s.array.nextOp, kind := .routed role.toNat d s.array.shares }] := by
  let u := s.updBench b.p fun y =>
    { y with latches := y.latches ++ [{ opTag := d.opTag, shares := s.array.shares, st := b.st }] }
  have hroom : routedRoom s b.p desc = true := by simp [routedRoom, hq, hd, hl]
  have hu : (u.stream b.p b.st).state = .run := by
    rw [updBench_stream]
    exact state_of_mayIssue m
  obtain ⟨hcopies, hlatches⟩ := queueCopy_bench (b := b) (s := u) (opTag := d.opTag)
    (foot := routedFoot d role.toNat s.array.shares) (k := .routed role.toNat d s.array.shares)
  refine ⟨_, next_benchOp_of_ok m hroom (runCopyRouted_of_ok hd hl hr hi hc ho),
    (Sent.of_updBench (sent_queueCopy hu) (fun _ => rfl) fun _ => rfl).touchRead, ?_, ?_⟩
  · rw [touchRead_onStore.bench, hlatches, State.updBench_part]
    simp [hl]
  · rw [touchRead_onStore.bench, hcopies, State.updBench_part]
    rfl

/-! ### VETO (R285) -/

theorem runVeto_of_one {record : Addr} {r : List Byte} {v : VetoRec} {n : Nat} {o : Obj}
    (hr : fetchRec s b.p record.toNat 64 64 = .ok r) (hv : VetoRec.ofNat (leNat r) = some v) (hres : v.result % 32 = 0)
    (ho : (s.obj? b.p v.group).isSome = true) (hg : groupBufs s b.p v.group = [(n, o)])
    (hb : bufBroken s b.p o = true) : ∃ foot, runVeto b record s = .ok (vetoClosed b.p (touchRead b.p record.toNat 64
      ((flown b .veto 0 foot s).updVeto b.p fun y => { y with pending := y.pending ++
        [{ ident := s.array.nextOp, record := v, toClose := [n], awaited := (s.part b.p).res.members }] }))
          s.array.nextOp) := by
  refine ⟨{ writes := [(v.result, 32)] }, ?_⟩
  have hres' : ((flown b .veto 0 { writes := [(v.result, 32)] } s).part b.p).res = (s.part b.p).res := by rw [flown_part]
  rw [← hres']
  have hn : (s.obj? b.p v.group).isNone = false := by simpa using ho
  rw [runVeto, hr]
  simp only [hv, hres, hn, hg, hb, ne_eq, not_true, if_false, Bool.false_eq_true, Bool.true_or, List.filter_cons,
    if_true, List.filter_nil, List.map_cons, List.map_nil]
  rfl

/-- A VETO with a buffer to close waits for it. -/
theorem vetoClosed_of_waiting {n : Nat} {x : PendingVeto}
    (hf : (s.part p).veto.pending.find? (fun x => x.ident = n) = some x) (hc : x.toClose ≠ []) : vetoClosed p s n = s := by
  rw [vetoClosed, hf]
  exact if_pos (by simp [hc])

theorem OnStore.veto {f : State → State} (h : OnStore f) : ((f s).part p).veto = (s.part p).veto := by
  rw [h.eq_graft, graft_part]

theorem find?_append_new {l : List PendingVeto} {x : PendingVeto} (h : ∀ y ∈ l, y.ident ≠ x.ident) :
    (l ++ [x]).find? (fun y => y.ident = x.ident) = some x := by
  have hl : l.find? (fun y => y.ident = x.ident) = none := List.find?_eq_none.mpr (by simpa using h)
  rw [List.find?_append, hl]
  simp

theorem exec_veto_of_one {record : Addr} {r : List Byte} {v : VetoRec} {n : Nat} {o : Obj} (m : MayIssue b s)
    (hr : fetchRec s b.p record.toNat 64 64 = .ok r) (hv : VetoRec.ofNat (leNat r) = some v) (hres : v.result % 32 = 0)
    (ho : (s.obj? b.p v.group).isSome = true) (hg : groupBufs s b.p v.group = [(n, o)]) (hb : bufBroken s b.p o = true)
    (hn : ∀ y ∈ (s.part b.p).veto.pending, y.ident ≠ s.array.nextOp) :
    ∃ t, exec (.veto b record) s = .next t ∧ Sent b .veto 0 s t ∧ (t.part b.p).veto.pending = (s.part b.p).veto.pending ++
      [{ ident := s.array.nextOp, record := v, toClose := [n], awaited := (s.part b.p).res.members }] := by
  obtain ⟨foot, hrun⟩ := runVeto_of_one hr hv hres ho hg hb
  let x : PendingVeto :=
    { ident := s.array.nextOp, record := v, toClose := [n], awaited := (s.part b.p).res.members }
  let u := (flown b .veto 0 foot s).updVeto b.p fun y => { y with pending := y.pending ++ [x] }
  have hp : ((touchRead b.p record.toNat 64 u).part b.p).veto.pending = (s.part b.p).veto.pending ++ [x] := by
    rw [touchRead_onStore.veto, State.updVeto_part, flown_part]
  have hw : vetoClosed b.p (touchRead b.p record.toNat 64 u) s.array.nextOp = touchRead b.p record.toNat 64 u :=
    vetoClosed_of_waiting (by rw [hp]; exact find?_append_new (x := x) hn) (List.cons_ne_nil n [])
  have hset : settle b.p s (touchRead b.p record.toNat 64 u) = touchRead b.p record.toNat 64 u :=
    settle_of_not_heldBack (touchRead_unmoved b.p record.toNat 64 u).heldBack
  have hu : Sent b .veto 0 s u := (sent_flown (state_of_mayIssue m)).updVeto
  refine ⟨touchRead b.p record.toNat 64 u, ?_, hu.touchRead, hp⟩
  have hop : benchOp b (fun _ => true) (runVeto b record) s = touchRead b.p record.toNat 64 u := by
    rw [benchOp_runs m rfl, hrun]
    exact hw
  exact congrArg next ((congrArg (settle b.p s) hop).trans hset)

/-! ### PLANISH (R311) -/

theorem runPlanish_of_ok {record : Addr} {r : List Byte} {j : Job} (hr : fetchRec s b.p record.toNat 64 64 = .ok r)
    (hj : jobOfRecord (.op s.array.nextOp) record.toNat (leNat r) = .ok j) (hl : anyLive s = true) :
    runPlanish b record s = .ok (touchRead b.p record.toNat 64 ((flown b .planish 0 (jobFoot s b.p j) s).updPln b.p
      fun y => { y with queue := y.queue ++ [j] })) := by
  rw [runPlanish, hr]
  simp only [hj, hl, Bool.not_true, Bool.false_eq_true, if_false]
  rfl

theorem exec_planish_of_ok {record : Addr} {r : List Byte} {j : Job} (m : MayIssue b s)
    (hr : fetchRec s b.p record.toNat 64 64 = .ok r)
    (hj : jobOfRecord (.op s.array.nextOp) record.toNat (leNat r) = .ok j) (hl : anyLive s = true)
    (ha : holdsArray s b.p = true) (hq : (s.part b.p).pln.queue.length < 16) (hs : planishSlots s b.p = true) :
    ∃ t, exec (.planish b record) s = .next t ∧ Sent b .planish 0 s t ∧
      (t.part b.p).pln.queue = (s.part b.p).pln.queue ++ [j] := by
  refine ⟨_, next_benchOp_of_slots (free := fun s => planishSlots s b.p) m hs (by simp [ha, hq, hs])
    (runPlanish_of_ok hr hj hl), (sent_flown (state_of_mayIssue m)).updPln.touchRead, ?_⟩
  rw [touchRead_onStore.pln, State.updPln_part, flown_part]

end Sys2Proof.Machine

namespace Sys2Proof
open Machine

/-- Settles O26: each operation takes its place in flight (`flown`) and joins its queue, and neither the queue nor the read
of its record touches what `Sent` says. -/
theorem benchOpsEnterTheirQueues : Obligations.BenchOpsEnterTheirQueues := by
  intro b s m x n sent
  have hsent {kind : FlightKind} {opTag : B32} {t : State} (h : Sent b kind opTag s t) : sent kind opTag t :=
    ⟨h.head, h.issued, h.state, h.mem, h.flight, fun ht _ => h.tag ht⟩
  refine ⟨fun desc d hd hl ha hs hf => ?_, fun first last entry seed launch r k hn hr hz hl ha hs hk _ => ?_,
    fun src dst cm1 hq hs hd => ⟨?_, ?_⟩, fun role desc d hd hq hl hr hi hc ho => ?_,
    fun record r v h o hr hv hres ho hg hb hn => ?_, fun record r j hr hj hl ha hq hs => ?_⟩
  · obtain ⟨t, he, h, hops⟩ := exec_array_of_ok m hd hl ha hs hf
    exact ⟨t, arrayOpOf b d s, he, hsent h, hops, rfl, rfl, rfl, rfl, rfl⟩
  · obtain ⟨t, he, h, hinsts⟩ := exec_vrun_of_one m hn hr hz hl ha hs hk
    exact ⟨t, _, he, hsent h, hinsts, rfl, rfl, rfl, BitVec.toNat_ofNat ..⟩
  · obtain ⟨t, he, h, hcopies⟩ := exec_copy_of_ok m hq hs hd
    exact ⟨t, he, hsent h, hcopies⟩
  · obtain ⟨t, he, h, hcopies⟩ := exec_copyAdd_of_ok m hq hs hd
    exact ⟨t, he, hsent h, hcopies⟩
  · obtain ⟨t, he, h, hlatches, hcopies⟩ := exec_copyRouted_of_ok m hd hq hl hr hi hc ho
    exact ⟨t, he, hsent h, hlatches, hcopies⟩
  · obtain ⟨t, he, h, hpending⟩ := exec_veto_of_one m hr hv hres ho hg hb hn
    exact ⟨t, he, hsent h, hpending⟩
  · obtain ⟨t, he, h, hqueue⟩ := exec_planish_of_ok m hr hj hl ha hq hs
    exact ⟨t, he, hsent h, hqueue⟩

end Sys2Proof
end

section
/-!
Contributions, the closing of buffers, and verdicts (R269 to R272, R282 to R284, R286, R291, R334).

A contribution that lands goes as its sheet's buffer admits it (`admitLocal`). A buffer that the one waiting VETO's record
fits is closed, one of another step only leaves the VETO's list; either way the VETO still has a buffer to close and waits.
A STANDALONE verdict of a step that no other VETO votes on goes to the registers and the history alone.
-/
namespace Sys2Proof.Machine

variable {p : Part} {s u : State}

/-! ### Contributions (R269 to R272) -/

section contributions

variable {c : Contribution} {b : BufHdr} {e : BufEntry} {o : Obj} {step phase leaf : Nat}

theorem admitLocal_of_open (hp : phase ≤ 1) (hs : step = b.step) (hb : b.state = 0) :
    admitLocal b e step phase leaf = none := by
  simp [admitLocal, Nat.not_lt.mpr hp, hs, hb]

theorem admitLocal_of_stale (hp : phase ≤ 1) (hs : step ≠ b.step) :
    admitLocal b e step phase leaf = some fun b => { b with stale := true } := by
  simp [admitLocal, Nat.not_lt.mpr hp, hs]

theorem admitLocal_of_closed (hp : phase ≤ 1) (hs : step = b.step) (hb : b.state = 2) :
    admitLocal b e step phase leaf = some fun b => { b with late := true } := by
  simp [admitLocal, Nat.not_lt.mpr hp, hs, hb]

/-- The buffer of a contribution is there and not broken, and its sheet may be added to. -/
structure Lands (c : Contribution) (o : Obj) (s : State) : Prop where
  obj    : s.obj? c.p c.handle = some o
  whole  : bufBroken s c.p o = false
  access : checkMem s c.p (0x40 + c.quarter.val) .a ((bufHdr s c.p o).data + c.sheet * sheetBytes) sheetBytes = .ok

/-- What its sheet's buffer makes of a contribution that lands: admitted, or the header bit of its refusal. -/
def verdictOn (c : Contribution) (o : Obj) (s : State) : Option (BufHdr → BufHdr) :=
  admitLocal (bufHdr s c.p o) (bufEntry s c.p (bufHdr s c.p o) c.sheet) (posStep c.drawPos) (posPhase c.drawPos)
    (posLeaf c.drawPos)

/-- An admitted contribution is added to its sheet, and its entry counts it. -/
def addContribution (c : Contribution) (o : Obj) (s : State) : State :=
  let b := bufHdr s c.p o
  let e := (bufEntry s c.p b c.sheet).admitted (posLeaf c.drawPos)
  setBufEntry c.p b c.sheet { e with
    nonfinite := e.nonfinite || c.nonfinite, range := e.range || c.range, inexact := e.inexact || c.inexact }
    (addElements c.p b c.sheet c.adds
      (updArrayOp c.p c.ident (fun y => { y with fxSheets := y.fxSheets ++ [c.sheet] }) s))

theorem admitContribution_of_lands (h : Lands c o s) : admitContribution c s =
    (verdictOn c o s).elim (addContribution c o s) fun why => refuseContribution c.p o why s := by
  -- an arbitrary function in place of `checkMem`, which the kernel would else evaluate where it compares the matches
  obtain ⟨access, hc⟩ : ∃ access, access = checkMem := ⟨_, rfl⟩
  have ha := h.access
  unfold admitContribution verdictOn
  rw [← hc] at ha ⊢
  simp only [h.obj, ha, h.whole, Bool.false_eq_true, if_false]
  split
  · rename_i why hw
    rw [hw]
    rfl
  · rename_i hw
    rw [hw]
    rfl

theorem exec_contributionAdmission_of_not_heldBack {i : Nat} (hc : s.contribs[i]? = some c)
    (hw : heldBack s (admitContribution c { s with contribs := s.contribs.eraseIdx i }) = false) :
    exec (.contributionAdmission i) s = next (admitContribution c { s with contribs := s.contribs.eraseIdx i }) := by
  show execContributionAdmission i s = _
  rw [execContributionAdmission, hc]
  exact congrArg next (settle_of_not_heldBack hw)

end contributions

/-! ### Reads over a grafted store -/

theorem readMem_graft {m a n : Nat} : readMem (s.graft u) p m a n = readMem s p m a n := by
  have hr (i : Nat) (x : Sheet) : readKey (s.graft u) m i x = readKey s m i x := rfl
  simp only [readMem, byteAt, keyAt, graft_part, hr]
  rfl

theorem readNat_graft {m a n : Nat} : readNat (s.graft u) p m a n = readNat s p m a n := congrArg leNat readMem_graft

theorem bufHdr_graft {o : Obj} : bufHdr (s.graft u) p o = bufHdr s p o := congrArg BufHdr.ofNat readNat_graft

theorem bufEntry_graft {b : BufHdr} {n : Nat} : bufEntry (s.graft u) p b n = bufEntry s p b n :=
  congrArg BufEntry.ofNat readNat_graft

theorem updVeto_graft {f : Veto → Veto} : s.updVeto p f = s.graft (s.updVeto p f) :=
  match p with
  | 0 => rfl
  | 1 => rfl
  | 2 => rfl
  | 3 => rfl

theorem bufHdr_updVeto {o : Obj} {f : Veto → Veto} : bufHdr (s.updVeto p f) p o = bufHdr s p o := by
  rw [updVeto_graft, bufHdr_graft]

theorem bufReason_updVeto {o : Obj} {f : Veto → Veto} : bufReason (s.updVeto p f) p o = bufReason s p o := by
  simp only [bufReason, bufHdr_updVeto]
  rfl

/-! ### Pending VETOs (R282 to R284) -/

section vetos

variable {x : PendingVeto} {hd n : Nat} {o : Obj}

/-- A change of the VETO state depends on that state alone. -/
theorem updVeto_congr {f g : Veto → Veto} (h : f (s.part p).veto = g (s.part p).veto) : s.updVeto p f = s.updVeto p g := by
  have e (f : Veto → Veto) : s.updVeto p f = s.updVeto p fun _ => f (s.part p).veto := rfl
  rw [e f, e g, h]

theorem updVeto_self {f : Veto → Veto} (h : f (s.part p).veto = (s.part p).veto) : s.updVeto p f = s :=
  State.upd_self s p _ (by rw [h])

theorem updVeto_updVeto {f g : Veto → Veto} : (s.updVeto p f).updVeto p g = s.updVeto p fun v => g (f v) :=
  State.upd_upd s p _ _

theorem updPending_of_one {f : PendingVeto → PendingVeto} (h : (s.part p).veto.pending = [x]) :
    updPending p x.ident f s = s.updVeto p fun v => { v with pending := [f x] } :=
  updVeto_congr (by simp [h])

theorem updPending_of_not_mem {f : PendingVeto → PendingVeto} (h : n ∉ (s.part p).veto.pending.map PendingVeto.ident) :
    updPending p n f s = s := by
  have hne (x : PendingVeto) (hx : x ∈ (s.part p).veto.pending) : x.ident ≠ n :=
    fun e => h (e ▸ List.mem_map_of_mem hx)
  have hm : ((s.part p).veto.pending.map fun x => if x.ident = n then f x else x) = (s.part p).veto.pending :=
    (List.map_congr_left fun x hx => if_neg (hne x hx)).trans (List.map_id _)
  exact updVeto_self (congrArg (fun l => { (s.part p).veto with pending := l }) hm)

/-- A VETO with a buffer still to close waits. -/
theorem vetoClosed_of_toClose (h : (s.part p).veto.pending = [x]) (hc : x.toClose ≠ []) : vetoClosed p s x.ident = s := by
  simp [vetoClosed, h, hc]

/-! ### A buffer that a VETO closes (R282 to R284) -/

theorem closeFor_of_not_awaited (h : ∀ x ∈ (s.part p).veto.pending, hd ∉ x.toClose) : closeFor p hd s = s := by
  have hw : ((s.part p).veto.pending.filter fun x => x.toClose.contains hd) = [] :=
    List.filter_eq_nil_iff.mpr fun x hx => by simpa using h x hx
  rw [closeFor, hw]
  rfl

/-- A buffer does not close while adds of contributions admitted to it are still to come. -/
theorem closeFor_of_addsToCome (ho : s.obj? p hd = some o)
    (hs : ∀ x ∈ (s.part p).veto.pending, hd ∈ x.toClose → x.record.step = (bufHdr s p o).step)
    (hc : closable s p hd = true) (ha : addsToCome s p hd = true) : closeFor p hd s = s := by
  by_cases hn : ∀ x ∈ (s.part p).veto.pending, hd ∉ x.toClose
  · exact closeFor_of_not_awaited hn
  · obtain ⟨x, hx, hm⟩ : ∃ x ∈ (s.part p).veto.pending, hd ∈ x.toClose := by simpa using hn
    have hf : (((s.part p).veto.pending.filter fun x => x.toClose.contains hd).any fun x =>
        bufBroken s p o || decide ((bufHdr s p o).step = x.record.step)) = true :=
      List.any_eq_true.mpr ⟨x, List.mem_filter.mpr ⟨hx, by simpa using hm⟩, by simp [hs x hx hm]⟩
    unfold closeFor
    simp only [ho, hf, hc, ha]
    exact if_pos (Bool.or_true _)

theorem closeBuf_onStore : OnStore (closeBuf p o) := by
  intro s u
  have hscan (b : BufHdr) : OnStore fun s => (List.range b.dataSheets).foldl (fun s n =>
      let e := bufEntry s p b n
      if e.seen ≠ popcount e.lmask * b.parts && !e.torn then setBufEntry p b n { e with torn := true } s else s) s := by
    refine .foldl (fun n s u => ?_) _
    simp only [bufEntry_graft]
    exact ite_graft (writeMem_onStore s u) rfl
  have he (b : BufHdr) (s : State) : bufEntry (s.graft u) p b = bufEntry s p b := funext fun _ => bufEntry_graft
  simp only [closeBuf, bufHdr_graft, hscan (bufHdr s p o) s u, he]
  exact writeMem_onStore _ u

/-- The buffer leaves the VETO's list. -/
def PendingVeto.strike (hd : Nat) (x : PendingVeto) : PendingVeto := { x with toClose := x.toClose.erase hd }

/-- The VETO takes in what a closed buffer with the header `b` and the REASON bits `why` shows. -/
def PendingVeto.gather (b : BufHdr) (why : Nat) (x : PendingVeto) : PendingVeto :=
  { x with reason := x.reason ||| why, dropped := x.dropped ||| BitVec.ofNat 64 b.dropped
           partially := x.partially ||| BitVec.ofNat 64 b.partially }

/-- The registers take in the drops of a closed buffer with the header `b`. -/
def Veto.count (b : BufHdr) (v : Veto) : Veto :=
  { v with dropped := v.dropped ||| BitVec.ofNat 64 b.dropped, partially := v.partially ||| BitVec.ofNat 64 b.partially }

/-- A change of the one pending VETO that leaves it a buffer to close. -/
theorem vetoClosed_updPending {f : PendingVeto → PendingVeto} (hp : (s.part p).veto.pending = [x])
    (hi : (f x).ident = x.ident) (hl : (f x).toClose ≠ []) :
    vetoClosed p (updPending p x.ident f s) x.ident = s.updVeto p fun v => { v with pending := [f x] } := by
  rw [updPending_of_one hp, ← hi]
  exact vetoClosed_of_toClose (by rw [State.updVeto_part]) hl

section one

variable (hp : (s.part p).veto.pending = [x]) (hx : hd ∈ x.toClose) (hl : x.toClose.erase hd ≠ [])
  (ho : s.obj? p hd = some o) (hb : bufBroken s p o = false)
include hp hx hl ho hb

/-- The one VETO that waits for a buffer of its step, and for another buffer, closes it. -/
theorem closeFor_of_closing (hf : (bufHdr s p o).state < 2) (hs : x.record.step = (bufHdr s p o).step)
    (ha : addsToCome s p hd = false) : closeFor p hd s =
      (closeBuf p o s).updVeto p fun v => { v.count (bufHdr (closeBuf p o s) p o) with
        pending := [(x.strike hd).gather (bufHdr (closeBuf p o s) p o) (bufReason (closeBuf p o s) p o)] } := by
  have hfresh : (bufHdr s p o).state ≤ 1 := Nat.le_of_lt_succ hf
  have hrun : closeFor p hd s = vetoClosed p (updPending p x.ident
      (fun y => (y.strike hd).gather (bufHdr (closeBuf p o s) p o) (bufReason (closeBuf p o s) p o))
      ((closeBuf p o s).updVeto p fun v => v.count (bufHdr (closeBuf p o s) p o))) x.ident := by
    simp [closeFor, hp, hx, ho, hb, hs, ha, hfresh, Option.filter, bufReason_updVeto, PendingVeto.gather,
      PendingVeto.strike, Veto.count]
  have hpc : (((closeBuf p o s).updVeto p fun v => v.count (bufHdr (closeBuf p o s) p o)).part p).veto.pending = [x] := by
    rw [State.updVeto_part, closeBuf_onStore.eq_graft, graft_part]
    exact hp
  rw [hrun, vetoClosed_updPending hpc rfl hl, updVeto_updVeto]

/-- The one VETO that waits for a buffer, of another step than the buffer's, strikes it off its list. -/
theorem closeFor_of_other_step (hs : x.record.step ≠ (bufHdr s p o).step) :
    closeFor p hd s = s.updVeto p fun v => { v with pending := [x.strike hd] } := by
  have hrun : closeFor p hd s = vetoClosed p (updPending p x.ident (fun y => y.strike hd) s) x.ident := by
    simp [closeFor, hp, hx, ho, hb, Ne.symm hs, PendingVeto.strike]
  rw [hrun, vetoClosed_updPending hp rfl hl]

end one

theorem exec_bufferClose_of_not_heldBack {h : B32} (hw : heldBack s (closeFor p h.toNat s) = false) :
    exec (.bufferClose p h) s = next (closeFor p h.toNat s) :=
  congrArg next (settle_of_not_heldBack hw)

theorem exec_bufferClose_of_unchanged {h : B32} (hc : closeFor p h.toNat s = s) : exec (.bufferClose p h) s = next s := by
  rw [exec_bufferClose_of_not_heldBack (by rw [hc]; exact heldBack_of_flash_eq rfl), hc]

end vetos

/-! ### STANDALONE verdicts (R286, R291, R334) -/

section verdicts

variable {x : PendingVeto} {step reason : Nat} {skip : Bool} {r : VetoResult}

theorem recordVerdict_mem : ∃ e ∈ ((recordVerdict p step skip reason s).part p).pln.hist,
    e.step = BitVec.ofNat 40 step ∧ e.skip = skip := by
  rw [recordVerdict, State.updPln_part]
  exact ⟨_, List.mem_append_right _ (List.mem_singleton_self _), rfl, rfl⟩

theorem recordVerdict_veto : ((recordVerdict p step skip reason s).part p).veto = (s.part p).veto := by
  rw [recordVerdict, State.updPln_part]

/-- A result of a step that no VETO votes on goes to the registers. -/
theorem applyResult_veto (h : votingFor s p r.step = []) : ((applyResult p r s).part p).veto = { (s.part p).veto with
    vstep := BitVec.ofNat 40 r.step, reason := BitVec.ofNat 8 r.reason, skip := r.skip
    skips := if r.skip then satAdd (s.part p).veto.skips 1 else (s.part p).veto.skips } := by
  simp only [applyResult, h, List.foldl_nil, recordVerdict_veto]
  split
  · rw [(note_only ..).part, State.updVeto_part]
  · rw [State.updVeto_part]

/-- A result of a step that no VETO votes on goes to the history. -/
theorem applyResult_hist (h : votingFor s p r.step = []) :
    ∃ e ∈ ((applyResult p r s).part p).pln.hist, e.step = BitVec.ofNat 40 r.step ∧ e.skip = r.skip := by
  simp only [applyResult, h, List.foldl_nil]
  exact recordVerdict_mem

theorem judgeVeto_of_standalone (hr : (s.part p).cad.role = .standalone)
    (hc : (s.part p).veto.carriedStep ≠ x.record.step) (hrim : x.record.rim = false) (hv : x.record.vlane = false)
    (hn : x.ident ∉ (s.part p).veto.pending.map PendingVeto.ident) : judgeVeto p x s =
      applyResult p { step := x.record.step, skip := decide (x.reason ≠ 0), reason := x.reason, firstPos := 0xFF
                      reported := 0 } s := by
  have hs (f : Veto → Veto) : (s.updVeto p fun v => if v.carriedStep = x.record.step then f v else v) = s :=
    updVeto_self (if_neg hc)
  simp [judgeVeto, hc, hrim, hv, hs, updPending_of_not_mem hn, hr]

end verdicts

end Sys2Proof.Machine

namespace Sys2Proof
open Machine

/-- Settles O32: a contribution that lands is added or refused, as its draw position's step and the buffer's state say. -/
theorem contributionReachesSheet : Obligations.ContributionReachesSheet := by
  intro s i c o u b e hi ho hb hm hw
  have hl : Lands c o u := ⟨ho, hb, hm⟩
  rw [exec_contributionAdmission_of_not_heldBack hi hw, admitContribution_of_lands hl, verdictOn]
  refine ⟨fun hp hs h0 => ?_, fun hp hs => ?_, fun hp hs h2 => ?_⟩
  · rw [admitLocal_of_open hp hs h0]
    rfl
  · rw [admitLocal_of_stale hp hs]
    rfl
  · rw [admitLocal_of_closed hp hs h2]
    rfl

/-- Settles O38: a close that no VETO awaits, or that awaits adds, changes nothing; that of the one VETO's step
closes, that of another step only shortens the list. -/
theorem bufferCloseRuns : Obligations.BufferCloseRuns := by
  intro p handle s
  refine ⟨fun h => ?_, fun o ho hs hc ha => ?_, fun x k o hp hx hk ho hb hf hs ha hw => ?_,
    fun x k o hp hx hk ho hb hs => ?_⟩
  · exact exec_bufferClose_of_unchanged (closeFor_of_not_awaited h)
  · exact exec_bufferClose_of_unchanged (closeFor_of_addsToCome ho hs hc ha)
  · have hm : handle.toNat ∈ x.toClose := by simp [hx]
    have hl : x.toClose.erase handle.toNat = [k] := by simp [hx]
    refine ⟨_, (x.strike handle.toNat).gather (bufHdr (closeBuf p o s) p o) (bufReason (closeBuf p o s) p o),
      exec_bufferClose_of_not_heldBack hw, ?_⟩
    rw [closeFor_of_closing hp hm (by simp [hl]) ho hb hf hs ha, State.updVeto_part]
    exact ⟨rfl, rfl, rfl, hl, rfl, rfl⟩
  · have hm : handle.toNat ∈ x.toClose := by simp [hx]
    have hl : x.toClose.erase handle.toNat = [k] := by simp [hx]
    have hc := closeFor_of_other_step hp hm (by simp [hl]) ho hb hs
    rw [PendingVeto.strike, hl] at hc
    rw [exec_bufferClose_of_not_heldBack (by rw [hc]; exact heldBack_of_flash_eq rfl), hc]

/-- Settles O39: without a carried reason the verdict is the VETO's own, and with no VETO of its step to end it is applied to
the registers and the history alone. -/
theorem standaloneVerdictResolves : Obligations.StandaloneVerdictResolves := by
  intro p x s hr hc hrim hv hvote hn t
  let r : VetoResult := { step := x.record.step, skip := decide (x.reason ≠ 0), reason := x.reason, firstPos := 0xFF
                          reported := 0 }
  have ht : t = applyResult p r s := judgeVeto_of_standalone hr hc hrim hv hn
  rw [ht, applyResult_veto hvote]
  exact ⟨rfl, rfl, rfl, by simp [r], applyResult_hist hvote⟩

end Sys2Proof
end

section
/-!
The planisher's BUF_RESET and DERIVE jobs, and deliveries (R266, R302, R312, R337, R338).

A job's place is followed through the checks of its table and buffer to the state it leaves. The job that ends with its last
place is run no further because the queue is then shorter (`nextEntry_queue_of_last`): the completion of its operation, even
with a program fault and all the streams that stops, touches no planisher (`KeepsPln`).
-/
namespace Sys2Proof.Machine

variable {p : Part} {s t u : State}

/-! ### What leaves every planisher as it is (R251, R252, R317) -/

section kept

/-- Every partition's planisher is as it was. -/
structure KeepsPln (s t : State) : Prop where
  pln : ∀ q, (t.part q).pln = (s.part q).pln

variable {g n : Nat} {st : Strm}

theorem KeepsPln.refl (s : State) : KeepsPln s s := ⟨fun _ => rfl⟩

theorem KeepsPln.trans (h : KeepsPln s t) (k : KeepsPln t u) : KeepsPln s u := ⟨fun q => (k.pln q).trans (h.pln q)⟩

theorem KeepsPln.foldl {α : Type} {f : State → α → State} (h : ∀ s a, KeepsPln s (f s a)) (l : List α) :
    KeepsPln s (l.foldl f s) :=
  List.foldlRecOn (motive := KeepsPln s) l f (.refl s) fun t k a _ => k.trans (h t a)

/-- A change of one partition that is none of its planisher's. -/
theorem upd_keepsPln {f : PartState → PartState} (h : ∀ x, (f x).pln = x.pln) : KeepsPln s (s.upd p f) := by
  refine ⟨fun q => ?_⟩
  by_cases hq : q = p
  · subst hq
    rw [State.upd_part, h]
  · rw [State.upd_part_of_ne _ _ hq]

theorem updStc_keepsPln {f : StcRegs → StcRegs} : KeepsPln s (s.updStc p f) := upd_keepsPln fun _ => rfl

theorem updBench_keepsPln {f : Bench → Bench} : KeepsPln s (s.updBench p f) := upd_keepsPln fun _ => rfl

theorem updStream_keepsPln {f : Stream → Stream} : KeepsPln s (s.updStream p st f) := updBench_keepsPln

theorem putStitch_keepsPln {x : Stitch} : KeepsPln s (putStitch g x s) := ⟨fun _ => rfl⟩

theorem HostOnly.keepsPln (k : HostOnly p s t) : KeepsPln s t := by
  refine ⟨fun q => ?_⟩
  by_cases hq : q = p
  · subst hq
    rw [k.part]
  · rw [k.part_of_ne hq]

theorem unregister_keepsPln : KeepsPln s (unregister p st s) := by
  refine KeepsPln.trans ?_ updStream_keepsPln
  exact ⟨fun _ => rfl⟩

theorem stopStream_keepsPln {f : FaultAt} : KeepsPln s (stopStream f s) := by
  refine KeepsPln.trans (KeepsPln.trans (KeepsPln.trans ?_ unregister_keepsPln) (note_only ..).keepsPln)
    (raiseIrq_only ..).keepsPln
  exact updStream_keepsPln

theorem breakStitch_keepsPln : KeepsPln s (breakStitch g s).1 := by
  unfold breakStitch
  refine KeepsPln.trans ?_ (.foldl (fun _ _ => updStc_keepsPln.trans updStream_keepsPln) _)
  split
  · exact putStitch_keepsPln
  · exact (putStitch_keepsPln.trans updStc_keepsPln).trans (note_only ..).keepsPln

theorem breakEach_keepsPln {l : List Nat} : KeepsPln s (breakEach l s).1 := by
  induction l generalizing s with
  | nil => exact .refl s
  | cons g l ih => exact breakStitch_keepsPln.trans ih

theorem runFaults_keepsPln {l : List FaultAt} : KeepsPln s (runFaults n l s) := by
  induction n generalizing l s with
  | zero => exact .refl s
  | succ n ih =>
    cases l with
    | nil => exact .refl s
    | cons f l => exact (stopStream_keepsPln.trans breakEach_keepsPln).trans ih

/-- An operation that completes leaves the planisher as it is, whatever streams its fault stops. -/
theorem completeOp_keepsPln {fault : Option (Nat × Nat × Nat)} : KeepsPln s (completeOp p n fault s) := by
  unfold completeOp
  split
  · exact .refl s
  · extract_lets u v
    have hv : KeepsPln s v := KeepsPln.trans updBench_keepsPln updStream_keepsPln
    split
    · exact hv
    · exact hv.trans runFaults_keepsPln

end kept

/-! ### The end of a job (R317) -/

section jobs

variable {j : Job} {rest : List Job} {n : Nat} {fault : Option Nat} {w : EntryWork}

/-- A change of the planisher depends on the planisher alone. -/
theorem updPln_congr {f g : Planisher → Planisher} (h : f (s.part p).pln = g (s.part p).pln) :
    s.updPln p f = s.updPln p g := by
  have e (f : Planisher → Planisher) : s.updPln p f = s.updPln p fun _ => f (s.part p).pln := rfl
  rw [e f, e g, h]

theorem updJob_of_queue {f : Job → Job} (h : (s.part p).pln.queue = j :: rest) :
    updJob p f s = s.updPln p fun y => { y with queue := f j :: rest } :=
  updPln_congr (by simp [h])

/-- The job of an operation that ends leaves the queue. -/
theorem finishJob_queue (hq : (s.part p).pln.queue = j :: rest) (hj : j.source = .op n) :
    ((finishJob p fault s).part p).pln.queue = rest := by
  simp only [finishJob, hq, hj]
  rw [completeOp_keepsPln.pln, State.updPln_part]

theorem nextEntry_queue_of_last (hq : (s.part p).pln.queue = j :: rest) (hj : j.source = .op n)
    (hn : j.count ≤ j.next + 1) : ((nextEntry p s).part p).pln.queue = rest := by
  unfold nextEntry
  extract_lets v
  have hv : (v.part p).pln.queue = { j with next := j.next + 1, waiting := false } :: rest := by
    simp [v, updJob, hq]
  simp only [hv]
  rw [if_pos hn, finishJob_queue hv hj]

/-- A job that ends with an entry is run no further. -/
theorem runEntries_of_shorter {code k : Nat} {one : Part → Job → State → State} (hj : jobReady s p code = some j)
    (h : ((one p j s).part p).pln.queue.length < (s.part p).pln.queue.length) :
    runEntries p code one (k + 1) s = one p j s := by
  simp only [runEntries, hj]
  exact if_pos h

theorem smearJob_of_alone (hq : (s.part p).pln.queue = j :: rest) (ha : Alone s p (jobRuns s p j).1) :
    smearJob p s = s := by
  simp only [smearJob, hq]
  exact smearFor_alone ha

theorem blurJob_of_alone (hq : (s.part p).pln.queue = j :: rest) (ha : Alone s p (jobRuns s p j).1) :
    blurJob p s = s := by
  simp only [blurJob, hq]
  exact blurFor_alone ha

/-! ### What a read leaves to be read (R348) -/

section reads

variable {q : Part} {a k b m i : Nat}

theorem findObj_congr {r t : TierRegs} (h : t.objects = r.objects) : findObj t a = findObj r a :=
  congrArg (List.find? _) h

theorem keyAt_touchRead : keyAt (touchRead p a k s) q m b = keyAt s q m b := by
  have hr (i : Nat) (x : Sheet) : readKey (touchRead p a k s) m i x = readKey s m i x := by
    simp only [readKey, inOverlay, (touchRead_unmoved p a k s).overlay, (touchRead_unmoved p a k s).waits]
    rfl
  simp only [keyAt, findObj_congr touchRead_objects, hr]

theorem readMem_touchRead : readMem (touchRead p a k s) q m b i = readMem s q m b i := by
  simp only [readMem, byteAt, keyAt_touchRead, State.cell, (touchRead_unmoved p a k s).mem]

theorem readNat_touchRead : readNat (touchRead p a k s) q m b i = readNat s q m b i :=
  congrArg leNat readMem_touchRead

theorem bufAt_touchRead : bufAt (touchRead p a k s) q b = bufAt s q b := congrArg (List.find? _) touchRead_objects

theorem obj?_touchRead : (touchRead p a k s).obj? q b = s.obj? q b :=
  congrArg (fun l => Map.find? l b) touchRead_objects

end reads

/-! ### BUF_RESET (R266, R312) -/

theorem zeroSheets_onStore {a k : Nat} : OnStore (zeroSheets p a k) := by
  induction k with
  | zero => exact .id
  | succ k ih =>
    intro s u
    rw [zeroSheets, zeroSheets, writeMem_onStore, ih]

theorem resetBuf_onStore {o : Obj} {step expect : Nat} : OnStore (resetBuf p o step expect) := by
  intro s u
  unfold resetBuf
  extract_lets b₀ b v w
  have hv : v = w.graft u := (congrArg (setBufHdr p o b) (zeroSheets_onStore s u)).trans (writeMem_onStore _ u)
  rw [hv]
  simp only [graft_part]
  split
  · exact graft_updTier
  · rfl

variable {hd : Nat} {o : Obj}

/-- A BUF_RESET job at a buffer that is neither broken nor CLOSING, and whose sheets admit the reset. -/
theorem resetOne_of_free (ha : firstRefusal s p [(.r, j.table + 8 * j.next, 8)] = none)
    (ht : touchRead p (j.table + 8 * j.next) 8 s = t)
    (hb : bufAt t p (readNat t p plnMaster (j.table + 8 * j.next) 8) = some (hd, o)) (hw : bufBroken t p o = false)
    (hc : (bufHdr t p o).state ≠ 1) (hr : firstRefusal t p [(.r, o.base, 64)] = none)
    (hz : firstRefusal t p [(.w, o.base, o.sheets * sheetBytes)] = none)
    (hu : smearJob p (resetBuf p o j.step j.expect.toNat t) = u) : resetOne p j s = nextEntry p u := by
  simp [resetOne, ha, ht, hb, hw, hc, hr, hz, hu]

theorem exec_bufResetJob_of_last (hj : jobReady s p 2 = some j)
    (hl : ((resetOne p j s).part p).pln.queue.length < (s.part p).pln.queue.length)
    (hw : heldBack s (resetOne p j s) = false) : exec (.bufResetJob p) s = next (resetOne p j s) := by
  have hr : runEntries p 2 resetOne 65537 s = resetOne p j s := runEntries_of_shorter hj hl
  show next (settle p s (runEntries p 2 resetOne 65537 s)) = _
  rw [hr, settle_of_not_heldBack hw]

/-! ### DERIVE (R302, R312) -/

/-- An entry that DERIVE may work on begins. -/
theorem deriveOne_of_ok {e : Entry} (ha : firstRefusal s p [(.r, j.table + 128 * j.next, 128)] = none)
    (ht : touchRead p (j.table + 128 * j.next) 128 s = t)
    (he : Entry.ofNat (readNat t p plnMaster (j.table + 128 * j.next) 128) = e) (hb : e.bad = false)
    (ho : t.obj? p e.object = some o) (hc : copiesStriped t p e = false) (hr : firstRefusal t p e.deriveAreas = none) :
    deriveOne p j s = t.updPln p fun y => { y with
      entry := some { addr := j.table + 128 * j.next, step := 0, handle := 0, unit := 0, hyper := [] } } := by
  simp [deriveOne, ha, ht, he, hb, ho, hc, hr]

theorem exec_derive_of_ready (hj : jobReady s p 3 = some j) (he : (s.part p).pln.entry = none)
    (hw : heldBack s (deriveOne p j s) = false) : exec (.derive p) s = next (deriveOne p j s) := by
  have hd : deriveStep p s = deriveOne p j s := by
    simp [deriveStep, hj, he]
  show next (settle p s (deriveStep p s)) = _
  rw [hd, settle_of_not_heldBack hw]

theorem jobReady_eq {code : Nat} (hj : jobReady s p code = some j) :
    j.code = code ∧ ∃ rest, (s.part p).pln.queue = j :: rest := by
  unfold jobReady at hj
  split at hj
  · rename_i i rest hq
    split at hj
    · rename_i h
      obtain rfl := Option.some.inj hj
      simp only [Bool.and_eq_true, decide_eq_true_eq] at h
      exact ⟨h.1.2, rest, hq⟩
    · cases hj
  · cases hj

theorem unitJob_of_derive (hj : jobReady s p 3 = some j) : unitJob s p = some j := by
  obtain ⟨hc, rest, hq⟩ := jobReady_eq hj
  have h1 : jobReady s p 1 = none := by
    simp [jobReady, hq, hc]
  simp [unitJob, h1, hj]

theorem touchRuns_unmoved {l : List (Nat × Nat)} : Unmoved s (touchRuns p l s) :=
  List.foldlRecOn (motive := Unmoved s) _ _ (.refl s) fun _ h _ _ => h.trans (touchRead_unmoved ..)

theorem touchRuns_onStore {l : List (Nat × Nat)} : OnStore (touchRuns p l) := .foldl (fun _ => touchRead_onStore) l

/-- The results of a unit await their writing (R316). -/
def given (p : Part) (out : WithFlags (List (Nat × List Byte))) (s : State) : State :=
  plnFlags p out.2 (updEntry p (fun w => { w with writes := some out.1 }) s)

theorem given_mem {out : WithFlags (List (Nat × List Byte))} : (given p out s).mem = s.mem := rfl

theorem given_flash {out : WithFlags (List (Nat × List Byte))} : (given p out s).flash = s.flash := rfl

theorem given_entry {out : WithFlags (List (Nat × List Byte))} (h : (s.part p).pln.entry = some w) :
    ((given p out s).part p).pln.entry = some { w with writes := some out.1 } := by
  simp [given, plnFlags, updJob, updEntry, h]

/-- A unit of DERIVE reads its rows of the master and computes the working copy from them. -/
theorem computeUnit_of_derive (hb : blurJob p s = s) : ∃ l, computeUnit p 3 w s =
    given p (unitRows (Entry.ofNat (readNat s p plnMaster w.addr 128)) w.unit
      (deriveRow s p (Entry.ofNat (readNat s p plnMaster w.addr 128)))) (touchRuns p l s) := by
  refine ⟨unitReads (Entry.ofNat (readNat s p plnMaster w.addr 128)) 3 w
    (((s.obj? p w.handle).map (bufHdr s p)).getD (BufHdr.ofNat 0)), ?_⟩
  unfold computeUnit
  rw [hb]
  rfl

theorem unitStep_of_derive (hj : jobReady s p 3 = some j) (he : (s.part p).pln.entry = some w) (hw : w.writes = none)
    (hl : anyLive s = true) (ha : arrayWaits s p = false) : unitStep p s = computeUnit p 3 w s := by
  simp [unitStep, unitJob_of_derive hj, he, hw, hl, ha, (jobReady_eq hj).1]

/-! ### Deliveries (R337, R338) -/

/-- A delivery whose record is in order joins the queue. -/
theorem deliver_of_ok {f : Firing} {fs : List Firing} (hf : (s.part p).cad.lateQ = f :: fs)
    (hl : (s.part p).pln.queue.length < 16)
    (hu : takenFiring p f (s.updCad p fun c => { c with lateQ := fs }) = u) (hj : deliveryJob p f u = .ok j) :
    deliver p s =
      (touchRead p j.addr 64 u).updPln p fun y => { y with queue := y.queue ++ [{ j with foot := jobFoot u p j }] } := by
  simp only [deliver, hf, hu, hj]
  exact if_neg (Nat.not_le.mpr hl)

theorem exec_lateUpdateDelivery_of_not_heldBack (h : heldBack s (deliver p s) = false) :
    exec (.lateUpdateDelivery p) s = next (deliver p s) :=
  congrArg next (settle_of_not_heldBack h)

theorem exec_deliveryRerun_of_live (hl : anyLive s = true) (hq : (s.part p).pln.queue = j :: rest) :
    exec (.deliveryRerun p) s = next (s.updPln p fun y => { y with queue := { j with rerun := false } :: rest }) := by
  show next (if anyLive s then _ else s) = _
  rw [if_pos hl, updJob_of_queue hq]

end jobs

end Sys2Proof.Machine

namespace Sys2Proof
open Machine

/-- Settles O41: each job by what its checks let through, with no write that waits: DERIVE and a delivery write nothing yet,
and the rerun clears its mark alone. -/
theorem planisherJobsRun : Obligations.PlanisherJobsRun := by
  refine ⟨?_, ?_, ?_, fun p s j rest hl hq => exec_deliveryRerun_of_live hl hq, ?_⟩
  · intro p s j rest n hd o s0 u hq hj hs hn ht hb hw hc hr hz ha hh
    have hqu : (u.part p).pln.queue = j :: rest := by
      rw [resetBuf_onStore.pln, touchRead_onStore.pln, hq]
    have hone : resetOne p j s = nextEntry p u :=
      resetOne_of_free ht rfl (by rw [bufAt_touchRead, readNat_touchRead, hb]) hw hc hr hz (smearJob_of_alone hqu ha)
    rw [← hone] at hh ⊢
    refine exec_bufResetJob_of_last hj ?_ hh
    rw [hone, nextEntry_queue_of_last hqu hs hn, hq]
    exact Nat.lt_succ_self _
  · intro p s j rest n o e hq hj hs he ht hb ho s0 hc hr
    have hd : deriveOne p j s = _ :=
      deriveOne_of_ok ht rfl (congrArg Entry.ofNat readNat_touchRead) hb (obj?_touchRead.trans ho) hc hr
    have hw : heldBack s (deriveOne p j s) = false := by
      rw [hd]
      exact (touchRead_unmoved p (j.table + 128 * j.next) 128 s).heldBack
    rw [exec_derive_of_ready hj he hw, hd]
  · intro p s j w e hj he hw hl ha h
    obtain ⟨_, rest, hq⟩ := jobReady_eq hj
    obtain ⟨l, hu⟩ := computeUnit_of_derive (w := w) (blurJob_of_alone hq h)
    have hk : unitStep p s = _ := (unitStep_of_derive hj he hw hl ha).trans hu
    have hm := touchRuns_unmoved (p := p) (s := s) (l := l)
    refine ⟨unitStep p s, congrArg next (settle_of_not_heldBack ?_), ?_, ?_⟩
    · rw [hk, heldBack_congr given_flash]
      exact hm.heldBack
    · rw [hk, given_mem, hm.mem]
    · rw [hk]
      exact given_entry (by rw [touchRuns_onStore.pln, he])
  · intro p s f fs j u hf hl hj
    have hd := deliver_of_ok hf hl rfl hj
    have hw : heldBack s (deliver p s) = false := by
      rw [hd]
      exact (touchRead_unmoved p j.addr 64 u).heldBack
    rw [exec_lateUpdateDelivery_of_not_heldBack hw, hd]

end Sys2Proof
end

section
/-!
The end of a job, and the entries and units of an APPLY job (R313 to R322, R330 to R335).

An entry that the job acts on (`ActsOn`) is followed from its place in the table through its gradient's address (`Seeks`) and
its step's verdict to the state it leaves; a unit, from its reads to its results, and from its writes to its progress in the
entry. Reads, and the writes of a unit, touch the store alone (`OnStore`), so the planisher's queue and entry stand.
-/
namespace Sys2Proof.Machine

variable {p : Part} {s t : State} {j : Job} {rest : List Job} {w : EntryWork} {o ob : Obj} {e : Entry} {x : HistEntry}
  {addr n step hd : Nat}

/-! ### The end of a job (R317, R318) -/

theorem writeReport_of_writable {b : Bool} (h : (plnAccess s p .w j.report 64).1 = none) :
    writeReport p j b s = (none, writeMem p j.report (jobReport j b) s) := by
  unfold writeReport
  split
  next hc => cases hc ▸ h
  next => rfl

/-- A job that ends with its report written, and without a signal, is one write, one change of the planisher and the
completion of its operation. -/
theorem finishJob_of_writable (hq : (s.part p).pln.queue = j :: rest) (hj : j.source = .op n) (hs : j.sig = false)
    (hr : (plnAccess s p .w j.report 64).1 = none) :
    finishJob p none s = completeOp p n none ((writeMem p j.report (jobReport j false) s).updPln p fun y =>
      { y with queue := rest, entry := none }) := by
  simp [finishJob, hq, writeReport_of_writable hr, sigStitch, hs, hj]

/-! ### The entry at a job's place (R312, R313, R319) -/

/-- The entry `e` at a job's place is in order and within reach, and the job acts on it for gradient step `step`. -/
structure ActsOn (p : Part) (s : State) (j : Job) (e : Entry) (o : Obj) (step : Nat) : Prop where
  access : firstRefusal s p [(.r, j.table + 128 * j.next, 128), (.w, j.table + 128 * j.next, 128)] = none
  entry : Entry.ofNat (readNat s p plnMaster (j.table + 128 * j.next) 128) = e
  bad : e.bad = false
  obj : s.obj? p e.object = some o
  step : entryStep j e = some step

/-- Where an entry for a step holds the address of its gradient's buffer. -/
def gradAddr (e : Entry) (step : Nat) : Nat := e.grad + step % (e.lag + 1) * 8

/-- The entry `e` still needs `step`, its copies are where an update may be, and its gradient's address can be read. -/
structure Seeks (p : Part) (s : State) (e : Entry) (o : Obj) (step : Nat) : Prop where
  undone : ¬(e.doneV = true ∧ step ≤ e.done)
  striped : copiesStriped s p e = false
  fast : slowTier o = false
  access : firstRefusal s p [(.r, gradAddr e step, 8)] = none

/-- The gradient's buffer is there and not broken, and its header can be read. -/
structure Finds (p : Part) (s : State) (e : Entry) (step hd : Nat) (ob : Obj) : Prop where
  buffer : gradBuf s p e step = some (hd, ob)
  access : firstRefusal s p [(.r, ob.base, 64)] = none

/-- The entry at the job's place has been read. -/
def entryRead (p : Part) (j : Job) (s : State) : State := touchRead p (j.table + 128 * j.next) 128 s

/-- The address of the entry's gradient has been read too. -/
def gradRead (p : Part) (j : Job) (e : Entry) (step : Nat) (s : State) : State :=
  touchRead p (gradAddr e step) 8 (entryRead p j s)

theorem gradRead_unmoved : Unmoved s (gradRead p j e step s) := (touchRead_unmoved ..).trans (touchRead_unmoved ..)

theorem gradRead_pln : ((gradRead p j e step s).part p).pln = (s.part p).pln :=
  (touchRead_onStore.comp touchRead_onStore).pln

namespace ActsOn

/-- An entry that has the step already is counted and passed over (R322). -/
theorem startEntry_of_done (h : ActsOn p s j e o step) (hd : e.doneV = true ∧ step ≤ e.done) :
    startEntry p j s = nextEntry p (countAlready p (entryRead p j s)) := by
  obtain ⟨ha, he, hb, ho, hs⟩ := h
  simp [startEntry, entryRead, ha, readNat_touchRead, he, hb, obj?_touchRead, ho, hs, hd]

/-- An entry whose gradient's buffer is missing or broken is a mismatch (R319). -/
theorem startEntry_of_no_gradient (h : ActsOn p s j e o step) (hk : Seeks p (entryRead p j s) e o step)
    (hg : gradBuf (gradRead p j e step s) p e step = none) :
    startEntry p j s = nextEntry p (countMismatch p (gradRead p j e step s)) := by
  obtain ⟨ha, he, hb, ho, hs⟩ := h
  obtain ⟨hd, hc, hf, hr⟩ := hk
  simp only [gradAddr, gradRead, entryRead] at hg hc hr ⊢
  simp [startEntry, ha, readNat_touchRead, he, hb, obj?_touchRead, ho, hs, hd, hc, hf, hr, hg]

/-- The header of the gradient's buffer decides between the verdict and a mismatch (R319). -/
theorem startEntry_of_gradient (h : ActsOn p s j e o step) (hk : Seeks p (entryRead p j s) e o step)
    (hg : Finds p (gradRead p j e step s) e step hd ob) :
    startEntry p j s =
      if gradFits (gradRead p j e step s) p e step ob
      then judgedEntry p (j.table + 128 * j.next) e step hd ob (gradRead p j e step s)
      else nextEntry p (countMismatch p (gradRead p j e step s)) := by
  obtain ⟨ha, he, hbad, ho, hs⟩ := h
  obtain ⟨hu, hc, hf, hr⟩ := hk
  obtain ⟨hg, hb⟩ := hg
  by_cases hfit : gradFits (gradRead p j e step s) p e step ob
  all_goals
    simp only [gradAddr, gradRead, entryRead] at hg hb hc hr hfit ⊢
    simp [startEntry, ha, readNat_touchRead, he, hbad, obj?_touchRead, ho, hs, hu, hc, hf, hr, hg, hb, hfit]

theorem startEntry_of_fit (h : ActsOn p s j e o step) (hk : Seeks p (entryRead p j s) e o step)
    (hg : Finds p (gradRead p j e step s) e step hd ob)
    (hf : gradFits (gradRead p j e step s) p e step ob = true) :
    startEntry p j s = judgedEntry p (j.table + 128 * j.next) e step hd ob (gradRead p j e step s) :=
  (h.startEntry_of_gradient hk hg).trans (if_pos hf)

theorem startEntry_of_unfit (h : ActsOn p s j e o step) (hk : Seeks p (entryRead p j s) e o step)
    (hg : Finds p (gradRead p j e step s) e step hd ob)
    (hf : gradFits (gradRead p j e step s) p e step ob = false) :
    startEntry p j s = nextEntry p (countMismatch p (gradRead p j e step s)) :=
  (h.startEntry_of_gradient hk hg).trans (if_neg (Bool.eq_false_iff.mp hf))

end ActsOn

theorem exec_apply_of_startEntry (hj : jobReady s p 1 = some j) (he : (s.part p).pln.entry = none)
    (hs : startEntry p j s = t) (hw : heldBack s t = false) : exec (.apply p) s = next t := by
  have ha : applyStep p s = t := by
    simp [applyStep, hj, he, hs]
  show next (settle p s (applyStep p s)) = _
  rw [ha, settle_of_not_heldBack hw]

/-! ### The verdict of an entry's step (R322, R332, R335) -/

/-- The job no longer waits for a verdict. -/
abbrev judged (p : Part) (s : State) : State := updJob p (fun j => { j with waiting := false }) s

theorem judgedEntry_of_open (hf : (s.part p).pln.hist.find? (fun x => x.step.toNat = step) = none)
    (hv : votingFor s p step ≠ []) :
    judgedEntry p addr e step hd o s = updJob p (fun j => { j with waiting := true }) s := by
  simp [judgedEntry, hf, hv]

theorem judgedEntry_of_skip (hf : (s.part p).pln.hist.find? (fun x => x.step.toNat = step) = some x) (hx : x.skip = true) :
    judgedEntry p addr e step hd o s = closeEntry p addr hd step (countSkipped p) (judged p s) := by
  simp [judgedEntry, hf, hx]

theorem judgedEntry_of_apply (hf : (s.part p).pln.hist.find? (fun x => x.step.toNat = step) = some x)
    (hx : x.skip = false) : judgedEntry p addr e step hd o s = beginEntry p addr e step hd o (judged p s) := by
  simp [judgedEntry, hf, hx]

theorem closeEntry_of_free {count : State → State} (ho : s.obj? p hd = some o)
    (hr : firstRefusal s p [(.w, o.base, o.sheets * sheetBytes)] = none) :
    closeEntry p addr hd step count s = nextEntry p (finishEntry p addr hd step (count s)) := by
  simp [closeEntry, ho, hr]

/-- A MOMENT entry without progress begins at its first unit. -/
theorem beginEntry_of_fresh (hr : firstRefusal s p (e.areas ++ gradAreas s p o) = none) (h0 : e.rule = 0)
    (hp : e.progV = false) (hu : 0 < e.units) (hb : blurJob p s = s) :
    beginEntry p addr e step hd o s = s.updPln p fun y => { y with
      entry := some { addr, step, handle := hd, unit := 0, hyper := readF32s s p e.hyper 16 } } := by
  simp [beginEntry, hr, h0, hp, hb, Nat.not_le.mpr hu]

theorem updPln_unmoved {f : Planisher → Planisher} (h : Unmoved s t) : Unmoved s (t.updPln p f) :=
  ⟨h.mem, h.overlay, h.waits, h.held⟩

/-- The job at the head keeps its operation when it no longer waits, and alone it finds memory as it is. -/
theorem blurJob_judged (hq : (s.part p).pln.queue = j :: rest)
    (ha : Alone (judged p s) p (jobRuns (judged p s) p j).1) : blurJob p (judged p s) = judged p s := by
  have hj : ((judged p s).part p).pln.queue = { j with waiting := false } :: rest := by
    simp [judged, updJob, hq]
  exact blurJob_of_alone hj (by simpa only [jobRuns] using ha)

/-! ### A unit's results (R315, R316, R320, R321) -/

theorem unitStep_of_apply (hj : jobReady s p 1 = some j) (he : (s.part p).pln.entry = some w) (hw : w.writes = none)
    (hl : anyLive s = true) (ha : arrayWaits s p = false) : unitStep p s = computeUnit p 1 w s := by
  simp [unitStep, unitJob, hj, he, hw, hl, ha, (jobReady_eq hj).1]

theorem unitStep_of_arrayWaits (h : arrayWaits s p = true) : unitStep p s = s := by
  unfold unitStep
  split
  · simp [h]
  · rfl

theorem unitStep_of_no_entry (h : (s.part p).pln.entry = none) : unitStep p s = s := by
  simp [unitStep, h]

theorem exec_planisherUnit_of_unitStep (h : unitStep p s = t) (hw : heldBack s t = false) :
    exec (.planisherUnit p) s = next t := by
  show next (settle p s (unitStep p s)) = _
  rw [h, settle_of_not_heldBack hw]

/-- A unit to which nothing contributed has no writes, and counts (R321). -/
def noneGiven (p : Part) (s : State) : State := updEntry p (fun w => { w with writes := some [] }) (countZero p 1 s)

theorem noneGiven_entry (h : (s.part p).pln.entry = some w) :
    ((noneGiven p s).part p).pln.entry = some { w with writes := some [] } := by
  simp [noneGiven, updEntry, countZero, updJob, h]

theorem noneGiven_unmoved (h : Unmoved s t) : Unmoved s (noneGiven p t) :=
  ⟨h.mem, h.overlay, h.waits, h.held⟩

theorem given_unmoved {out : WithFlags (List (Nat × List Byte))} (h : Unmoved s t) : Unmoved s (given p out t) :=
  ⟨h.mem, h.overlay, h.waits, h.held⟩

theorem noneGiven_zero : ((noneGiven p s).part p).pln.zero = satAdd (s.part p).pln.zero 1 := by
  simp [noneGiven, updEntry, countZero, updJob]

theorem obj?_touchRuns {l : List (Nat × Nat)} {b : Nat} : (touchRuns p l s).obj? p b = s.obj? p b :=
  List.foldlRecOn (motive := fun t : State => t.obj? p b = s.obj? p b) _ _ rfl fun _ h _ _ => obj?_touchRead.trans h

/-- What a MOMENT unit writes: the new values of its rows, from the mean gradient of those that contributed (R320). -/
def momentUnit (s : State) (p : Part) (e : Entry) (w : EntryWork) (o : Obj) : WithFlags (List (Nat × List Byte)) :=
  unitRows e w.unit (momentRow s p e w.hyper (bufHdr s p o) (popcount (bufEntry s p (bufHdr s p o) w.unit).mask))

/-- A MOMENT unit reads its rows, and gives their new values where any gradient contributed. -/
theorem computeUnit_of_moment (hb : blurJob p s = s) (ho : s.obj? p w.handle = some o)
    (he : Entry.ofNat (readNat s p plnMaster w.addr 128) = e) (hr : e.rule = 0) :
    computeUnit p 1 w s =
      if popcount (bufEntry s p (bufHdr s p o) w.unit).mask = 0
      then noneGiven p (touchRuns p (unitReads e 1 w (bufHdr s p o)) s)
      else given p (momentUnit s p e w o) (touchRuns p (unitReads e 1 w (bufHdr s p o)) s) := by
  have ht {l : List (Nat × Nat)} : (touchRuns p l s).obj? p w.handle = some o := obj?_touchRuns.trans ho
  unfold computeUnit
  rw [hb]
  simp only [he, ho, Option.map_some, Option.getD_some, ht, hr, if_true]
  rfl

/-! ### A unit's writes (R316, R322) -/

theorem Entry.passes_of_moment (h : e.rule = 0) : e.passes step = 0 := by
  simp [Entry.passes, h]

theorem rewriteEntry_onStore {f : Nat → Nat} : OnStore (rewriteEntry p addr f) := by
  intro s u
  unfold rewriteEntry
  rw [readNat_graft]
  exact writeMem_onStore s u

theorem updEntry_of_some {f : EntryWork → EntryWork} (h : (s.part p).pln.entry = some w) :
    updEntry p f s = s.updPln p fun y => { y with entry := some (f w) } :=
  updPln_congr (by simp [h])

/-- A unit's writes have been made. -/
def unitWritten (p : Part) (ws : List (Nat × List Byte)) (s : State) : State := ws.foldl (fun s a => writeMem p a.1 a.2 s) s

theorem unitWritten_onStore {ws : List (Nat × List Byte)} : OnStore (unitWritten p ws) :=
  .foldl (fun _ => writeMem_onStore) ws

/-- The entry shows a unit of a step as its progress (R331). -/
def progressed (p : Part) (w : EntryWork) : State → State :=
  rewriteEntry p w.addr fun v => setField (setField (setField v 399 360 w.step) 359 328 (w.unit + 1)) 327 327 1

theorem progressed_onStore : OnStore (progressed p w) := rewriteEntry_onStore

theorem writeUnit_of_moment {ws : List (Nat × List Byte)} (he : (s.part p).pln.entry = some w) (hw : w.writes = some ws)
    (hq : (s.part p).pln.queue = j :: rest) (hc : j.code = 1) (hm : smearJob p (unitWritten p ws s) = unitWritten p ws s)
    (h0 : (Entry.ofNat (readNat (unitWritten p ws s) p plnMaster w.addr 128)).rule = 0)
    (hn : w.unit + 1 < (Entry.ofNat (readNat (unitWritten p ws s) p plnMaster w.addr 128)).units) :
    writeUnit p s = (progressed p w (unitWritten p ws s)).updPln p fun y => { y with
      entry := some { w with unit := w.unit + 1, writes := none } } := by
  have hp : ((progressed p w (unitWritten p ws s)).part p).pln.entry = some w := by
    rw [progressed_onStore.pln, unitWritten_onStore.pln, he]
  refine Eq.trans ?_ (updEntry_of_some (f := fun x => { x with unit := w.unit + 1, writes := none }) hp)
  simp only [unitWritten] at hm h0 hn
  simp [writeUnit, he, hq, hw, hm, hc, Entry.passes_of_moment h0, hn, progressed, unitWritten]

theorem writeUnit_of_no_entry (h : (s.part p).pln.entry = none) : writeUnit p s = s := by
  simp [writeUnit, h]

theorem exec_planisherUnitWritten_of_writeUnit (h : writeUnit p s = t) (hw : heldBack s t = false) :
    exec (.planisherUnitWritten p) s = next t := by
  show next (settle p s (writeUnit p s)) = _
  rw [h, settle_of_not_heldBack hw]

end Sys2Proof.Machine

namespace Sys2Proof
open Machine

/-- Settles O40: an entry by the branch that its reads, its gradient and its verdict leave; a unit by its contributions; its
writes by the progress they leave. Waiting and beginning write nothing, so nothing of theirs waits. -/
theorem applyRuns : Obligations.ApplyRuns := by
  refine ⟨?_, ?_, ?_, ?_, ?_⟩
  · intro p s j o ob step hd addr e hj he ha hb ho hs s0 s1
    have h : ActsOn p s j e o step := ⟨ha, rfl, hb, ho, hs⟩
    have hm : Unmoved s s1 := gradRead_unmoved
    have hpln : (s1.part p).pln = (s.part p).pln := gradRead_pln
    have go {t : State} : startEntry p j s = t → heldBack s t = false → exec (.apply p) s = .next t :=
      exec_apply_of_startEntry hj he
    refine ⟨fun hd hw => go (h.startEntry_of_done hd) hw, fun hu hc hf hr hw => ?_⟩
    have hk : Seeks p s0 e o step := ⟨hu, hc, hf, hr⟩
    refine ⟨fun hg => go (h.startEntry_of_no_gradient hk hg) hw, fun hg hb hfit => ?_⟩
    have hin := h.startEntry_of_fit hk ⟨hg, hb⟩ hfit
    refine ⟨fun hx hv => ?_, fun x hx => ?_, fun hno => go (h.startEntry_of_unfit hk ⟨hg, hb⟩ hno) hw⟩
    · rw [← hpln] at hx
      exact go (hin.trans (judgedEntry_of_open hx hv)) (updPln_unmoved hm).heldBack
    · rw [← hpln] at hx
      intro u
      refine ⟨fun hskip hz ho hw => ?_, fun hskip hr h0 hp hn hal => ?_⟩
      · exact go ((hin.trans (judgedEntry_of_skip hx hskip)).trans (closeEntry_of_free ho hz)) hw
      · obtain ⟨_, rest, hq⟩ := jobReady_eq hj
        have hbl : blurJob p u = u := blurJob_judged (hpln ▸ hq) hal
        exact go ((hin.trans (judgedEntry_of_apply hx hskip)).trans (beginEntry_of_fresh hr h0 hp hn hbl))
          (updPln_unmoved (updPln_unmoved hm)).heldBack
  · intro p s j w o hj he hw hl ha ho hal h0
    obtain ⟨_, rest, hq⟩ := jobReady_eq hj
    have hu := computeUnit_of_moment (blurJob_of_alone hq hal) ho rfl h0
    rw [← unitStep_of_apply hj he hw hl ha] at hu
    have hm {l : List (Nat × Nat)} : Unmoved s (touchRuns p l s) := touchRuns_unmoved
    have hpln {l : List (Nat × Nat)} : ((touchRuns p l s).part p).pln = (s.part p).pln := touchRuns_onStore.pln
    split at hu
    next hc =>
      refine ⟨_, [], exec_planisherUnit_of_unitStep hu (noneGiven_unmoved hm).heldBack, noneGiven_entry (hpln ▸ he),
        (noneGiven_unmoved hm).mem, fun _ => ⟨rfl, ?_⟩⟩
      rw [noneGiven_zero, hpln]
    next hc =>
      exact ⟨_, _, exec_planisherUnit_of_unitStep hu (given_unmoved hm).heldBack, given_entry (hpln ▸ he),
        (given_unmoved hm).mem, fun h => absurd h hc⟩
  · intro p s j w hj he hw hl ha
    exact exec_planisherUnit_of_unitStep (unitStep_of_arrayWaits ha) (Unmoved.refl s).heldBack
  · intro p s j rest w ws v u he hw hq hc hal h0 hn hh
    have hv : (v.part p).pln.queue = j :: rest := (congrArg Planisher.queue unitWritten_onStore.pln).trans hq
    exact exec_planisherUnitWritten_of_writeUnit
      (writeUnit_of_moment he hw hq hc (smearJob_of_alone hv hal) h0 hn) hh
  · intro p s he
    exact ⟨exec_planisherUnit_of_unitStep (unitStep_of_no_entry he) (Unmoved.refl s).heldBack,
      exec_planisherUnitWritten_of_writeUnit (writeUnit_of_no_entry he) (Unmoved.refl s).heldBack⟩

/-- Settles O42: the completion of the job's operation leaves its planisher and memory as the report and the queue's change
leave them. -/
theorem jobEnds : Obligations.JobEnds := by
  intro p s j rest n hq hj hs hr t
  have ht : t = _ := finishJob_of_writable hq hj hs hr
  obtain ⟨_, _, hflight⟩ := completeOp_none_bench (p := p) (n := n)
    (s := (writeMem p j.report (jobReport j false) s).updPln p fun y => { y with queue := rest, entry := none })
  rw [ht]
  refine ⟨?_, ?_, ?_, completeOp_none_mem⟩
  · rw [completeOp_keepsPln.pln, State.updPln_part]
  · rw [completeOp_keepsPln.pln, State.updPln_part]
  · rw [hflight, State.updPln_part, writeMem_onStore.bench]

end Sys2Proof
end

section
/-!
Quotas, sharing of the array and warden timers (R358, R440, R615, R616, R640, R651).

A setting that asks for nothing further changes its registers alone: a stitch range that stays is not opened anew
(`moveRange_self`), a quota that is not raised promotes nothing (`raiseQuota_of_le`), and sharing that begins leaves the array
with the partition it stands with.
-/
namespace Sys2Proof.Machine

variable {h : CmdHdr} {p : Part} {s t : State}

/-- A short host command whose parameters hold listed encodings only, and whose effect ends at once with OK, is answered. -/
theorem answers_of_listed {op : B16} {long minimal : Bool} {issuer : Issuer} {i : Instr} {params : List Byte} {bad : Bool}
    {act : State → CmdOut × State} {r : B128} (hm : MayRun ⟨op, long, minimal, issuer⟩ h s) (hb : bad = false)
    (he : exec i s = next (hostCmd ⟨op, long, minimal, issuer⟩ i h params bad act s))
    (ha : act (begun h s) = (.done stOk r, t)) : Answers i h op r s t :=
  answers_of_act hm (hb ▸ he) ha

/-! ### SET_QUOTA (R358, R440, R441, R640) -/

theorem moveRange_self {v : Quotas} (hb : (s.part p).stc.base = v.stcBase) (hn : (s.part p).stc.count = v.stcN) :
    moveRange p v s = s := if_pos (by simp [hb, hn])

theorem raiseQuota_of_le {tier : Tier} {old new : Nat} (hq : new ≤ old) : raiseQuota p tier old new s = s := by
  have h0 : min (new - old) (sheetsOf s p).length = 0 := by omega
  rw [raiseQuota, h0, backfills]

/-- Quotas that clash with no partition's, leave the stitch range and are not raised. -/
theorem actSetQuota_of_lowered {v : Quotas} (hq : quotaBad s p v = false) (hbase : (s.part p).stc.base = v.stcBase)
    (hn : (s.part p).stc.count = v.stcN) (hr : rangeBusy s p v = false)
    (hfh : (framesOf s p .hbm 0).length ≤ v.hbm.toNat) (hfb : (framesOf s p .bulk 0).length ≤ v.bulk.toNat)
    (ha : anyRunning s p = false) (hh : v.hbm.toNat ≤ (s.part p).tier.quotaHbm.toNat)
    (hb : v.bulk.toNat ≤ (s.part p).tier.quotaBulk.toNat) : actSetQuota p v s = (cmdOk, s.updTier p fun t => { t with
      quotaHbm := v.hbm, quotaBulk := v.bulk, stakeBase := v.stakeLo, stakeLimit := v.stakeHi }) := by
  have hbusy : (rangeBusy s p v || decide (v.hbm.toNat < (framesOf s p .hbm 0).length) ||
      decide (v.bulk.toNat < (framesOf s p .bulk 0).length) ||
      ((v.stakeLo ≠ (s.part p).tier.stakeBase || v.stakeHi ≠ (s.part p).tier.stakeLimit) && anyRunning s p)) = false := by
    simp [hr, ha, hfh, hfb]
  simp only [actSetQuota, hq, hbusy, Bool.false_eq_true, if_false, moveRange_self hbase hn, raiseQuota_of_le hh,
    raiseQuota_of_le hb]

/-! ### TIMESHARE (R615, R616) -/

@[simp] theorem begun_pstate (q : Part) : ((begun h s).part q).host.pstate = (s.part q).host.pstate := by
  by_cases e : q = h.fn
  · subst e
    simp [begun]
  · simp [begun, State.updHost_part_of_ne _ _ e]

/-- Sharing that begins: every partition that is not CLOSED has its context area, and no capture holds the staging region. -/
theorem actTimeshare_of_unshared {owner : Part} {quanta : Quad B32} (hs : s.host.staging = .free) (ht : s.host.tsEn = false)
    (hc : ∀ q : Part, (s.part q).host.pstate ≠ .closed → (s.part q).bench.ctxSet = true) :
    actTimeshare true owner quanta s = (cmdOk, { s with
      host := { s.host with arrayOwner := owner, quantum := quanta, tsEn := true, staging := .save }
      array := { s.array with holder := s.host.arrayOwner, expired := false, copyOut := none, copyIn := none } }) := by
  have hset : (four.any fun q => (s.part q).host.pstate ≠ .closed && !(s.part q).bench.ctxSet) = false := by
    rw [List.any_eq_false]
    intro q _
    simpa using hc q
  simp only [actTimeshare, hs, ht, hset, arrayPart, Bool.false_eq_true, if_true, if_false]

/-! ### TIMER_FEATURE (R651) -/

/-- A feature without a timer claims the lowest free one. -/
theorem actTimerFeature_of_unclaimed {u : TimerUse} {i : Nat} (ht : timerOf s u.feature.toNat p = none)
    (hi : firstBelow 8 (fun j => (Map.find? s.host.timers j).isNone) = some i) :
    actTimerFeature p true u s =
      (.done stOk (res 0 i), { s with host := { s.host with timers := Map.insert s.host.timers i u } }) := by
  simp [actTimerFeature, ht, hi]

end Sys2Proof.Machine

namespace Sys2Proof
open Machine

/-- Settles O10: each clause's parameters are listed ones, and its effect in the begun state asks for nothing further. -/
theorem sharingCommandsRun : Obligations.SharingCommandsRun := by
  refine ⟨?_, ?_, ?_⟩
  · intro h part hbm bulk lo hi base n s p v r hm hp hq hbase hn hr hfh hfb ha hh hb
    have hact := actSetQuota_of_lowered hq (by rwa [begun_stc]) (by rwa [begun_stc]) hr hfh hfb ha (by rwa [begun_tier])
      (by rwa [begun_tier])
    exact answers_of_listed hm (decide_eq_false (Nat.not_lt.mpr hp)) rfl hact
  · intro h owner q0 q1 q2 q3 s hm ho hq hs ht hc
    refine answers_of_listed hm ?_ rfl (actTimeshare_of_unshared hs ht (by simpa using hc))
    simpa [and_assoc] using And.intro ho hq
  · intro h feature action period addr i s hm hlo hhi ha hp hp' ht hi
    have hissuer : (if feature.toNat = 0x12 || feature.toNat = 0x13 then Issuer.p0 else .any) =
        if feature.toNat = 0x12 ∨ feature.toNat = 0x13 then .p0 else .any := by simp
    rw [← hissuer] at hm
    refine answers_of_listed hm ?_ rfl (actTimerFeature_of_unclaimed ht hi)
    simp [hlo, hhi, ha, hp, hp']

end Sys2Proof
end

section
/-!
New objects and the object commands (R345, R355, R360, R379, R641, R642, R781).

A new object's frames are cleared or turned before it enters the map, which touches memory, the flash's books and the stored
images, and no partition (`KeepsParts`). A command that starts long work is its own effect in the state that it has begun
(`exec_of_act_started`), as a short one's is.
-/
namespace Sys2Proof.Machine

variable {h : CmdHdr} {p : Part} {s t u : State}

/-! ### A new object (R345, R357, R781) -/

/-- Every partition, the stitches and the array are as they were. -/
structure KeepsParts (s t : State) : Prop where
  parts : t.parts = s.parts
  stitches : t.stitches = s.stitches
  array : t.array = s.array

theorem KeepsParts.refl (s : State) : KeepsParts s s := ⟨rfl, rfl, rfl⟩

theorem KeepsParts.trans (h : KeepsParts s t) (k : KeepsParts t u) : KeepsParts s u :=
  ⟨k.parts.trans h.parts, k.stitches.trans h.stitches, k.array.trans h.array⟩

/-- The later change first: where the state between is to be read off it. -/
theorem KeepsParts.after (k : KeepsParts t u) (h : KeepsParts s t) : KeepsParts s u := h.trans k

theorem KeepsParts.foldl {α : Type} {f : State → α → State} (h : ∀ s a, KeepsParts s (f s a)) (l : List α) :
    KeepsParts s (l.foldl f s) :=
  List.foldlRecOn (motive := KeepsParts s) l f (.refl s) fun t k a _ => k.trans (h t a)

theorem KeepsParts.part (k : KeepsParts s t) (q : Part) : t.part q = s.part q := congrArg (fun x => x.get q) k.parts

theorem KeepsParts.ite {c : Prop} [Decidable c] (h : KeepsParts s t) (k : KeepsParts s u) :
    KeepsParts s (if c then t else u) := by
  split
  · exact h
  · exact k

theorem dueFold_keepsParts : KeepsParts s (dueFold s) := by
  unfold dueFold
  split
  · exact .refl s
  · exact ⟨rfl, rfl, rfl⟩
  · exact .ite ⟨rfl, rfl, rfl⟩ (.refl s)

theorem updFlash_keepsParts {f : Flash → Flash} : KeepsParts s (updFlash f s) := ⟨rfl, rfl, rfl⟩

theorem putMem_keepsParts {k : Nat} {b : List Byte} : KeepsParts s (putMem k b s) := ⟨rfl, rfl, rfl⟩

theorem admitWaiting_keepsParts : KeepsParts s (admitWaiting s) :=
  dueFold_keepsParts.after ⟨rfl, rfl, rfl⟩

theorem dropOverlay_keepsParts {names : List Nat} : KeepsParts s (dropOverlay names s) :=
  .ite (admitWaiting_keepsParts.after ⟨rfl, rfl, rfl⟩) (.refl s)

theorem clearFrames_keepsParts {tier : Tier} {region : Nat} {fs : List Nat} :
    KeepsParts s (clearFrames tier region fs s) :=
  .ite (dropOverlay_keepsParts.after ⟨rfl, rfl, rfl⟩) ⟨rfl, rfl, rfl⟩

theorem retagFrame_keepsParts {n f : Nat} {x : Sheet} : KeepsParts s (retagFrame p n x s f) := by
  unfold retagFrame
  extract_lets key tag
  split
  · exact .refl s
  · exact .ite (.refl s) (updFlash_keepsParts.after (putMem_keepsParts.trans (.ite putMem_keepsParts (.refl _))))

theorem newSet_keepsParts {region : Nat} {m : Map Sheet} {g : Image} : KeepsParts s (newSet region m g s) := by
  unfold newSet
  split
  · exact .refl s
  · exact ⟨rfl, rfl, rfl⟩

variable {kind : ObjKind} {policy : B128} {n : Nat} {placed : Map Sheet × List Nat × Nat}

/-- What is done to the frames of a new object changes no partition; then the object enters the map. -/
theorem addObject_eq : ∃ u, KeepsParts s u ∧ addObject p kind policy n placed s = u.updTier p fun t => { t with
    nextHandle := (s.part p).tier.nextHandle + 1
    objects := Map.insert t.objects (s.part p).tier.nextHandle
      { kind, base := placed.2.2, sheets := n, policy, map := placed.1, winFree := placed.2.1 } } := by
  unfold addObject
  extract_lets hd keep no s₁ flash s₂ s₃
  have h₁ : KeepsParts s s₁ := .ite
    (.foldl (fun _ _ => .foldl (fun _ _ => retagFrame_keepsParts) _) _) (.foldl (fun _ _ => clearFrames_keepsParts) _)
  have h₂ : KeepsParts s s₂ := .ite h₁ (h₁.trans ⟨rfl, rfl, rfl⟩)
  have h₃ : KeepsParts s s₃ := by
    unfold s₃
    split
    · exact h₂.trans newSet_keepsParts
    · exact h₂.trans newSet_keepsParts
    · exact h₂
  exact ⟨s₃, h₃, rfl⟩

/-! ### OBJ_CREATE (R355, R642) -/

/-- Option code 2 asks for a reduction buffer and for nothing else. -/
theorem optionKind_two {block : B256} {sheets : Nat} {l : Policy}
    (hk : optionKind s p 2 block sheets l = .ok (kind, n)) : ∃ g r c a gd pt, kind = .redBuf g r c a gd pt := by
  simp only [optionKind, BitVec.reduceToNat] at hk
  split at hk
  · cases hk
  · split at hk
    · cases hk
    · split at hk
      · cases hk
      · simp only [Except.ok.injEq, Prod.mk.injEq] at hk
        obtain ⟨rfl, -⟩ := hk
        exact ⟨_, _, _, _, _, _, rfl⟩

/-- An object that is no reduction buffer, under a policy that is allowed and has frames. -/
theorem createObject_of_placed {sheets : Nat} {option : Byte} {block : B256} (hr : policyRsvd policy = false)
    (hk : optionKind s p option block sheets (Policy.ofBits policy) = .ok (kind, n))
    (hb : policyBad s p n (Policy.ofBits policy) = false)
    (hp : placeObject s p kind n (Policy.ofBits policy) = .ok placed) (hh : (s.part p).tier.nextHandle ≠ 0xFFFF_FFFF)
    (hn : ∀ g r c a gd pt, kind ≠ .redBuf g r c a gd pt) : createObject p sheets policy option block s =
      (.done stOk (res 64 placed.2.2 ||| res 0 (s.part p).tier.nextHandle), addObject p kind policy n placed s) := by
  -- `hn` leaves the match on the kind its last alternative
  simp only [createObject, hr, hk, hb, hp, hh, Bool.false_eq_true, if_false]

/-! ### Commands that start long work (R630) -/

/-- A host command that may run and whose effect begins long work is accepted, with its place in the table of such work. -/
theorem exec_of_act_started {op : B16} {long minimal : Bool} {issuer : Issuer} {i : Instr} {params : List Byte}
    {act : State → CmdOut × State} {w : LongWork} (hm : MayRun ⟨op, long, minimal, issuer⟩ h s)
    (he : exec i s = next (hostCmd ⟨op, long, minimal, issuer⟩ i h params false act s))
    (ha : act (begun h s) = (.started w, t)) : exec i s = .next (startLong h op params w t) := by
  obtain ⟨ho, hs, hc⟩ := hm
  have hb : act (s.updHost h.fn fun x => { x with starting := false }) = (.started w, t) := ha
  rw [he, hostCmd_run ho hs hc, hb]
  rfl

variable {handle : Nat} {o : Obj}

theorem actObjDestroy_of_idle (ho : s.obj? p handle = some o) (hg : ∀ g, o.kind ≠ .guestWindow g)
    (hc : o.changing = false) (hd : o.dying = false) (ht : s.host.tsEn = false) :
    actObjDestroy p handle s = (.started (.destroy handle),
      { updObj p handle (fun y => { y with dying := true }) s with flash := { s.flash with
        moves := s.flash.moves.filter fun v => v.started || !(v.p = p && v.handle = handle) } }) := by
  have hidle : (o.changing || o.dying || s.host.tsEn && holdsContext (s.part p).bench o) = false := by
    simp [hc, hd, ht]
  -- `hg` leaves the match on the kind its last alternative
  simp only [actObjDestroy, ho, hidle, Bool.false_eq_true, if_false]
  rfl

theorem dropWaiting_of_no_moves (hm : s.flash.moves = []) : dropWaiting p handle s = s := by
  have hf : ({ s.flash with moves := [] } : Flash) = s.flash := by rw [← hm]
  simp only [dropWaiting, updFlash, hm, List.filter_nil, hf]

/-- A policy that the object may take, with no move in hand, begins with the frames it reserves. -/
theorem actSetPolicy_of_reserved {bits : B128} (hr : policyRsvd bits = false) (ho : s.obj? p handle = some o)
    (hb : policyBad s p o.sheets (Policy.ofBits bits) = false) (hf : policyFits o (Policy.ofBits bits) = true)
    (hc : o.changing = false) (hd : o.dying = false) (hm : s.flash.moves = [])
    (hu : reservePolicy p handle bits s = .ok u) :
    actSetPolicy p handle bits s = (.started (.policy handle bits true), u) := by
  simp [actSetPolicy, hr, ho, hb, hf, hc, hd, dropWaiting_of_no_moves hm, hm, hu]

/-- A region put to use over extents that no region has, while no region is in use. -/
theorem actRegionFormat_of_use {region mode owner refresh start count : Nat} (hr : region ≤ 15) (hm : mode = 1 ∨ mode = 2)
    (ho : owner ≤ 3) (hc : 1 ≤ count) (he : start + count ≤ 64) (hd : (refreshDays mode refresh).isSome = true)
    (hf : s.flash.regions = []) (hu : regionInUse s region = false) :
    actRegionFormat region mode owner refresh start count s = (.started (.format region mode owner refresh start count),
      updRegion region (fun _ => {
        mode := BitVec.ofNat 2 mode, owner := Fin.ofNat 4 owner
        refresh := BitVec.ofNat 8 ((refreshDays mode refresh).getD 0), start := BitVec.ofNat 6 start
        count := BitVec.ofNat 7 count }) (updFlash (fun f => { f with formatting := f.formatting ++ [region] }) s)) := by
  have h0 : mode ≠ 0 := by omega
  have hbad : (region > 15 || mode > 2) = false := by simp; omega
  have hext : (decide (start ≤ 63) && decide (1 ≤ count) && decide (count ≤ 64) && decide (start + count ≤ 64)) = true := by
    simp; omega
  have hown : ¬ owner > 3 := Nat.not_lt.mpr ho
  have hday : (refreshDays mode refresh).isNone = false := by simpa using hd
  simp [actRegionFormat, hbad, h0, hown, hext, hday, hf, hu]

/-! ### BUF_RESET (R266) -/

theorem settleCmd_of_not_heldBack {i : Instr} (hw : heldBack s t = false) : settleCmd i p s t = t := if_neg (by simp [hw])

theorem actBufReset_of_redBuf {step expect g r c gd pt : Nat} {a : Int} (hs : step < 2 ^ 40)
    (ho : s.obj? p handle = some o) (hk : o.kind = .redBuf g r c a gd pt) (hc : (bufHdr s p o).state ≠ 1) :
    actBufReset p handle step expect s = (cmdOk, resetBuf p o step expect s) := by
  simp only [actBufReset, if_neg (Nat.not_le.mpr hs), ho, hk, if_neg hc]

/-- A command that may have a write that waits, and has none, is answered as any other. -/
theorem answers_of_settled {op : B16} {long minimal : Bool} {issuer : Issuer} {i : Instr} {params : List Byte}
    {act : State → CmdOut × State} {r : B128} (hm : MayRun ⟨op, long, minimal, issuer⟩ h s)
    (he : exec i s = next (settleCmd i h.fn s (hostCmd ⟨op, long, minimal, issuer⟩ i h params false act s)))
    (ha : act (begun h s) = (.done stOk r, t)) (hw : heldBack s t = false) : Answers i h op r s t := by
  obtain ⟨ho, hs, hc⟩ := hm
  have hb : act (s.updHost h.fn fun x => { x with starting := false }) = (.done stOk r, t) := ha
  have hw' : heldBack s (finishShort h op stOk r t) = false := (heldBack_congr (finishShort_only ..).flash).trans hw
  rw [Answers, he, hostCmd_run ho hs hc, hb]
  exact congrArg next (settleCmd_of_not_heldBack hw')

/-! ### EXPORT_SET (R581) -/

/-- An id that names the handle already, or a free one where the table has room. -/
theorem actExportSet_of_free {ident : Nat} (hh : handle ≠ 0) (ho : s.obj? p handle = some o)
    (hf : Map.find? (s.part p).res.exports ident = some handle ∨
      (Map.find? (s.part p).res.exports ident = none ∧ (s.part p).res.exports.length < 4096)) :
    actExportSet p ident handle s =
      (cmdOk, s.updRes p fun r => { r with exports := Map.insert r.exports ident handle }) := by
  have hfree : (Map.getD (s.part p).res.exports ident handle ≠ handle ||
      ((Map.find? (s.part p).res.exports ident).isNone && (s.part p).res.exports.length ≥ 4096)) = false := by
    rcases hf with hf | ⟨hf, hl⟩
    · simp [Map.getD, hf]
    · simp [Map.getD, hf, hl]
  simp only [actExportSet, if_neg hh, ho, Option.isNone_some, hfree, Bool.false_eq_true, if_false]

theorem actExportSet_zero {ident : Nat} : actExportSet p ident 0 s =
    (cmdOk, s.updRes p fun r => { r with exports := Map.erase r.exports ident }) := rfl

end Sys2Proof.Machine

namespace Sys2Proof
open Machine

/-- Settles O11: the object enters the map under the counter, over a state that keeps every partition. -/
theorem newObjectTakesNextHandle : Obligations.NewObjectTakesNextHandle := by
  intro p kind policy sheets placed s t
  obtain ⟨u, hu, ht⟩ := addObject_eq (s := s) (p := p) (kind := kind) (policy := policy) (n := sheets) (placed := placed)
  have hobj (k : Nat) : t.obj? p k = Map.find? (Map.insert (s.part p).tier.objects (s.part p).tier.nextHandle
      { kind, base := placed.2.2, sheets, policy, map := placed.1, winFree := placed.2.1 }) k := by
    simp [t, ht, State.obj?, hu.part]
  refine ⟨by rw [hobj, Map.find?_insert_self], by simp [t, ht], fun k hk => ?_, fun q hq => ?_, ?_, ?_, ?_⟩
  · rw [hobj, Map.find?_insert_of_ne hk, State.obj?]
  · rw [show t = _ from ht, State.updTier_part_of_ne _ _ hq, hu.part]
  · rw [show t = _ from ht, State.updTier_stitches, hu.stitches]
  · rw [show t = _ from ht, State.updTier_array, hu.array]
  · simp [t, ht, hu.part]

/-- Settles O12: each clause by the command's own effect in the state that it has begun, which has the objects, the flash and
the exports of the state before. -/
theorem objectCommandsRun : Obligations.ObjectCommandsRun := by
  refine ⟨?_, ?_, ?_, ?_, ?_, ?_, ?_, ?_, ?_, ?_, ?_⟩
  · intro h sheets policy option block s kind n placed hm hk hr hb hp hh hn
    have h2 : option ≠ 2 := fun e => by
      subst e
      obtain ⟨g, r, c, a, gd, pt, rfl⟩ := optionKind_two hk
      exact hn g r c a gd pt rfl
    have hact := createObject_of_placed hr hk hb hp (by rwa [begun_tier]) hn
    rw [begun_tier] at hact
    exact answers_of_act hm (congrArg next (if_neg h2)) hact
  · intro h handle s o hm ho hg hc hd ht
    exact exec_of_act_started hm rfl (actObjDestroy_of_idle (by rwa [begun_obj]) hg hc hd ht)
  · intro h handle policy s u o hm ho hr hb hf hc hd hv hu
    exact exec_of_act_started hm rfl (actSetPolicy_of_reserved hr ho hb hf hc hd hv hu)
  · intro h handle count first addr s o hm ho hc hl
    refine answers_of_act hm rfl ?_
    have hbad : ¬ (count.toNat = 0 ∨ o.sheets < first.toNat + count.toNat) := by omega
    simp [actSheetQuery, ho, hbad]
  · intro h region owner refresh start count mode s hm hr hmode ho hc he hd hf hu
    have hmode' : mode.toNat = 1 ∨ mode.toNat = 2 := by
      rcases hmode with rfl | rfl
      · exact .inl rfl
      · exact .inr rfl
    exact exec_of_act_started hm rfl (actRegionFormat_of_use hr hmode' ho hc he hd hf hu)
  · intro h region addr s hm hp hr
    refine answers_of_act hm rfl ?_
    rw [actRegionQuery, if_neg (Nat.not_lt.mpr hr), if_neg (by simp [hp])]
    rfl
  · intro h handle step expect s o g r c a gd pt hm ho hk hs hc hw
    exact answers_of_settled hm rfl (actBufReset_of_redBuf hs ho hk hc) hw
  · intro h ident handle s o hm hh ho hf
    have h0 : handle.toNat ≠ 0 := fun e => hh (BitVec.eq_of_toNat_eq e)
    exact answers_of_act hm rfl (actExportSet_of_free h0 ho (by rwa [begun_res]))
  · intro h ident s hm
    exact answers_of_act hm rfl actExportSet_zero
  · intro h dev host bytes data s hm
    exact ⟨exec_of_act_started hm rfl rfl, exec_of_act_started hm rfl rfl⟩
  · intro h addr max s hm
    refine answers_of_act hm rfl ?_
    rw [begun_tier]

end Sys2Proof
end

section
/-!
The migration engine and the striped flash (R373, R375, R391, R392, R395, R480), and the bytes of memory (R347, R357).

The end of a move's copy is said in two steps: its sheet may be copied or an access row denies it, and a sheet that may be
copied is dirty or switches. A stripe that is due while no fold is in hand or waits is the next to fold (`askFold_of_idle`).
-/
namespace Sys2Proof.Machine

variable {p : Part} {s t : State}

/-! ### MOVE_START (R375) -/

/-- The only move, if it may start and fetches nothing, starts. -/
theorem startMove_of_only {v : Move} (hm : s.flash.moves = [v]) (hs : mayStart s v = true) (hk : v.kind ≠ .fetch) :
    startMove s = { s with flash := { s.flash with moves := [{ v with started := true }] } } := by
  simp [startMove, hm, hs, hk, updMove]

/-! ### MOVE_SWITCH (R373, R374, R480) -/

section copies

variable {ident : Nat} {v : Move} {o : Obj} {x : Sheet}

theorem exec_moveSwitch_of_settled {media : Media}
    (hv : s.flash.moves.find? (fun w => w.ident = ident && w.started) = some v) (he : endCopy v media s = t)
    (hw : heldBack s t = false) : exec (.moveSwitch ident media) s = next t := by
  show execMoveSwitch ident media s = _
  rw [execMoveSwitch, hv, ← settle_of_not_heldBack (p := v.p) hw, ← he]

/-- A copy that an access row denies is abandoned, and the denial recorded under master id 0x22 (R480). -/
theorem endCopy_of_denied {g : Right} {k : Nat} (ho : s.obj? v.p v.handle = some o)
    (hx : Map.find? o.map v.sheet = some x) (hp : x.poison = false) (hl : x.lost = false)
    (hd : moveDenied s v x = some (g, k)) :
    endCopy v .good s = abandonMove v (denied v.p k 0x22 g (o.base / 65536 + v.sheet) s) := by
  simp [endCopy, ho, hx, hp, hl, hd, sheetBytes]

/-- The move's sheet is whole, and nothing keeps it where it is: no access row, read-only region or open buffer. -/
structure Movable (s : State) (v : Move) (o : Obj) (x : Sheet) : Prop where
  obj : s.obj? v.p v.handle = some o
  sheet : Map.find? o.map v.sheet = some x
  clean : x.poison = false
  held : x.lost = false
  granted : moveDenied s v x = none
  writable : v.dst = .managed → (s.region v.region).readOnly = false
  free : v.kind = .fetch ∨ protectedSheet s v.p o v.sheet = false

/-- The copy has to be made again, its source written meanwhile; with the third, the move holds writes (R374). -/
def copyAgain (v : Move) (s : State) : State :=
  updMove v.ident (fun w => { w with dirty := false, tries := v.tries + 1, holding := decide (v.tries + 1 ≥ 3) })
    (s.updTier v.p fun t => { t with
      dirty := satAdd t.dirty 1, holds := if v.tries + 1 = 3 then satAdd t.holds 1 else t.holds })

theorem copyAgain_not_heldBack : heldBack s (copyAgain v s) = false := by
  simp [heldBack, copyAgain, updMove]

theorem copyAgain_tier : ((copyAgain v s).part v.p).tier = { (s.part v.p).tier with
    dirty := satAdd (s.part v.p).tier.dirty 1
    holds := if v.tries + 1 = 3 then satAdd (s.part v.p).tier.holds 1 else (s.part v.p).tier.holds } :=
  congrArg PartState.tier (State.updTier_part s v.p fun t => { t with
    dirty := satAdd t.dirty 1, holds := if v.tries + 1 = 3 then satAdd t.holds 1 else t.holds })

/-- The copy of a sheet that may move is made again where it is dirty, and else switches the map. -/
theorem endCopy_of_movable (h : Movable s v o x) :
    endCopy v .good s = if v.dirty then copyAgain v s else switchMove v x s := by
  obtain ⟨ho, hx, hp, hl, hg, hw, hf⟩ := h
  have hw' : (v.dst = .managed && (s.region v.region).readOnly) = false := by simpa using hw
  have hf' : (v.kind ≠ .fetch && protectedSheet s v.p o v.sheet) = false := by
    rcases hf with hf | hf
    · simp [hf]
    · simp [hf]
  simp only [endCopy, ho, hx, hp, hl, hg, hw', hf', Option.bind_some, Option.map_some, Bool.or_self, Bool.false_eq_true,
    reduceCtorEq, if_false]
  rfl

end copies

/-! ### Folds that fall due (R391, R392, R395) -/

/-- A stripe that falls due while no fold is in hand or waits is folded next. -/
theorem askFold_of_idle {key : Nat} {refresh : Bool} (hf : s.flash.folding = none) (hq : s.flash.foldQ = []) :
    askFold key refresh s = { s with flash := { s.flash with folding := some key, refreshing := refresh } } := by
  simp [askFold, dueFold, hf, hq]

theorem exec_overlayAgeExpiry_of_entries {region : Fin 16} {stripe : Nat}
    (he : stripeEntries s (region.val * 2 ^ 32 + stripe) ≠ []) :
    exec (.overlayAgeExpiry region stripe) s = next (askFold (region.val * 2 ^ 32 + stripe) false s) :=
  congrArg next (if_neg (by simpa using he))

theorem exec_stripeRefresh_of_striped {region : Fin 16} {stripe : Nat} (hm : (s.region region.val).mode = 2)
    (hr : (s.region region.val).ready = true) (hs : stripe * 8192 < (s.region region.val).frames) :
    exec (.stripeRefresh region stripe) s = next (askFold (region.val * 2 ^ 32 + stripe) true s) :=
  congrArg next (if_pos (by simp [hm, hr, hs]))

/-! ### FOLD (R391, R394) -/

/-- No fold follows while none is due and the overlay holds no more than 49,152 sheets. -/
theorem dueFold_of_few (hf : s.flash.folding = none) (hq : s.flash.foldQ = []) (hl : s.flash.overlay.length ≤ 49152) :
    dueFold s = s := by
  simp [dueFold, hf, hq, hl]

theorem admitWaiting_mem : (admitWaiting s).mem = s.mem := (dueFold_unmoved _).mem

/-- Where no sheet waits for room, none enters the overlay and no fold follows. -/
theorem admitWaiting_of_none (hw : s.flash.overlayWait = []) (hf : s.flash.folding = none) (hq : s.flash.foldQ = [])
    (hl : s.flash.overlay.length ≤ 49152) :
    (admitWaiting s).flash.folding = none ∧ (admitWaiting s).flash.overlay = s.flash.overlay := by
  unfold admitWaiting
  extract_lets n f
  have hff : f = s.flash := by simp [f, hw]
  rw [dueFold_of_few (by rw [hff]; exact hf) (by rw [hff]; exact hq) (by rw [hff]; exact hl), hff]
  exact ⟨hf, rfl⟩

theorem wearStripe_steady {key : Nat} : Steady s (wearStripe key s) := by
  unfold wearStripe updFlash wearBlocks
  exact ⟨rfl, rfl, rfl, rfl, rfl, rfl⟩

theorem wearStripe_foldQ {key : Nat} : (wearStripe key s).flash.foldQ = s.flash.foldQ := by
  simp only [wearStripe, updFlash, wearBlocks]

/-- The end of the fold in hand, of a stripe with one entry, but for what then enters the overlay: the entry's bytes are in its
frame, and the entry is gone. -/
theorem endFold_eq {key n : Nat} (hf : s.flash.folding = some key) (he : stripeEntries s key = [n]) :
    ∃ u, endFold s = admitWaiting u ∧ u.flash.folding = none ∧ u.flash.foldQ = s.flash.foldQ ∧
      u.flash.overlayWait = s.flash.overlayWait ∧
      u.flash.overlay = s.flash.overlay.filter (fun k => !([n].contains k)) ∧
      u.mem = clearRun (putRun s.mem (frameKey .striped (key / 2 ^ 32) (n % 2 ^ 40))
        (getMem s (overlayKey (key / 2 ^ 32) (n % 2 ^ 40)) sheetBytes)) (overlayKey (key / 2 ^ 32) (n % 2 ^ 40))
          sheetBytes := by
  unfold endFold
  split
  next h => cases h.symm.trans hf
  next k hk =>
    obtain rfl : key = k := Option.some.inj (hf.symm.trans hk)
    extract_lets names region s₁ s₂ st s₃
    have hn : names = [n] := he
    have h₃ : Steady s₂ s₃ := wearStripe_steady
    have hq : s₃.flash.foldQ = s₂.flash.foldQ := wearStripe_foldQ
    -- what is needed of the worn stripe's state is said; its value would be unfolded below
    clear_value s₃
    have h₂ : s₂.flash = s.flash := by simp [s₂, s₁, hn, putMem]
    refine ⟨_, rfl, rfl, hq.trans (congrArg Flash.foldQ h₂), h₃.waits.trans (congrArg Flash.overlayWait h₂), ?_, ?_⟩
    · rw [← hn]
      exact congrArg _ (h₃.overlay.trans (congrArg Flash.overlay h₂))
    · refine h₃.mem.trans ?_
      simp [s₂, s₁, hn, putMem, region]

end Sys2Proof.Machine

namespace Sys2Proof
open Machine

/-- Settles O14: a move by what the end of its copy meets, a stripe by the queue of folds, which is empty. -/
theorem tierEventsRun : Obligations.TierEventsRun := by
  refine ⟨?_, ?_, ?_, ?_, ?_, ?_, ?_⟩
  · intro s v hm hs hk
    exact congrArg next (startMove_of_only hm hs hk)
  · intro s ident v o x hv ho hx hp hl hd hg hw hf
    have he : endCopy v .good s = copyAgain v s := (endCopy_of_movable ⟨ho, hx, hp, hl, hg, hw, hf⟩).trans (if_pos hd)
    refine ⟨copyAgain v s, exec_moveSwitch_of_settled hv he copyAgain_not_heldBack, rfl, ?_, ?_, rfl⟩
    · simp [copyAgain_tier]
    · simp [copyAgain_tier]
  · intro s ident v o x hv ho hx hp hl hd hg hw hf hh
    have he : endCopy v .good s = switchMove v x s :=
      (endCopy_of_movable ⟨ho, hx, hp, hl, hg, hw, hf⟩).trans (if_neg (by simp [hd]))
    exact exec_moveSwitch_of_settled hv he hh
  · intro s ident v o x g k u hv ho hx hp hl hd hh
    exact exec_moveSwitch_of_settled hv (endCopy_of_denied ho hx hp hl hd) hh
  · intro s region stripe he hf hq
    rw [exec_overlayAgeExpiry_of_entries he, askFold_of_idle hf hq]
  · intro s region stripe hm hr hs hf hq
    rw [exec_stripeRefresh_of_striped hm hr hs, askFold_of_idle hf hq]
  · intro s key n hf he hw hq hl
    obtain ⟨u, hu, hfold, hqueue, hwait, hover, hmem⟩ := endFold_eq hf he
    have hlen : u.flash.overlay.length ≤ 49152 := hover ▸ (List.length_filter_le _ _).trans hl
    obtain ⟨hnone, hsame⟩ := admitWaiting_of_none (hwait.trans hw) hfold (hqueue.trans hq) hlen
    refine ⟨admitWaiting u, congrArg next hu, hnone, ?_, admitWaiting_mem.trans hmem⟩
    rw [hsame, hover]
    simp

/-- Settles O15: the run's bytes are found in it, and those outside it in the memory before. -/
theorem memoryReadsBackWhatIsStored : Obligations.MemoryReadsBackWhatIsStored :=
  fun _ _ _ => ⟨getMem_putMem, fun _ => cell_putMem_of_outside⟩

end Sys2Proof
end

section
/-!
Firmware staging, configuration records, punch sets and packing (R412, R416, R424 to R428, R726, R737 to R740).

An update touches the firmware slot that is not ACTIVE and leaves the other: said once of `updSlotFw`, then of the start of a
staging and of the bytes that arrive. The commands on punch sets and packed objects are each their own effect where its
checks pass; `answers_of_act` and `exec_of_act_started` carry it over to the instruction.
-/
namespace Sys2Proof.Machine

variable {h : CmdHdr} {p : Part} {s : State}

/-! ### Firmware slots -/

section firmware

variable {b c : Bool} {f : FwSlot → FwSlot} {path : StagePath} {offset : Nat} {data : List Byte}

@[simp] theorem updSlotFw_fwSlot_self : (updSlotFw b f s).fwSlot b = f (s.fwSlot b) := by
  cases b
  · rfl
  · rfl

theorem updSlotFw_fwSlot_of_ne (hc : c ≠ b) : (updSlotFw b f s).fwSlot c = s.fwSlot c := by
  obtain rfl : c = !b := Bool.eq_not.mpr hc
  cases b
  · rfl
  · rfl

@[simp] theorem updSlotFw_active : (updSlotFw b f s).power.active = s.power.active := by
  cases b
  · rfl
  · rfl

@[simp] theorem updSlotFw_responses : (updSlotFw b f s).power.responses = s.power.responses := by
  cases b
  · rfl
  · rfl

/-! ### Staging (R737, R739) -/

/-- The first staging marks the slot that is not ACTIVE empty. -/
theorem beginStage_of_unstaged (hs : s.power.staged = false) : beginStage path s = updPower (fun w => { w with
    staging := path, staged := true }) (updSlotFw (!s.power.active) (fun x => { x with empty := true }) s) := by
  simp [beginStage, hs]

theorem beginStage_of_staged (hs : s.power.staged = true) :
    beginStage path s = updPower (fun w => { w with staging := path, staged := true }) s := by
  simp [beginStage, hs]

@[simp] theorem beginStage_staged : (beginStage path s).power.staged = true := rfl

@[simp] theorem beginStage_active : (beginStage path s).power.active = s.power.active := by
  cases hs : s.power.staged
  · rw [beginStage_of_unstaged hs]
    exact updSlotFw_active
  · rw [beginStage_of_staged hs]
    rfl

theorem beginStage_marks_empty (hs : s.power.staged = false) :
    ((beginStage path s).fwSlot (!s.power.active)).empty = true := by
  rw [beginStage_of_unstaged hs]
  exact congrArg FwSlot.empty updSlotFw_fwSlot_self

/-- No staging touches the ACTIVE slot. -/
@[simp] theorem beginStage_fwSlot_active : (beginStage path s).fwSlot s.power.active = s.fwSlot s.power.active := by
  cases hs : s.power.staged
  · rw [beginStage_of_unstaged hs]
    exact updSlotFw_fwSlot_of_ne (by simp)
  · rw [beginStage_of_staged hs]
    rfl

@[simp] theorem writeSlot_staged : (writeSlot offset data s).power.staged = s.power.staged := by
  unfold writeSlot
  cases s.power.active
  · rfl
  · rfl

@[simp] theorem writeSlot_active : (writeSlot offset data s).power.active = s.power.active := updSlotFw_active

theorem writeSlot_fwSlot_active (hc : c = s.power.active) : (writeSlot offset data s).fwSlot c = s.fwSlot c :=
  updSlotFw_fwSlot_of_ne (by simp [hc])

/-- The bytes that arrive change what the other slot holds, and nothing else of it. -/
theorem writeSlot_fwSlot_other (hc : c = !s.power.active) : (writeSlot offset data s).fwSlot c = { s.fwSlot c with
    bytes := (data.zipIdx offset).foldl (fun m e => Map.insert m e.2 e.1) (s.fwSlot c).bytes } := by
  subst hc
  exact updSlotFw_fwSlot_self

theorem exec_fwStage_of_fits {off len : B32} {addr : B64}
    (hm : MayRun { opcode := 0x0702, long := true, minimal := true, issuer := .p0 } h s)
    (hl : off.toNat + len.toNat ≤ slotSize) (hs : s.power.staging ≠ .pldm) :
    exec (.fwStage h off len addr data) s = .next (startLong h 0x0702
      (leBytes 4 off.toNat ++ leBytes 4 len.toNat ++ leBytes 8 addr.toNat)
      (.stage off.toNat (data.take len.toNat)) (beginStage .command (begun h s))) := by
  refine exec_of_act_started hm rfl ?_
  simp only [decide_eq_true_eq, if_neg (Nat.not_lt.mpr hl), begun_s_power, hs, if_false]

theorem execRequestUpdate_of_idle (hb : busServed s = true) (hs : s.power.staging = .idle) :
    execRequestUpdate s = next (respond [0] (updPower (fun w => { w with staging := .pldm }) s)) := by
  rw [execRequestUpdate, if_neg (by simp [hb]), if_neg (not_not.mpr hs)]

theorem execRequestFirmwareData_of_fits {off : B32} (hb : busServed s = true) (hs : s.power.staging = .pldm)
    (hl : off.toNat + data.length ≤ slotSize) :
    execRequestFirmwareData off data s = next (writeSlot off.toNat data (beginStage .pldm s)) := by
  have hcond : (!busServed s || s.power.staging ≠ .pldm || decide (slotSize < off.toNat + data.length)) = false := by
    simp [hb, hs, Nat.not_lt.mpr hl]
  simp only [execRequestFirmwareData, hcond, Bool.false_eq_true, if_false]

/-- A staged image that verifies is the next start's trial (R738). -/
theorem endActivate_of_verified (hs : s.power.staged = true) (hi : imageOk s (!s.power.active) = true) :
    endActivate s = (stOk, updPower (fun w => { w with
      staging := .idle, staged := false, trial := some (!s.power.active), failCount := 0, reasonDone := true
      pufLost := false }) (updSlotFw (!s.power.active) (fun x => { x with empty := false }) s)) := by
  simp only [endActivate, hs, hi, if_true, Bool.not_true]
  rfl

theorem execActivateFirmware_of_verified (hb : busServed s = true) (hs : s.power.staging = .pldm)
    (hu : s.power.staged = true) (hi : imageOk s (!s.power.active) = true) :
    execActivateFirmware s = next (respond [0] (endActivate s).2) := by
  rw [execActivateFirmware, if_neg (by simp [hb]), if_neg (not_not.mpr hs), endActivate_of_verified hu hi]
  rfl

end firmware

/-! ### Punch sets (R424 to R427) -/

section punch

variable {slot : Nat}

theorem updSlot_congr {f g : PunchSlot → PunchSlot} (hf : f (s.slot slot) = g (s.slot slot)) :
    updSlot slot f s = updSlot slot g s := by
  rw [updSlot, hf, updSlot]

/-- A FREE slot that nothing refers to takes a good image. -/
theorem actPunchLoad_of_free {gen : Byte} {image : List Byte} (hl : slot ≤ 15) (hi : punchBad image = false)
    (hf : (s.slot slot).state = .free) (hr : (s.slot slot).refs = 0) :
    actPunchLoad p slot gen.toNat image s = (cmdOk, updSlot slot (fun x => {
      state := .loaded, owner := p, fmt := BitVec.ofNat 2 (image.getD 128 0).toNat
      gen := if gen ≠ 0 then gen else if x.gen = 255 then 1 else x.gen + 1, refs := 0, image }) s) := by
  have hg : gen.toNat ≠ 0 ↔ gen ≠ 0 := by simp [← BitVec.toNat_inj]
  simp [actPunchLoad, Nat.not_lt.mpr hl, hi, hf, hr, hg, updSlot]

/-- A LOADED slot of the partition is FREE at once where nothing refers to it, and RETIRING otherwise. -/
theorem actPunchRetire_of_loaded (hl : slot ≤ 15) (hs : (s.slot slot).state = .loaded) (ho : (s.slot slot).owner = p) :
    actPunchRetire p slot s = (cmdOk, updSlot slot (fun x => if x.refs = 0 then
      { x with state := .free, fmt := 0, image := [] } else { x with state := .retiring }) s) := by
  simp [actPunchRetire, Nat.not_lt.mpr hl, hs, ho]

theorem actPunchRetire_of_unused (hl : slot ≤ 15) (hs : (s.slot slot).state = .loaded) (ho : (s.slot slot).owner = p)
    (hr : (s.slot slot).refs = 0) : actPunchRetire p slot s =
      (cmdOk, updSlot slot (fun x => { x with state := .free, fmt := 0, image := [] }) s) :=
  (actPunchRetire_of_loaded hl hs ho).trans (congrArg (Prod.mk cmdOk) (updSlot_congr (if_pos hr)))

theorem actPunchRetire_of_used (hl : slot ≤ 15) (hs : (s.slot slot).state = .loaded) (ho : (s.slot slot).owner = p)
    (hr : (s.slot slot).refs ≠ 0) :
    actPunchRetire p slot s = (cmdOk, updSlot slot (fun x => { x with state := .retiring }) s) :=
  (actPunchRetire_of_loaded hl hs ho).trans (congrArg (Prod.mk cmdOk) (updSlot_congr (if_neg hr)))

end punch

/-! ### Packing and unpacking (R412, R416, R428) -/

section packing

variable {src dst fmt blocks granules : Nat} {stitch : B16} {a b : Obj}

theorem actPack_of_room {mask : B16} (ha : s.obj? p src = some a) (hb : s.obj? p dst = some b) (hka : a.kind = .plain)
    (hkb : b.kind = .packed fmt blocks granules) (hn : a.sheets * 8 ≤ blocks) (hm : mask ≠ 0)
    (hs : ∀ i ∈ maskSlots mask.toNat, (s.slot i).state = .loaded ∧ (s.slot i).owner = p ∧ (s.slot i).fmt.toNat = fmt) :
    actPack p src dst mask stitch s = (.started (.pack src dst mask stitch),
      (maskSlots mask.toNat).foldl (fun s i => takeRefs i 1 s) s) := by
  have hall : ((maskSlots mask.toNat).all fun i =>
      (s.slot i).state = .loaded && (s.slot i).owner = p && (s.slot i).fmt.toNat = fmt) = true := by
    simpa [and_assoc] using hs
  simp only [actPack, ha, hb, hka, hkb, hall]
  rw [Bool.not_true, Bool.or_false, if_neg (by simpa [hn] using hm)]

theorem actUnpack_of_room (ha : s.obj? p src = some a) (hb : s.obj? p dst = some b)
    (hka : a.kind = .packed fmt blocks granules) (hkb : b.kind = .plain) (hn : blocks ≤ b.sheets * 8) :
    actUnpack p src dst stitch s = (.started (.unpack src dst stitch (namedSlots s p a)),
      (namedSlots s p a).foldl (fun s i => takeRefs i 1 s) s) := by
  simp only [actUnpack, ha, hb, hka, hkb, if_neg (Nat.not_lt.mpr hn)]

end packing

end Sys2Proof.Machine

namespace Sys2Proof
open Machine

/-- Settles O46: a command by its own effect in the state that it has begun, a message of the management bus by what its
staging leaves of the two firmware slots. -/
theorem stagingAndPackingRun : Obligations.StagingAndPackingRun := by
  refine ⟨?_, ?_, ?_, ?_, ?_, ?_, ?_, ?_, ?_, ?_⟩
  · intro h off len addr data s hm hl hs
    exact exec_fwStage_of_fits hm hl hs
  · intro h s hm
    exact exec_of_act_started hm rfl rfl
  · intro h addr len data s hm
    exact exec_of_act_started hm rfl rfl
  · intro s hb hs
    exact execRequestUpdate_of_idle hb hs
  · intro off data s hb hs hl
    refine ⟨_, execRequestFirmwareData_of_fits hb hs hl, by simp, by simp, fun hu => ?_, ?_, ?_⟩
    · rw [writeSlot_fwSlot_other (by simp)]
      exact beginStage_marks_empty hu
    · rw [writeSlot_fwSlot_active (by simp), beginStage_fwSlot_active]
    · rintro x rfl
      rw [writeSlot_fwSlot_other (by simp)]
      simp
  · intro s hb hs hu hi
    refine ⟨_, execActivateFirmware_of_verified hb hs hu hi, ?_⟩
    rw [endActivate_of_verified hu hi]
    simp [respond, updPower]
  · intro h slot gen addr image s hm hl hi hf hr
    exact answers_of_act hm rfl (actPunchLoad_of_free hl hi hf hr)
  · intro h slot s hm hl hs ho
    exact ⟨fun hr => answers_of_act hm rfl (actPunchRetire_of_unused hl hs ho hr),
      fun hr => answers_of_act hm rfl (actPunchRetire_of_used hl hs ho hr)⟩
  · intro h src dst mask stitch s a b fmt blocks granules hm ha hb hka hkb hn hmask hs
    exact exec_of_act_started hm rfl (actPack_of_room (by rwa [begun_obj]) (by rwa [begun_obj]) hka hkb hn hmask hs)
  · intro h src dst stitch s a b fmt blocks granules hm ha hb hka hkb hn
    exact exec_of_act_started hm rfl (actUnpack_of_room (by rwa [begun_obj]) (by rwa [begun_obj]) hka hkb hn)

end Sys2Proof
end

section
/-!
Stitches (R442, R444, R445, R447, R448, R454, R644): signals, locks that do not apply, and the host's stitch commands.

A signal changes its stitch by `Stitch.signalled` and then drops the waits that `Stitch.satisfies`; said once of `checkWaits`
and `signalStitch`, the statement on signals reads off the fields. A command's statement is its own effect in the state that
it has begun, which `answers_of_act` carries over; where no request is registered, checking them again puts the stitch back
as it is (`checkWaits_putStitch_of_no_reqs`, `grantLock_of_no_reqs`).
-/
namespace Sys2Proof.Machine

variable {p : Part} {s : State} {g i : Nat}

/-! ### Writing a map twice at one place -/

theorem Map.insert_insert {α : Type} {m : Map α} {k : Nat} {a b : α} :
    Map.insert (Map.insert m k a) k b = Map.insert m k b := by
  induction m with
  | nil => simp [Map.insert]
  | cons e m ih =>
    obtain ⟨j, c⟩ := e
    rcases lt_trichotomy k j with h | rfl | h
    · simp [Map.insert, h]
    · simp [Map.insert]
    · simp [Map.insert, ih, Nat.not_lt.mpr h.le, h.ne']

theorem Map.erase_of_not_listed {α : Type} {m : Map α} {k : Nat} (h : Map.find? m k = none) : Map.erase m k = m := by
  induction m with
  | nil => rfl
  | cons e m ih =>
    obtain ⟨j, c⟩ := e
    by_cases hk : k = j
    · simp [Map.find?, hk] at h
    · simp only [Map.find?, if_neg hk] at h
      simp [Map.erase, hk, ih h]

theorem Map.setD_setD_self {α : Type} [DecidableEq α] {d a : α} {m : Map α} {k : Nat} (h : Map.sorted m = true) :
    Map.setD d (Map.setD d m k a) k a = Map.setD d m k a := by
  unfold Map.setD
  split
  · exact Map.erase_of_not_listed (Map.find?_erase_self h)
  · exact Map.insert_insert

/-! ### Reading a stitch after putting it back -/

/-- A stitch that differs from reset is listed, and read back whatever the order of the list. -/
theorem stitch_putStitch_of_ne_reset {x : Stitch} (h : x ≠ {}) : (putStitch g x s).stitch g = x := by
  rw [putStitch, Map.setD, if_neg h]
  exact Map.getD_insert_self ..

theorem stitch_putStitch_of_ne {x : Stitch} {k : Nat} (h : k ≠ g) : (putStitch g x s).stitch k = s.stitch k :=
  Map.getD_setD_of_ne h

theorem putStitch_putStitch_self {x : Stitch} (h : Map.sorted s.stitches = true) :
    putStitch g x (putStitch g x s) = putStitch g x s :=
  congrArg (fun m : Map Stitch => { s with stitches := m }) (Map.setD_setD_self h)

/-! ### Registered waits (R445) -/

/-- Whether a stitch answers a registered request as a wait: its COUNT reaches the threshold and it is not BROKEN. -/
def Stitch.satisfies (x : Stitch) (q : StReq) : Bool :=
  !q.lock && decide (q.threshold.toNat ≤ x.count.toNat) && x.state != .broken

theorem Stitch.not_satisfies_iff {x : Stitch} {q : StReq} :
    x.satisfies q = false ↔ q.lock = true ∨ x.count.toNat < q.threshold.toNat ∨ x.state = .broken := by
  rw [← Bool.not_eq_true]
  simp only [Stitch.satisfies, Bool.and_eq_true, Bool.not_eq_true', decide_eq_true_eq, bne_iff_ne]
  rw [not_and_or, not_and_or, not_not, Bool.not_eq_false, not_le, or_assoc]

/-- A stitch without the requests it answers. -/
def Stitch.checked (x : Stitch) : Stitch := { x with reqs := x.reqs.filter fun q => !x.satisfies q }

theorem grantHeads_frame {l : List StReq} : (l.foldl (fun s q => grantHead q s) s).stitches = s.stitches ∧
    (l.foldl (fun s q => grantHead q s) s).mem = s.mem :=
  List.foldlRecOn (motive := fun t : State => t.stitches = s.stitches ∧ t.mem = s.mem) l _ ⟨rfl, rfl⟩ fun _ h _ _ => h

theorem checkWaits_stitches : (checkWaits g s).stitches = (putStitch g (s.stitch g).checked s).stitches :=
  grantHeads_frame.1

theorem checkWaits_mem : (checkWaits g s).mem = s.mem := grantHeads_frame.2

theorem stitch_congr {t : State} (h : t.stitches = s.stitches) : t.stitch g = s.stitch g :=
  congrArg (fun m : Map Stitch => Map.getD m g {}) h

theorem checkWaits_stitch_self (h : Map.sorted s.stitches = true) : (checkWaits g s).stitch g = (s.stitch g).checked :=
  (stitch_congr checkWaits_stitches).trans (stitch_putStitch h)

theorem checkWaits_stitch_of_ne {k : Nat} (h : k ≠ g) : (checkWaits g s).stitch k = s.stitch k :=
  (stitch_congr checkWaits_stitches).trans (stitch_putStitch_of_ne h)

/-- With no request registered, checking the waits of a stitch that was just put back changes nothing. -/
theorem checkWaits_putStitch_of_no_reqs {x : Stitch} (hx : x.reqs = []) (h : Map.sorted s.stitches = true) :
    checkWaits g (putStitch g x s) = putStitch g x s := by
  have hc : { x with reqs := [] } = x := by rw [← hx]
  simp only [checkWaits, stitch_putStitch h, hx, List.filter_nil, List.foldl_nil, hc]
  exact putStitch_putStitch_self h

theorem grantLock_of_no_reqs (h : (s.stitch g).reqs = []) : grantLock g s = s := by
  simp [grantLock, h]

/-! ### Signals (R444) -/

theorem satAdd_of_fits {w n : Nat} {c : BitVec w} (h : c.toNat + n < 2 ^ w) : (satAdd c n).toNat = c.toNat + n := by
  rw [satAdd, if_pos h, BitVec.toNat_ofNat, Nat.mod_eq_of_lt h]

theorem satAdd_of_past {w n : Nat} {c : BitVec w} (h : 2 ^ w ≤ c.toNat + n) : satAdd c n = BitVec.allOnes w :=
  if_neg (Nat.not_lt.mpr h)

/-- A stitch with a value added to COUNT, before its waits are checked. -/
def Stitch.signalled (v : Nat) (x : Stitch) : Stitch :=
  { x with count := satAdd x.count v, sat := x.sat || decide (x.count.toNat + v > 0xFFFF_FFFF) }

/-- A signal checks the waits of its stitch in a state where COUNT is added to; the registers of its owner count it. -/
theorem signalStitch_eq_checkWaits {v : Nat} : ∃ t, signalStitch g v s = checkWaits g t ∧
    t.stitches = (putStitch g ((s.stitch g).signalled v) s).stitches ∧ t.mem = s.mem := by
  unfold signalStitch
  extract_lets x past u t
  refine ⟨t, rfl, ?_⟩
  simp only [t]
  split
  · exact ⟨rfl, rfl⟩
  · exact ⟨rfl, rfl⟩

theorem signalStitch_stitch_self {v : Nat} (h : Map.sorted s.stitches = true) :
    (signalStitch g v s).stitch g = ((s.stitch g).signalled v).checked := by
  obtain ⟨t, ht, hst, -⟩ := signalStitch_eq_checkWaits (g := g) (s := s) (v := v)
  have hsort : Map.sorted t.stitches = true := hst ▸ Map.sorted_setD h
  rw [ht, checkWaits_stitch_self hsort, stitch_congr hst, stitch_putStitch h]

theorem signalStitch_stitch_of_ne {v k : Nat} (h : k ≠ g) : (signalStitch g v s).stitch k = s.stitch k := by
  obtain ⟨t, ht, hst, -⟩ := signalStitch_eq_checkWaits (g := g) (s := s) (v := v)
  rw [ht, checkWaits_stitch_of_ne h, stitch_congr hst, stitch_putStitch_of_ne h]

theorem signalStitch_mem {v : Nat} : (signalStitch g v s).mem = s.mem := by
  obtain ⟨t, ht, -, hm⟩ := signalStitch_eq_checkWaits (g := g) (s := s) (v := v)
  rw [ht, checkWaits_mem, hm]

/-! ### Locks and unlocks (R447, R448) -/

section locks

variable {m : Nat} {st : Strm} {e : Byte}

theorem lockStitch_of_opened (h : (s.stitch g).state = .opened) : lockStitch g m st s =
    .ok (putStitch g { s.stitch g with state := .locked, owner := BitVec.ofNat 8 m, stream := st } s) := by
  simp [lockStitch, h]

theorem lockStitch_of_broken (h : (s.stitch g).state = .broken) : lockStitch g m st s = .error .broken := by
  simp [lockStitch, h]

theorem lockStitch_of_holder (h : (s.stitch g).state = .locked)
    (ho : (s.stitch g).owner.toNat = m ∧ (s.stitch g).stream = st) : lockStitch g m st s = .error .access := by
  simp [lockStitch, h, ho]

theorem lockStitch_of_held (h : (s.stitch g).state = .locked)
    (ho : ¬((s.stitch g).owner.toNat = m ∧ (s.stitch g).stream = st)) : lockStitch g m st s = .error .busy := by
  simpa [lockStitch, h] using ho

theorem unlockStitch_of_stale (h : (s.stitch g).state = .broken ∨ e ≠ (s.stitch g).epoch) :
    unlockStitch g m st e s = .error .broken := if_pos (by simpa using h)

theorem unlockStitch_of_not_holder (h : (s.stitch g).state ≠ .broken) (he : e = (s.stitch g).epoch)
    (ho : ¬((s.stitch g).state = .locked ∧ (s.stitch g).owner.toNat = m ∧ (s.stitch g).stream = st)) :
    unlockStitch g m st e s = .error .access := by
  have hb : ((s.stitch g).state ≠ .locked || (s.stitch g).owner.toNat ≠ m || (s.stitch g).stream ≠ st) = true := by
    simpa [imp_iff_not_or, or_assoc] using ho
  exact (if_neg (by simp [h, he])).trans (if_pos hb)

/-- The holder's unlock, with no lock request registered, leaves the stitch OPEN. -/
theorem unlockStitch_of_holder (h : (s.stitch g).state = .locked) (ho : (s.stitch g).owner.toNat = m)
    (hst : (s.stitch g).stream = st) (hr : (s.stitch g).reqs = []) (hs : Map.sorted s.stitches = true) :
    unlockStitch g m st (s.stitch g).epoch s =
      .ok (putStitch g { s.stitch g with state := .opened, owner := 0xFF, stream := 0 } s) := by
  have hr' : ((putStitch g { s.stitch g with state := .opened, owner := 0xFF, stream := 0 } s).stitch g).reqs = [] := by
    rw [stitch_putStitch hs, hr]
  rw [unlockStitch, if_neg (by simp [h]), if_neg (by simp [h, ho, hst])]
  exact congrArg Except.ok (grantLock_of_no_reqs hr')

end locks

/-! ### The host's stitch commands (R442, R444, R447, R448, R454, R644) -/

theorem actStSet_of_own {remote : Nat} {count : B32} (hr : remote ≤ 1) (hg : ownStitch s p i = .ok g)
    (hq : (s.stitch g).reqs = []) (hs : Map.sorted s.stitches = true) : actStSet p i remote count s =
      (cmdOk, putStitch g { s.stitch g with count, remote := decide (remote = 1), sat := false } s) := by
  rw [actStSet, if_neg (Nat.not_lt.mpr hr), hg]
  exact congrArg (Prod.mk cmdOk) (checkWaits_putStitch_of_no_reqs hq hs)

theorem actStRepair_of_broken (hg : ownStitch s p i = .ok g) (hb : (s.stitch g).state = .broken) :
    actStRepair p i s = (cmdOk, putStitch g { s.stitch g with state := .opened, owner := 0xFF, stream := 0 } s) := by
  simp [actStRepair, hg, hb]

theorem actStLock_of_opened {x : Stitch} (hg : reachStitch s p p.val .lock i = .ok g) (ho : (s.stitch g).state = .opened)
    (hx : x = { s.stitch g with state := .locked, owner := BitVec.ofNat 8 p.val, stream := 0 }) :
    actStLock p i s = (.done stOk (place 128 64 x.word.toNat), putStitch g x s) := by
  subst hx
  rw [actStLock, hg]
  simp only [lockStitch_of_opened ho]
  rw [stitch_putStitch_of_ne_reset (fun h => by simpa using congrArg Stitch.state h)]

theorem actStUnlock_of_holder (hg : reachStitch s p p.val .unlock i = .ok g) (hl : (s.stitch g).state = .locked)
    (ho : (s.stitch g).owner.toNat = p.val) (hst : (s.stitch g).stream = 0) (hr : (s.stitch g).reqs = [])
    (hs : Map.sorted s.stitches = true) : actStUnlock p i (s.stitch g).epoch s =
      (cmdOk, putStitch g { s.stitch g with state := .opened, owner := 0xFF, stream := 0 } s) := by
  rw [actStUnlock, hg]
  simp only [unlockStitch_of_holder hl ho hst hr hs]

theorem actStSignal_of_reached {v : Nat} (hg : reachStitch s p p.val .signal i = .ok g) :
    actStSignal p i v s = (cmdOk, signalStitch g v s) := by
  rw [actStSignal, hg]

theorem actStRead_of_reached (hg : reachStitch s p p.val .read i = .ok g) :
    actStRead p i s = (.done stOk (place 128 0 (s.stitch g).word.toNat), s) := by
  rw [actStRead, hg]

/-- ST_EXPORT to another partition's window that is free or already from this partition (R442). -/
theorem actStExport_of_free {q : Part} {window first count ops : Nat} (hq : q ≠ p) (hw : window ≤ 7) (hops : ops ≤ 15)
    (h0 : 0 < count) (hc : count ≤ 4096) (hf : first + count ≤ (s.part p).stc.count.toNat * 256)
    (hold : ∀ w, Map.find? (s.part q).stc.imports window = some w → w.src = p) :
    actStExport p q.val window first count ops s = (cmdOk, s.updStc q fun x => { x with
      imports := Map.insert x.imports window (ImportWin.mk p (BitVec.ofNat 4 ops)
        (BitVec.ofNat 16 ((s.part p).stc.base.toNat * 256 + first)) count) }) := by
  have hval : q.val ≠ p.val := fun h => hq (Fin.ext h)
  have hother : (Map.find? (s.part q).stc.imports window).any (fun w => decide (w.src ≠ p)) = false :=
    (Option.any_eq_false ..).mpr fun w hw => decide_eq_false (not_not.mpr (hold w hw))
  rw [actStExport, if_neg (by simp; omega)]
  simp only [show Fin.ofNat 4 q.val = q from Fin.ofNat_val_eq_self q, hother]
  rw [if_neg Bool.false_ne_true, if_neg h0.ne', if_neg (by simp; omega)]

end Sys2Proof.Machine

namespace Sys2Proof
open Machine

/-- Settles O20: each refusal by the state of the stitch, its EPOCH and who holds it. -/
theorem lockRefusals : Obligations.LockRefusals := by
  intro s g m st e x
  exact ⟨fun h => ⟨lockStitch_of_broken h, unlockStitch_of_stale (.inl h)⟩,
    fun h => ⟨lockStitch_of_holder h, lockStitch_of_held h⟩, fun h => unlockStitch_of_stale (.inr h),
    unlockStitch_of_not_holder⟩

/-- Settles O19: the stitch is `Stitch.signalled` and then `Stitch.checked`, and the frame is that of the signal. -/
theorem signalAddsAndWakes : Obligations.SignalAddsAndWakes := by
  intro s g v x t hs
  have hx : t.stitch g = (x.signalled v).checked := signalStitch_stitch_self hs
  rw [hx]
  refine ⟨fun hv => ⟨satAdd_of_fits hv, ?_⟩, fun hv => ⟨satAdd_of_past hv, ?_⟩, rfl, rfl, fun q hq => ?_,
    fun k hk => signalStitch_stitch_of_ne hk, signalStitch_mem⟩
  · show (x.sat || decide _) = x.sat
    rw [decide_eq_false (by omega), Bool.or_false]
  · show (x.sat || decide _) = true
    rw [decide_eq_true (by omega), Bool.or_true]
  · obtain ⟨hq, hn⟩ := List.mem_filter.mp hq
    have hn' : (x.signalled v).satisfies q = false := by simpa using hn
    exact ⟨hq, Stitch.not_satisfies_iff.mp hn'⟩

/-- Settles O18: each command by its own effect on the stitch it reaches, in the state that it has begun. -/
theorem stitchCommandsRun : Obligations.StitchCommandsRun := by
  refine ⟨fun h idx remote count s g hm hr hg hq hs => answers_of_act hm rfl (actStSet_of_own hr hg hq hs),
    fun h idx s g hm hg hb => answers_of_act hm rfl (actStRepair_of_broken hg hb),
    fun h idx s g hm hg ho => answers_of_act hm rfl (actStLock_of_opened hg ho rfl),
    fun h idx s g hm hg hl ho hst hr hs => answers_of_act hm rfl (actStUnlock_of_holder hg hl ho hst hr hs),
    fun h idx v s g hm hg => answers_of_act hm rfl (actStSignal_of_reached hg),
    fun h idx s g hm hg => answers_of_act hm rfl (actStRead_of_reached hg),
    fun h q window first count ops s hm hq hops h0 hc hf hold => answers_of_act hm rfl ?_⟩
  have hx := actStExport_of_free (s := begun h s) (first := first.toNat) hq (Nat.le_of_lt_succ window.isLt) hops h0 hc
    (by simpa using hf) (by simpa using hold)
  have hqn : (BitVec.ofNat 8 q.val).toNat = q.val := toNat_stream
  have hwn : (BitVec.ofNat 8 window.val).toNat = window.val := by simp only [BitVec.toNat_ofNat]; omega
  rw [begun_stc] at hx
  rwa [hqn, hwn]

end Sys2Proof
end

section
/-!
Access tables and port arbiters (R464, R465, R467, R469, R472 to R475, R482, R483).

A register write reaches its arbiter where the window admits it: said once of `onWindow` and `updArb`. A decision turns on
what a source can offer: with no requester behind, `offerAll` changes nothing, and one requester behind becomes its source's
request. So a lone request is raised, kept by the end of the grant before it, and chosen.
-/
namespace Sys2Proof.Machine

variable {s : State} {a b : Nat} {f : Arbiter → Arbiter} {x : Arbiter}

/-! ### Reaching an arbiter -/

theorem updArb_arb_self (hs : Map.sorted s.arbs = true) : (updArb a f s).arb a = f (s.arb a) := Map.getD_setD_self hs

theorem updArb_arb_of_ne (hb : b ≠ a) : (updArb a f s).arb b = s.arb b := Map.getD_setD_of_ne hb

theorem onWindow_of_granted {fn : Part} {off : Nat} {g : State → State}
    (hw : aclGrants s (80 + fn.val) fn.val .w = true) : onWindow fn off g s = g s := by
  simp only [onWindow, windowWrite, hw, if_true]

/-! ### Registers (R472 to R475) -/

theorem mapWrite_of_ok {shadow : Bool} {v : B64} (hv : mapOk v.toNat = true) :
    mapWrite shadow 8 v x = if shadow || x.compat then { x with shadow := v } else { x with map := v } := by
  simp [mapWrite, hv]

theorem mapWrite_of_bad {shadow : Bool} {size : Nat} {v : B64} (hv : mapOk v.toNat = false) :
    mapWrite shadow size v x = { x with mapErr := true } := by
  simp [mapWrite, hv]

theorem exec_arbMap_of_p0 {a : Fin 60} {shadow : Bool} {size : Nat} {v : B64} (hw : aclGrants s 80 0 .w = true) :
    exec (.arbMap 0 a shadow size v) s = .next (updArb a.val (mapWrite shadow size v) s) :=
  congrArg Host.Outcome.next (onWindow_of_granted (fn := 0) hw)

theorem exec_arbMap_of_other {fn : Part} {a : Fin 60} {shadow : Bool} {size : Nat} {v : B64} (hf : fn ≠ 0)
    (hw : aclGrants s (80 + fn.val) fn.val .w = true) : exec (.arbMap fn a shadow size v) s = .next s :=
  congrArg Host.Outcome.next ((onWindow_of_granted hw).trans (if_neg hf))

theorem exec_arbCtrl_of_p0 {a : Fin 60} {v : B32} (hw : aclGrants s 80 0 .w = true) :
    exec (.arbCtrl 0 a v) s = .next (updArb a.val (ctrlWrite v) s) :=
  congrArg Host.Outcome.next (onWindow_of_granted (fn := 0) hw)

theorem ctrlWrite_burst_toNat {v : B32} : (ctrlWrite v x).burst.toNat = v.toNat / 256 % 256 := by
  simp [ctrlWrite, Nat.shiftRight_eq_div_pow]

/-- An AGE_N of 0 or 1 is unlisted and leaves the field (R18). -/
theorem ctrlWrite_ageN_toNat {v : B32} :
    (ctrlWrite v x).ageN.toNat = if v.toNat % 256 < 2 then x.ageN.toNat else v.toNat % 256 := by
  have hage : (v.setWidth 8).toNat = v.toNat % 256 := BitVec.toNat_setWidth 8 v
  simp only [ctrlWrite, hage]
  split
  · rfl
  · exact hage

theorem ctrlWrite_mapErr_of_clear {v : B32} (hv : v.getLsbD 17 = true) : (ctrlWrite v x).mapErr = false := by
  simp [ctrlWrite, hv]

theorem Map.find?_mapVal {α : Type} {m : Map α} {k : Nat} {g : Nat → α → α} :
    Map.find? (Map.mapVal m g) k = (Map.find? m k).map (g k) := by
  induction m with
  | nil => rfl
  | cons e m ih =>
    obtain ⟨j, c⟩ := e
    change (if k = j then some (g j c) else Map.find? (Map.mapVal m g) k) =
      (if k = j then some c else Map.find? m k).map (g k)
    split
    · subst_vars
      rfl
    · exact ih

theorem commitMaps_arb (hx : Map.find? s.arbs a = some x) :
    (commitMaps s).arb a = if x.compat then { x with map := x.shadow } else x := by
  simp [State.arb, commitMaps, Map.getD, Map.find?_mapVal, hx]

theorem exec_arbCommit_of_p0 {v : B32} (hw : aclGrants s 80 0 .w = true) (hv : v.getLsbD 0 = true) :
    exec (.arbCommit 0 v) s = .next (commitMaps s) :=
  congrArg Host.Outcome.next ((onWindow_of_granted (fn := 0) hw).trans (if_pos hv))

/-! ### What sources offer (R464, R467) -/

section offers

variable {t : Nat} {src : BitVec 4} {m : Byte}

theorem rotate_nil {last : Byte} : rotate last [] = none := rfl

/-- One requester is the next in rotation, whichever was the last. -/
theorem rotate_singleton {last : Byte} : rotate last [m] = some m := by
  by_cases h : last < m
  · simp [rotate, h]
  · simp [rotate, h]

/-- A source without a requester behind offers nothing. -/
theorem offer_of_none_behind (hx : ∀ e ∈ x.behind, e.1 ≠ src) : offer t x src = x := by
  have hms : x.behind.filter (fun e => e.1 = src) = [] := by simpa [List.filter_eq_nil_iff] using hx
  unfold offer
  split
  · rfl
  · simp only [hms, List.map_nil, rotate_nil]
    cases Map.find? x.offered src.toNat
    · rfl
    · rfl

/-- The arbiter once source `src` has raised a request for master `m`, its only requester behind. -/
def Arbiter.raisedOne (x : Arbiter) (t : Nat) (src : BitVec 4) (m : Byte) : Arbiter :=
  { x with waiting := x.waiting ++ [⟨src, m, t⟩], behind := [], offered := Map.insert x.offered src.toNat m }

theorem offer_of_one_behind (hb : x.behind = [(src, m)]) (hw : ∀ r ∈ x.waiting, r.source ≠ src) :
    offer t x src = x.raisedOne t src m := by
  have hany : (x.waiting.any fun r => r.source = src) = false := by simpa using hw
  simp only [offer, hany, Bool.false_eq_true, if_false, hb, List.filter_singleton, decide_true, cond_true, List.map_cons,
    List.map_nil, rotate_singleton]
  cases Map.find? x.offered src.toNat
  · simp [Arbiter.raisedOne]
  · simp [Arbiter.raisedOne]

theorem foldl_offer_of_none_behind {l : List (BitVec 4)} (hb : x.behind = []) : l.foldl (offer t) x = x :=
  List.foldl_fixed' (fun _ => offer_of_none_behind (by simp [hb])) l

theorem offerAll_of_none_behind (hb : x.behind = []) : offerAll t x = x := foldl_offer_of_none_behind hb

/-- The other sources offer nothing before the one requester's source comes up, and nothing after it. -/
theorem foldl_offer_of_one_behind {l : List (BitVec 4)} (hl : src ∈ l) (hb : x.behind = [(src, m)])
    (hw : ∀ r ∈ x.waiting, r.source ≠ src) : l.foldl (offer t) x = x.raisedOne t src m := by
  induction l with
  | nil => simp at hl
  | cons c l ih =>
    rw [List.foldl_cons]
    by_cases hc : src = c
    · rw [← hc, offer_of_one_behind hb hw]
      exact foldl_offer_of_none_behind rfl
    · rw [offer_of_none_behind (by simpa [hb] using hc)]
      exact ih ((List.mem_cons.mp hl).resolve_left hc)

/-- Source 15 is not connected; every other one offers. -/
theorem offerAll_of_one_behind (hsrc : src.toNat < 15) (hb : x.behind = [(src, m)])
    (hw : ∀ r ∈ x.waiting, r.source ≠ src) : offerAll t x = x.raisedOne t src m :=
  foldl_offer_of_one_behind (List.mem_map.mpr ⟨src.toNat, List.mem_range.mpr hsrc, by simp⟩) hb hw

theorem arbEvent_of_raise {e : ArbEvent} (hd : e.drop = false) (hr : raises (e.source, e.master) = true) :
    arbEvent x e = offerAll e.cycle { x with behind := x.behind ++ [(e.source, e.master)] } := by
  simp [arbEvent, hd, hr]

end offers

/-! ### Decisions (R465, R469) -/

/-- With nobody behind, the end of a grant whose owner has no more work frees the port alone. -/
theorem endGrant_of_idle {t : Nat} (hb : x.behind = []) : endGrant t false x = { x with owner := none, moved := 0 } := by
  have hend : endGrant t false x = offerAll t { x with owner := none, moved := 0 } := by
    cases ho : x.owner
    · simp [endGrant, ho]
    · simp [endGrant, ho]
  rw [hend, offerAll_of_none_behind]
  exact hb

/-- The only request there is, is granted; of the rest only what decisions count changes. -/
theorem decideGrant_of_one_waiting {t : Nat} {r : ArbReq} (hw : x.waiting = [r]) (hb : x.behind = []) :
    ∃ w g, decideGrant t false x = { x with
      grants := x.grants + 1, waiting := [], owner := some r, maxWait := w, aged := g } := by
  simp only [decideGrant, hw, List.foldl_nil, List.erase_cons_head, Bool.false_eq_true, if_false]
  rw [offerAll_of_none_behind]
  · exact ⟨_, _, rfl⟩
  · exact hb

/-- A grant goes on while its owner has work left and has not moved BURST granules; a BURST of 0 sets no bound. -/
theorem grantOver_of_within_burst {n : Nat} (ho : x.owner ≠ none) (hn : x.burst = 0 ∨ x.moved + n < x.burst.toNat) :
    grantOver n true x = false := by
  have howner : x.owner.isNone = false := Option.isNone_eq_false_iff.mpr (Option.isSome_iff_ne_none.mpr ho)
  simpa [grantOver, howner] using or_iff_not_imp_left.mp hn

theorem grantOver_of_idle {n : Nat} : grantOver n false x = true := by simp [grantOver]

/-- A lone request raised at an arbiter that had none is the next owner. -/
theorem decideGrant_endGrant_of_lone_request {c t : Nat} {src : BitVec 4} {m : Byte} (hw : x.waiting = [])
    (hb : x.behind = []) (hr : raises (src, m) = true) (hsrc : src.toNat < 15) :
    ∃ w g o, decideGrant t false (endGrant t false (arbEvent x { source := src, master := m, cycle := c })) = { x with
      grants := x.grants + 1, owner := some ⟨src, m, c⟩, moved := 0, maxWait := w, aged := g, offered := o } := by
  have hraised : arbEvent x { source := src, master := m, cycle := c } = x.raisedOne c src m := by
    rw [arbEvent_of_raise rfl hr, offerAll_of_one_behind (m := m) hsrc (by simp [hb]) (by simp [hw])]
    rfl
  rw [hraised, endGrant_of_idle rfl]
  obtain ⟨w, g, hd⟩ := decideGrant_of_one_waiting (x := { x.raisedOne c src m with owner := none, moved := 0 }) (t := t)
    (r := ⟨src, m, c⟩) (by simp [Arbiter.raisedOne, hw]) rfl
  refine ⟨w, g, Map.insert x.offered src.toNat m, hd.trans ?_⟩
  simp [Arbiter.raisedOne, hw, hb]

/-! ### ARBITER_GRANT and ACL_SET -/

theorem exec_arbiterGrant_of_idle {a : Fin 60} {events : List ArbEvent} {moved t : Nat} {withdrawn : Bool} :
    exec (.arbiterGrant a { events, moved } t withdrawn) s = .next (updArb a.val
      (fun x => decideGrant t withdrawn (endGrant t false (events.foldl arbEvent x))) s) := by
  show Host.Outcome.next (updArb a.val _ s) = _
  simp only [grantOver_of_idle, if_true]

/-- The owner of a grant that goes on moves its granules, and nothing else changes. -/
theorem exec_arbiterGrant_of_within_burst {a : Fin 60} {n t : Nat} {withdrawn : Bool} (ho : (s.arb a.val).owner ≠ none)
    (hn : (s.arb a.val).burst = 0 ∨ (s.arb a.val).moved + n < (s.arb a.val).burst.toNat) :
    exec (.arbiterGrant a { moved := n, work := true } t withdrawn) s =
      .next (updArb a.val (fun x => { x with moved := x.moved + n }) s) := by
  show Host.Outcome.next (updArb a.val _ s) = _
  simp only [updArb, List.foldl_nil, grantOver_of_within_burst ho hn, Bool.false_eq_true, if_false]

theorem actAclSet_of_legal {first last master row : Byte} (hfl : first.toNat ≤ last.toNat) (hl : last.toNat ≤ 85)
    (hr : row.toNat ≤ 63) (hm : master ≠ 0x20) (hg : ¬(0x10 ≤ master.toNat ∧ master.toNat < 0x20))
    (hu : masterUsed master.toNat = true) : actAclSet first.toNat last.toNat master.toNat row.toNat s =
      (.started (.aclSet first.toNat last.toNat master.toNat row.toNat), s) := by
  have hm' : master.toNat ≠ 0x20 := fun h => hm (BitVec.eq_of_toNat_eq h)
  rw [actAclSet, if_neg (by simp; omega), if_neg (by simp [hm', hu]; omega)]

end Sys2Proof.Machine

namespace Sys2Proof
open Machine

/-- Settles O45: ACL_SET by its effect in the state that it has begun, a register write by what it leaves of its arbiter,
a decision by the lone request that it finds, and a grant that goes on by its owner's granules. -/
theorem accessAndArbitersRun : Obligations.AccessAndArbitersRun := by
  refine ⟨?_, ?_, ?_, ?_, ?_, ?_, ?_⟩
  · intro h first last master row s hm hfl hl hr hd hg hu
    exact exec_of_act_started hm rfl (actAclSet_of_legal hfl hl hr hd hg hu)
  · intro a shadow v s hw hs
    refine ⟨fun hv => ⟨_, exec_arbMap_of_p0 hw, ?_, ?_, fun b hb => updArb_arb_of_ne hb⟩,
      fun hv => ⟨_, exec_arbMap_of_p0 hw, ?_⟩⟩
    · rw [updArb_arb_self hs, mapWrite_of_ok hv, apply_ite Arbiter.map]
    · rw [updArb_arb_self hs, mapWrite_of_ok hv, apply_ite Arbiter.shadow]
    · rw [updArb_arb_self hs, mapWrite_of_bad hv]
      exact ⟨rfl, rfl, rfl⟩
  · intro fn a shadow v s hf hw
    exact exec_arbMap_of_other hf hw
  · intro a v s hw hs
    refine ⟨_, exec_arbCtrl_of_p0 hw, ?_⟩
    rw [updArb_arb_self hs]
    exact ⟨rfl, ctrlWrite_burst_toNat, ctrlWrite_ageN_toNat, ctrlWrite_mapErr_of_clear, rfl⟩
  · intro v s hw hv a x hx
    refine ⟨_, exec_arbCommit_of_p0 hw hv, ?_, rfl⟩
    rw [commitMaps_arb hx, apply_ite Arbiter.map]
  · intro a m src c n s hw hb _ hr hsrc hs
    refine ⟨_, exec_arbiterGrant_of_idle, ?_⟩
    obtain ⟨w, g, o, hx⟩ := decideGrant_endGrant_of_lone_request (t := n) (c := c) hw hb hr hsrc
    rw [updArb_arb_self hs, List.foldl_cons, List.foldl_nil, hx]
    exact ⟨rfl, hw, rfl, rfl, rfl⟩
  · intro a k n w s ho hs hk
    exact ⟨_, exec_arbiterGrant_of_within_burst ho hk, updArb_arb_self hs, fun b hb => updArb_arb_of_ne hb⟩

end Sys2Proof
end

section
/-!
The folio and link commands, and KEY_INSTALL (R506, R513, R522, R526, R532, R570, R571, R647, R648, R746).

A change of the folio registers trains every ISOLATED port again; with none, it stops at the registers
(`folioChanged_of_none_isolated`). A port's own registers are read back through `updPort_port`, where what is put there differs
from an unlisted port's value.
-/
namespace Sys2Proof.Machine

variable {h : CmdHdr} {p : Part} {s t : State} {v w : Port}

/-! ### Reading a port back -/

theorem updPort_port_of_ne_default {f : VPort → VPort} (hf : f (s.vesin.port v) ≠ {}) :
    (updPort v f s).vesin.port v = f (s.vesin.port v) := Map.getD_setD_of_ne_default hf

theorem updPort_port_of_ne {f : VPort → VPort} (hw : w ≠ v) : (updPort v f s).vesin.port w = s.vesin.port w :=
  Map.getD_setD_of_ne fun e => hw (Fin.ext e)

theorem VPort.ne_default_of_state {q : VPort} (hq : q.state ≠ .off) : q ≠ {} := fun e => hq (by rw [e])

/-- A port that is not left OFF reads as put. -/
theorem updPort_port {f : VPort → VPort} (hf : (f (s.vesin.port v)).state ≠ .off) :
    (updPort v f s).vesin.port v = f (s.vesin.port v) := updPort_port_of_ne_default (VPort.ne_default_of_state hf)

/-! ### The folio registers -/

theorem folioChanged_of_none_isolated (hi : ∀ v, (s.vesin.port v).state ≠ .isolated) : folioChanged s = s :=
  List.foldl_fixed' (fun v => by simp [hi v]) _

theorem updVesin_self {f : Vesin → Vesin} (hf : f s.vesin = s.vesin) : updVesin f s = s := by rw [updVesin, hf]

theorem retryWaiting_of_none (hw : s.vesin.waiting = []) : retryWaiting s = s := by
  rw [retryWaiting, hw]
  exact updVesin_self (by rw [← hw])

theorem dropUnmapped_of_no_signals
    (hs : ∀ x ∈ s.vesin.awaiting ++ s.vesin.waiting, ∀ st v, x.body ≠ .signal st v) : dropUnmapped s = s := by
  have hnone : (s.vesin.waiting ++ s.vesin.awaiting).filter (fun m => s.vesin.mask m.dst.toNat = 0 && match m.body with
      | .signal .. => true
      | _ => false) = [] := by
    refine List.filter_eq_nil_iff.mpr fun x hx => ?_
    have hb := hs x (by simpa [or_comm] using hx)
    cases e : x.body <;> simp_all
  unfold dropUnmapped
  exact (congrArg (List.foldl _ s) hnone)

/-! ### GROUP_SET, GROUP_LEAVE, MAP_SET (R513, R522, R570, R571, R648) -/

theorem actGroupSet_of_no_folio {folio : B32} {pos : Nat} {masks : List Byte} (hp : pos ≤ 39) (hf : s.folioPart = none)
    (hv : s.vesin.fvalid = false) (hr : anyRunning s p = false) (hi : ∀ v, (s.vesin.port v).state ≠ .isolated) :
    ∃ t, actGroupSet p folio pos masks s = (cmdOk, t) ∧ t.vesin.fvalid = true ∧ t.vesin.folioId = folio ∧
      t.vesin.fpart = p ∧ t.vesin.myPos.toNat = pos ∧
      (t.part p).cad.role = (if pos = 0 then .leader else .follower) ∧ t.mem = s.mem ∧
      t.vesin.vmap = putMasks 0 (takePad 40 0 masks) [] := by
  have hpos : pos % 2 ^ 6 = pos := Nat.mod_eq_of_lt (by omega)
  simp only [actGroupSet, Nat.not_lt.mpr hp, hf, hr, hv, Option.any_none, Bool.or_self, Bool.false_eq_true, if_false]
  rw [folioChanged_of_none_isolated (by exact hi)]
  exact ⟨_, rfl, rfl, rfl, rfl, hpos, by simp, rfl, rfl⟩

/-! ### PORT_CFG and PORT_RETRAIN (R526, R532) -/

/-- A port goes from OFF to DETECT where its bit enables it and its laser source has not failed. -/
def enablePort (enable : Byte) (s : State) (v : Port) : State :=
  if enable.getLsbD v.val && decide ((s.vesin.port v).state = .off) && !(s.vesin.port v).laserFail then
    updPort v (fun q => q.closed .detect) s
  else s

theorem enablePort_state {enable : Byte} : ((enablePort enable s v).vesin.port v).state =
    if enable.getLsbD v.val && decide ((s.vesin.port v).state = .off) && !(s.vesin.port v).laserFail then .detect
    else (s.vesin.port v).state := by
  unfold enablePort
  split
  · rw [updPort_port (by simp [VPort.closed])]
    rfl
  · rfl

theorem enablePort_port_of_ne {enable : Byte} (hw : w ≠ v) :
    (enablePort enable s v).vesin.port w = s.vesin.port w := by
  unfold enablePort
  split
  · exact updPort_port_of_ne hw
  · rfl

theorem enablePort_frame {enable : Byte} : (enablePort enable s v).vesin.portEn = s.vesin.portEn ∧
    (enablePort enable s v).vesin.linkHold = s.vesin.linkHold ∧ (enablePort enable s v).mem = s.mem := by
  unfold enablePort
  split
  · exact ⟨rfl, rfl, rfl⟩
  · exact ⟨rfl, rfl, rfl⟩

theorem enablePorts_frame {enable : Byte} {l : List Port} : (l.foldl (enablePort enable) s).vesin.portEn = s.vesin.portEn ∧
    (l.foldl (enablePort enable) s).vesin.linkHold = s.vesin.linkHold ∧ (l.foldl (enablePort enable) s).mem = s.mem := by
  refine List.foldlRecOn (motive := fun (t : State) => t.vesin.portEn = s.vesin.portEn ∧
    t.vesin.linkHold = s.vesin.linkHold ∧ t.mem = s.mem) l _ ⟨rfl, rfl, rfl⟩ fun t ht v _ => ?_
  obtain ⟨he, hh, hm⟩ := enablePort_frame (s := t) (v := v) (enable := enable)
  exact ⟨he.trans ht.1, hh.trans ht.2.1, hm.trans ht.2.2⟩

theorem enablePorts_port_of_not_mem {enable : Byte} {l : List Port} (hw : w ∉ l) :
    (l.foldl (enablePort enable) s).vesin.port w = s.vesin.port w :=
  List.foldlRecOn (motive := fun (t : State) => t.vesin.port w = s.vesin.port w) l _ rfl fun _ ht _ hv =>
    (enablePort_port_of_ne (ne_of_mem_of_not_mem hv hw).symm).trans ht

/-- Each of several different ports is enabled on its own. -/
theorem enablePorts_state {enable : Byte} {l : List Port} (hl : l.Nodup) (hv : v ∈ l) :
    ((l.foldl (enablePort enable) s).vesin.port v).state =
      if enable.getLsbD v.val && decide ((s.vesin.port v).state = .off) && !(s.vesin.port v).laserFail then .detect
      else (s.vesin.port v).state := by
  induction l generalizing s with
  | nil => cases hv
  | cons w l ih =>
    rw [List.nodup_cons] at hl
    by_cases e : v = w
    · subst e
      rw [List.foldl_cons, enablePorts_port_of_not_mem hl.1, enablePort_state]
    · rw [List.foldl_cons, ih hl.2 ((List.mem_cons.mp hv).resolve_left e), enablePort_port_of_ne e]

theorem mem_eight (v : Port) : v ∈ eight := by
  revert v
  decide

theorem nodup_eight : eight.Nodup := by decide

/-- What PORT_CFG does to one port. -/
def cfgPort (enable : Byte) (s : State) (v : Port) : State :=
  let q := s.vesin.port v
  if !enable.getLsbD v.val then (if q.state = .off then s else closePort v .off s)
  else if q.state = .off && !q.laserFail then updPort v (fun q => q.closed .detect) s
  else s

theorem cfgPort_of_off {enable : Byte} (ho : enable.getLsbD v.val = false → (s.vesin.port v).state = .off) :
    cfgPort enable s v = enablePort enable s v := by
  cases he : enable.getLsbD v.val
  · simp only [cfgPort, enablePort, he, ho he, Bool.not_false, Bool.false_and, Bool.false_eq_true, if_true, if_false]
  · simp only [cfgPort, enablePort, he, Bool.not_true, Bool.true_and, Bool.false_eq_true, if_false]

/-- Where every port that is disabled is OFF, PORT_CFG only enables. -/
theorem cfgPorts_of_off {enable : Byte} (l : List Port) (s : State)
    (ho : ∀ v : Port, enable.getLsbD v.val = false → (s.vesin.port v).state = .off) :
    l.foldl (cfgPort enable) s = l.foldl (enablePort enable) s := by
  induction l generalizing s with
  | nil => rfl
  | cons v l ih =>
    rw [List.foldl_cons, List.foldl_cons, cfgPort_of_off (ho v)]
    refine ih _ fun w hw => ?_
    by_cases e : w = v
    · subst e
      rw [enablePort_state, hw, ho w hw]
      rfl
    · rw [enablePort_port_of_ne e, ho w hw]

theorem actPortCfg_of_enabled {enable : Byte} {hold : Nat} (h1 : 1 ≤ hold) (h2 : hold ≤ 1000)
    (ho : ∀ v : Port, enable.getLsbD v.val = false → (s.vesin.port v).state = .off) :
    actPortCfg enable hold s = (cmdOk, eight.foldl (enablePort enable)
      (updVesin (fun x => { x with portEn := enable, linkHold := BitVec.ofNat 10 hold }) s)) := by
  rw [actPortCfg, if_neg (by simp; omega)]
  exact congrArg (Prod.mk cmdOk) (cfgPorts_of_off eight _ ho)

theorem closePort_of_none_carried {st : PortSt} (hc : carried s v = []) :
    closePort v st s = updPort v (fun q => q.closed st) s := by rw [closePort, hc, List.foldl_nil]

theorem retrainPort_state_of_up (hu : (s.vesin.port v).state = .up) (hc : carried s v = []) :
    ((retrainPort s v).vesin.port v).state = .train := by
  rw [retrainPort, if_pos (by simp [hu]), closePort_of_none_carried hc, updPort_port (by simp [VPort.closed])]
  rfl

/-! ### KEY_SWITCH and KEY_INSTALL (R506, R746) -/

theorem actKeySwitch_of_next {k : Byte × B256} (hk : s.vesin.nextKey = some k) : actKeySwitch s = (.started .keySwitch,
    eight.foldl (fun s v => if (s.vesin.port v).state = .up then startRekey v k.1 s else s) s) := by
  rw [actKeySwitch, hk]

@[simp] theorem raiseCounter_vesin {kind svn : Nat} : (raiseCounter kind svn s).vesin = s.vesin := rfl

/-- A signed key body for this folio is installed by its KIND. -/
theorem actKeyInstall_of_verified {kind ident : Byte} {b : List Byte} (hv : verifies s 6 b = true)
    (hn : headField b 12 4 = 64) (hk : (b.drop headBytes).headD 0 = kind) (hi : (b.drop headBytes).getD 1 0 = ident)
    (hf : headField (b.drop headBytes) 4 4 = s.vesin.folioId.toNat) :
    let key : B256 := BitVec.ofNat 256 (headField (b.drop headBytes) 8 32)
    let u := raiseCounter 6 (headField b 8 2) s
    actKeyInstall kind.toNat ident.toNat b s =
      if kind.toNat = 2 then (cmdOk, updPower (fun w => { w with assayKey := some key }) u)
      else (cmdOk, updVesin (fun x =>
        if x.curKey.isNone then { x with curKey := some (ident, key) } else { x with nextKey := some (ident, key) }) u) := by
  have hbad : (decide (kind.toNat ≠ kind.toNat) || decide (ident.toNat ≠ ident.toNat) ||
      decide (s.vesin.folioId.toNat ≠ s.vesin.folioId.toNat)) = false := by simp
  have hsig : (!true || decide (64 ≠ 64)) = false := rfl
  simp only [actKeyInstall, hv, hn, hk, hi, hf, hbad, hsig, BitVec.ofNat_toNat, BitVec.setWidth_eq, Bool.false_eq_true,
    if_false]

end Sys2Proof.Machine

namespace Sys2Proof
open Machine

/-- Settles O44: each command by its own effect in the state that it has begun, which has the folio registers, ports and keys
of the state before. -/
theorem folioCommandsRun : Obligations.FolioCommandsRun := by
  refine ⟨?_, ?_, ?_, ?_, ?_, ?_, ?_, ?_⟩
  · intro h folio pos masks s hm hp hv hf hr hi
    obtain ⟨t, hact, ht⟩ := actGroupSet_of_no_folio (s := begun h s) (p := h.fn) (folio := folio) (masks := masks)
      hp hf hv hr hi
    refine ⟨t, answers_of_act hm rfl hact, ?_⟩
    simpa using ht
  · intro h s u hm hi
    refine ⟨answers_of_act hm rfl ?_, rfl, rfl, rfl, rfl, rfl, rfl⟩
    rw [folioChanged_of_none_isolated hi]
  · intro h first count masks s hm hc hw ha hi
    refine answers_of_act hm rfl ?_
    have hnone : ∀ x ∈ s.vesin.awaiting ++ s.vesin.waiting, ∀ st v, x.body ≠ .signal st v := by simp [hw, ha]
    rw [if_neg (Nat.not_lt.mpr hc)]
    dsimp only
    rw [dropUnmapped_of_no_signals (by exact hnone), retryWaiting_of_none (by exact hw),
      folioChanged_of_none_isolated (by exact hi)]
  · intro h enable hold s hm h1 h2 _ ho
    refine ⟨_, answers_of_act hm rfl (actPortCfg_of_enabled h1 h2 ho), ?_⟩
    obtain ⟨he, hh, hmem⟩ := enablePorts_frame (enable := enable) (l := eight)
      (s := updVesin (fun x => { x with portEn := enable, linkHold := BitVec.ofNat 10 hold.toNat }) (begun h s))
    have hlt : hold.toNat % 2 ^ 10 = hold.toNat := Nat.mod_eq_of_lt (by omega)
    exact ⟨he, (congrArg BitVec.toNat hh).trans hlt, hmem, fun v => enablePorts_state nodup_eight (mem_eight v)⟩
  · intro h mask s hm
    exact exec_of_act_started hm rfl rfl
  · intro v s hu hc _
    exact retrainPort_state_of_up hu hc
  · intro h s k hm hk
    exact exec_of_act_started hm rfl (actKeySwitch_of_next hk)
  · intro h kind ident addr length blob s b body key hm hkind hv hn hk hi hf
    have hact := actKeyInstall_of_verified (s := begun h s) hv hn hk hi hf
    have hlisted : (decide (kind.toNat < 1) || decide (2 < kind.toNat)) = false := by
      rcases hkind with rfl | rfl
      · rfl
      · rfl
    refine ⟨_, answers_of_listed hm hlisted rfl (t := (actKeyInstall kind.toNat ident.toNat b (begun h s)).2) ?_, ?_⟩
    · rw [show actKeyInstall _ _ _ _ = _ from hact]
      split
      · rfl
      · rfl
    · rw [show actKeyInstall _ _ _ _ = _ from hact]
      refine ⟨?_, ?_, ?_⟩
      · rintro rfl
        exact ⟨rfl, rfl⟩
      · rintro rfl hc
        simp [updVesin, hc, key, body]
      · rintro rfl hc
        simp [updVesin, hc, key, body]

end Sys2Proof
end

section
/-!
Resilience: the commands (R547, R555, R571, R574 to R577, R582, R586, R592, R646) and the events of stand-by positions, removal
and take-over (R534, R570 to R573, R576 to R591).

A message that no count is kept of changes the links' state alone (`LinkOnly`), so that the fills and roots of a partition are
as they were. The steps that wait for something (`tryVerify`, `settleHolds`, `tryRollback`) leave the state as it is while that
has not come.
-/
namespace Sys2Proof.Machine

variable {h : CmdHdr} {p : Part} {s t u : State} {v : Port}

/-! ### Messages change the links' state alone (R573) -/

/-- `t` is `s` but for the folio registers, the message layer and the ports. -/
def LinkOnly (s t : State) : Prop := ∃ x, t = { s with vesin := x }

theorem LinkOnly.refl (s : State) : LinkOnly s s := ⟨s.vesin, rfl⟩

theorem LinkOnly.trans (h : LinkOnly s t) (k : LinkOnly t u) : LinkOnly s u := by
  obtain ⟨x, rfl⟩ := h
  obtain ⟨y, rfl⟩ := k
  exact ⟨y, rfl⟩

theorem LinkOnly.foldl {α : Type} {f : State → α → State} (h : ∀ s a, LinkOnly s (f s a)) (l : List α) :
    LinkOnly s (l.foldl f s) :=
  List.foldlRecOn (motive := LinkOnly s) l f (.refl s) fun t k a _ => k.trans (h t a)

theorem LinkOnly.part (h : LinkOnly s t) (q : Part) : t.part q = s.part q := by
  obtain ⟨x, rfl⟩ := h
  rfl

theorem LinkOnly.mem (h : LinkOnly s t) : t.mem = s.mem := by
  obtain ⟨x, rfl⟩ := h
  rfl

theorem LinkOnly.flash (h : LinkOnly s t) : t.flash = s.flash := by
  obtain ⟨x, rfl⟩ := h
  rfl

theorem putFlit_linkOnly {bytes : List Byte} : LinkOnly s (putFlit v bytes s) := by
  unfold putFlit
  extract_lets
  split
  · exact ⟨_, rfl⟩
  · exact ⟨_, rfl⟩

theorem updPort_linkOnly {f : VPort → VPort} : LinkOnly s (updPort v f s) := ⟨_, rfl⟩

theorem sendRun_linkOnly : LinkOnly s (sendRun v s) := by
  unfold sendRun
  dsimp only
  split
  · exact .refl s
  · split
    · exact .refl s
    · exact updPort_linkOnly.trans (.foldl (fun _ _ => putFlit_linkOnly) _)

theorem pump_linkOnly {n : Nat} : LinkOnly s (pump v n s) := by
  induction n generalizing s with
  | zero => exact .refl s
  | succ n ih =>
    unfold pump
    extract_lets
    split
    · exact .refl s
    · split
      · exact .refl s
      · exact sendRun_linkOnly.trans ih

theorem dispatchMsg_linkOnly {m : OutMsg} : LinkOnly s (dispatchMsg m s) := by
  unfold dispatchMsg
  extract_lets
  split
  · exact (updPort_linkOnly.trans ⟨_, rfl⟩).trans pump_linkOnly
  · exact ⟨_, rfl⟩

/-- A message that no count is kept of when it is dropped. -/
theorem sendMsgAs_linkOnly {master : Option Nat} {d : Nat} {body : MsgBody} {waiter : Waiter} (hb : body.counted = false) :
    LinkOnly s (sendMsgAs master d body waiter s) := by
  unfold sendMsgAs
  split
  · exact .refl s
  · split
    · rw [noteDropped, hb]
      exact .refl s
    · exact LinkOnly.trans ⟨_, rfl⟩ dispatchMsg_linkOnly

theorem sendMsg_linkOnly {d : Nat} {body : MsgBody} {waiter : Waiter} (hb : body.counted = false) :
    LinkOnly s (sendMsg d body waiter s) := sendMsgAs_linkOnly hb

theorem sendAll_linkOnly {ds : List Nat} {body : MsgBody} (hb : body.counted = false) : LinkOnly s (sendAll ds body s) :=
  .foldl (fun _ _ => sendMsg_linkOnly hb) ds

/-! ### Journal entries leave the resilience and cadence state -/

theorem HostOnly.res (h : HostOnly p s t) : (t.part p).res = (s.part p).res := by rw [h.part]

theorem HostOnly.partCad (h : HostOnly p s t) : (t.part p).cad = (s.part p).cad := by rw [h.part]

theorem resNote_only {event : Nat} {status : B16} {detail : BitVec 224} : HostOnly p s (resNote p event status detail s) :=
  note_only ..

theorem posNote_only {event d sb : Nat} : HostOnly p s (posNote p event d sb s) :=
  resNote_only

theorem fillNote_only {status : B16} {ident source sheet : Nat} : HostOnly p s (fillNote p status ident source sheet s) :=
  resNote_only

/-! ### Two changes of the resilience state -/

theorem updRes_updRes {f g : Res → Res} : (s.updRes p f).updRes p g = s.updRes p fun r => g (f r) := by
  simp only [State.updRes, State.upd_upd]

theorem updRes_congr {f g : Res → Res} (hf : f (s.part p).res = g (s.part p).res) : s.updRes p f = s.updRes p g := by
  simp only [State.updRes, State.upd, State.part, Quad.modify] at hf ⊢
  rw [hf]

theorem updRes_self {f : Res → Res} (hf : f (s.part p).res = (s.part p).res) : s.updRes p f = s :=
  State.upd_self s p _ (by rw [hf])

theorem toNat_ne {n : Nat} {a b : BitVec n} (h : a ≠ b) : a.toNat ≠ b.toNat := fun e => h (BitVec.eq_of_toNat_eq e)

/-! ### Arming a standby (R577 to R579) -/

theorem execStandbyArm_of_ready (hp : s.folioPart = some p) (hs : (s.part p).res.sbState = 0) (hm : mayArm s p = true) :
    execStandbyArm s = next (s.updRes p fun r => { r with sbState := 1 }) := by
  simp only [execStandbyArm, hp, hs, hm, decide_true, Bool.and_self, if_true]

theorem execStandbyArm_of_unready (hp : s.folioPart = some p) (hs : (s.part p).res.sbState = 1) (hm : mayArm s p = false) :
    execStandbyArm s = next (s.updRes p fun r => { r with sbState := 0 }) := by
  simp only [execStandbyArm, hp, hs, hm, Bool.and_false, Bool.false_eq_true, if_false, decide_true, Bool.not_false,
    Bool.and_self, if_true]

theorem execArmedReportTimer_of_armed {d : Nat} (hp : s.folioPart = some p) (hs : (s.part p).res.sbState = 1)
    (hc : coordPos s p = some d) :
    execArmedReportTimer s = next (sendMsg d (ctrl 1 0 (coverMask s p) 0) .none s) := by
  simp only [execArmedReportTimer, hp, hs, hc, ne_eq, not_true_eq_false, if_false]

theorem execStandbySilence_of_coord {b : Fin 8} (hp : s.folioPart = some p) (hc : isCoord s p = true) :
    execStandbySilence b s = next (s.updRes p fun r => { r with
      standbys := Map.adjust r.standbys (32 + b.val) fun x => if x.state = 1 then { x with state := 0 } else x }) := by
  simp only [execStandbySilence, hp, hc, Bool.not_true, Bool.false_eq_true, if_false]

/-! ### Holds (R574, R575) -/

theorem setHold_self : setHold p (s.part p).res.hold s = s := if_pos rfl

theorem holdReason_of_none {i : Nat} (hh : (s.part p).res.hold = 0) : holdReason p i false s = s := by
  rw [holdReason, hh]
  exact if_pos (by simp [hh])

theorem settleHolds_of_none (hh : (s.part p).res.hold = 0) : settleHolds p s = s := by
  simp only [settleHolds, holdReason_of_none hh, ite_self]

/-! ### Restores, fills and verifying (R555, R582, R585, R586) -/

theorem actRestore_of_whole {set slot list count : Nat} {o : Obj} {c : CkptSet} (hs : slot ≤ 1)
    (ho : s.obj? p set = some o) (hc : setOf s p set = some c) (hr : anyRunning s p = false)
    (hl : hostRead p list (4 * count) s = (none, s))
    (hb : restoreBad s p (c.image s slot) (handleList s p p.val list count) = none) :
    actRestore p set slot list count s = (.started (.restore set slot (handleList s p p.val list count) 0), s) := by
  simp only [actRestore, Nat.not_lt.mpr hs, ho, hc, hr, hl, hb, Bool.false_eq_true, if_false]

/-- A fill from another position of the map, which is not removed. -/
theorem actFill_of_source {dest ident source : Nat} {o : Obj} (ho : s.obj? p dest = some o) (hs : source ≤ 39)
    (hm : s.vesin.mask source ≠ 0) (hp : source ≠ s.vesin.myPos.toNat) (hr : isRemoved s source = false) :
    actFill p dest ident source s = (.started (.fill dest ident source),
      sendMsg source (ctrl 3 o.sheets ident 0) .none (s.updRes p fun r => { r with
        fills := r.fills ++ [{ dest, ident, source, wanted := List.range o.sheets }] })) := by
  have hlist : (decide (source > 39) && decide (source ≠ 0xFE)) = false := by simp; omega
  have hmirror : source ≠ 0xFE := by omega
  have hgone : (decide (s.vesin.mask source = 0) || decide (source = ownPos s) || isRemoved s source) = false := by
    rw [decide_eq_false hm, decide_eq_false (show source ≠ ownPos s from hp), hr]
    rfl
  simp only [actFill, hlist, ho, hmirror, hgone, Bool.false_eq_true, if_false]

theorem tryVerify_of_not_verifying (hs : (s.part p).res.sbState ≠ 3) : tryVerify p s = s :=
  if_pos (by rw [decide_eq_true hs, Bool.true_or])

theorem tryVerify_of_unknown_root (hr : (s.part p).res.filled.any (fun f => f.root.isNone) = true) :
    tryVerify p s = s := if_pos (by simp only [hr, Bool.or_true])

/-- VERIFYING asks for positions, and compares nothing while a root is not known. -/
theorem startVerify_of_unknown_root (hr : (s.part p).res.filled.any (fun f => f.root.isNone) = true) :
    let t := s.updRes p fun r => { r with sbState := 3, collected := [] }
    startVerify p s = sendAll (uncollected t p) (ctrl 0x0A 0 0 0) t := by
  intro t
  refine tryVerify_of_unknown_root ?_
  rw [(sendAll_linkOnly (s := t) (ds := uncollected t p) (body := ctrl 0x0A 0 0 0) rfl).part p]
  simpa [t] using hr

/-! ### RES_CFG (R547, R592) -/

theorem actResCfg_of_free {arm auto claim wait : Nat} (ha : arm ≤ 1) (hu : auto ≤ 1) (hc : claim ≤ 1) (h1 : 1 ≤ wait)
    (h2 : wait ≤ 1000) (hs : s.host.staging = .free) : actResCfg p arm auto claim wait s = (cmdOk,
      (if claim = 0 then s else { s with host := { s.host with staging := .capture p } }).updRes p fun r => { r with
        armEn := decide (arm = 1), autoRollback := decide (auto = 1), assayWait := BitVec.ofNat 10 wait }) := by
  have hbad : (decide (arm > 1) || decide (auto > 1) || decide (claim > 1) || decide (wait = 0) || decide (wait > 1000)) =
      false := by simp; omega
  simp only [actResCfg, hbad, hs, Bool.false_eq_true, if_false]
  interval_cases claim
  · rfl
  · rfl

/-! ### The coordinator (R570 to R572, R579, R580) -/

theorem assignAll_of_none_removed (hc : isCoord s p = true) (hr : (s.part p).res.removed = []) :
    assignAll p s = holdReason p hdNoStandby false s := by
  have hu : unassigned s p = [] := by rw [unassigned, hr, List.filter_nil]
  simp only [assignAll, hc, hu, Bool.not_true, Bool.false_eq_true, if_false, List.foldl_nil, List.isEmpty_nil, if_true]

theorem isCoord_updRes {f : Res → Res} (hf : (f (s.part p).res).members = (s.part p).res.members) :
    isCoord (s.updRes p f) p = isCoord s p := by
  simp only [isCoord, memberList, State.updRes_part, hf]
  rfl

theorem onArmed_of_none_removed {src : Nat} {cover : B32} (hc : isCoord s p = true) (hs : 32 ≤ src)
    (hr : (s.part p).res.removed = []) : onArmed src cover p s = holdReason p 2 false (s.updRes p fun r => { r with
      standbys := Map.insert r.standbys src { state := 1, cover }
      takeovers := r.takeovers.filter fun t => t.standby ≠ src }) := by
  rw [onArmed, if_neg (by simp [hc, hs])]
  exact assignAll_of_none_removed ((isCoord_updRes rfl).trans hc) (by simp [hr])

theorem onReady_of_no_mirror {src d : Nat} {x : Takeover} (hc : isCoord s p = true)
    (hf : ((s.part p).res.takeovers.find? fun t => t.d = d && t.standby = src) = some x) (hm : x.mirror = none) :
    onReady src d p s = commitTakeover p x s := by
  simp only [onReady, hc, hf, hm, Bool.not_true, Bool.false_eq_true, if_false, Option.isNone_none, if_true]

/-- A commit that concerns two other positions of a folio that holds nothing back. -/
theorem commitPosition_of_others {sp d : Nat} (hd : d ≠ ownPos s) (hsp : sp ≠ ownPos s) (h0 : d ≠ 0)
    (hh : (s.part p).res.hold = 0) (hs : ∀ x ∈ s.vesin.awaiting ++ s.vesin.waiting, ∀ st v, x.body ≠ .signal st v)
    (hi : ∀ v, (s.vesin.port v).state ≠ .isolated) :
    commitPosition p sp d s = posNote p 11 d sp ((updVesin (fun x => { x with
      vmap := Map.setD 0 (Map.setD 0 x.vmap d (s.vesin.mask sp)) sp 0
      seqOut := Map.erase x.seqOut d, seqIn := Map.erase x.seqIn d }) (dropKept s p)).updRes p fun r => { r with
        members := r.members ||| (1#40 <<< d), removed := r.removed.erase d
        recommitted := if r.recommitted.contains d then r.recommitted else d :: r.recommitted
        takeovers := r.takeovers.filter fun t => t.d ≠ d
        standbys := Map.adjust r.standbys sp fun b => { b with state := 4, takes := BitVec.ofNat 6 d } }) := by
  unfold commitPosition
  rw [if_neg (by simp [hd])]
  extract_lets mask s1 s2 s3 s4 s5 s6
  have only : HostOnly p s3 s4 := posNote_only
  have hv : s4.vesin = s2.vesin := only.vesin
  have hown : ownPos s4 = ownPos s := (congrArg (fun x : Vesin => x.myPos.toNat) hv).trans rfl
  have h5 : s5 = s4 := if_neg (by rwa [hown])
  have h6 : s6 = s4 := by
    unfold s6
    rw [if_neg (by simp [h0]), h5]
  have hres : (s4.part p).res.hold = 0 := by
    rw [only.res]
    simpa [s3, s2, s1, updVesin, dropKept] using hh
  have hw : s4.vesin.awaiting ++ s4.vesin.waiting = s.vesin.awaiting ++ s.vesin.waiting := by rw [hv]; rfl
  have hp (v : Port) : s4.vesin.port v = s.vesin.port v := by rw [hv]; rfl
  rw [h6, dropUnmapped_of_no_signals (by rw [hw]; exact hs), folioChanged_of_none_isolated (fun v => by rw [hp]; exact hi v),
    settleHolds_of_none hres]

/-! ### Removal (R289, R571 to R573, R591) -/

theorem loseSource_of_no_fills {d : Nat} (hf : (s.part p).res.fills = []) : loseSource p d s = s := by
  rw [loseSource, hf, List.filter_nil, List.foldl_nil]

theorem tryRollback_of_none (hr : (s.part p).res.rollback = none) : tryRollback p s = s := by rw [tryRollback, hr]

theorem applyRemove_of_other {d : Nat} (hd : d ≠ ownPos s)
    (hm : ∀ x ∈ s.vesin.awaiting ++ s.vesin.waiting, x.dst.toNat ≠ d) (hr : (s.part p).cad.role ≠ .leader)
    (hb : (s.part p).res.rollback = none) (hf : (s.part p).res.fills = []) (hv : (s.part p).res.sbState ≠ 3) :
    applyRemove p d s = posNote p 9 d 0 ((s.updRes p fun r => { r with
      members := r.members &&& ~~~(1#40 <<< d)
      removed := if r.removed.contains d then r.removed else r.removed ++ [d] }).updVeto p fun v => { v with
        pending := v.pending.map fun x => { x with awaited := x.awaited &&& ~~~(1#40 <<< d) } }) := by
  have hres : s.updRes p (fun r => { r with
      members := r.members &&& ~~~(1#40 <<< d)
      removed := if r.removed.contains d then r.removed else r.removed ++ [d]
      rollback := r.rollback.map fun b => { b with waiting := b.waiting.erase d } }) = s.updRes p fun r => { r with
      members := r.members &&& ~~~(1#40 <<< d)
      removed := if r.removed.contains d then r.removed else r.removed ++ [d] } := updRes_congr (by rw [hb]; rfl)
  unfold applyRemove
  rw [if_neg hd, hres]
  extract_lets coord s1 s2 s3 s4 s5 s6
  have only : HostOnly p s2 s3 := posNote_only
  have hres : (s3.part p).res = (s1.part p).res := only.res.trans (by simp [s2])
  have hcad : (s3.part p).cad = (s.part p).cad := only.partCad.trans (by simp [s2, s1])
  have h4 : s4 = s3 := by
    have hnone : (s3.vesin.awaiting ++ s3.vesin.waiting).filter (fun m => m.dst.toNat = d) = [] := by
      rw [only.vesin]
      exact List.filter_eq_nil_iff.mpr fun x hx => by simpa using hm x hx
    unfold s4
    rw [hnone, List.foldl_nil]
  have h5 : s5 = s3 := by
    unfold s5
    rw [h4, if_neg (by rwa [hcad])]
  have h6 : s6 = s3 := by
    unfold s6
    rw [h5, loseSource_of_no_fills (by rw [hres]; simpa [s1] using hf),
      tryRollback_of_none (by rw [hres]; simpa [s1] using hb)]
  have hsb : (s3.part p).res.sbState ≠ 3 := by
    rw [hres]
    simpa only [s1, State.updRes_part] using hv
  rw [h6, if_neg (by rw [decide_eq_false hsb]; simp)]

/-! ### Sheets and roots of a fill (R584, R585) -/

/-- A sheet that a fill waits for, at a place that its port may write. -/
structure Awaits (p : Part) (v : Port) (src ident sheet : Nat) (s : State) (x : Fill) (o : Obj) : Prop where
  fill    : ((s.part p).res.fills.find? fun x => x.live && x.source = src && x.ident = ident && x.wanted.contains sheet) = some x
  obj     : s.obj? p x.dest = some o
  landing : landing p v .w (o.base + sheet * sheetBytes) s = (true, s)

variable {src ident sheet : Nat} {x : Fill} {o : Obj} {data : List Byte} {mark : B256}

theorem onFillSheet_of_good (ha : Awaits p v src ident sheet s x o) (hm : hallmark data = mark) :
    onFillSheet v src ident sheet data mark p s = updFills p (fun y => y = x)
      (fun y => { y with wanted := y.wanted.erase sheet }) (writeMem p (o.base + sheet * sheetBytes) data s) := by
  obtain ⟨hf, ho, hl⟩ := ha
  simp only [onFillSheet, hf, ho, hl, hm, if_true]

theorem onFillSheet_of_spent (ha : Awaits p v src ident sheet s x o) (hm : hallmark data ≠ mark)
    (hr : 3 ≤ Map.getD x.retries sheet 0) : onFillSheet v src ident sheet data mark p s =
      fillNote p stDigest ident src sheet (updFills p (fun y => y = x) (fun y => { y with bad := some stDigest }) s) := by
  obtain ⟨hf, ho, hl⟩ := ha
  have hr' : Map.getD x.retries sheet 0 ≥ 3 := hr
  simp only [onFillSheet, hf, ho, hl, hm, hr', if_true, if_false]

/-- A message without a reply none of whose writes waits is applied. -/
theorem delivers_of_settled {i : Instr} {m : MsgHdr} {act : Part → State → State} (ha : Accepted m s)
    (he : exec i s = next (settleMsg m i s (receivePlain m act s))) (hact : act s.vesin.fpart s = t)
    (hh : heldBack s t = false) : Delivers i m s t := by
  obtain ⟨hm, hn, hs⟩ := ha
  have hr : receivePlain m act s = recordSeq m.src.toNat m.seq.toNat stOk t := by
    simp [receivePlain, receive, hm, hn, hs, hact]
  rw [Delivers, he, hr, settleMsg_of_not_heldBack]
  rw [heldBack_congr recordSeq_flash, hh]

theorem onFillRoot_of_not_verifying {root : B256} (hs : (s.part p).res.sbState ≠ 3) :
    onFillRoot src ident root p s = s.updRes p fun r => { r with
      fills := r.fills.map fun x => if x.source = src && x.ident = ident then { x with root := some root } else x
      filled := r.filled.map fun x => if x.source = src && x.ident = ident then { x with root := some root } else x } := by
  have hu : onFillRoot src ident root p s = tryVerify p (s.updRes p fun r => { r with
      fills := r.fills.map fun x => if x.source = src && x.ident = ident then { x with root := some root } else x
      filled := r.filled.map fun x => if x.source = src && x.ident = ident then { x with root := some root } else x }) :=
    congrArg (tryVerify p) updRes_updRes
  rw [hu, tryVerify_of_not_verifying (by simpa using hs)]

theorem foldl_range_one {f : State → Nat → State} : (List.range 1).foldl f s = f s 0 := by
  rw [List.range_one, List.foldl_cons, List.foldl_nil]

/-- A standby's PULL of one sheet of a larger object. -/
theorem answerPull_of_one {first hd : Nat} (hs : 32 ≤ src) (he : Map.find? (s.part p).res.exports ident = some hd)
    (ho : s.obj? p hd = some o) (hf : first < o.sheets) (h1 : o.sheets ≠ 1)
    (hc : checkMem s p ckptMaster .r (o.base + first * sheetBytes) sheetBytes = .ok) :
    let u := touchRead p (o.base + first * sheetBytes) sheetBytes s
    let t := engineSend ckptMaster src
      (.fill 2 ident 0 first (objSheet u o first ++ digestBytes (hallmark (objSheet u o first)))) u
    answerPull src 1 ident first p s = sendMsg src (statusBody t 0 stOk) .none t := by
  have hm : decide (src < 32) = false := by simp [hs]
  have hbad : (decide (first + 1 > o.sheets) || (decide (first = 0) && decide (1 ≠ o.sheets) && decide (1 ≠ 1))) =
      false := by simp; omega
  have h1' : ¬ 1 = o.sheets := fun e => h1 e.symm
  simp only [answerPull, he, ho, hm, hbad, one_mul, Bool.false_eq_true, if_false]
  simp only [hc, h1', ne_eq, not_true_eq_false, if_false, foldl_range_one, add_zero]

/-! ### STATUS (R586) -/

/-- One word from a position that reports a failure, at a module that neither coordinates nor verifies. -/
theorem onStatus_of_failed {step : Nat} {code : B16} {w : B64} (hc : code ≠ stOk) (hco : isCoord s p = false)
    (hv : (s.part p).res.sbState ≠ 3) : onStatus src step code [w] p s = s.updRes p fun r => { r with
      fills := r.fills.map fun x => if x.live && x.source = src then { x with bad := some code } else x
      highest := if r.sbState = 2 && r.highest < w && !malformed w then w else r.highest } := by
  have hn : notePosition src w p s = s.updRes p fun r => { r with
      highest := if r.sbState = 2 && r.highest < w && !malformed w then w else r.highest } := by
    unfold notePosition
    by_cases h2 : (s.part p).res.sbState = 2
    · extract_lets r t
      have ht : (t.part p).res.sbState ≠ 3 := by simpa [t] using hv
      rw [if_neg (by simp [r, h2]), if_neg (by rw [decide_eq_false ht]; simp)]
      exact updRes_congr (by simp [h2])
    · extract_lets r t
      rw [if_pos (by rw [decide_eq_true (show r.sbState ≠ 2 from h2), decide_eq_true (show r.sbState ≠ 3 from hv)]; rfl)]
      exact (updRes_self (by rw [decide_eq_false h2]; rfl)).symm
  have hco' : isCoord (updFills p (fun x => x.live && x.source = src) (fun x => { x with bad := some code })
      (notePosition src w p s)) p = false := by
    rw [hn, updFills, isCoord_updRes rfl, isCoord_updRes rfl, hco]
  simp only [onStatus, List.headD_cons, List.length_singleton, if_neg hc, hco', Bool.not_false, Bool.true_or, if_true]
  rw [if_neg (by decide), hn, updFills, updRes_updRes]

/-! ### ROLLBACK_MSG (R576) -/

theorem runRollback_of_flight {step : Nat} (hr : (s.part p).res.rollTo = some step) (hf : (s.part p).bench.flight ≠ []) :
    runRollback p s = s := by
  simp [runRollback, hr, hf]

/-- A member that takes no position over restores its own image. -/
theorem runRollback_of_restored {step : Nat} (hr : (s.part p).res.rollTo = some step) (hf : (s.part p).bench.flight = [])
    (hs : (s.part p).res.sbState = 0)
    (hv : restoreOwn p step (s.updRes p fun r => { r with rollTo := none }) = (stOk, t))
    (hl : ((resNote p 12 stOk (place 224 112 step) t).part p).cad.role = .follower) :
    runRollback p s = resNote p 12 stOk (place 224 112 step) t := by
  have htake : (decide ((s.part p).res.sbState.toNat = 2) || decide ((s.part p).res.sbState.toNat = 3)) = false := by
    rw [hs]
    rfl
  simp only [runRollback, hr, hf, List.isEmpty_nil, Bool.not_true, Bool.false_eq_true, if_false, State.updRes_part, htake,
    hv, if_true]
  exact if_pos (by rw [hl]; decide)

/-! ### LINK_HOLD_EXPIRY (R534) -/

theorem holdExpired_of_not_member {d : Nat} (hu : unreachable s d = true) (he : s.vesin.expired.contains d = false)
    (hw : ∀ x ∈ s.vesin.waiting, x.dst.toNat ≠ d)
    (hm : (s.part s.vesin.fpart).res.members.getLsbD (ownPos s) = false) :
    holdExpired d s = updVesin (fun x => { x with expired := d :: x.expired }) s := by
  have hx : updVesin (fun x => { x with expired := if x.expired.contains d then x.expired else d :: x.expired }) s =
      updVesin (fun x => { x with expired := d :: x.expired }) s := by
    simp only [updVesin, he, Bool.false_eq_true, if_false]
  unfold holdExpired
  rw [hu, hx]
  simp only [Bool.not_true, Bool.false_eq_true, if_false]
  have hnone : (s.vesin.waiting.filter fun m => m.dst.toNat = d) = [] :=
    List.filter_eq_nil_iff.mpr fun x hx => by simpa using hw x hx
  have hco : isCoord (updVesin (fun x => { x with expired := d :: x.expired }) s) s.vesin.fpart = false := by
    rw [isCoord]
    rw [show (((updVesin (fun x => { x with expired := d :: x.expired }) s).part s.vesin.fpart).res.members.getLsbD
      (ownPos (updVesin (fun x => { x with expired := d :: x.expired }) s))) = false from hm]
    simp
  rw [show (updVesin (fun x => { x with expired := d :: x.expired }) s).vesin.waiting = s.vesin.waiting from rfl, hnone,
    List.foldl_nil, if_pos]
  rw [show (updVesin (fun x => { x with expired := d :: x.expired }) s).vesin.fpart = s.vesin.fpart from rfl, hco]
  rfl

end Sys2Proof.Machine

namespace Sys2Proof
open Machine

/-- Settles O43: each command by its own effect in the state that it has begun. -/
theorem resilienceCommandsRun : Obligations.ResilienceCommandsRun := by
  refine ⟨?_, ?_, ?_, ?_, ?_, ?_, ?_, ?_, ?_⟩
  · intro h set slot list count s o c u hs hm ho hc hslot hr hl hb
    exact exec_of_act_started hm rfl (actRestore_of_whole hslot (by rwa [begun_obj]) hc hr hl hb)
  · intro h dest ident source s o hm ho hs hmask hp hr
    exact exec_of_act_started hm rfl (actFill_of_source (by rwa [begun_obj]) hs hmask hp hr)
  · intro h s hm hs hf hr u
    refine answers_of_act hm rfl ?_
    simp only [begun_res, hs, hf, List.isEmpty_nil, ne_eq, not_true_eq_false, Bool.not_true, Bool.false_eq_true, if_false]
    exact congrArg (Prod.mk cmdOk) (startVerify_of_unknown_root (by rwa [begun_res]))
  · intro h s hm hs
    refine answers_of_act hm rfl ?_
    simp only [begun_res, hs, ne_eq, not_true_eq_false, if_false]
    exact congrArg (Prod.mk cmdOk) (updRes_updRes.trans rfl)
  · intro h arm auto claim wait s hm ha hu hc h1 h2 hs set
    have hact := actResCfg_of_free (s := begun h s) (p := h.fn) ha hu hc h1 h2 hs
    refine ⟨?_, ?_⟩
    · rintro rfl
      exact answers_of_act hm rfl hact
    · rintro rfl
      exact answers_of_act hm rfl hact
  · intro h set list s c hm ho hc
    refine answers_of_act hm rfl ?_
    have ho' : ((begun h s).obj? h.fn set.toNat).isNone = false := by simpa using ho
    simp only [actRbSet, ho', hc, Bool.false_eq_true, if_false]
  · intro h s hm hr
    refine exec_of_act_started hm rfl ?_
    rw [begun_cad, if_neg (by simp [hr])]
  · intro h pos s hm hc hp hmem
    refine answers_of_act hm rfl ?_
    rw [if_neg (Nat.not_lt.mpr hp), hc, begun_res, hmem]
    rfl
  · intro h set s hm hr hs
    refine answers_of_act hm rfl ?_
    rw [if_neg (Nat.not_lt.mpr hs), begun_cad, if_neg (by simp [hr])]

/-- Settles O50: each event and message by its own effect, where what it would wait for is there or asks for nothing. -/
theorem standbyEventsRun : Obligations.StandbyEventsRun := by
  refine ⟨?_, ?_, ?_, ?_, ?_, ?_, ?_, ?_, ?_, ?_, ?_, ?_, ?_, ?_⟩
  · intro p s hp
    exact ⟨fun hs hm => execStandbyArm_of_ready hp hs hm, fun hs hm => execStandbyArm_of_unready hp hs hm,
      fun d hs hc => execArmedReportTimer_of_armed hp hs hc, fun b hc => execStandbySilence_of_coord hp hc⟩
  · intro m cover s p ha hc hsrc hr
    exact delivers_of_accepted ha rfl (onArmed_of_none_removed hc hsrc hr)
  · intro m d s ha hs
    exact delivers_of_accepted ha rfl (updRes_congr (if_pos hs))
  · intro m ident first hd s o p u data t ha he ho hsrc hf h1 hc
    exact delivers_of_accepted ha rfl (answerPull_of_one hsrc he ho hf h1 hc)
  · intro m ident sheet data mark s x o p ha hx ho hal hw hc hh
    have hawaits : Awaits p m.port m.src.toNat ident.toNat sheet s x o := ⟨hx, ho, landing_of_ok hal hw hc⟩
    refine ⟨fun hm => delivers_of_settled ha rfl (onFillSheet_of_good hawaits hm) hh, fun hm hr =>
      ⟨_, delivers_of_settled ha rfl (onFillSheet_of_spent hawaits hm hr) (heldBack_of_flash_eq fillNote_only.flash),
        fillNote_only.mem, ?_⟩⟩
    rw [fillNote_only.res, updFills, State.updRes_part]
    simp only [decide_eq_true_eq]
    rfl
  · intro m ident root s p ha hs
    exact delivers_of_accepted ha rfl (onFillRoot_of_not_verifying hs)
  · intro m d s t p ha hc hf hm
    exact delivers_of_accepted ha rfl (onReady_of_no_mirror hc hf hm)
  · intro m sp d s p ha hd hsp h0 hh hs hi
    have hact := commitPosition_of_others (p := p) (toNat_ne hd) (toNat_ne hsp) (toNat_ne h0) hh hs hi
    simp only [BitVec.ofNat_toNat, BitVec.setWidth_eq] at hact
    exact delivers_of_accepted ha rfl hact
  · intro m d s p ha hd hm hr hb hf hv
    exact delivers_of_accepted ha rfl
      (applyRemove_of_other (toNat_ne hd) (fun x hx => toNat_ne (hm x hx)) hr hb hf hv)
  · intro m reason s ha hc hm
    refine delivers_of_accepted ha rfl ?_
    rw [hc, hm]
    rfl
  · intro m s ha
    exact delivers_of_accepted ha rfl rfl
  · intro m step s p u ha hm
    have hroll : ((s.updRes p fun r => { r with rollTo := some step.toNat }).part p).res.rollTo = some step.toNat := by simp
    refine ⟨fun hf => delivers_of_accepted ha rfl ?_, fun v hf hs hv hl => delivers_of_accepted ha rfl ?_⟩
    · rw [if_neg (not_not.mpr hm)]
      exact runRollback_of_flight hroll (by simpa using hf)
    · rw [if_neg (not_not.mpr hm)]
      exact runRollback_of_restored hroll (by simpa using hf) (by simpa using hs) (by rwa [updRes_updRes]) hl
  · intro m step code w s p ha hc hco hv
    exact delivers_of_accepted ha rfl (onStatus_of_failed hc hco hv)
  · intro d s hu he hw hm
    exact congrArg next (holdExpired_of_not_member hu he (fun x hx => toNat_ne (hw x hx)) hm)

end Sys2Proof
end

section
/-!
The start of commands, journal entries and replies: the order of the checks (R631), QUIET (R632, R658), the ring (R633 to
R635), the commands that only answer (R640, R649, R656), and a handle that names no object (R779).

Said once: what an interrupt, a journal entry and a reply leave of a partition's host interface (`raiseIrq_host`,
`journal_host`, `writeReply_host`, `postReply_told`).
-/
namespace Sys2Proof.Machine

variable {h : CmdHdr} {p : Part} {s t u : State}

/-! ### What an interrupt, an entry and a reply write (R634, R637, R655) -/

theorem raiseIrq_host (p : Part) (v : Fin 4) (s : State) : ((raiseIrq p v s).part p).host =
    { (s.part p).host with irqStatus := (s.part p).host.irqStatus ||| (1#4 <<< v.val) } := by
  unfold raiseIrq
  dsimp only
  split <;> simp

theorem raiseIrq_hostMem (p : Part) (v : Fin 4) (s : State) : (raiseIrq p v s).host.hostMem = s.host.hostMem := by
  unfold raiseIrq
  dsimp only
  split <;> rfl

/-- The entry that `journal` writes. -/
def entryOf (p : Part) (kind status opcode tag : B16) (seq : B32) (detail : BitVec 224) (s : State) : JEntry :=
  { jseq := (s.part p).host.jseq + 1, time := s.timeOf p, pos := (s.part p).cad.pos, kind, status, opcode, tag, seq, detail }

/-- A journal entry: one number further, the entry in its place, and the interrupt unless its kind raises none. -/
theorem journal_host (p : Part) (kind status opcode tag : B16) (seq : B32) (detail : BitVec 224) (s : State) :
    ((journal p kind status opcode tag seq detail s).part p).host =
      { (s.part p).host with
        jseq := (s.part p).host.jseq + 1
        journal := Map.insert (s.part p).host.journal (((s.part p).host.jseq + 1).toNat % 4096)
          (entryOf p kind status opcode tag seq detail s)
        irqStatus := if quietKind kind then (s.part p).host.irqStatus else (s.part p).host.irqStatus ||| 4#4 } := by
  unfold journal
  dsimp only
  split
  · simp [entryOf]
  · rw [raiseIrq_host]
    simp [entryOf]

theorem hostWrite_part (fn : Part) (addr : B64) (bytes : List Byte) (q : Part) :
    (hostWrite fn addr bytes s).part q = s.part q := rfl

theorem writeReply_host (p : Part) (r : Reply) (s : State) : ((writeReply p r s).part p).host =
    { (s.part p).host with
      replyTail := (s.part p).host.replyTail + 1, irqStatus := (s.part p).host.irqStatus ||| (1#4 <<< (0 : Fin 4).val) } := by
  unfold writeReply
  dsimp only
  rw [raiseIrq_host, State.updHost_part, hostWrite_part]

/-- `b` is `a` but for journal, interrupts and replies given. -/
def Told (a b : HostPart) : Prop :=
  ∃ j m i n l, b = { a with jseq := j, journal := m, irqStatus := i, replyTail := n, held := l }

theorem Told.refl (a : HostPart) : Told a a := ⟨_, _, _, _, _, rfl⟩

theorem Told.trans {a b c : HostPart} (h : Told a b) (k : Told b c) : Told a c := by
  obtain ⟨j, m, i, n, l, rfl⟩ := h
  obtain ⟨j', m', i', n', l', rfl⟩ := k
  exact ⟨j', m', i', n', l', rfl⟩

theorem journal_told (p : Part) (kind status opcode tag : B16) (seq : B32) (detail : BitVec 224) (s : State) :
    Told (s.part p).host ((journal p kind status opcode tag seq detail s).part p).host := by
  rw [journal_host]
  exact ⟨_, _, _, _, _, rfl⟩

theorem note_told (p : Part) (kind status : B16) (detail : BitVec 224) (s : State) :
    Told (s.part p).host ((note p kind status detail s).part p).host := journal_told ..

theorem writeReply_told (p : Part) (r : Reply) (s : State) : Told (s.part p).host ((writeReply p r s).part p).host := by
  rw [writeReply_host]
  exact ⟨_, _, _, _, _, rfl⟩

theorem flushHeld_told (p : Part) (l : List Reply) (s : State) : Told (s.part p).host ((flushHeld p l s).part p).host := by
  induction l generalizing s with
  | nil => rw [flushHeld, State.updHost_part]; exact ⟨_, _, _, _, _, rfl⟩
  | cons r l ih =>
    rw [flushHeld]
    split
    · exact (writeReply_told p r s).trans (ih _)
    · rw [State.updHost_part]; exact ⟨_, _, _, _, _, rfl⟩

/-- A reply leaves the journal, and of the rest what `Told` says. -/
theorem postReply_host (p : Part) (r : Reply) (s : State) : ∃ i n l, ((postReply p r s).part p).host =
    { (s.part p).host with irqStatus := i, replyTail := n, held := l } := by
  unfold postReply
  split
  · exact ⟨_, _, _, rfl⟩
  · split
    · rw [writeReply_host]; exact ⟨_, _, _, rfl⟩
    · rw [State.updHost_part]; exact ⟨_, _, _, rfl⟩

theorem postReply_told (p : Part) (r : Reply) (s : State) : Told (s.part p).host ((postReply p r s).part p).host := by
  obtain ⟨i, n, l, e⟩ := postReply_host p r s
  exact ⟨_, _, i, n, l, e⟩

theorem finishShort_told (h : CmdHdr) (op st : B16) (r : B128) (s : State) :
    Told (s.part h.fn).host ((finishShort h op st r s).part h.fn).host := by
  simp only [finishShort]
  split
  · exact journal_told ..
  · exact (journal_told ..).trans (postReply_told ..)

/-- A reply is written at once where a ring is named, nothing is held and there is room. -/
theorem postReply_of_room {r : Reply} (hn : (s.part p).host.ringLog2 ≠ 0) (hh : (s.part p).host.held = [])
    (hr : canReply (s.part p).host = true) : postReply p r s = writeReply p r s := by
  rw [postReply, if_neg hn, if_pos (by simp [hh, hr])]

theorem canReply_of_opened {a : HostPart} (ho : a.pstate = .opened)
    (hr : (a.replyTail - a.replyHead).toNat < 2 ^ a.ringLog2.toNat) : canReply a = true :=
  Bool.and_eq_true_iff.mpr ⟨by rw [ho]; rfl, decide_eq_true hr⟩

theorem HostOnly.partTier (k : HostOnly p s t) (q : Part) : (t.part q).tier = (s.part q).tier := by
  by_cases hq : q = p
  · rw [hq, k.part]
  · rw [k.part_of_ne hq]

/-! ### The end of a short command (R632, R658) -/

/-- QUIET and OK: no reply. -/
abbrev noReply (h : CmdHdr) (st : B16) : Prop := h.flags.getLsbD 1 = true ∧ st = 0

theorem finishShort_of_quiet {op st : B16} {r : B128} (hq : noReply h st) :
    finishShort h op st r s = journal h.fn 0x0001 st op h.tag h.seq (r.setWidth 224) s := by
  simp only [finishShort]
  exact if_pos (by rw [cmdQuiet, hq.1, hq.2]; rfl)

/-- The state in which a short command's reply is made. -/
theorem finishShort_of_not_quiet {op st : B16} {r : B128} (hq : ¬ noReply h st) :
    ∃ x, finishShort h op st r s = postReply h.fn x (journal h.fn 0x0001 st op h.tag h.seq (r.setWidth 224) s) := by
  simp only [finishShort]
  refine ⟨_, if_neg ?_⟩
  intro c
  obtain ⟨c1, c2⟩ := Bool.and_eq_true_iff.mp c
  exact hq ⟨c1, of_decide_eq_true c2⟩

/-- The COMMAND entry, whether or not a reply follows. -/
theorem finishShort_journal (h : CmdHdr) (op st : B16) (r : B128) (s : State) :
    ((finishShort h op st r s).part h.fn).host.jseq = (s.part h.fn).host.jseq + 1 ∧
      ((finishShort h op st r s).part h.fn).host.journal =
        Map.insert (s.part h.fn).host.journal (((s.part h.fn).host.jseq + 1).toNat % 4096)
          (entryOf h.fn 0x0001 st op h.tag h.seq (r.setWidth 224) s) := by
  by_cases hq : noReply h st
  · rw [finishShort_of_quiet hq, journal_host]
    exact ⟨rfl, rfl⟩
  · obtain ⟨x, e⟩ := finishShort_of_not_quiet (op := op) (r := r) (s := s) hq
    obtain ⟨i, n, l, k⟩ := postReply_host h.fn x (journal h.fn 0x0001 st op h.tag h.seq (r.setWidth 224) s)
    rw [e, k, journal_host]
    exact ⟨rfl, rfl⟩

/-- A reply that is due in an OPEN partition with room is the next one. -/
theorem finishShort_replies {op st : B16} {r : B128} (hq : ¬ noReply h st) (hn : (s.part h.fn).host.ringLog2 ≠ 0)
    (hh : (s.part h.fn).host.held = []) (ho : (s.part h.fn).host.pstate = .opened)
    (hr : ((s.part h.fn).host.replyTail - (s.part h.fn).host.replyHead).toNat < 2 ^ (s.part h.fn).host.ringLog2.toNat) :
    ((finishShort h op st r s).part h.fn).host.replyTail = (s.part h.fn).host.replyTail + 1 ∧
      ((finishShort h op st r s).part h.fn).host.held = [] := by
  obtain ⟨x, e⟩ := finishShort_of_not_quiet (op := op) (r := r) (s := s) hq
  rw [e, postReply_of_room, writeReply_host, journal_host]
  · exact ⟨rfl, hh⟩
  · rw [journal_host]; exact hn
  · rw [journal_host]; exact hh
  · rw [journal_host]; exact canReply_of_opened ho hr

/-! ### The start and the end of a long command (R630) -/

/-- With QUIET the start of a long command is its ACCEPT entry and its place in the table. -/
theorem startLong_host_of_quiet {op : B16} {params : List Byte} {w : LongWork} (hq : h.flags.getLsbD 1 = true) :
    ∃ m, ((startLong h op params w s).part h.fn).host =
      { ((journal h.fn 0x0002 stAccepted op h.tag h.seq (BitVec.ofNat 224 (leNat (params.take 20))) s).part h.fn).host with
        longs := m } := by
  simp only [startLong]
  rw [show cmdQuiet h = true from hq, if_pos rfl, State.updHost_part]
  exact ⟨_, rfl⟩

theorem finishLong_of_quiet {i : Nat} {c : LongCmd} {r : B128} (hc : Map.find? (s.part p).host.longs i = some c)
    (hq : c.quiet = true) : finishLong p i 0 r s =
      (journal p 0x0003 0 c.opcode c.tag c.seq (r.setWidth 224 ||| place 224 128 c.ajseq.toNat) s).updHost p
        fun x => { x with longs := Map.erase x.longs i } := by
  simp only [finishLong, hc]
  exact if_pos (by rw [hq]; rfl)

/-! ### The checks (R631) -/

theorem cmdChecks_of_minimal {info : CmdInfo} {bad : Bool} (hm : s.minimal = true ∧ info.minimal = false) :
    cmdChecks info h bad s = some 0x0080 := if_pos (by simp [hm])

theorem cmdChecks_of_not_minimal {info : CmdInfo} {bad : Bool} (hm : ¬ (s.minimal = true ∧ info.minimal = false)) :
    cmdChecks info h bad s = if h.partition.toNat ≠ h.fn.val || !issuerOk s info.issuer h.fn then some stNoAccess
      else if bad || h.rsvd || decide (h.flags.toNat ≥ 4) then some stBadParam else none :=
  if_neg (by simpa using hm)

/-- A command that may start and fails a check ends there. -/
theorem hostCmd_refused {info : CmdInfo} {i : Instr} {params : List Byte} {bad : Bool} {act : State → CmdOut × State}
    {st : B16} (ho : (s.part h.fn).host.pstate = .opened ∨ (s.part h.fn).host.starting = true)
    (hs : canStart (s.part h.fn).host info.long (cmdFence h) = true) (hc : cmdChecks info h bad s = some st) :
    hostCmd info i h params bad act s = finishShort h info.opcode st 0 (begun h s) := by
  have hc' : cmdChecks info h bad (s.updHost h.fn fun x => { x with starting := false }) = some st := hc
  unfold hostCmd
  rcases ho with ho | ho <;> simp [ho, hs, hc', begun]

/-- An accepted packet whose opcode is not listed ends with BAD_OPCODE when it may start. -/
theorem badOpcode_of_canStart {k : Packet} {i : Instr} (hs : canStart (s.part k.fn).host false (cmdFence (k.hdr 0 [])) = true) :
    badOpcode k i s = finishShort (k.hdr 0 []) (BitVec.ofNat 16 k.op) 0x0020 0 (begun (k.hdr 0 []) s) := by
  simp only [badOpcode]
  exact if_neg (by rw [hs]; decide)

/-! ### A reply's place and its bytes (R633, R634) -/

theorem length_replyBytes (r : Reply) (ph : Bool) : (r.bytes ph).length = 32 := by
  simp [Reply.bytes]

/-- PHASE alone is bit 31 of its word. -/
theorem replyBytes_of_index (r : Reply) (i n : Nat) : r.bytes (i / 2 ^ n % 2 == 0) =
    leBytes 16 r.result.toNat ++ leBytes 4 (if i / 2 ^ n % 2 = 0 then 2 ^ 31 else 0) ++ leBytes 4 r.jseq.toNat ++
      leBytes 4 r.seq.toNat ++ leBytes 2 r.status.toNat ++ leBytes 2 r.tag.toNat := by
  unfold Reply.bytes bit
  by_cases e : i / 2 ^ n % 2 = 0 <;> simp [e]

theorem writeReply_hostMem (p : Part) (r : Reply) (s : State) : (writeReply p r s).host.hostMem =
    (hostWrite p ((s.part p).host.ringBase +
        BitVec.ofNat 64 (32 * ((s.part p).host.replyTail.toNat % 2 ^ (s.part p).host.ringLog2.toNat)))
      (r.bytes ((s.part p).host.replyTail.toNat / 2 ^ (s.part p).host.ringLog2.toNat % 2 == 0)) s).host.hostMem := by
  unfold writeReply
  dsimp only
  rw [raiseIrq_hostMem]
  rfl

/-! ### PART_OPEN (R606, R607) -/

/-- PART_OPEN's own part of a parameter check: ring and options. -/
abbrev openBad (ring : B64) (n options : Byte) : Bool :=
  decide (options.toNat > 1) || decide (ring.toNat % 64 ≠ 0) || decide (n.toNat < 6) || decide (16 < n.toNat)

/-- What PART_OPEN does before its checks: slots are freed, or a SEQ is used. -/
def beforeOpen (h : CmdHdr) (s : State) : State :=
  s.updHost h.fn fun x =>
    if (s.part h.fn).host.pstate = .closed then { x with slots := [] } else { x with seqNext := x.seqNext + 1 }

theorem execPartOpen_of_closed {ring : B64} {n : Byte} (hc : (s.part h.fn).host.pstate = .closed)
    (hs : (s.part h.fn).host.starting = false) :
    execPartOpen h ring n 0 s = next (runOpen h ring n 0 s) := by
  simp [execPartOpen, hc, hs]

theorem execPartOpen_of_detached {ring : B64} {n : Byte} (hc : (s.part h.fn).host.pstate = .detached)
    (hs : (s.part h.fn).host.starting = false) (hq : h.seq = (s.part h.fn).host.seqNext) :
    execPartOpen h ring n 1 s = next (runOpen h ring n 1 s) := by
  simp [execPartOpen, hc, hs, hq]

theorem runOpen_of_bad {ring : B64} {n options : Byte} {st : B16}
    (hc : cmdChecks { opcode := 0x0101, minimal := decide (h.fn = 0) } h (openBad ring n options) s = some st) :
    runOpen h ring n options s = finishShort h 0x0101 st 0 (beforeOpen h s) := by
  have hc' : cmdChecks { opcode := 0x0101, minimal := decide (h.fn = 0) } h (openBad ring n options) (beforeOpen h s) =
    some st := hc
  unfold runOpen
  dsimp only
  rw [show s.updHost h.fn _ = beforeOpen h s from rfl, hc']

theorem runOpen_of_good {ring : B64} {n options : Byte}
    (hc : cmdChecks { opcode := 0x0101, minimal := decide (h.fn = 0) } h (openBad ring n options) s = none) :
    runOpen h ring n options s = finishShort h 0x0101 stOk (res 0 (h.seq + 1).toNat)
      (if (s.part h.fn).host.pstate = .closed then openWindows h.fn (openPart h ring n.toNat (beforeOpen h s)).2
        else (openPart h ring n.toNat (beforeOpen h s)).2) := by
  have hc' : cmdChecks { opcode := 0x0101, minimal := decide (h.fn = 0) } h (openBad ring n options) (beforeOpen h s) =
    none := hc
  unfold runOpen
  dsimp only
  rw [show s.updHost h.fn _ = beforeOpen h s from rfl, hc']
  rfl

/-- A guest window is an object: of the state, nothing but the objects of its partition changes. -/
theorem openWindow_eq (p : Part) (s : State) (g : Fin 2) : ∃ f, openWindow p s g = s.updTier p f := by
  have same : s = s.updTier p id := (State.upd_self s p _ rfl).symm
  unfold openWindow
  split
  · exact ⟨id, same⟩
  · split
    · exact ⟨id, same⟩
    · exact ⟨_, rfl⟩

/-- `t` is `s` but for the tier registers of `p`. -/
def TierOnly (p : Part) (s t : State) : Prop := ∃ f, t = s.updTier p f

theorem openWindows_only (p : Part) (s : State) : TierOnly p s (openWindows p s) := by
  obtain ⟨f, hf⟩ := openWindow_eq p s 0
  obtain ⟨g, hg⟩ := openWindow_eq p (openWindow p s 0) 1
  refine ⟨fun t => g (f t), ?_⟩
  show openWindow p (openWindow p s 0) 1 = _
  rw [hg, hf, State.updTier, State.updTier, State.updTier, State.upd_upd]

theorem TierOnly.host {q : Part} (h : TierOnly p s t) : (t.part q).host = (s.part q).host := by
  obtain ⟨f, rfl⟩ := h
  by_cases e : q = p
  · subst e; rw [State.updTier_part]
  · rw [State.updTier_part_of_ne _ _ e]

theorem TierOnly.mem (h : TierOnly p s t) : t.mem = s.mem := by
  obtain ⟨f, rfl⟩ := h
  rfl

/-- The partition's host interface as PART_OPEN sets it, before what was held is written. -/
def opened (h : CmdHdr) (ring : B64) (n : Nat) (x : HostPart) : HostPart :=
  { x with
    pstate := .opened, ringBase := ring, ringLog2 := BitVec.ofNat 5 n, replyTail := 0, replyHead := 0, seqNext := h.seq + 1 }

theorem openPart_told (h : CmdHdr) (ring : B64) (n : Nat) (s : State) :
    Told (opened h ring n (s.part h.fn).host) ((openPart h ring n s).2.part h.fn).host := by
  have e : ((s.updHost h.fn (opened h ring n)).part h.fn).host = opened h ring n (s.part h.fn).host := by simp
  have k := flushHeld_told h.fn ((s.updHost h.fn (opened h ring n)).part h.fn).host.held (s.updHost h.fn (opened h ring n))
  have k0 : Told (opened h ring n (s.part h.fn).host) ((s.updHost h.fn (opened h ring n)).part h.fn).host := e ▸ .refl _
  exact k0.trans k

theorem openPart_mem (h : CmdHdr) (ring : B64) (n : Nat) (s : State) : (openPart h ring n s).2.mem = s.mem :=
  ((HostOnly.of_updHost h.fn s (opened h ring n)).trans (flushHeld_only h.fn _ _)).mem

/-- Where nothing was held, nothing is written before the open's own reply. -/
theorem openPart_host_of_none_held {ring : B64} {n : Nat} (hh : (s.part h.fn).host.held = []) :
    ((openPart h ring n s).2.part h.fn).host = opened h ring n (s.part h.fn).host := by
  have e : ((s.updHost h.fn (opened h ring n)).part h.fn).host = opened h ring n (s.part h.fn).host := by simp
  show ((flushHeld h.fn ((s.updHost h.fn (opened h ring n)).part h.fn).host.held
    (s.updHost h.fn (opened h ring n))).part h.fn).host = _
  rw [e, show (opened h ring n (s.part h.fn).host).held = [] from hh, flushHeld, State.updHost_part, e]
  simp [opened, hh]

theorem beforeOpen_host (h : CmdHdr) (s : State) : ∃ l n, ((beforeOpen h s).part h.fn).host =
    { (s.part h.fn).host with slots := l, seqNext := n } := by
  unfold beforeOpen
  split
  · rw [State.updHost_part]; exact ⟨_, _, rfl⟩
  · rw [State.updHost_part]; exact ⟨_, _, rfl⟩

/-- The state over which PART_OPEN's reply is made. -/
def openState (h : CmdHdr) (ring : B64) (n : Nat) (s : State) : State :=
  if (s.part h.fn).host.pstate = .closed then openWindows h.fn (openPart h ring n (beforeOpen h s)).2
  else (openPart h ring n (beforeOpen h s)).2

theorem openState_host (h : CmdHdr) (ring : B64) (n : Nat) (s : State) :
    ((openState h ring n s).part h.fn).host = ((openPart h ring n (beforeOpen h s)).2.part h.fn).host := by
  unfold openState
  split
  · exact (openWindows_only ..).host
  · rfl

theorem openState_mem (h : CmdHdr) (ring : B64) (n : Nat) (s : State) : (openState h ring n s).mem = s.mem := by
  unfold openState
  split
  · exact (openWindows_only ..).mem.trans (openPart_mem ..)
  · exact openPart_mem ..

/-- An opened partition has the ring that was named, and expects the next SEQ. -/
theorem finishOpen_host (h : CmdHdr) (ring : B64) (n : Nat) (r : B128) (s : State) :
    let x := ((finishShort h 0x0101 stOk r (openState h ring n s)).part h.fn).host
    x.pstate = .opened ∧ x.ringBase = ring ∧ x.ringLog2 = BitVec.ofNat 5 n ∧ x.seqNext = h.seq + 1 ∧ x.replyHead = 0 := by
  have k := finishShort_told h 0x0101 stOk r (openState h ring n s)
  rw [openState_host] at k
  obtain ⟨_, _, _, _, _, e⟩ := (openPart_told h ring n (beforeOpen h s)).trans k
  rw [e]
  exact ⟨rfl, rfl, rfl, rfl, rfl⟩

/-- A ring whose replies are counted anew has room. -/
theorem room_of_new {n : Nat} : ((0 : B32) - 0).toNat < 2 ^ n := by
  rw [show ((0 : B32) - 0).toNat = 0 from rfl]
  exact Nat.two_pow_pos n

/-- Where nothing was held, the open's own reply is the first of its ring. -/
theorem finishOpen_replyTail {ring : B64} {n : Nat} {r : B128} (hn : 0 < n) (hn' : n < 32)
    (hh : (s.part h.fn).host.held = []) :
    ((finishShort h 0x0101 stOk r (openState h ring n s)).part h.fn).host.replyTail = if h.flags.getLsbD 1 then 0 else 1 := by
  obtain ⟨l, m, e⟩ := beforeOpen_host h s
  have k : ((openState h ring n s).part h.fn).host =
      opened h ring n { (s.part h.fn).host with slots := l, seqNext := m } := by
    rw [openState_host, openPart_host_of_none_held (by rw [e]; exact hh), e]
  have hl : (BitVec.ofNat 5 n).toNat = n := by simp; omega
  split
  · next hq => rw [finishShort_of_quiet ⟨hq, rfl⟩, journal_host, k]; rfl
  · next hq =>
    have k0 : (opened h ring n { (s.part h.fn).host with slots := l, seqNext := m }).ringLog2 ≠ 0 := by
      intro c
      have := congrArg BitVec.toNat (show BitVec.ofNat 5 n = 0 from c)
      rw [hl] at this
      simp at this
      omega
    refine (finishShort_replies (fun c => hq c.1) (by rw [k]; exact k0) (by rw [k]; exact hh) (by rw [k]; rfl)
      (by rw [k]; exact room_of_new)).1.trans ?_
    rw [k]
    rfl

theorem openBad_of_good {ring : B64} {n opt : Byte} (ho : opt.toNat ≤ 1) (hr : ring.toNat % 64 = 0) (h6 : 6 ≤ n.toNat)
    (h16 : n.toNat ≤ 16) : openBad ring n opt = false := by
  simp only [openBad, Bool.or_eq_false_iff, decide_eq_false_iff_not]
  omega

theorem openBad_of_bad {ring : B64} {n opt : Byte} (hb : ring.toNat % 64 ≠ 0 ∨ n.toNat < 6 ∨ 16 < n.toNat) :
    openBad ring n opt = true := by
  simp only [openBad, Bool.or_eq_true, decide_eq_true_eq]
  omega

/-! ### A handle that names no object (R779) -/

theorem settleCmd_of_flash_eq {i : Instr} (hf : t.flash = s.flash) : settleCmd i p s t = t :=
  settleCmd_of_not_heldBack (heldBack_of_flash_eq hf)

end Sys2Proof.Machine

namespace Sys2Proof

open Machine

/-- Settles O1. -/
theorem stepRunsFrontCommand : Obligations.StepRunsFrontCommand := by
  intro s c rest hs
  rw [step, hs]

/-- Settles O3. -/
theorem commandCheckOrder : Obligations.CommandCheckOrder := by
  refine ⟨?_, ?_, ?_⟩
  · intro fn slot pk data s h hst hcan
    show execCommandSeal fn slot pk data s = _
    exact (if_pos hst).trans (congrArg next (badOpcode_of_canStart hcan))
  · intro info i h params bad act st s ho hs hc
    exact hostCmd_refused ho hs hc
  · intro info h bad s
    refine ⟨cmdChecks_of_minimal, fun hm => ?_⟩
    rw [cmdChecks_of_not_minimal hm]
    refine ⟨fun hp => if_pos ?_, fun ⟨hp, hi⟩ => ?_⟩
    · rcases hp with hp | hp <;> simp [hp]
    · rw [if_neg (by simp [hp, hi])]
      refine ⟨fun hb => if_pos ?_, fun ⟨hb, hr, hf⟩ => if_neg ?_⟩
      · rcases hb with hb | hb | hb <;> simp [hb]
      · simp [hb, hr]
        omega

/-- Settles O4. -/
theorem quietCommandsWriteNoReply : Obligations.QuietCommandsWriteNoReply := by
  refine ⟨?_, ?_, ?_⟩
  · intro h op st r s t a b
    obtain ⟨hseq, hjr⟩ := finishShort_journal h op st r s
    have k := finishShort_only h op st r s
    refine ⟨hseq, ?_, ?_, fun hq hn hh ho hr => finishShort_replies hq hn hh ho hr, k.mem, k.flash, k.stitches, k.array,
      k.vesin, k.partTier h.fn, k.bench h.fn, k.partCad,
      fun q hq => k.part_of_ne hq⟩
    · show Map.find? ((finishShort h op st r s).part h.fn).host.journal _ = _
      rw [hjr]
      exact Map.find?_insert_self ..
    · intro hq
      show ((finishShort h op st r s).part h.fn).host.replyTail = _ ∧ ((finishShort h op st r s).part h.fn).host.held = _
      rw [finishShort_of_quiet hq, journal_host]
      exact ⟨rfl, rfl⟩
  · intro h op params w s hq t a b
    obtain ⟨m, e⟩ := startLong_host_of_quiet (op := op) (params := params) (w := w) (s := s) hq
    rw [show b = _ from e, journal_host]
    exact ⟨rfl, rfl, rfl, Map.find?_insert_self ..⟩
  · intro p i c r s hc hq t a b
    have e : b = _ := congrArg (fun u : State => (u.part p).host) (finishLong_of_quiet hc hq)
    rw [e, State.updHost_part, journal_host]
    exact ⟨rfl, rfl, rfl, rfl, Map.find?_insert_self ..⟩

/-- Settles O5. -/
theorem replyPlaceAndPhase : Obligations.ReplyPlaceAndPhase := by
  refine ⟨?_, ?_⟩
  · intro p r s a i n t bytes
    have hb : r.bytes (i / 2 ^ n % 2 == 0) = bytes := replyBytes_of_index r i n
    refine ⟨?_, ?_, ?_⟩
    · show ((writeReply p r s).part p).host.replyTail = _
      rw [writeReply_host]
    · rw [← hb]
      exact length_replyBytes ..
    · rw [← hb]
      exact writeReply_hostMem p r s
  · intro h ring n opt s hst hmin hpart
    have hm : ¬ (s.minimal = true ∧ decide (h.fn = 0) = false) := fun ⟨a, b⟩ => (of_decide_eq_false b) (hmin a)
    have hchk (bad : Bool) : cmdChecks { opcode := 0x0101, minimal := decide (h.fn = 0) } h bad s =
        if bad || h.rsvd || decide (h.flags.toNat ≥ 4) then some stBadParam else none := by
      rw [cmdChecks_of_not_minimal hm, if_neg (by simp [hpart, issuerOk])]
    refine ⟨fun hc hb => ?_, fun ho hr h6 h16 hrs hfl => ?_⟩
    · show execPartOpen h ring n 0 s = _
      rw [execPartOpen_of_closed hc hst, runOpen_of_bad (st := 0x0021) ?_]
      · simp only [beforeOpen, hc, if_true]
      · rw [hchk, openBad_of_bad hb]
        rfl
    · have hopt : opt.toNat ≤ 1 := by
        rcases ho with ⟨_, rfl⟩ | ⟨_, rfl, _⟩ <;> decide
      have hgood : cmdChecks { opcode := 0x0101, minimal := decide (h.fn = 0) } h (openBad ring n opt) s = none := by
        rw [hchk, openBad_of_good hopt hr h6 h16, hrs]
        simp
        omega
      have e : execPartOpen h ring n opt s =
          next (finishShort h 0x0101 stOk (res 0 (h.seq + 1).toNat) (openState h ring n.toNat s)) := by
        rcases ho with ⟨hc, rfl⟩ | ⟨hd, rfl, hq⟩
        · rw [execPartOpen_of_closed hc hst, runOpen_of_good hgood]
          rfl
        · rw [execPartOpen_of_detached hd hst hq, runOpen_of_good hgood]
          rfl
      obtain ⟨hps, hrb, hrl, -, hrh⟩ := finishOpen_host h ring n.toNat (res 0 (h.seq + 1).toNat) s
      refine ⟨_, e, hps, hrb, ?_, fun hh => ⟨hrh, finishOpen_replyTail (by omega) (by omega) hh⟩⟩
      rw [hrl]
      simp
      omega

/-- Settles O6. -/
theorem queryCommandsAnswer : Obligations.QueryCommandsAnswer := by
  intro h s
  exact ⟨fun hm => answers_of_act hm rfl rfl, fun _ hm => answers_of_act hm rfl rfl,
    fun _ hm => answers_of_act hm rfl rfl, fun _ hm => answers_of_act hm rfl rfl, fun hm => answers_of_act hm rfl rfl⟩

/-- Settles O13. -/
theorem unknownHandleNoAccess : Obligations.UnknownHandleNoAccess := by
  intro h handle s ho
  have ho' : (begun h s).obj? h.fn handle.toNat = none := (begun_obj ..).trans ho
  refine ⟨fun hm => exec_of_act_done hm rfl ?_, fun policy hm hr => exec_of_act_done hm rfl ?_,
    fun count first addr hm => exec_of_act_done hm rfl ?_, fun step expect hm hstep => ?_⟩
  · rw [actObjDestroy, ho']
  · rw [actSetPolicy, hr, ho']
    rfl
  · rw [actSheetQuery, ho']
  · have ha : actBufReset h.fn handle.toNat step.toNat expect.toNat (begun h s) = (.done stNoAccess 0, begun h s) := by
      rw [actBufReset, ho']
      exact if_neg (by omega)
    obtain ⟨hop, hcan, hchk⟩ := hm
    have e : hostCmd { opcode := 0x0206 } (.bufReset h handle step expect) h [] false
        (actBufReset h.fn handle.toNat step.toNat expect.toNat) s = finishShort h 0x0206 0x0030 0 (begun h s) := by
      rw [hostCmd_run hop hcan hchk]
      exact congrArg (finishCmd { opcode := 0x0206 } h []) ha
    have k : settleCmd (.bufReset h handle step expect) h.fn s (finishShort h 0x0206 0x0030 0 (begun h s)) = _ :=
      settleCmd_of_flash_eq (finishShort_only ..).flash
    exact congrArg next ((congrArg _ e).trans k)

end Sys2Proof
end

section
/-!
Reset: the values after it (R605, R615), what device reset clears (R613), what partition reset clears and keeps (R612, R658),
and the commands and keys that open, close and reset (R606, R614, R635, R661).

The one delicate point of partition reset is the breaking of stitches, which can stop streams: no request of the partition is
left on any stitch by then (`AllReqs`), so that none of its own streams is among those stopped (`Spared`).
-/
namespace Sys2Proof.Machine

variable {h : CmdHdr} {p q : Part} {s t u : State}

/-! ### Device reset (R605, R613) -/

theorem reset_part (p : Part) : ∃ x c, State.reset.part p = { PartState.reset with tier := x, stc := c } ∧
    x.objects = [] := by
  fin_cases p
  · exact ⟨_, _, rfl, rfl⟩
  · exact ⟨{}, {}, rfl, rfl⟩
  · exact ⟨{}, {}, rfl, rfl⟩
  · exact ⟨{}, {}, rfl, rfl⟩

theorem deviceReset_part (cause : Nat) (s : State) (p : Part) : (deviceReset cause s).part p =
    resetPart cause (abandoned (s.part p).host) (State.reset.part p) :=
  Quad.get_mapIdx ..

theorem wearBlocks_regions (bs : List Nat) (f : Flash) : (wearBlocks bs f).regions = f.regions := rfl

theorem afterReset_regions (f : Flash) : f.afterReset.regions = f.regions := by
  unfold Flash.afterReset
  dsimp only
  exact List.foldlRecOn (motive := fun g : Flash => g.regions = f.regions) _ _ rfl fun g hg k _ =>
    (wearBlocks_regions _ g).trans hg

/-- Every number that memory lists after a device reset is one of flash or of a guest die. -/
theorem keptMem_key {e : Nat × Byte} (he : e ∈ keptMem s) : 4 ≤ e.1 / 2 ^ 60 := by
  revert e
  unfold keptMem
  extract_lets inOv stay ov
  refine List.foldlRecOn (motive := fun m : Map Byte => ∀ {e : Nat × Byte}, e ∈ m → 4 ≤ e.1 / 2 ^ 60) ov _ ?_ ?_
  · intro e he
    have := (List.mem_filter.mp he).2
    simp only [stay, Bool.or_eq_true, Bool.and_eq_true, decide_eq_true_eq] at this
    omega
  · intro m hm x hx e he
    rcases Map.mem_insert he with rfl | he
    · have := (List.mem_filter.mp hx).2
      simp only [Bool.and_eq_true, decide_eq_true_eq] at this
      show 4 ≤ (x.1 - 2 ^ 60) / 2 ^ 60
      omega
    · exact hm he

theorem Map.mem_of_find? {α : Type} {m : Map α} {k : Nat} {a : α} (h : Map.find? m k = some a) : (k, a) ∈ m := by
  induction m with
  | nil => cases h
  | cons e m ih =>
    obtain ⟨j, b⟩ := e
    rw [Map.find?] at h
    split at h
    · next hk => cases h; rw [hk]; exact List.mem_cons_self
    · exact List.mem_cons_of_mem _ (ih h)

theorem deviceReset_cell {cause k : Nat} (hk : k / 2 ^ 60 < 4) : (deviceReset cause s).cell k = 0 := by
  show Map.getD (keptMem s) k 0 = 0
  rw [Map.getD]
  cases hf : Map.find? (keptMem s) k with
  | none => rfl
  | some b => exact absurd (keptMem_key (Map.mem_of_find? hf)) (by omega)

theorem pstate_cases (x : PState) : x = .closed ∨ x = .opened ∨ x = .detached := by
  cases x <;> simp

theorem updHost_congr {f g : HostPart → HostPart} (hf : f (s.part p).host = g (s.part p).host) :
    s.updHost p f = s.updHost p g := by
  simp only [State.updHost, State.upd, State.part, Quad.modify] at hf ⊢
  rw [hf]

/-! ### What partition reset keeps (R612) -/

/-- Of a partition, what its reset keeps. -/
def PartState.share (x : PartState) : PState × B32 × B64 × B32 × Byte × Byte × Byte :=
  (x.host.pstate, x.host.seqNext, x.host.ringBase, x.tier.quotaHbm, x.tier.stakeBase, x.stc.base, x.stc.count)

/-- No stream runs and nothing is in flight. -/
def Bench.Idle (b : Bench) : Prop := (∀ st, (b.streams.get st).state = .idle) ∧ b.flight = []

theorem Told.share {a : HostPart} {x : PartState} (h : Told x.host a) : PartState.share { x with host := a } = x.share := by
  obtain ⟨_, _, _, _, _, rfl⟩ := h
  rfl

theorem note_share (q : Part) (kind st : B16) (d : BitVec 224) (s : State) :
    ((note q kind st d s).part p).share = (s.part p).share := by
  by_cases e : p = q
  · subst e
    rw [(note_only p kind st d s).part]
    exact (note_told p kind st d s).share
  · rw [(note_only q kind st d s).part_of_ne e]

theorem updStc_share {f : StcRegs → StcRegs} (hf : ∀ r, (f r).base = r.base ∧ (f r).count = r.count) :
    ((s.updStc q f).part p).share = (s.part p).share := by
  by_cases e : p = q
  · subst e
    rw [State.updStc_part, PartState.share, (hf _).1, (hf _).2]
    rfl
  · rw [State.updStc_part_of_ne _ _ e]

theorem updStc_bench {f : StcRegs → StcRegs} : ((s.updStc q f).part p).bench = (s.part p).bench := by
  by_cases e : p = q
  · subst e; rw [State.updStc_part]
  · rw [State.updStc_part_of_ne _ _ e]

theorem updStc_tier {f : StcRegs → StcRegs} : ((s.updStc q f).part p).tier = (s.part p).tier := by
  by_cases e : p = q
  · subst e; rw [State.updStc_part]
  · rw [State.updStc_part_of_ne _ _ e]

/-! ### No request of the partition is left (R455) -/

/-- Every registered request satisfies `P`. -/
def AllReqs (P : StReq → Prop) (s : State) : Prop := ∀ e ∈ s.stitches, ∀ r ∈ e.2.reqs, P r

theorem AllReqs.stitch {P : StReq → Prop} (h : AllReqs P s) (g : Nat) : ∀ r ∈ (s.stitch g).reqs, P r := by
  intro r hr
  rw [State.stitch, Map.getD] at hr
  cases hf : Map.find? s.stitches g with
  | none => rw [hf] at hr; cases hr
  | some x => rw [hf] at hr; exact h _ (Map.mem_of_find? hf) r hr

theorem AllReqs.putStitch {P : StReq → Prop} {g : Nat} {x : Stitch} (h : AllReqs P s) (hx : ∀ r ∈ x.reqs, P r) :
    AllReqs P (putStitch g x s) := by
  intro e he
  have he : e ∈ Map.setD {} s.stitches g x := he
  unfold Map.setD at he
  split at he
  · exact h e (Map.mem_erase he)
  · rcases Map.mem_insert he with rfl | he
    · exact hx
    · exact h e he

theorem AllReqs.of_stitches {P : StReq → Prop} (h : AllReqs P s) (e : t.stitches = s.stitches) : AllReqs P t := by
  rwa [AllReqs, e]

theorem unregister_reqs {P : StReq → Prop} {st : Strm} (h : AllReqs P s) :
    AllReqs (fun r => P r ∧ ¬(r.p = p ∧ r.st = st)) (unregister p st s) := by
  intro e he r hr
  obtain ⟨x, hx, rfl⟩ := List.mem_map.mp (List.mem_filter.mp he).1
  obtain ⟨hr, hn⟩ := List.mem_filter.mp hr
  exact ⟨h x hx r hr, fun ⟨a, b⟩ => by simp [a, b] at hn⟩

theorem strm_cases : ∀ st : Strm, st = 0 ∨ st = 1 ∨ st = 2 ∨ st = 3 := by decide

/-- With every stream's head unregistered, no request of the partition is left. -/
theorem unregisterAll_reqs (p : Part) (s : State) :
    AllReqs (fun r => r.p ≠ p) (four.foldl (fun s st => unregister p st s) s) := by
  have h0 : AllReqs (fun _ => True) s := fun _ _ _ _ => trivial
  have h4 := unregister_reqs (p := p) (st := 3) (unregister_reqs (p := p) (st := 2) (unregister_reqs (p := p) (st := 1)
    (unregister_reqs (p := p) (st := 0) h0)))
  intro e he r hr hp
  obtain ⟨⟨⟨⟨-, n0⟩, n1⟩, n2⟩, n3⟩ := h4 e he r hr
  rcases strm_cases r.st with hs | hs | hs | hs
  · exact n0 ⟨hp, hs⟩
  · exact n1 ⟨hp, hs⟩
  · exact n2 ⟨hp, hs⟩
  · exact n3 ⟨hp, hs⟩

theorem unregister_bench_only {st : Strm} : ∃ f, ∀ p, (unregister q st s).part p = (s.updBench q f).part p :=
  ⟨fun b => { b with streams := b.streams.modify st fun x => { x with registered := false, granted := false } },
    fun _ => rfl⟩

theorem unregister_part_of_ne {st : Strm} (h : p ≠ q) : (unregister q st s).part p = s.part p := by
  obtain ⟨f, e⟩ := unregister_bench_only (q := q) (s := s) (st := st)
  rw [e, State.updBench_part_of_ne _ _ h]

theorem unregister_share {st : Strm} : ((unregister q st s).part p).share = (s.part p).share := by
  obtain ⟨f, e⟩ := unregister_bench_only (q := q) (s := s) (st := st)
  rw [e]
  by_cases hp : p = q
  · subst hp; rw [State.updBench_part]; rfl
  · rw [State.updBench_part_of_ne _ _ hp]

theorem unregister_tier {st : Strm} : ((unregister q st s).part p).tier = (s.part p).tier := by
  obtain ⟨f, e⟩ := unregister_bench_only (q := q) (s := s) (st := st)
  rw [e]
  by_cases hp : p = q
  · subst hp; rw [State.updBench_part]
  · rw [State.updBench_part_of_ne _ _ hp]

theorem unregister_idle {st : Strm} (h : (s.part p).bench.Idle) : ((unregister p st s).part p).bench.Idle := by
  obtain ⟨hs, hf⟩ := h
  unfold unregister
  dsimp only
  rw [State.updStream, State.updBench_part]
  refine ⟨fun x => ?_, hf⟩
  show Stream.state (Quad.get (Quad.modify (s.part p).bench.streams st _) x) = _
  by_cases hx : x = st
  · subst hx; rw [Quad.get_modify_self]; exact hs x
  · rw [Quad.get_modify_of_ne _ _ hx]; exact hs x

/-! ### Stitches that break stop streams of other partitions alone (R452, R453) -/

/-- What breaking stitches leaves of partition `p`, of which no request is registered. -/
structure Spared (p : Part) (s t : State) : Prop where
  share : (t.part p).share = (s.part p).share
  bench : (t.part p).bench = (s.part p).bench
  tier : (t.part p).tier = (s.part p).tier
  reqs : AllReqs (fun r => r.p ≠ p) t

theorem Spared.refl (h : AllReqs (fun r => r.p ≠ p) s) : Spared p s s := ⟨rfl, rfl, rfl, h⟩

theorem Spared.trans (h : Spared p s t) (k : Spared p t u) : Spared p s u :=
  ⟨k.share.trans h.share, k.bench.trans h.bench, k.tier.trans h.tier, k.reqs⟩

theorem Spared.of_part (hp : t.part p = s.part p) (hr : AllReqs (fun r => r.p ≠ p) t) : Spared p s t :=
  ⟨by rw [hp], by rw [hp], by rw [hp], hr⟩

theorem updStc_spared {f : StcRegs → StcRegs} (hf : ∀ r, (f r).base = r.base ∧ (f r).count = r.count)
    (h : AllReqs (fun r => r.p ≠ p) s) : Spared p s (s.updStc q f) :=
  ⟨updStc_share hf, updStc_bench, updStc_tier, h⟩

theorem note_spared (q : Part) (kind st : B16) (d : BitVec 224) (h : AllReqs (fun r => r.p ≠ p) s) :
    Spared p s (note q kind st d s) :=
  ⟨note_share .., (note_only ..).bench p, (note_only ..).partTier p, h.of_stitches (note_only ..).stitches⟩

theorem breakStitch_spared {g : Nat} (h : AllReqs (fun r => r.p ≠ p) s) :
    Spared p s (breakStitch g s).1 ∧ ∀ f ∈ (breakStitch g s).2, f.p ≠ p := by
  have hx := h.stitch g
  unfold breakStitch
  extract_lets x e s₁ s₂ s₃
  have k₁ : Spared p s s₁ := .of_part rfl (h.putStitch (by simp))
  have k₂ : Spared p s s₂ := by
    unfold s₂
    split
    · exact k₁
    · refine Spared.trans (k₁.trans (updStc_spared ?_ k₁.reqs)) (note_spared _ _ _ _ k₁.reqs)
      exact fun _ => ⟨rfl, rfl⟩
  refine ⟨?_, fun f hf => ?_⟩
  · refine List.foldlRecOn (motive := Spared p s) _ _ k₂ fun t k r hr => k.trans (.of_part ?_ k.reqs)
    have hn : p ≠ r.p := (hx r hr).symm
    rw [State.updStream_part_of_ne _ _ hn, State.updStc_part_of_ne _ _ hn]
  · obtain ⟨r, hr, rfl⟩ := List.mem_map.mp hf
    exact hx r hr

theorem breakEach_spared {gs : List Nat} (h : AllReqs (fun r => r.p ≠ p) s) :
    Spared p s (breakEach gs s).1 ∧ ∀ f ∈ (breakEach gs s).2, f.p ≠ p := by
  induction gs generalizing s with
  | nil => exact ⟨.refl h, fun f hf => by cases hf⟩
  | cons g gs ih =>
    obtain ⟨k, hf⟩ := breakStitch_spared (g := g) h
    obtain ⟨k', hf'⟩ := ih k.reqs
    refine ⟨k.trans k', fun f hm => ?_⟩
    rcases List.mem_append.mp hm with hm | hm
    · exact hf f hm
    · exact hf' f hm

theorem stopStream_spared {f : FaultAt} (hf : f.p ≠ p) (h : AllReqs (fun r => r.p ≠ p) s) : Spared p s (stopStream f s) := by
  have hn : p ≠ f.p := hf.symm
  have hu : AllReqs (fun r => r.p ≠ p) (unregister f.p f.st (s.updStream f.p f.st fun x => { x with
      state := .stopped, fault := BitVec.ofNat 8 f.code, faultPc := f.addr, unissued := x.unissued || f.unissued })) :=
    fun e he r hr => (unregister_reqs (p := f.p) (st := f.st) h e he r hr).1
  have k : Spared p s (unregister f.p f.st (s.updStream f.p f.st fun x => { x with
      state := .stopped, fault := BitVec.ofNat 8 f.code, faultPc := f.addr, unissued := x.unissued || f.unissued })) :=
    .of_part ((unregister_part_of_ne hn).trans (State.updStream_part_of_ne _ _ hn _ _)) hu
  have ki : HostOnly f.p _ (stopStream f s) := (note_only f.p 0x0010 (faultStatus f.code) _ _).trans (raiseIrq_only f.p 1 _)
  exact k.trans (.of_part (ki.part_of_ne hn) (k.reqs.of_stitches ki.stitches))

theorem runFaults_spared {n : Nat} {l : List FaultAt} (hl : ∀ f ∈ l, f.p ≠ p) (h : AllReqs (fun r => r.p ≠ p) s) :
    Spared p s (runFaults n l s) := by
  induction n generalizing l s with
  | zero => exact .refl h
  | succ n ih =>
    cases l with
    | nil => exact .refl h
    | cons f l =>
      have k := stopStream_spared (hl f List.mem_cons_self) h
      obtain ⟨k', hm⟩ := breakEach_spared (gs := heldStitches (stopStream f s) (benchMaster f.p) (some f.st)) k.reqs
      refine (k.trans k').trans (ih (fun g hg => ?_) k'.reqs)
      rcases List.mem_append.mp hg with hg | hg
      · exact hl g (List.mem_cons_of_mem _ hg)
      · exact hm g hg

theorem breakStitches_spared {gs : List Nat} (h : AllReqs (fun r => r.p ≠ p) s) : Spared p s (breakStitches gs s) := by
  obtain ⟨k, hf⟩ := breakEach_spared (gs := gs) h
  exact k.trans (runFaults_spared hf k.reqs)

/-! ### The stages of partition reset -/

/-- What a stage of partition reset leaves of the partition's share, its objects and its idle bench. -/
structure Cleared (p : Part) (s t : State) : Prop where
  share : (t.part p).share = (s.part p).share
  idle : (s.part p).bench.Idle → (t.part p).bench.Idle
  objects : (s.part p).tier.objects = [] → (t.part p).tier.objects = []

theorem Cleared.refl (p : Part) (s : State) : Cleared p s s := ⟨rfl, id, id⟩

theorem Cleared.trans (h : Cleared p s t) (k : Cleared p t u) : Cleared p s u :=
  ⟨k.share.trans h.share, k.idle ∘ h.idle, k.objects ∘ h.objects⟩

theorem Cleared.of_part (hp : t.part p = s.part p) : Cleared p s t :=
  ⟨by rw [hp], fun h => by rwa [hp], fun h => by rwa [hp]⟩

theorem Cleared.foldl {α : Type} {f : State → α → State} (h : ∀ s a, Cleared p s (f s a)) (l : List α) :
    Cleared p s (l.foldl f s) :=
  List.foldlRecOn (motive := Cleared p s) l f (.refl p s) fun t k a _ => k.trans (h t a)

theorem Spared.cleared (h : Spared p s t) : Cleared p s t :=
  ⟨h.share, fun k => by rwa [h.bench], fun k => by rwa [h.tier]⟩

theorem releaseWork_part {w : LongWork} : (releaseWork w s).part p = s.part p := by
  unfold releaseWork
  split
  · exact List.foldlRecOn (motive := fun t : State => t.part p = s.part p) _ _ rfl fun t k _ _ => k
  · exact List.foldlRecOn (motive := fun t : State => t.part p = s.part p) _ _ rfl fun t k _ _ => k
  · rfl

theorem dropRefs_part {i n : Nat} : (dropRefs i n s).part p = s.part p := rfl

theorem updTier_cleared {f : TierRegs → TierRegs} (hq : ∀ r, (f r).quotaHbm = r.quotaHbm ∧ (f r).stakeBase = r.stakeBase)
    (ho : ∀ r, r.objects = [] → (f r).objects = []) : Cleared p s (s.updTier p f) := by
  refine ⟨?_, fun h => ?_, fun h => ?_⟩
  · rw [State.updTier_part, PartState.share, (hq _).1, (hq _).2]
    rfl
  · rwa [State.updTier_part]
  · rw [State.updTier_part]
    exact ho _ h

theorem removeObject_cleared {o : Nat} : Cleared p s (removeObject p o s) := by
  unfold removeObject
  split
  · exact .refl p s
  · next x _ =>
    have k : Cleared p s (x.slotRefs.foldl (fun s e => dropRefs e.2 1 s) s) := .foldl (fun _ _ => .of_part dropRefs_part) _
    refine (k.trans (updTier_cleared (f := fun t => { t with objects := Map.erase t.objects o }) (fun _ => ⟨rfl, rfl⟩)
      fun r hr => ?_)).trans (.of_part rfl)
    show Map.erase r.objects o = []
    rw [hr]
    rfl

/-- The partition without its objects, moves and waiting writes. -/
def unplaced (p : Part) (s : State) : State :=
  let s := (Map.keys (s.part p).tier.objects).foldl (fun s h => removeObject p h s) s
  { s with flash := { s.flash with
    moves := s.flash.moves.filter fun v => v.p ≠ p, heldWrites := s.flash.heldWrites.filter fun e => e.1 ≠ p
    stalled := s.flash.stalled.filter fun q => q ≠ p } }

theorem unplaced_cleared : Cleared p s (unplaced p s) :=
  (Cleared.foldl (fun _ _ => removeObject_cleared) _).trans (.of_part rfl)

theorem resetTier_eq : resetTier p s = (unplaced p s).updTier p fun t =>
    { quotaHbm := t.quotaHbm, quotaBulk := t.quotaBulk, stakeBase := t.stakeBase, stakeLimit := t.stakeLimit
      nextHandle := t.nextHandle } := rfl

theorem resetTier_cleared : Cleared p s (resetTier p s) := by
  rw [resetTier_eq]
  refine unplaced_cleared.trans (updTier_cleared ?_ ?_)
  · exact fun _ => ⟨rfl, rfl⟩
  · exact fun _ _ => rfl

theorem resetTier_objects : ((resetTier p s).part p).tier.objects = [] := by
  rw [resetTier_eq, State.updTier_part]

/-- Operations in flight are abandoned: the partition's streams are IDLE. -/
theorem resetEngines_idle (p : Part) (s : State) :
    ((resetEngines p s).part p).share = (s.part p).share ∧ ((resetEngines p s).part p).bench.Idle := by
  have k : Cleared p s (((s.part p).bench.latches.flatMap fun l => l.slots).foldl (fun s i => dropRefs i 1 s) s) :=
    .foldl (fun _ _ => .of_part dropRefs_part) _
  have e : (resetEngines p s).part p = ((((s.part p).bench.latches.flatMap fun l => l.slots).foldl
      (fun s i => dropRefs i 1 s) s).updBench p fun b => { prog := b.prog, seeds := b.seeds }).part p := rfl
  rw [e, State.updBench_part]
  exact ⟨k.share, fun st => congrArg Stream.state (Quad.get_all st _), rfl⟩

theorem reopenRange_part {lo hi : Nat} {f : Nat → Bool} : (reopenRange lo hi f s).part p = s.part p := rfl

theorem updStc_cleared {f : StcRegs → StcRegs} (hf : ∀ r, (f r).base = r.base ∧ (f r).count = r.count) :
    Cleared p s (s.updStc q f) :=
  ⟨updStc_share hf, fun h => by rwa [updStc_bench], fun h => by rwa [updStc_tier]⟩

theorem unregisterAll_cleared (p : Part) (s : State) : Cleared p s (four.foldl (fun s st => unregister p st s) s) :=
  .foldl (fun _ _ => ⟨unregister_share, unregister_idle, fun h => by rwa [unregister_tier]⟩) _

theorem resetStitches_cleared : Cleared p s (resetStitches p s) := by
  unfold resetStitches
  extract_lets s₁ r held own gone s₂ s₃ s₄
  have k₁ : Cleared p s s₁ := unregisterAll_cleared p s
  have k₂ : Cleared p s s₂ := k₁.trans (breakStitches_spared (unregisterAll_reqs p s)).cleared
  have k₃ : Cleared p s s₃ := k₂.trans (.of_part reopenRange_part)
  have k₄ : Cleared p s s₄ := by
    refine k₃.trans (.foldl (fun u q => updStc_cleared ?_) _)
    exact fun _ => ⟨rfl, rfl⟩
  refine k₄.trans (updStc_cleared ?_)
  exact fun _ => ⟨rfl, rfl⟩

theorem freeClaims_part : (freeClaims p s).part q = s.part q := by
  have e : (freeClaims p s).parts = s.parts := rfl
  rw [State.part, e]
  rfl

/-- Long commands in progress release what they hold. -/
def worksReleased (p : Part) (s : State) : State := (s.part p).host.longs.foldl (fun s e => releaseWork e.2.work s) s

theorem worksReleased_cleared : Cleared p s (worksReleased p s) := .foldl (fun _ _ => .of_part releaseWork_part) _

/-- The partition with its operations, objects, stitches and claims gone. -/
def vacated (p : Part) (s : State) : State := freeClaims p (resetStitches p (resetTier p (resetEngines p (worksReleased p s))))

theorem freeClaims_cleared : Cleared p s (freeClaims p s) := .of_part freeClaims_part

theorem vacated_share (p : Part) (s : State) : ((vacated p s).part p).share = (s.part p).share :=
  calc ((vacated p s).part p).share
    _ = ((resetStitches p (resetTier p (resetEngines p (worksReleased p s)))).part p).share := freeClaims_cleared.share
    _ = ((resetTier p (resetEngines p (worksReleased p s))).part p).share := resetStitches_cleared.share
    _ = ((resetEngines p (worksReleased p s)).part p).share := resetTier_cleared.share
    _ = ((worksReleased p s).part p).share := (resetEngines_idle p _).1
    _ = (s.part p).share := worksReleased_cleared.share

theorem vacated_idle (p : Part) (s : State) : ((vacated p s).part p).bench.Idle :=
  freeClaims_cleared.idle (resetStitches_cleared.idle (resetTier_cleared.idle (resetEngines_idle p (worksReleased p s)).2))

theorem vacated_objects (p : Part) (s : State) : ((vacated p s).part p).tier.objects = [] :=
  freeClaims_cleared.objects (resetStitches_cleared.objects resetTier_objects)

/-- The partition's registers as its reset leaves them. -/
def renewed (p : Part) (s : State) : State :=
  s.upd p fun x => { x with
    host := { x.host with accepted := [], longs := [] }
    cad := { loadsAt := s.cad.loads, lossesAt := s.cad.losses, settingsAt := s.cad.settings }, veto := {}, pln := {}, acl := {}
    res := { armEn := x.res.armEn, autoRollback := x.res.autoRollback, assayWait := x.res.assayWait
             rbSet := x.res.rbSet, rbList := x.res.rbList }
    packed := 0, packedRaw := 0, decodeErr := 0, tableRefused := 0, saved := 0 }

/-- The guest windows open again, but for a partition that is CLOSED or about to be. -/
def rewindowed (p : Part) (cause : Nat) (s : State) : State :=
  if (s.part p).host.pstate = .closed || cause = 3 then s else openWindows p s

/-- Partition reset, up to its RESET entry. -/
def resetBody (p : Part) (cause : Nat) (s : State) : State := rewindowed p cause (renewed p (vacated p (resetFolio p s)))

theorem partitionReset_eq (p : Part) (cause : Nat) (s : State) : partitionReset p cause s =
    (abandoned (s.part p).host, note p 0x0070 stOk
      (place 224 216 cause ||| place 224 200 (abandoned (s.part p).host % 2 ^ 16)) (resetBody p cause s)) := by
  unfold partitionReset
  extract_lets n s₁ s₂ s₃ s₄ s₅ s₆
  have e : s₆ = rewindowed p cause (renewed p s₄) := rfl
  rw [e]
  rfl

theorem TierOnly.refl (p : Part) (s : State) : TierOnly p s s := ⟨id, (State.upd_self s p _ rfl).symm⟩

theorem rewindowed_only (p : Part) (cause : Nat) (s : State) : TierOnly p s (rewindowed p cause s) := by
  unfold rewindowed
  split
  · exact .refl p s
  · exact openWindows_only p s

theorem openWindow_share (p : Part) (s : State) (g : Fin 2) : ((openWindow p s g).part p).share = (s.part p).share := by
  unfold openWindow
  split
  · rfl
  · split
    · rfl
    · rw [State.updTier_part]
      rfl

theorem rewindowed_share (p : Part) (cause : Nat) (s : State) : ((rewindowed p cause s).part p).share = (s.part p).share := by
  unfold rewindowed
  split
  · rfl
  · exact (openWindow_share p (openWindow p s 0) 1).trans (openWindow_share p s 0)

theorem TierOnly.part (k : TierOnly p s t) : t.part p = { s.part p with tier := (t.part p).tier } := by
  obtain ⟨f, rfl⟩ := k
  rw [State.updTier_part]

theorem renewed_part (p : Part) (s : State) : (renewed p s).part p = { s.part p with
    host := { (s.part p).host with accepted := [], longs := [] }
    cad := { loadsAt := s.cad.loads, lossesAt := s.cad.losses, settingsAt := s.cad.settings }, veto := {}, pln := {}, acl := {}
    res := { armEn := (s.part p).res.armEn, autoRollback := (s.part p).res.autoRollback
             assayWait := (s.part p).res.assayWait, rbSet := (s.part p).res.rbSet, rbList := (s.part p).res.rbList }
    packed := 0, packedRaw := 0, decodeErr := 0, tableRefused := 0, saved := 0 } := State.upd_part ..

theorem resetBody_cad (p : Part) (cause : Nat) (s : State) : ∃ a b c, ((resetBody p cause s).part p).cad =
    { loadsAt := a, lossesAt := b, settingsAt := c } := by
  rw [resetBody, (rewindowed_only ..).part, renewed_part]
  exact ⟨_, _, _, rfl⟩

theorem resetBody_waits (p : Part) (cause : Nat) (s : State) :
    ((resetBody p cause s).part p).host.accepted = [] ∧ ((resetBody p cause s).part p).host.longs = [] := by
  rw [resetBody, (rewindowed_only ..).part, renewed_part]
  exact ⟨rfl, rfl⟩

theorem resetFolio_of_outside (h : s.folioPart ≠ some p) : resetFolio p s = s := if_pos h

theorem resetBody_share (cause : Nat) (h : s.folioPart ≠ some p) :
    ((resetBody p cause s).part p).share = (s.part p).share := by
  rw [resetBody, rewindowed_share, resetFolio_of_outside h, renewed_part, ← vacated_share p s]
  rfl

theorem resetBody_idle (p : Part) (cause : Nat) (s : State) : ((resetBody p cause s).part p).bench.Idle := by
  rw [resetBody, (rewindowed_only ..).part, renewed_part]
  exact vacated_idle p _

theorem resetBody_objects (p : Part) (s : State) : ((resetBody p 3 s).part p).tier.objects = [] := by
  rw [resetBody, rewindowed, if_pos (by simp), renewed_part]
  exact vacated_objects p _

/-- The cause stands in the RESET entry's highest byte. -/
theorem field_resetDetail (cause n : Nat) :
    field (place 224 216 cause ||| place 224 200 (n % 2 ^ 16)).toNat 223 216 = cause % 256 := by
  have hn : n % 2 ^ 16 * 2 ^ 200 < 2 ^ 216 := by
    have := Nat.mod_lt n (show 2 ^ 16 > 0 by decide)
    omega
  have hc : cause * 2 ^ 216 % 2 ^ 224 = cause % 256 * 2 ^ 216 := by omega
  rw [field, BitVec.toNat_or, place, place, BitVec.toNat_ofNat, BitVec.toNat_ofNat, hc,
    Nat.mod_eq_of_lt (a := n % 2 ^ 16 * 2 ^ 200) (by omega), ← Nat.shiftRight_eq_div_pow, Nat.shiftRight_or_distrib,
    Nat.shiftRight_eq_div_pow, Nat.shiftRight_eq_div_pow, Nat.div_eq_of_lt hn, Nat.or_zero,
    Nat.mul_div_cancel _ (Nat.two_pow_pos 216)]
  omega

end Sys2Proof.Machine

namespace Sys2Proof

open Machine

/-- Settles O2. -/
theorem resetValues : Obligations.ResetValues := by
  refine ⟨rfl, rfl, rfl, rfl, rfl, rfl, rfl, rfl, rfl, fun p => ?_⟩
  obtain ⟨x, c, e, ho⟩ := reset_part p
  rw [e]
  refine ⟨rfl, rfl, ho, rfl, rfl, Quad.get_all .., fun st => ?_⟩
  rw [State.stream, e]
  exact congrArg Stream.state (Quad.get_all st _)

/-- Settles O7. -/
theorem partitionCommandsRun : Obligations.PartitionCommandsRun := by
  refine ⟨?_, fun h s hm => answers_of_act hm rfl rfl, fun h s hm => answers_of_act hm rfl ?_, ?_, fun p s => rfl,
    fun s => rfl, ?_, ?_⟩
  · intro h ring n s hc hst hchk hr h6 h16 hh
    have hgood : cmdChecks { opcode := 0x0101, minimal := decide (h.fn = 0) } h (openBad ring n 0) s = none := by
      rw [openBad_of_good (by decide) hr h6 h16]
      exact hchk
    obtain ⟨hps, hrb, hrl, hsq, -⟩ := finishOpen_host h ring n.toNat (res 0 (h.seq + 1).toNat) s
    have e : runOpen h ring n 0 s = finishShort h 0x0101 stOk (res 0 (h.seq + 1).toNat) (openState h ring n.toNat s) :=
      runOpen_of_good hgood
    refine ⟨_, (execPartOpen_of_closed hc hst).trans (congrArg next e), hps, hrb, ?_, hsq,
      (finishShort_only ..).mem.trans (openState_mem ..)⟩
    rw [hrl]
    simp
    omega
  · have e : abandoned ((begun h s).part h.fn).host = abandoned (s.part h.fn).host := by
      rw [begun, State.updHost_part]
      rfl
    simp only [partitionReset_eq, e]
    rfl
  · intro h s ⟨ho, hcan, hchk⟩
    exact congrArg next (hostCmd_run ho hcan hchk)
  · intro p v s hh
    have e : takeReplies p v s = s.updHost p fun x => { x with replyHead := v } := by
      rw [takeReplies]
      rw [State.updHost_part, hh, flushHeld, State.updHost, State.updHost, State.upd_upd]
      exact updHost_congr (f := fun x => { x with replyHead := v, held := [] })
        (g := fun x => { x with replyHead := v }) (by simp [hh])
    exact congrArg next e
  · intro p i u s ht
    show next (heartbeat p s) = _
    rw [heartbeat, ht]

/-- Settles O8. -/
theorem deviceResetClears : Obligations.DeviceResetClears := by
  intro cause s p t
  obtain ⟨x, c, e, ho⟩ := reset_part p
  have ht : t.part p = resetPart cause (abandoned (s.part p).host) { PartState.reset with tier := x, stc := c } :=
    (deviceReset_part cause s p).trans (congrArg _ e)
  rw [ht]
  exact ⟨pstate_cases _, rfl, rfl, rfl, rfl, ho, rfl, rfl, rfl, afterReset_regions _, rfl, fun k hk => deviceReset_cell hk⟩

/-- Settles O9. -/
theorem partitionResetClears : Obligations.PartitionResetClears := by
  intro p cause s t
  have e : t = note p 0x0070 stOk (place 224 216 cause ||| place 224 200 (abandoned (s.part p).host % 2 ^ 16))
    (resetBody p cause s) := congrArg Prod.snd (partitionReset_eq p cause s)
  have k : HostOnly p (resetBody p cause s) t := e ▸ note_only ..
  have kt : Told ((resetBody p cause s).part p).host (t.part p).host := e ▸ note_told ..
  obtain ⟨_, _, _, hcad⟩ := resetBody_cad p cause s
  have hc : (t.part p).cad = _ := k.partCad.trans hcad
  obtain ⟨hacc, hlong⟩ := resetBody_waits p cause s
  refine ⟨by rw [hc], by rw [hc], by rw [hc], ?_, ?_, ?_, fun hf => ?_⟩
  · obtain ⟨_, _, _, _, _, ek⟩ := kt
    rw [ek]; exact hacc
  · obtain ⟨_, _, _, _, _, ek⟩ := kt
    rw [ek]; exact hlong
  · rw [e, note, journal_host]
    exact ⟨_, Map.find?_insert_self .., rfl, field_resetDetail ..⟩
  · have hs : (t.part p).share = (s.part p).share := by
      rw [e, note_share]
      exact resetBody_share cause hf
    obtain ⟨hid, hfl⟩ := resetBody_idle p cause s
    simp only [PartState.share, Prod.mk.injEq] at hs
    obtain ⟨h1, h2, h3, h4, h5, h6, h7⟩ := hs
    refine ⟨fun st => ?_, ?_, h1, h2, h3, h4, h5, h6, h7, fun h3 => ?_⟩
    · rw [State.stream, k.bench p]; exact hid st
    · rw [k.bench p]; exact hfl
    · subst h3
      rw [k.partTier p]
      exact resetBody_objects p s

end Sys2Proof
end

section
/-!
The host interface from outside: packets (R624 to R628), the end of a long command (R630), BAR0 (R599 to R601, R665), BAR2 (R602
to R604), configuration requests, links and the power-down key (R594, R595, R608, R661, R663).

`Announces` says once what journal entries, interrupts and breaking stitches leave of the module as a whole.
-/
namespace Sys2Proof.Machine

variable {h : CmdHdr} {p q fn : Part} {s t u : State}

/-! ### What entries, interrupts and breaking stitches leave (R452, R453, R637, R655) -/

/-- `t` is `s` but for interrupts, journal and replies, streams, stitches and their registers. -/
structure Announces (s t : State) : Prop where
  form : ∃ ps b st n, t = { s with parts := ps, host := { s.host with bus := b }, stitches := st, freeCtr := n }
  told : ∀ q, Told (s.part q).host (t.part q).host
  tier : ∀ q, (t.part q).tier = (s.part q).tier

theorem Announces.refl (s : State) : Announces s s := ⟨⟨_, _, _, _, rfl⟩, fun _ => .refl _, fun _ => rfl⟩

theorem Announces.trans (h : Announces s t) (k : Announces t u) : Announces s u := by
  refine ⟨?_, fun q => (h.told q).trans (k.told q), fun q => (k.tier q).trans (h.tier q)⟩
  obtain ⟨_, _, _, _, rfl⟩ := h.form
  obtain ⟨_, _, _, _, rfl⟩ := k.form
  exact ⟨_, _, _, _, rfl⟩

theorem Announces.foldl {α : Type} {f : State → α → State} (h : ∀ s a, Announces s (f s a)) (l : List α) :
    Announces s (l.foldl f s) :=
  List.foldlRecOn (motive := Announces s) l f (.refl s) fun t k a _ => k.trans (h t a)

theorem Announces.mem (h : Announces s t) : t.mem = s.mem := by obtain ⟨_, _, _, _, rfl⟩ := h.form; rfl
theorem Announces.flash (h : Announces s t) : t.flash = s.flash := by obtain ⟨_, _, _, _, rfl⟩ := h.form; rfl
theorem Announces.images (h : Announces s t) : t.images = s.images := by obtain ⟨_, _, _, _, rfl⟩ := h.form; rfl
theorem Announces.array (h : Announces s t) : t.array = s.array := by obtain ⟨_, _, _, _, rfl⟩ := h.form; rfl
theorem Announces.pkg (h : Announces s t) : t.pkg = s.pkg := by obtain ⟨_, _, _, _, rfl⟩ := h.form; rfl
theorem Announces.power (h : Announces s t) : t.power = s.power := by obtain ⟨_, _, _, _, rfl⟩ := h.form; rfl
theorem Announces.crash (h : Announces s t) : t.host.crash = s.host.crash := by obtain ⟨_, _, _, _, rfl⟩ := h.form; rfl
theorem Announces.links (h : Announces s t) : t.host.links = s.host.links := by obtain ⟨_, _, _, _, rfl⟩ := h.form; rfl
theorem Announces.split (h : Announces s t) : t.host.split = s.host.split := by obtain ⟨_, _, _, _, rfl⟩ := h.form; rfl
theorem Announces.alertN (h : Announces s t) : t.host.alertN = s.host.alertN := by
  obtain ⟨_, _, _, _, rfl⟩ := h.form; rfl

/-- A change of one partition that keeps its tier registers and of its host interface what `Told` says. -/
theorem Announces.of_upd {f : PartState → PartState} (hh : ∀ x, Told x.host (f x).host) (ht : ∀ x, (f x).tier = x.tier) :
    Announces s (s.upd p f) := by
  refine ⟨⟨_, s.host.bus, _, _, rfl⟩, fun q => ?_, fun q => ?_⟩
  · by_cases e : q = p
    · subst e; rw [State.upd_part]; exact hh _
    · rw [State.upd_part_of_ne _ _ e]; exact .refl _
  · by_cases e : q = p
    · subst e; rw [State.upd_part]; exact ht _
    · rw [State.upd_part_of_ne _ _ e]

theorem Announces.of_out {e : BusEvent} : Announces s (s.out e) := ⟨⟨_, _, _, _, rfl⟩, fun _ => .refl _, fun _ => rfl⟩

theorem Announces.of_tick : Announces s s.tick := ⟨⟨_, s.host.bus, _, _, rfl⟩, fun _ => .refl _, fun _ => rfl⟩

theorem Announces.of_putStitch {g : Nat} {x : Stitch} : Announces s (putStitch g x s) :=
  ⟨⟨_, s.host.bus, _, _, rfl⟩, fun _ => .refl _, fun _ => rfl⟩

theorem raiseIrq_announces (p : Part) (v : Fin 4) (s : State) : Announces s (raiseIrq p v s) := by
  unfold raiseIrq
  extract_lets t
  have k : Announces s t := .of_upd (fun _ => ⟨_, _, _, _, _, rfl⟩) fun _ => rfl
  split
  · exact k.trans .of_out
  · exact k

theorem journal_announces (p : Part) (kind status opcode tag : B16) (seq : B32) (detail : BitVec 224) (s : State) :
    Announces s (journal p kind status opcode tag seq detail s) := by
  unfold journal
  extract_lets h j e t
  have k : Announces s t := by
    unfold t
    refine Announces.trans ?_ .of_tick
    refine .of_upd ?_ ?_
    · exact fun _ => ⟨_, _, _, _, _, rfl⟩
    · exact fun _ => rfl
  split
  · exact k
  · exact k.trans (raiseIrq_announces ..)

theorem note_announces (p : Part) (kind status : B16) (detail : BitVec 224) (s : State) :
    Announces s (note p kind status detail s) := journal_announces ..

theorem updStc_announces {f : StcRegs → StcRegs} : Announces s (s.updStc p f) := .of_upd (fun _ => .refl _) fun _ => rfl

theorem updStream_announces {st : Strm} {f : Stream → Stream} : Announces s (s.updStream p st f) :=
  .of_upd (fun _ => .refl _) fun _ => rfl

theorem unregister_announces {st : Strm} : Announces s (unregister p st s) := by
  unfold unregister
  extract_lets drop t
  have k : Announces s t := ⟨⟨_, s.host.bus, _, _, rfl⟩, fun _ => .refl _, fun _ => rfl⟩
  exact k.trans updStream_announces

theorem stopStream_announces {f : FaultAt} : Announces s (stopStream f s) :=
  ((updStream_announces.trans unregister_announces).trans (note_announces ..)).trans (raiseIrq_announces ..)

theorem breakStitch_announces {g : Nat} : Announces s (breakStitch g s).1 := by
  unfold breakStitch
  extract_lets x e s₁ s₂ s₃
  have k₁ : Announces s s₁ := .of_putStitch
  have k₂ : Announces s s₂ := by
    unfold s₂
    split
    · exact k₁
    · exact (k₁.trans updStc_announces).trans (note_announces ..)
  exact k₂.trans (.foldl (fun _ _ => updStc_announces.trans updStream_announces) _)

theorem breakEach_announces {gs : List Nat} : Announces s (breakEach gs s).1 := by
  induction gs generalizing s with
  | nil => exact .refl s
  | cons g gs ih => exact breakStitch_announces.trans ih

theorem runFaults_announces {n : Nat} {l : List FaultAt} : Announces s (runFaults n l s) := by
  induction n generalizing l s with
  | zero => exact .refl s
  | succ n ih =>
    cases l with
    | nil => exact .refl s
    | cons f l => exact (stopStream_announces.trans breakEach_announces).trans ih

theorem breakStitches_announces {gs : List Nat} : Announces s (breakStitches gs s) :=
  breakEach_announces.trans runFaults_announces

/-! ### Packets (R624 to R628) -/

theorem acceptWaiting_of_no_slots {n : Nat} (h : (s.part fn).host.slots = []) : acceptWaiting fn n s = s := by
  cases n with
  | zero => rfl
  | succ n =>
    rw [acceptWaiting, h]
    rfl

theorem execCommandSeal_of_opened {slot : Fin 64} {pk data : List Byte} (hs : commandsServed s fn = true)
    (ho : (s.part fn).host.pstate = .opened) (hst : (s.part fn).host.starting = false) :
    execCommandSeal fn slot pk data s = next (sealOpen fn slot pk data s) := by
  simp [execCommandSeal, hs, ho, hst]

/-- A packet whose turn it is, with nothing waiting behind it, joins the accepted commands. -/
theorem sealOpen_of_turn {slot : Fin 64} {pk data : List Byte} {i : Instr} (hn : (s.part fn).host.slots = [])
    (hk : sealOk pk = true) (hq : field (leNat (pk.take 32)) 207 176 = (s.part fn).host.seqNext.toNat)
    (hl : slot.val = (s.part fn).host.seqNext.toNat % 64) (hp : parsePacket (.of fn pk) data = some i) :
    sealOpen fn slot pk data s = s.updHost fn fun x => { x with seqNext := x.seqNext + 1, accepted := x.accepted ++ [i] } := by
  have hseq : field (Packet.of fn pk).head 207 176 = (s.part fn).host.seqNext.toNat := hq
  have hd : (BitVec.ofNat 32 (s.part fn).host.seqNext.toNat - (s.part fn).host.seqNext).toNat = 0 := by simp
  have e : acceptPacket fn slot ⟨pk, data⟩ (s.updHost fn fun x => { x with slots := Map.erase x.slots slot.val }) =
      s.updHost fn fun x => { x with seqNext := x.seqNext + 1, accepted := x.accepted ++ [i] } := by
    rw [acceptPacket, hp, State.updHost, State.updHost, State.upd_upd]
    exact updHost_congr (f := fun x => { x with
        seqNext := x.seqNext + 1, slots := Map.erase (Map.erase x.slots slot.val) slot.val, accepted := x.accepted ++ [i] })
      (g := fun x => { x with seqNext := x.seqNext + 1, accepted := x.accepted ++ [i] }) (by simp [hn, Map.erase])
  unfold sealOpen
  extract_lets k seq x s₁ d
  rw [if_neg (by simp [hk])]
  have hd' : d = 0 := by
    unfold d seq
    rw [hseq]
    exact hd
  have hm : seq % 64 = slot.val := by
    unfold seq
    rw [hseq, hl]
  rw [if_neg (by simp [hd', hm]), if_pos hd']
  show acceptWaiting fn 64 (acceptPacket fn slot ⟨pk, data⟩ s₁) = _
  rw [e]
  exact acceptWaiting_of_no_slots (by rw [State.updHost_part]; exact hn)

theorem sealOpen_of_bad_seal {slot : Fin 64} {pk data : List Byte} (hk : sealOk pk = false) :
    sealOpen fn slot pk data s = refusePacket (.of fn pk) pk stBadSeal ((s.updHost fn fun x => { x with
      slots := Map.erase x.slots slot.val }).updHost fn fun x => { x with sealFails := satAdd x.sealFails 1 }) := by
  unfold sealOpen
  extract_lets k seq x s₁
  exact if_pos (by rw [hk]; rfl)

/-! ### The end of a long command (R630) -/

theorem longDone_of_report {i : Nat} {st : B16} {r : B128} {ok : Bool} :
    longDone p i (.report st r) ok s = finishLong p i st r s := by
  cases ok <;> rfl

theorem settle_of_flash_eq (h : t.flash = s.flash) : settle p s t = t :=
  if_neg (by rw [heldBack_of_flash_eq h]; decide)

/-! ### BAR0 (R599 to R601, R665) -/

/-- A write of 4 bytes to a register of the host control page. -/
theorem execRegisterWrite_of_control {off : BitVec 26} {o : Nat} {v : B64} (hf : functionServed s fn = true)
    (ho : off.toNat = 0x142000 + o) (h1 : o < 0x1000) (h4 : o % 4 = 0) :
    execRegisterWrite fn off 4 v s = next (controlWrite fn o (v.toNat % 2 ^ 32) s) := by
  have ha : aligned off.toNat 4 = true := by
    rw [aligned, ho]
    simp
    omega
  have hw : inWindow off.toNat = false := by
    rw [inWindow, ho]
    simp
    omega
  unfold execRegisterWrite
  extract_lets o' s₁
  have e : s₁ = controlWrite fn o (v.toNat % 2 ^ 32) s := by
    unfold s₁
    rw [show o' - 0x142000 = o by omega]
  rw [if_neg (by simp [o', hf, ha]), if_neg (by simp [o', hw]), if_pos (by simp [o', ho]; omega), e]
  simp only [show ¬ (4 : Nat) = 8 by decide, if_false]

theorem ofNat_low (v : B64) : BitVec.ofNat 4 (v.toNat % 2 ^ 32) = v.setWidth 4 := by
  apply BitVec.eq_of_toNat_eq
  rw [BitVec.toNat_ofNat, BitVec.toNat_setWidth]
  omega

theorem execRegisterWrite_of_window {off : BitVec 26} {size : Nat} {v : B64} (hf : functionServed s fn = true)
    (ha : aligned off.toNat size = true) (hw : inWindow off.toNat = true) (hg : aclGrants s (80 + fn.val) fn.val .w = true) :
    execRegisterWrite fn off size v s = next (windowWriteReg fn (off.toNat - 0x200000) size v s) := by
  unfold execRegisterWrite
  extract_lets o
  rw [if_neg (by simp [o, hf, ha]), if_pos hw, onWindow_of_granted hg]

/-- A read of the register window that its row admits. -/
theorem execRegisterReadClear_of_window {off : BitVec 26} {size : Nat} (hf : functionServed s fn = true)
    (hw : inWindow off.toNat = true) (hg : aclGrants s (80 + fn.val) fn.val .r = true) :
    execRegisterReadClear fn off size s = next ((windowRead fn (off.toNat - 0x200000) size s).2.out
      (.completion fn (windowRead fn (off.toNat - 0x200000) size s).1)) := by
  obtain ⟨h1, h2⟩ : 0x200000 ≤ off.toNat ∧ off.toNat < 0x210000 := by simpa [inWindow] using hw
  have e : bar0Read fn off.toNat size s = windowRead fn (off.toNat - 0x200000) size s := by
    unfold bar0Read
    extract_lets
    rw [if_neg (by simp; omega), if_neg (by simp; omega), if_neg (by simp; omega), if_neg (by simp; omega),
      if_pos (by simp; omega)]
  unfold execRegisterReadClear
  extract_lets o
  rw [if_neg (by simp [hf]), if_neg (by simp [hg])]
  show next ((bar0Read fn off.toNat size s).2.out (.completion fn (bar0Read fn off.toNat size s).1)) = _
  rw [e]

theorem windowRead_word {o : Nat} (ho : o % 8 = 0) :
    windowRead fn o 8 s = (leBytes 8 (windowWord s fn o), clearReg fn (o + 4) (clearReg fn o s)) := by
  unfold windowRead
  rw [if_neg (by simp [aligned, ho]), if_neg (by simp), if_neg (by decide)]

theorem windowReg_stale : windowReg s fn 0x10 = (s.part fn).cad.stale.toNat := by
  show two (s.part fn).cad.stale.toNat (1024 - (s.part fn).cad.events.length) / 2 ^ 0 % 2 ^ 32 = _
  have := (s.part fn).cad.stale.isLt
  rw [two]
  omega

theorem windowRead_stale : windowRead fn 0x10 4 s =
    (leBytes 4 (s.part fn).cad.stale.toNat, s.updCad fn fun c => { c with stale := 0 }) := by
  rw [← windowReg_stale]
  rfl

theorem execCadPosHalfRead_of_granted {time high : Bool} (hf : functionServed s fn = true)
    (hg : aclGrants s (80 + fn.val) fn.val .r = true) : execCadPosHalfRead fn time high s =
      next ((halfRead fn time high s).2.out (.completion fn (leBytes 4 (halfRead fn time high s).1.toNat))) := by
  unfold execCadPosHalfRead
  rw [if_neg (by simp [hf]), if_neg (by simp [hg])]

theorem halfRead_low : halfRead fn false false s = ((s.part fn).cad.pos.setWidth 32, s.updCad fn fun c => { c with
    posLatch := some ((s.part fn).cad.pos >>> 32 |>.setWidth 32) }) := rfl

theorem halfRead_high {x : B32} (h : (s.part fn).cad.posLatch = some x) :
    halfRead fn false true s = (x, s.updCad fn fun c => { c with posLatch := none }) := by
  unfold halfRead
  simp [h, highHalf]

/-! ### BAR2 (R602 to R604) -/

theorem bar2Check_of_ok {g : Right} {o n : Nat} (ho : o + n ≤ 2 ^ (s.part fn).host.barLog2.toNat)
    (hw : reachesWindow (winBase (s.part fn).host + o) n = false)
    (hc : checkMem s fn fn.val g (winBase (s.part fn).host + o) n = .ok) :
    bar2Check fn g o n s = (some (winBase (s.part fn).host + o), .ok) := by
  unfold bar2Check
  extract_lets h a
  rw [if_neg (by simp [a, h, hw]; omega), show checkMem s fn fn.val g a n = .ok from hc]

theorem bar2Check_of_beyond {g : Right} {o n : Nat} (ho : 2 ^ (s.part fn).host.barLog2.toNat < o + n) :
    bar2Check fn g o n s = (none, .outside) := by
  unfold bar2Check
  extract_lets h a
  exact if_pos (by simp [h, ho])

/-! ### Links (R594, R595, R608) -/

theorem linkWidth_le (n : Nat) : linkWidth n ≤ n ∧ linkWidth n ≤ 16 ∧ (0 < n → 0 < linkWidth n) := by
  unfold linkWidth
  split
  · omega
  · split
    · omega
    · split
      · omega
      · split <;> omega

theorem linkLanes_pos (s : State) : 0 < linkLanes s := by
  unfold linkLanes
  split <;> decide

/-- What `detach` leaves, but for PSTATE. -/
theorem detach_announces (p : Part) (cause : Nat) (s : State) :
    Announces (s.updHost p fun h => { h with pstate := if h.pstate = .opened then .detached else h.pstate })
      (detach p cause s) := by
  refine Announces.trans ?_ breakStitches_announces
  set f : HostPart → HostPart := fun h => { h with pstate := if h.pstate = .opened then .detached else h.pstate }
  have k := note_announces p 0x0070 stOk (place 224 216 cause) s
  refine ⟨?_, fun q => ?_, fun q => ?_⟩
  · obtain ⟨_, _, _, _, e⟩ := k.form
    rw [e]
    exact ⟨_, _, _, _, rfl⟩
  · by_cases e : q = p
    · subst e
      rw [State.updHost_part, State.updHost_part]
      obtain ⟨_, _, _, _, _, e⟩ := k.told q
      rw [e]
      exact ⟨_, _, _, _, _, rfl⟩
    · rw [State.updHost_part_of_ne _ _ e, State.updHost_part_of_ne _ _ e]
      exact k.told q
  · by_cases e : q = p
    · subst e
      rw [State.updHost_part, State.updHost_part]
      exact k.tier q
    · rw [State.updHost_part_of_ne _ _ e, State.updHost_part_of_ne _ _ e]
      exact k.tier q

/-- PSTATE after a `detach`. -/
def PState.lost (x : PState) : PState := if x = .opened then .detached else x

theorem PState.lost_ne (x : PState) : x.lost ≠ .opened := by cases x <;> decide

theorem Told.pstate {a b : HostPart} (h : Told a b) : b.pstate = a.pstate := by
  obtain ⟨_, _, _, _, _, rfl⟩ := h
  rfl

theorem detach_pstate (p : Part) (cause : Nat) (s : State) :
    ((detach p cause s).part p).host.pstate = (s.part p).host.pstate.lost := by
  rw [((detach_announces p cause s).told p).pstate, State.updHost_part]
  rfl

theorem detach_pstate_of_ne {cause : Nat} (hq : q ≠ p) :
    ((detach p cause s).part q).host.pstate = (s.part q).host.pstate := by
  rw [((detach_announces p cause s).told q).pstate, State.updHost_part_of_ne _ _ hq]

/-- What the loss of links leaves of the module as a whole. -/
structure LosesLinks (s t : State) : Prop where
  power : t.power = s.power
  crash : t.host.crash = s.host.crash
  flash : t.flash = s.flash
  images : t.images = s.images
  split : t.host.split = s.host.split
  pkg : t.pkg = s.pkg
  array : t.array = s.array

theorem LosesLinks.refl (s : State) : LosesLinks s s := ⟨rfl, rfl, rfl, rfl, rfl, rfl, rfl⟩

theorem LosesLinks.trans (h : LosesLinks s t) (k : LosesLinks t u) : LosesLinks s u :=
  ⟨k.power.trans h.power, k.crash.trans h.crash, k.flash.trans h.flash, k.images.trans h.images, k.split.trans h.split,
    k.pkg.trans h.pkg, k.array.trans h.array⟩

theorem LosesLinks.foldl {α : Type} {f : State → α → State} (h : ∀ s a, LosesLinks s (f s a)) (l : List α) :
    LosesLinks s (l.foldl f s) :=
  List.foldlRecOn (motive := LosesLinks s) l f (.refl s) fun t k a _ => k.trans (h t a)

theorem detach_losesLinks {cause : Nat} : LosesLinks s (detach p cause s) :=
  let k := detach_announces p cause s
  ⟨k.power, k.crash, k.flash, k.images, k.split, k.pkg, k.array⟩

theorem loseLink_losesLinks {l : Fin 4} : LosesLinks s (loseLink l s) :=
  LosesLinks.trans (t := { s with host := { s.host with links := s.host.links.set l {} } })
    ⟨rfl, rfl, rfl, rfl, rfl, rfl, rfl⟩
    (.foldl (fun _ _ => detach_losesLinks) _)

theorem loseLinks_losesLinks : LosesLinks s (loseLinks s) := by
  refine .foldl (fun u l => ?_) _
  split
  · exact loseLink_losesLinks
  · exact .refl u

/-- Each function of a lost link is OPEN no more. -/
theorem detachAll_pstate {l : List Part} (hp : p ∈ l) (ho : (s.part p).host.pstate = .opened) :
    ((l.foldl (fun s p => detach p 8 s) s).part p).host.pstate = .detached := by
  have stays (l : List Part) (u : State) (hu : (u.part p).host.pstate = .detached) :
      ((l.foldl (fun s p => detach p 8 s) u).part p).host.pstate = .detached :=
    List.foldlRecOn (motive := fun t : State => (t.part p).host.pstate = .detached) l _ hu fun t ht q _ => by
      by_cases e : p = q
      · subst e; rw [detach_pstate, ht]; rfl
      · rw [detach_pstate_of_ne e, ht]
  induction l generalizing s with
  | nil => cases hp
  | cons q l ih =>
    rw [List.foldl_cons]
    by_cases e : p = q
    · subst e
      exact stays l _ (by rw [detach_pstate, ho]; rfl)
    · exact ih (by simpa [e] using hp) (by rw [detach_pstate_of_ne e, ho])

theorem loseLink_links (l : Fin 4) (s : State) : (loseLink l s).host.links = s.host.links.set l {} := by
  unfold loseLink
  extract_lets t
  exact List.foldlRecOn (motive := fun u : State => u.host.links = s.host.links.set l {}) _ _ rfl
    fun u hu p _ => (detach_announces p 8 u).links.trans hu

/-! ### The power-down key (R661, R663) -/

/-- A power-down leaves the main rails off; it makes a crash record only where it has a cause. -/
theorem powerDown_of_on {c : Option (Nat × Option Nat)} (h1 : s.power.stage ≠ .unpowered)
    (h2 : s.power.stage ≠ .poweredDown) :
    ∃ u : State, u = (match c with | some (c, named) => crash c 0 named s | none => s) ∧
      powerDown c s = updPower (fun w => { w with pwrGood := false, rails := 3, stage := .poweredDown, rearmed := false })
        (loseLinks (loseOverlay u)) := by
  refine ⟨_, rfl, ?_⟩
  unfold powerDown
  refine (if_neg (by simp [h1, h2])).trans ?_
  cases c <;> rfl

end Sys2Proof.Machine

namespace Sys2Proof

open Machine

/-- Settles O47. -/
theorem hostInterfaceRuns : Obligations.HostInterfaceRuns := by
  refine ⟨?_, ?_, ?_, ?_, ?_, ?_, ?_, ?_, ?_, ?_, ?_, ?_, ?_, ?_, ?_, ?_⟩
  · intro fn slot pk data s i hs ho hst hn hk hq hl hp
    exact (execCommandSeal_of_opened hs ho hst).trans (congrArg next (sealOpen_of_turn hn hk hq hl hp))
  · intro fn slot pk data s hs ho hst hk
    exact (execCommandSeal_of_opened hs ho hst).trans (congrArg next (sealOpen_of_bad_seal hk))
  · intro p i ok s c st r hc hw
    show execLongCommandDone p i ok s = _
    rw [execLongCommandDone, hc]
    dsimp only
    rw [hw, longDone_of_report, settle_of_flash_eq (finishLong_only ..).flash]
  · intro fn off size v s hf ha hw hg
    exact execRegisterWrite_of_window hf ha hw hg
  · intro fn v s hf
    refine ⟨(execRegisterWrite_of_control hf (o := 0x10) (by decide) (by decide) (by decide)).trans ?_,
      (execRegisterWrite_of_control hf (o := 0x14) (by decide) (by decide) (by decide)).trans ?_⟩
    · rw [controlWrite, ofNat_low]
    · rw [controlWrite, ofNat_low]
  · intro fn off s hf hw h8 hg
    obtain ⟨h1, h2⟩ : 0x200000 ≤ off.toNat ∧ off.toNat < 0x210000 := by simpa [inWindow] using hw
    refine (execRegisterReadClear_of_window hf hw hg).trans ?_
    rw [windowRead_word (by omega)]
  · intro fn s hf hg
    refine (execRegisterReadClear_of_window hf (by decide) hg).trans ?_
    rw [show (0x200010 : BitVec 26).toNat - 0x200000 = 0x10 from rfl, windowRead_stale]
  · intro fn s hf hg
    refine ⟨(execCadPosHalfRead_of_granted hf hg).trans ?_, fun x hx => (execCadPosHalfRead_of_granted hf hg).trans ?_⟩
    · rw [halfRead_low, BitVec.toNat_setWidth]
    · rw [halfRead_high hx]
  · intro fn off n s a hf ho hw hc
    refine ⟨?_, fun d hd hc' => ?_⟩
    · show execBar2Read fn off n .good s = _
      rw [execBar2Read, if_neg (by simp [hf]), bar2Check_of_ok ho hw hc]
    · subst hd
      show execBar2Write fn off d false s = _
      rw [execBar2Write, if_neg (by simp [hf]), bar2Check_of_ok ho hw hc']
  · intro fn off n m s hf ho
    refine ⟨s, ?_, rfl⟩
    show execBar2Read fn off n m s = _
    rw [execBar2Read, if_neg (by simp [hf]), bar2Check_of_beyond ho]
    rfl
  · intro fn n s hs hu h30 h39
    show execConfigRequest fn (some n) s = _
    rw [execConfigRequest, if_neg hu, if_neg (by simp [hs])]
    dsimp only
    rw [if_pos (by simp; omega)]
  · intro l partner lanes s hm hl h0
    obtain ⟨hle, h16, hpos⟩ := linkWidth_le (min lanes.toNat (linkLanes s))
    have hlanes : 0 < lanes.toNat := by
      rcases Nat.eq_zero_or_pos lanes.toNat with e | e
      · exact absurd (BitVec.eq_of_toNat_eq e) h0
      · exact e
    have hw : 0 < linkWidth (min lanes.toNat (linkLanes s)) := hpos (by have := linkLanes_pos s; omega)
    have hn : (BitVec.ofNat 5 (linkWidth (min lanes.toNat (linkLanes s)))).toNat = linkWidth (min lanes.toNat (linkLanes s)) := by
      rw [BitVec.toNat_ofNat]
      omega
    refine ⟨{ s with host := { s.host with links := s.host.links.set l {
      speed := if partner then 6 else 5, width := BitVec.ofNat 5 (linkWidth (min lanes.toNat (linkLanes s))) } } },
      if_neg ?_, ?_, ?_, ?_, rfl, rfl⟩
    · simp [hm, hl]
      omega
    · exact congrArg PcieLink.speed (Quad.get_set_self ..)
    · show 0 < ((s.host.links.set l _).get l).width.toNat
      rw [Quad.get_set_self]
      exact hn.symm ▸ hw
    · show ((s.host.links.set l _).get l).width.toNat ≤ _
      rw [Quad.get_set_self]
      exact hn.le.trans hle
  · intro fn s ho
    refine ⟨_, rfl, ?_, ?_, ?_, ?_⟩
    · rw [detach_pstate, ho]
      rfl
    · obtain ⟨_, _, _, _, _, e⟩ := (detach_announces fn 7 s).told fn
      rw [e, State.updHost_part]
    · obtain ⟨_, _, _, _, _, e⟩ := (detach_announces fn 7 s).told fn
      rw [e, State.updHost_part]
    · rw [(detach_announces fn 7 s).tier fn, State.updHost_part]
  · intro l f s hl
    refine ⟨loseLink l s, ?_, ?_, fun p hp ho => detachAll_pstate hp ho⟩
    · exact congrArg next (if_pos hl)
    · rw [loseLink_links, Quad.get_set_self]
  · intro s h1 h2
    obtain ⟨u, hu, e⟩ := powerDown_of_on (c := none) h1 h2
    refine ⟨_, congrArg next ((if_pos rfl).trans e), rfl, rfl, rfl, ?_⟩
    show (loseLinks (loseOverlay u)).host.crash = _
    rw [loseLinks_losesLinks.crash, hu]
    rfl
  · intro p s hp
    exact congrArg next (if_neg hp)

end Sys2Proof
end

section
/-!
Management: attestation (R749, R750), sensors (R751), timers (R650 to R654, R778) and the status block (R662, R664).
-/
namespace Sys2Proof.Machine

variable {p : Part} {s t u : State}

/-! ### The status block (R662, R664) -/

/-- `t` is `s` but for the status blocks recorded. -/
def StatusOnly (s t : State) : Prop :=
  ∃ x : Part → List B64, t = { s with parts := s.parts.mapIdx fun q y => { y with host := { y.host with status := x q } } }

theorem StatusOnly.refl (s : State) : StatusOnly s s := ⟨fun q => (s.part q).host.status, rfl⟩

theorem StatusOnly.mem (h : StatusOnly s t) : t.mem = s.mem := by obtain ⟨x, rfl⟩ := h; rfl
theorem StatusOnly.array (h : StatusOnly s t) : t.array = s.array := by obtain ⟨x, rfl⟩ := h; rfl

/-- No word of the status block shows the block itself. -/
theorem StatusOnly.statusWords (h : StatusOnly s t) (p : Part) : statusWords t p = statusWords s p := by
  obtain ⟨x, rfl⟩ := h
  have hp (q : Part) : State.part { s with parts := s.parts.mapIdx fun q y => { y with host := { y.host with status := x q } } }
      q = { s.part q with host := { (s.part q).host with status := x q } } := Quad.get_mapIdx ..
  unfold Machine.statusWords statusNow
  simp only [hp]
  rfl

theorem StatusOnly.record (h : StatusOnly s t) (p : Part) (w : List B64) :
    StatusOnly s (t.updHost p fun y => { y with status := w }) := by
  obtain ⟨x, rfl⟩ := h
  refine ⟨Function.update x p w, ?_⟩
  have e : (s.parts.mapIdx fun q y => { y with host := { y.host with status := x q } }).modify p
      (fun y => { y with host := { y.host with status := w } }) =
      s.parts.mapIdx fun q y => { y with host := { y.host with status := Function.update x p w q } } := by
    fin_cases p <;> rfl
  exact congrArg (fun ps : Quad PartState => ({ s with parts := ps } : State)) e

/-- Recording the blocks of some partitions one after another records each as it stood before. -/
theorem recordAll_status (l : List Part) (hu : StatusOnly s u) :
    let t := l.foldl (fun s p => s.updHost p fun h => { h with status := statusWords s p }) u
    StatusOnly s t ∧
      ∀ p, p ∈ l ∨ (u.part p).host.status = statusWords s p → (t.part p).host.status = statusWords s p := by
  induction l generalizing u with
  | nil => exact ⟨hu, fun p hp => by simpa using hp⟩
  | cons q l ih =>
    obtain ⟨h, k⟩ := ih (hu.record q (statusWords u q))
    refine ⟨h, fun p hp => k p ?_⟩
    by_cases e : p = q
    · subst e
      exact .inr (by rw [State.updHost_part]; exact hu.statusWords p)
    · rw [State.updHost_part_of_ne _ _ e]
      simpa [e] using hp

/-! ### Attestation (R749, R750) -/

theorem execGetMeasurements_of_block {i : Byte} {nonce : B256} (hb : busServed s = true) (h1 : 1 ≤ i.toNat)
    (h8 : i.toNat ≤ 8) :
    execGetMeasurements i nonce s = next (respondSigned nonce (i :: measurement s i.toNat) s) := by
  unfold execGetMeasurements
  extract_lets blk n
  rw [if_neg (by simp [hb]), if_neg (by unfold n; omega), if_pos (by simp [n, h1, h8])]
  simp [blk, n]

theorem execGetMeasurements_of_all {nonce : B256} (hb : busServed s = true) : execGetMeasurements 0xFF nonce s =
    next (respondSigned nonce ((List.range 8).flatMap fun k => BitVec.ofNat 8 (k + 1) :: measurement s (k + 1)) s) := by
  unfold execGetMeasurements
  extract_lets blk n
  rw [if_neg (by simp [hb]), if_pos (show n = 0xFF from rfl)]

theorem execChallenge_of_slot {nonce : B256} (hb : busServed s = true) :
    execChallenge 0 nonce s = next (respondSigned nonce (sha256 Config.certChain) s) := by
  rw [execChallenge, if_neg (by simp [hb]), if_pos rfl]

theorem execGetCertificate_of_slot {off len : B16} (hb : busServed s = true) : execGetCertificate 0 off len s =
    next (respond (leBytes 2 ((Config.certChain.drop off.toNat).take len.toNat).length ++
      leBytes 2 ((Config.certChain.drop off.toNat).length - ((Config.certChain.drop off.toNat).take len.toNat).length) ++
      (Config.certChain.drop off.toNat).take len.toNat) s) := by
  rw [execGetCertificate, if_neg (by simp [hb]), if_neg (by simp)]

end Sys2Proof.Machine

namespace Sys2Proof

open Machine

/-- Settles O56. -/
theorem managementRuns : Obligations.ManagementRuns := by
  refine ⟨?_, ?_, ?_, ?_, ?_, ?_, ?_, ?_, ?_, ?_⟩
  · intro i nonce s hb h1 h8
    exact execGetMeasurements_of_block hb h1 h8
  · intro nonce s hb
    exact execGetMeasurements_of_all hb
  · intro nonce s hb
    exact execChallenge_of_slot hb
  · intro off len s tail l hb
    exact execGetCertificate_of_slot hb
  · intro r s hb
    refine ⟨_, if_neg (by simp [hb]), rfl, rfl, fun q => Quad.get_mapIdx ..⟩
  · intro p i u s ht
    have e : execHostWatchdogExpiry p s =
        next (raiseAlert (if u.action = 1 then (partitionReset p 10 s).2 else note p 0x0070 stOk (place 224 216 9) s)) := by
      rw [execHostWatchdogExpiry, ht]
    exact ⟨fun ha => e.trans (by rw [if_pos ha]), fun ha => e.trans (by rw [if_neg ha])⟩
  · intro p i u s ht
    show execStatusPush p s = _
    rw [execStatusPush, ht]
  · intro e s ht
    show execTelemetryLog s = _
    rw [execTelemetryLog, ht]
  · intro e s ports ht
    show execLinkSample s = _
    rw [execLinkSample, ht]
  · intro s
    obtain ⟨h, k⟩ := recordAll_status four (StatusOnly.refl s)
    exact ⟨_, rfl, h.mem, h.array, fun p => k p (.inl (mem_four p))⟩

end Sys2Proof
end

section
/-!
The package: return to service (R686 to R688), spine-quarter links and width tokens (R670 to R679), fences (R680 to R684), heat
(R689 to R694), and the guest firewall (R695 to R704).
-/
namespace Sys2Proof.Machine

variable {h : CmdHdr} {p : Part} {q : Qtr} {g : Fin 2} {s t u : State}

/-! ### Entries of the whole module, and the alert (R637, R660, R761) -/

theorem noteAll_announces (kind status : B16) (detail : BitVec 224) (affects : Part → Bool) (s : State) :
    Announces s (noteAll kind status detail affects s) := by
  refine .foldl (fun u p => ?_) _
  split
  · exact note_announces ..
  · exact .refl u

theorem raiseAlert_announces (s : State) :
    Announces { s with host := { s.host with alertN := false } } (raiseAlert s) :=
  .foldl (fun _ _ => raiseIrq_announces ..) _

/-! ### Links and stakes (R670, R689) -/

theorem updD2d_updD2d {f f' : D2d → D2d} : updD2d q f' (updD2d q f s) = updD2d q (fun d => f' (f d)) s := by
  simp only [updD2d, Quad.modify, Quad.get_set_self, Quad.set_set]

theorem updD2d_d2d {f : D2d → D2d} : (updD2d q f s).pkg.d2d.get q = f (s.pkg.d2d.get q) := Quad.get_modify_self ..

theorem updStake_stakes {f : Stake → Stake} : (updStake q f s).pkg.stakes.get q = f (s.pkg.stakes.get q) :=
  Quad.get_modify_self ..

theorem updD2d_congr {f f' : D2d → D2d} (hf : f (s.pkg.d2d.get q) = f' (s.pkg.d2d.get q)) : updD2d q f s = updD2d q f' s := by
  simp only [updD2d, Quad.modify, hf]

/-! ### Heat (R692 to R694) -/

/-- A heat choice sets shares and clock, and may be journalled. -/
theorem chooseHeat_of_some {f : Nat} {sh : Quad Nat} (hc : heatChoice s = some (f, sh)) :
    ∃ c, Announces { s with
      array := { s.array with shares := sh }
      pkg := { s.pkg with chosenMhz := f, clockMhz := min f s.power.clockMhz, changes := c } } (chooseHeat s) := by
  unfold chooseHeat
  rw [hc]
  dsimp only
  split
  · exact ⟨_, noteAll_announces ..⟩
  · exact ⟨s.pkg.changes, .refl _⟩

theorem chooseHeat_of_none (hc : heatChoice s = none) : chooseHeat s = s := by
  rw [chooseHeat, hc]

/-- A heat choice leaves live quarters, links and stakes' heat as they were. -/
theorem chooseHeat_keeps (s : State) : (chooseHeat s).array.live = s.array.live ∧ (chooseHeat s).pkg.d2d = s.pkg.d2d ∧
    (chooseHeat s).pkg.stakes = s.pkg.stakes ∧ (chooseHeat s).mem = s.mem := by
  cases hc : heatChoice s with
  | none => rw [chooseHeat_of_none hc]; exact ⟨rfl, rfl, rfl, rfl⟩
  | some e =>
    obtain ⟨c, k⟩ := chooseHeat_of_some (f := e.1) (sh := e.2) hc
    rw [k.array, k.pkg, k.mem]
    exact ⟨rfl, rfl, rfl, rfl⟩

/-- The state of a quarter that returns to service, before the warden chooses clock and shares anew. -/
def returned (q : Qtr) (s : State) : State :=
  updStake q (fun x => { x with fq := 1400, cool := 0 }) (updD2d q (fun d => { d with fence := 0 })
    (zeroStake q { s with array := { s.array with live := s.array.live.set q true, quarters := s.array.quarters.set q {} } }))

theorem endService_of_up (hl : s.array.live.get q = false) (hd : (s.pkg.d2d.get q).state = .up)
    (ht : (s.pkg.stakes.get q).temp.toInt ≤ 1520) :
    ∃ t, endService q true s = some (stOk, t) ∧ Announces (chooseHeat (returned q s)) t := by
  refine ⟨noteAll 0x0060 stOk (place 224 216 2 ||| place 224 214 q.val |||
    place 224 195 (sharesWord (chooseHeat (returned q s)).array.shares)) (fun _ => true) (chooseHeat (returned q s)), ?_,
    noteAll_announces ..⟩
  unfold endService
  extract_lets d
  rw [if_neg (by simp [hl]), if_neg (by simp [d, hd]), if_pos (by simp [d, hd, ht])]
  rfl

/-- Where no stake is too hot, nothing is fenced. -/
theorem fenceHot_of_cool {l : List Qtr} (hc : ∀ q, (s.pkg.stakes.get q).temp.toInt < 1760) :
    l.foldl (fun s q => if tooHot s q then fence q 5 s else s) s = s := by
  induction l with
  | nil => rfl
  | cons q l ih =>
    have hq : tooHot s q = false := decide_eq_false (not_le.mpr (hc q))
    rw [List.foldl_cons, hq]
    exact ih

/-- Evaluating stakes changes their heat alone. -/
theorem evaluateAll_keeps (l : List Qtr) (s : State) :
    (l.foldl (fun s q => if s.array.live.get q then updStake q Stake.evaluate s else s) s).array = s.array ∧
      (l.foldl (fun s q => if s.array.live.get q then updStake q Stake.evaluate s else s) s).power = s.power :=
  List.foldlRecOn (motive := fun t : State => t.array = s.array ∧ t.power = s.power) l _ ⟨rfl, rfl⟩ fun t k q _ => by
    split
    · exact k
    · exact k

theorem execHeatEvaluation_of_cool {f : Nat} {sh : Quad Nat} (hcool : ∀ q, (s.pkg.stakes.get q).temp.toInt < 1760)
    (hu : u = four.foldl (fun s q => if s.array.live.get q then updStake q Stake.evaluate s else s) s)
    (hc : heatChoice u = some (f, sh)) :
    ∃ t, execHeatEvaluation s = next t ∧ t.pkg.chosenMhz = f ∧ t.array.shares = sh ∧
      t.pkg.clockMhz = min f s.power.clockMhz ∧ t.array.live = s.array.live := by
  obtain ⟨harr, hpow⟩ := evaluateAll_keeps four s
  rw [← hu] at harr hpow
  obtain ⟨c, k⟩ := chooseHeat_of_some hc
  have hchosen : (chooseHeat u).pkg.chosenMhz = f := by rw [k.pkg]
  have hclock : (chooseHeat u).pkg.clockMhz = min f s.power.clockMhz := by rw [k.pkg, hpow]
  have hshares : (chooseHeat u).array.shares = sh := by rw [k.array]
  have hlive : (chooseHeat u).array.live = s.array.live := by rw [k.array, harr]
  have e : execHeatEvaluation s = next (if shed (chooseHeat u) || decide ((chooseHeat u).pkg.clockMhz < 1400) then
      { chooseHeat u with pkg := { (chooseHeat u).pkg with throttle := satAdd (chooseHeat u).pkg.throttle 1 } }
      else chooseHeat u) := by
    subst hu
    unfold execHeatEvaluation
    rw [fenceHot_of_cool hcool]
  refine ⟨_, e, ?_⟩
  split
  · exact ⟨hchosen, hshares, hclock, hlive⟩
  · exact ⟨hchosen, hshares, hclock, hlive⟩

/-! ### Fences (R680 to R684) -/

theorem loseCopies_array {e : Nat × Obj} : (loseCopies q p s e).array = s.array := by
  unfold loseCopies
  extract_lets here hit cut map lost t
  have k : t.array = s.array := rfl
  split
  · rfl
  · split
    · exact k
    · exact (note_announces ..).array.trans k

theorem loseStake_array : (loseStake q s).array = s.array :=
  List.foldlRecOn (motive := fun t : State => t.array = s.array) _ _ rfl fun _ k _ _ =>
    List.foldlRecOn (motive := fun u : State => u.array = s.array) _ _ k fun _ k _ _ => loseCopies_array.trans k

theorem raiseAlert_array : (raiseAlert s).array = s.array := (raiseAlert_announces s).array

theorem raiseAlert_alertN : (raiseAlert s).host.alertN = false := (raiseAlert_announces s).alertN

theorem noteFence_array {r : Nat} : (noteFence q r s).array = s.array := by
  rw [noteFence, raiseAlert_array, (noteAll_announces ..).array]

theorem noteFence_alertN {r : Nat} : (noteFence q r s).host.alertN = false := by
  rw [noteFence, raiseAlert_alertN]

/-- A fenced quarter is not live and has no share, and the alert is low. -/
theorem fence_of_live {r : Nat} (hl : s.array.live.get q = true) : (fence q r s).array.live.get q = false ∧
    (fence q r s).array.shares.get q = 0 ∧ (fence q r s).host.alertN = false := by
  unfold fence
  rw [if_neg (by simp [hl])]
  extract_lets s₁ lost s₂ s₃ a s₄
  refine ⟨?_, ?_, noteFence_alertN⟩
  · rw [noteFence_array, loseStake_array]
    exact Quad.get_set_self ..
  · rw [noteFence_array, loseStake_array]
    exact Quad.get_set_self ..

theorem fence_of_not_live {r : Nat} (hl : s.array.live.get q = false) : fence q r s = s := if_pos (by rw [hl]; rfl)

/-! ### Width tokens (R675) -/

theorem crc8_lt (v : Nat) : crc8 v < 256 := by
  refine List.foldlRecOn (motive := fun c : Nat => c < 256) _ _ (by decide) fun c hc i _ => ?_
  have h1 : c * 2 % 256 < 2 ^ 8 := by omega
  have h2 : 7 * ((c / 128 + v / 2 ^ (23 - i)) % 2) < 2 ^ 8 := by omega
  exact Nat.xor_lt_two_pow h1 h2

/-- The fields of a token. -/
theorem widthToken_fields {k r m w : Nat} (hk : k < 16) (hr : r < 16) (hm : m < 256) (hw : w < 16) :
    let t := (widthToken k r m w).toNat
    field t 31 28 = k ∧ field t 27 24 = r ∧ field t 23 16 = m ∧ field t 15 12 = w := by
  have hc := crc8_lt (k * 2 ^ 20 + r * 2 ^ 16 + m * 2 ^ 8 + w * 2 ^ 4)
  generalize hx : crc8 (k * 2 ^ 20 + r * 2 ^ 16 + m * 2 ^ 8 + w * 2 ^ 4) = c at hc
  simp only [widthToken, hx, BitVec.toNat_ofNat, field]
  omega

theorem execPropose_of_token {mask : Byte} {v w : Nat} {own : B32} (hd : (s.pkg.d2d.get q).state = .retrain)
    (hc : (s.pkg.d2d.get q).chosen = none) (hv : v = Nat.land (s.pkg.d2d.get q).myMask.toNat mask.toNat)
    (hw : w = groupWidth (popcount v)) (ho : own = widthToken 2 (s.pkg.d2d.get q).round.toNat (lowest w v) w)
    (ht : tokenOk (widthToken 1 (s.pkg.d2d.get q).round.toNat mask.toNat 0) = true) :
    execPropose q (widthToken 1 (s.pkg.d2d.get q).round.toNat mask.toNat 0) s =
      if w = 0 then next (fenceLink q 4 s)
      else next (updD2d q (fun d => { d with
        chosen := some (BitVec.ofNat 8 (lowest w v), w), usable := BitVec.ofNat 8 v, ownToken := own, crcFails := 0
        tokens := d.tokens ++ [own] }) s) := by
  obtain ⟨h1, h2, h3, -⟩ := widthToken_fields (k := 1) (r := (s.pkg.d2d.get q).round.toNat) (m := mask.toNat) (w := 0)
    (by decide) (BitVec.isLt _) (BitVec.isLt _) (by decide)
  unfold execPropose
  extract_lets d t v' w' set own'
  have e : v' = v := (congrArg (Nat.land d.myMask.toNat) h3).trans hv.symm
  rw [if_neg (by simp [d, settling, hd, hc]), if_neg (by simp [ht]), if_neg (by simp only [d, t, h1, h2]; simp)]
  simp only [own', set, w', d, e, ho, hw]

theorem execConfirm_of_token {set : Byte} {w : Nat} (hd : (s.pkg.d2d.get q).state = .retrain)
    (hc : (s.pkg.d2d.get q).chosen = some (set, w)) (hw : w ≤ 8)
    (ht : tokenOk (widthToken 2 (s.pkg.d2d.get q).round.toNat set.toNat w) = true) :
    execConfirm q (widthToken 2 (s.pkg.d2d.get q).round.toNat set.toNat w) s = next (updD2d q (fun d => { d with
      state := .up, width := w, groups := set, myMask := d.usable, disagree := 0, chosen := none, crcFails := 0 }) s) := by
  obtain ⟨h1, h2, h3, h4⟩ := widthToken_fields (k := 2) (r := (s.pkg.d2d.get q).round.toNat) (m := set.toNat) (w := w)
    (by decide) (BitVec.isLt _) (BitVec.isLt _) (by omega)
  unfold execConfirm
  extract_lets d t
  rw [show d.chosen = some (set, w) from hc]
  dsimp only
  rw [if_neg (by simp [d, settling, hd]), if_neg (by simp [ht]), if_neg (by simp only [t, h1]; simp),
    if_pos (by simp only [t, d, h2, h3, h4]; simp)]

/-! ### A link's retrain (R672, R676, R677) -/

theorem lane_bit : ∀ g : Fin 8, BitVec.getLsbD (((1 <<< g.val : Nat)) : Byte) g.val = true := by decide

/-- A retired group is in no mask proposed. -/
theorem mask_without {m r : Nat} {g : Fin 8} (hr : r < 256) (hb : r.testBit g.val = true) :
    (BitVec.ofNat 8 (m &&& (255 - r))).getLsbD g.val = false := by
  have e : 255 - r = 2 ^ 8 - (r + 1) := by omega
  rw [BitVec.getLsbD_ofNat, Nat.testBit_and, e, Nat.testBit_two_pow_sub_succ hr, hb]
  simp

theorem execD2dRetrain_of_up {l : Fin 8} (hd : (s.pkg.d2d.get q).state = .up) :
    execD2dRetrain q (.laneLock l) s = next (retrain q (s.pkg.d2d.get q).myMask.toNat .retrain
      (updD2d q (fun d => { d with retired := d.retired ||| (1 <<< l.val) }) s)) := by
  unfold execD2dRetrain
  extract_lets d s₁
  rw [if_neg (by simp [d, hd]), if_neg (by simp), if_neg (by simp [d, proposed, hd]), if_neg (by simp [d, hd])]
  rfl

theorem execD2dRetrain_of_proposed {l : Fin 8} (hd : (s.pkg.d2d.get q).state = .retrain)
    (hc : (s.pkg.d2d.get q).chosen = none) : execD2dRetrain q (.laneLock l) s = next (updD2d q (fun d => { d with
      retired := d.retired ||| (1 <<< l.val), myMask := d.myMask &&& ~~~(d.retired ||| (1 <<< l.val)) }) s) := by
  unfold execD2dRetrain
  extract_lets d s₁
  rw [if_neg (by simp [d, hd]), if_neg (by simp), if_pos (by simp [d, proposed, hd, hc, retiredBy])]
  unfold s₁
  rw [updD2d_updD2d]
  rfl

/-! ### Guests (R695 to R704) -/

theorem updGuest_guest {f : Guest → Guest} : (updGuest g f s).guest g = f (s.guest g) := by
  fin_cases g <;> rfl

theorem updGuest_updGuest {f f' : Guest → Guest} : updGuest g f' (updGuest g f s) = updGuest g (fun x => f' (f x)) s := by
  fin_cases g <;> rfl

theorem Announces.guest (k : Announces s t) : t.guest g = s.guest g := by rw [State.guest, k.pkg]; rfl

/-- Answers to requests that were held go out in their order. -/
theorem answerAll_eq (l : List (Byte × GuestReq)) (s : State) :
    (l.foldl (fun s e => answerGuest g e.1 stNoAccess [] s) s).guest g =
      { s.guest g with answers := (s.guest g).answers ++ l.map fun e => (e.1, stNoAccess, []) } := by
  induction l generalizing s with
  | nil => simp
  | cons e l ih =>
    rw [List.foldl_cons, ih, answerGuest, updGuest_guest]
    simp

/-- A site that is fenced answers what it held. -/
theorem fenceSite_guest {r : Nat} (hs : (s.guest g).state = .up ∨ (s.guest g).state = .train) :
    (fenceSite g r s).guest g = { s.guest g with
      state := .fenced, fence := BitVec.ofNat 3 r, held := []
      answers := (s.guest g).answers ++ (s.guest g).held.map fun e => (e.1, stNoAccess, []) } := by
  unfold fenceSite
  extract_lets x s₁ s₂ s₃
  rw [if_neg (by rcases hs with h | h <;> simp [x, h]), (noteAll_announces ..).guest, breakStitches_announces.guest]
  unfold s₂
  rw [answerAll_eq]
  unfold s₁
  rw [updGuest_guest]

theorem execGuestRequest_of_fenced {m : Byte} {r : GuestReq} {n : Nat} (hs : (s.guest g).state = .fenced) :
    execGuestRequest g m r n s = next (answerGuest g m stNoAccess [] s) := by
  rw [execGuestRequest, hs]

theorem execGuestRequest_of_bad {m : Byte} {r : GuestReq} {n k d : Nat} (hs : (s.guest g).state = .up)
    (hc : guestCheck s g m r = .error (k, d)) : execGuestRequest g m r n s = next (refuseGuest g m r k d n s) := by
  rw [execGuestRequest, hs]
  dsimp only
  rw [hc]

/-- A request of a site that is UP, after its checks. -/
theorem execGuestRequest_of_ok {m : Byte} {r : GuestReq} {n : Nat} (hs : (s.guest g).state = .up)
    (hc : guestCheck s g m r = .ok p) : execGuestRequest g m r n s =
      if ((s.guest g).held.any fun e => e.1 = m) || rateHolds s g m r n then
        next (updGuest g (fun x => { x with rateWait := satAdd x.rateWait 1, held := x.held ++ [(m, r)] }) s)
      else next (settleGuest g m r p s (passGuest g m p r n s)) := by
  rw [execGuestRequest, hs]
  dsimp only
  rw [hc]

theorem passGuest_of_read {m : Byte} {addr : Addr} {n k : Nat}
    (hu : u = updGuest g (fun x => { x with bytes := satAdd x.bytes n, passed := x.passed ++ [(m, k, n)] }) s)
    (hc : checkMem u p m.toNat .r addr.toNat n = .ok) : passGuest g m p (.read addr n) k s =
      answerGuest g m stOk (readMem u p m.toNat addr.toNat n) (touchRead p addr.toNat n u) := by
  subst hu
  unfold passGuest
  dsimp only [reqStitch, reqMem, reqBytes, Option.map_some, Option.getD_some]
  rw [hc]

theorem answerGuest_unmoved {m : Byte} {st : B16} {d : List Byte} : Unmoved s (answerGuest g m st d s) := ⟨rfl, rfl, rfl, rfl⟩

end Sys2Proof.Machine

namespace Sys2Proof

open Machine

/-- Settles O53. -/
theorem packageRuns : Obligations.PackageRuns := by
  refine ⟨?_, ?_, ?_, ?_, ?_, ?_, ?_, ?_, ?_, ?_⟩
  · intro h quarter s hm hq hl
    refine exec_of_act_started hm (act := fun s => if s.array.live.get (Fin.ofNat 4 quarter.toNat) then (.done stBadParam, s)
      else (.started (.service (Fin.ofNat 4 quarter.toNat)), s)) ?_ ?_
    · show next (hostCmd _ _ h [quarter] (decide (quarter.toNat > 3)) _ s) = _
      rw [decide_eq_false (by omega)]
    · exact if_neg (by rw [show (begun h s).array.live.get _ = _ from hl]; decide)
  · intro q s hl hd ht
    obtain ⟨t, he, k⟩ := endService_of_up hl hd ht
    obtain ⟨k1, k2, k3, k4⟩ := chooseHeat_keeps (returned q s)
    refine ⟨t, he, ?_, ?_, ?_, ?_⟩
    · rw [k.array, k1]
      exact Quad.get_set_self ..
    · rw [k.pkg, k2]
      exact congrArg D2d.fence (Quad.get_modify_self ..)
    · rw [k.pkg, k3]
      exact congrArg Stake.fq (Quad.get_modify_self ..)
    · rw [k.mem, k4]
      rfl
  · intro q g s d hd
    refine ⟨_, execD2dRetrain_of_up hd, ?_⟩
    have e : (retrain q (s.pkg.d2d.get q).myMask.toNat .retrain
        (updD2d q (fun d => { d with retired := d.retired ||| (1 <<< g.val) }) s)).pkg.d2d.get q = _ := updD2d_d2d
    rw [e, updD2d_d2d]
    refine ⟨rfl, rfl, rfl, rfl, mask_without (BitVec.isLt _) ?_, rfl⟩
    have hb : (d.retired ||| (1 <<< g.val)).getLsbD g.val = true := by
      rw [BitVec.getLsbD_or, lane_bit g, Bool.or_true]
    exact hb
  · intro q g s d hd hc
    exact execD2dRetrain_of_proposed hd hc
  · intro q mask s d usable w own hd hc ht
    have e := execPropose_of_token (own := own) hd hc rfl rfl rfl ht
    exact ⟨fun hw => e.trans (if_neg hw), fun hw => e.trans (if_pos hw)⟩
  · intro q set w s d hd hc hw ht
    exact execConfirm_of_token hd hc hw ht
  · intro q s hl
    exact ⟨⟨rfl, rfl⟩, fun r => fence_of_live hl⟩
  · intro q s hl
    exact congrArg next (fence_of_not_live hl)
  · intro q readings t i s hh u
    show execStakeSensorSample q readings s = _
    rw [execStakeSensorSample, hh]
    have e : tooHot u q = decide (1760 ≤ t.toInt) := by
      rw [tooHot, updStake_stakes]
    show next (if tooHot u q then fence q 5 u else u) = _
    rw [e]
    simp only [decide_eq_true_eq]
  · intro s f sh u hcool hc
    exact execHeatEvaluation_of_cool hcool rfl hc

/-- Settles O54. -/
theorem guestsRun : Obligations.GuestsRun := by
  refine ⟨?_, ?_, ?_, ?_, ?_, ?_⟩
  · intro g m addr n k p s u hs hc hh hr hm
    have e := passGuest_of_read (u := u) rfl hm
    refine (execGuestRequest_of_ok hs hc).trans ?_
    rw [if_neg (by rw [hh, hr]; decide), e, settleGuest, if_neg]
    have ku : Unmoved s u := ⟨rfl, rfl, rfl, rfl⟩
    rw [((ku.trans (touchRead_unmoved ..)).trans answerGuest_unmoved).heldBack]
    decide
  · intro g m r k p s hs hc hr
    exact (execGuestRequest_of_ok hs hc).trans (if_pos (by rw [hr, Bool.or_true]))
  · intro g m r n k d s hs hc
    exact execGuestRequest_of_bad hs hc
  · intro g m r k s hs
    exact execGuestRequest_of_fenced hs
  · intro g n s e p u hf hc hb
    show execGuestRateRelease g n s = _
    rw [execGuestRateRelease, hf]
    dsimp only
    rw [show guestCheck _ g e.1 e.2 = .ok p from hc]
    exact congrArg next (if_neg (by rw [hb]; decide))
  · intro g s hs
    refine ⟨⟨rfl, rfl, fun mw h => congrArg next (if_pos h), fun mw h => congrArg next (if_neg (not_lt.mpr h))⟩,
      fun r hr => ?_⟩
    rw [fenceSite_guest hs]
    refine ⟨rfl, ?_, rfl, rfl⟩
    rw [BitVec.toNat_ofNat]
    omega

end Sys2Proof
end

section
/-!
Power and start-up: starts and their failures (R727 to R734), power-downs (R712, R713), rails, input, trips and the power limit
(R707 to R717, R719), the crash record (R720).

What each operation does to the power and boot state is said by one equation (`powerDown_power`, `failStart_power`,
`enterMinimal_power`, `setPowerClock_power`).
-/
namespace Sys2Proof.Machine

variable {s t u : State}

/-! ### Power-downs and the crash record (R712, R713, R720) -/

theorem on_of_mainOn (h : mainOn s = true) : s.power.stage ≠ .unpowered ∧ s.power.stage ≠ .poweredDown := by
  unfold mainOn at h
  split at h <;> simp_all

theorem powerDown_eq {c : Option (Nat × Option Nat)} (h : s.power.stage ≠ .unpowered ∧ s.power.stage ≠ .poweredDown) :
    ∃ u : State, u = (match c with | some (c, named) => crash c 0 named s | none => s) ∧
      powerDown c s = updPower (fun w => { w with pwrGood := false, rails := 3, stage := .poweredDown, rearmed := false })
        (loseLinks (loseOverlay u)) := powerDown_of_on h.1 h.2

/-- A power-down takes the main rails off and changes no other register of power. -/
theorem powerDown_power {c : Option (Nat × Option Nat)} (h : s.power.stage ≠ .unpowered ∧ s.power.stage ≠ .poweredDown) :
    (powerDown c s).power = { s.power with pwrGood := false, rails := 3, stage := .poweredDown, rearmed := false } := by
  obtain ⟨u, hu, e⟩ := powerDown_eq (c := c) h
  have k : (loseLinks (loseOverlay u)).power = s.power := by
    rw [loseLinks_losesLinks.power, hu]
    cases c <;> rfl
  rw [e, updPower, k]

theorem powerDown_crash_none (h : s.power.stage ≠ .unpowered ∧ s.power.stage ≠ .poweredDown) :
    (powerDown none s).host.crash = s.host.crash := by
  obtain ⟨u, hu, e⟩ := powerDown_eq (c := none) h
  have k : (loseLinks (loseOverlay u)).host.crash = s.host.crash := by
    rw [loseLinks_losesLinks.crash, hu]
    rfl
  rw [e]
  exact k

theorem powerDown_crash_some {c : Nat} {n : Option Nat} (h : s.power.stage ≠ .unpowered ∧ s.power.stage ≠ .poweredDown) :
    (powerDown (some (c, n)) s).host.crash = (crash c 0 n s).host.crash := by
  obtain ⟨u, hu, e⟩ := powerDown_eq (c := some (c, n)) h
  have k : (loseLinks (loseOverlay u)).host.crash = (crash c 0 n s).host.crash := by
    rw [loseLinks_losesLinks.crash, hu]
    rfl
  rw [e]
  exact k

/-! ### Failed starts and minimal mode (R732 to R734) -/

theorem failStart_power (reason : Nat) (s : State) : (failStart reason s).power = { s.power with
    reasons := (BitVec.ofNat 8 reason :: s.power.reasons).take 3, reasonDone := true, pwrGood := false, rails := 3
    stage := .retryWait } := by
  unfold failStart
  extract_lets w t
  have k : t.power = s.power := (noteAll_announces ..).power
  rw [updPower, k]

theorem LinkOnly.power (h : LinkOnly s t) : t.power = s.power := by
  obtain ⟨x, rfl⟩ := h
  rfl

theorem sendLeave_power {p : Part} {reason : Nat} : (sendLeave p reason s).power = s.power := by
  unfold sendLeave
  split
  · next d _ =>
    have k : LinkOnly s (sendMsg d (ctrl 8 0 reason 0) .none s) := sendMsg_linkOnly rfl
    exact k.power
  · rfl

theorem enterMinimal_power (reason : Byte) (recovery : Bool) (s : State) : (enterMinimal reason recovery s).power =
    { s.power with
      stage := .minimal, minReason := reason, pufLost := decide (reason = 3), recovery
      rails := if s.power.pwrEn then 0xF else 3, pwrGood := s.power.pwrEn } := by
  unfold enterMinimal
  extract_lets t u
  have k : t.power = s.power := by
    unfold t
    split
    · exact sendLeave_power
    · rfl
  rw [(noteAll_announces ..).power]
  show ({ t.power with
    stage := .minimal, minReason := reason, pufLost := decide (reason = 3), recovery
    rails := if t.power.pwrEn then 0xF else 3, pwrGood := t.power.pwrEn } : Power) = _
  rw [k]

theorem failAtOnce_power (reason : Nat) (recovery : Bool) (s : State) :
    (failAtOnce reason recovery s).power.stage = .minimal ∧
      (failAtOnce reason recovery s).power.minReason = BitVec.ofNat 8 reason ∧
      (failAtOnce reason recovery s).power.recovery = recovery ∧
      (failAtOnce reason recovery s).power.pufLost = decide (BitVec.ofNat 8 reason = 3) := by
  rw [failAtOnce, enterMinimal_power]
  exact ⟨rfl, rfl, rfl, rfl⟩

/-! ### A new start (R727, R732, R736) -/

theorem deviceReset_stage {cause : Nat} (h : s.power.stage ≠ .poweredDown) : (deviceReset cause s).power.stage = .boot := by
  have e : (deviceReset cause s).power.stage = (s.power.afterReset cause).stage := rfl
  rw [e, Power.afterReset, decide_eq_false h]
  rfl

theorem deviceReset_pufLost : (deviceReset 5 s).power.pufLost = s.power.pufLost := by
  have e : (deviceReset 5 s).power.pufLost = (s.power.afterReset 5).pufLost := rfl
  rw [e, Power.afterReset]
  exact Bool.and_true _

/-! ### Stage 1 (R730) -/

/-- The counters, records and slots, which verification reads of the power state, are as they were. -/
structure KeepsBoot (s t : State) : Prop where
  counters : t.power.counters = s.power.counters
  records : t.power.records = s.power.records
  slotA : t.power.slotA = s.power.slotA
  slotB : t.power.slotB = s.power.slotB

theorem KeepsBoot.trans (h : KeepsBoot s t) (k : KeepsBoot t u) : KeepsBoot s u :=
  ⟨k.counters.trans h.counters, k.records.trans h.records, k.slotA.trans h.slotA, k.slotB.trans h.slotB⟩

theorem KeepsBoot.signedRec (h : KeepsBoot s t) (k : Nat) : t.signedRec k = s.signedRec k := by
  rw [State.signedRec, State.signedRec, h.records]

theorem KeepsBoot.verifies (h : KeepsBoot s t) (kind : Nat) (l : List Byte) : verifies t kind l = verifies s kind l := by
  have hs : t.serial = s.serial := by rw [State.serial, State.serial, h.signedRec]
  simp only [Machine.verifies, serialOk, signerOk, h.signedRec, hs, h.counters]

theorem KeepsBoot.fwSlot (h : KeepsBoot s t) (b : Bool) : t.fwSlot b = s.fwSlot b := by
  rw [State.fwSlot, State.fwSlot, h.slotA, h.slotB]

theorem KeepsBoot.pickSlot (h : KeepsBoot s t) (b : Bool) : pickSlot t b = pickSlot s b := by
  have hb (b : Bool) (n : Nat) : slotBytes t b n = slotBytes s b n := by
    simp only [slotBytes, h.fwSlot]
  have hi (b : Bool) : slotImage t b = slotImage s b := by
    simp only [slotImage, hb]
  have ho (b : Bool) : slotOk t b = slotOk s b := by
    simp only [slotOk, imageOk, h.fwSlot, hi, h.verifies]
  rw [Machine.pickSlot, Machine.pickSlot, ho, ho]

/-- The state in which the boot ROM has counted the start. -/
def counted (s : State) : State :=
  updPower (fun w => { w with
    failCount := w.failCount + 1, trial := none, reasonDone := false
    reasons := if w.reasonDone then w.reasons else (9 :: w.reasons).take 3 }) s

theorem counted_keepsBoot (s : State) : KeepsBoot s (counted s) := ⟨rfl, rfl, rfl, rfl⟩

theorem runFrom_keepsBoot (b trial : Bool) (s : State) : KeepsBoot s (runFrom b trial s) := ⟨rfl, rfl, rfl, rfl⟩

/-- A start whose slot and records verify waits for PWR_EN. -/
theorem stage1_of_verified {b : Bool} (hn : s.power.failCount.toNat < 3)
    (hp : pickSlot s (s.power.trial.getD s.power.active) = some b) (h2 : verifies s 2 (s.signedRec 2) = true)
    (h3 : verifies s 3 (s.signedRec 3) = true) :
    stage1 s = updPower (fun w => { w with stage := .waitPwr }) (runFrom b (s.power.trial = some b) (counted s)) := by
  have k := (counted_keepsBoot s).trans (runFrom_keepsBoot b (s.power.trial = some b) (counted s))
  have e : stage2 (runFrom b (s.power.trial = some b) (counted s)) =
      updPower (fun w => { w with stage := .waitPwr }) (runFrom b (s.power.trial = some b) (counted s)) :=
    if_pos (by rw [k.verifies, k.verifies, k.signedRec, k.signedRec, h2, h3]; rfl)
  unfold stage1
  extract_lets w t₁ want t₂
  rw [if_neg (by simp [w]; omega), show pickSlot t₂ want = some b from ((counted_keepsBoot s).pickSlot _).trans hp]
  exact e

/-! ### Stage 3 (R709, R727, R728) -/

/-- Power and the array are as they were. -/
structure KeepsPower (s t : State) : Prop where
  power : t.power = s.power
  array : t.array = s.array

theorem KeepsPower.refl (s : State) : KeepsPower s s := ⟨rfl, rfl⟩

theorem KeepsPower.trans (h : KeepsPower s t) (k : KeepsPower t u) : KeepsPower s u :=
  ⟨k.power.trans h.power, k.array.trans h.array⟩

theorem KeepsPower.foldl {α : Type} {f : State → α → State} (h : ∀ s a, KeepsPower s (f s a)) (l : List α) :
    KeepsPower s (l.foldl f s) :=
  List.foldlRecOn (motive := KeepsPower s) l f (.refl s) fun t k a _ => k.trans (h t a)

theorem Announces.keepsPower (k : Announces s t) : KeepsPower s t := ⟨k.power, k.array⟩

theorem fenceSite_keepsPower {g : Fin 2} {r : Nat} : KeepsPower s (fenceSite g r s) := by
  unfold fenceSite
  extract_lets x s₁ s₂ s₃
  have k₁ : KeepsPower s s₁ := ⟨rfl, rfl⟩
  have k₂ : KeepsPower s s₂ := by
    refine k₁.trans (.foldl (fun u e => ?_) _)
    exact ⟨rfl, rfl⟩
  have k₃ : KeepsPower s s₃ := k₂.trans breakStitches_announces.keepsPower
  split
  · exact .refl s
  · exact k₃.trans (noteAll_announces ..).keepsPower

theorem trainSite_keepsPower {r : StartReport} {g : Fin 2} : KeepsPower s (trainSite r s g) := by
  have k : KeepsPower s (updGuest g (fun x => { x with state := .up }) s) := ⟨rfl, rfl⟩
  unfold trainSite
  split
  · exact .refl s
  · split
    · exact k
    · exact k.trans fenceSite_keepsPower

theorem noteStaleStripes_keepsPower : KeepsPower s (noteStaleStripes s) := by
  unfold noteStaleStripes
  extract_lets flash t
  have k : KeepsPower s t := ⟨rfl, rfl⟩
  generalize List.range 16 = l
  refine k.trans (.foldl (fun u r => ?_) l)
  dsimp only
  split
  · exact .refl u
  · exact (note_announces ..).keepsPower

/-- Where every quarter reports well, none is fenced. -/
theorem fenceBad_of_good {v : BitVec 4} (hv : v = 0xF) :
    four.foldl (fun s q => if v.getLsbD q.val then s else fence q 6 s) s = s := by
  subst hv
  rfl

/-- The main rails are switched on (R709). -/
def railed (v : BitVec 24) (s : State) : State := updPower (fun w => { w with stage := .bringUp, rails := v }) s

theorem trained_keepsPower {v : BitVec 24} {r : StartReport} :
    KeepsPower (railed v s) (noteStaleStripes ([0, 1].foldl (trainSite r) (railed v s))) :=
  (KeepsPower.foldl (fun _ _ => trainSite_keepsPower) _).trans noteStaleStripes_keepsPower

theorem stage3_eq {v : BitVec 24} {r : StartReport} (hv : railsUp s = v) (hb : r.badRail = none) (h1 : r.hbmOk = true)
    (h2 : r.bulkOk = true) (h3 : r.flashOk = true) (hq : r.quarters = 0xF) (ha : anyLive s = true) : stage3 r s =
      updPower (fun w => { w with pwrGood := true }) (noteStaleStripes ([0, 1].foldl (trainSite r) (railed v s))) := by
  have hl : anyLive (railed v s) = true := ha
  have hst : (railed v s).power.stage = .bringUp := rfl
  unfold stage3
  rw [hv, hb, show updPower (fun w => { w with stage := .bringUp, rails := v }) s = railed v s from rfl]
  dsimp only
  rw [if_neg (not_not.mpr hst), if_neg (by rw [h1]; decide), if_neg (by rw [h2]; decide), if_neg (by rw [h3]; decide),
    fenceBad_of_good hq, if_neg (by rw [hl]; decide)]

/-- Main rails on, and every report good: PWRGOOD. -/
theorem stage3_of_good {v : BitVec 24} {r : StartReport} (hv : railsUp s = v) (hb : r.badRail = none) (h1 : r.hbmOk = true)
    (h2 : r.bulkOk = true) (h3 : r.flashOk = true) (hq : r.quarters = 0xF) (ha : anyLive s = true) :
    (stage3 r s).array = s.array ∧
      (stage3 r s).power = { s.power with stage := .bringUp, rails := v, pwrGood := true } := by
  obtain ⟨hp, harr⟩ := trained_keepsPower (v := v) (r := r) (s := s)
  rw [stage3_eq hv hb h1 h2 h3 hq ha]
  generalize noteStaleStripes ([0, 1].foldl (trainSite r) (railed v s)) = u at hp harr ⊢
  refine ⟨harr, ?_⟩
  rw [updPower, hp]
  rfl

theorem execPwrEnAssert_of_waiting {low : Nat} {r : StartReport} (hs : s.power.stage = .waitPwr) :
    execPwrEnAssert low r s = next (stage3 r (updPower (fun w => { w with pwrEn := true }) s)) := by
  unfold execPwrEnAssert
  extract_lets t
  rw [show t.power.stage = .waitPwr from hs]

/-! ### Rails, input and trips (R708, R711, R719) -/

/-- A fault of a main rail that serves the whole module, in a module that is READY. -/
theorem faultRail_of_main {r : Nat} (hs : s.power.stage = .ready) (h2 : 2 ≤ r) (h14 : r < 14) (h5 : r ≠ 5) :
    faultRail r s = powerDown (some (0x13, some r))
      (updPower (fun w => { w with railFaults := w.railFaults ||| BitVec.ofNat 24 (2 ^ r) }) s) := by
  unfold faultRail
  extract_lets off t
  rw [if_neg (by omega), if_neg (by simp; omega), if_neg (by omega), if_neg h5,
    if_neg (by rw [show starting t = starting s from rfl]; simp [starting, hs])]

theorem raiseAlert_power : (raiseAlert s).power = s.power := (raiseAlert_announces s).power

theorem setInput_mainOn {mv : B16} : mainOn (setInput mv s) = mainOn s := rfl

theorem trip_of_on {n : Option Nat} (h : s.power.stage ≠ .unpowered) : ∃ u : State, trip n s = powerDown (some (0x10, n)) u ∧
    u.power.stage = s.power.stage ∧ u.power.thermtrip = true ∧ u.power.tripPin = true :=
  ⟨_, if_neg h, rfl, rfl, rfl⟩

/-! ### The power limit (R714 to R717) -/

/-- A new power-limit clock is set, with its entry where it differs. -/
theorem setPowerClock_power (mhz mean : Nat) (s : State) :
    (setPowerClock mhz mean s).power = { s.power with clockMhz := mhz } := by
  unfold setPowerClock
  split
  · next h => rw [h]
  · exact (noteAll_announces ..).power

theorem setPowerClock_mem (mhz mean : Nat) (s : State) : (setPowerClock mhz mean s).mem = s.mem := by
  unfold setPowerClock
  split
  · rfl
  · exact (noteAll_announces ..).mem

/-- A power-down keeps every register of power that is none of its own. -/
theorem powerDown_clock {c : Option (Nat × Option Nat)} :
    (powerDown c s).power.clockMhz = s.power.clockMhz ∧ (powerDown c s).power.pinW = s.power.pinW := by
  by_cases h : s.power.stage ≠ .unpowered ∧ s.power.stage ≠ .poweredDown
  · rw [powerDown_power h]
    exact ⟨rfl, rfl⟩
  · have e : powerDown c s = s := by
      unfold powerDown
      exact if_pos (by simp only [Bool.or_eq_true, decide_eq_true_eq]; tauto)
    rw [e]
    exact ⟨rfl, rfl⟩

/-- The clock that a window of mean power sets. -/
def windowClock (m c limit wins : Nat) : Nat :=
  if limit < m then max 400 (c - 100) else if m * 100 < limit * 95 ∧ 9 ≤ wins then min 1400 (c + 100) else c

theorem execPowerWindow_clock (w : B16) (s : State) : ∃ t, execPowerWindow w s = next t ∧ t.power.pinW = w ∧
    t.power.clockMhz = windowClock w.toNat s.power.clockMhz s.power.limit.toNat s.power.lowWins := by
  unfold execPowerWindow
  extract_lets m c limit low high wins hot rise s₁ s₂ s₃
  have hr : rise = decide (m * 100 < limit * 95 ∧ 9 ≤ s.power.lowWins) := by
    unfold rise wins low
    by_cases h : m * 100 < limit * 95
    · simp [h]
    · simp [h]
  have k₂ : s₂.power.pinW = w ∧ s₂.power.clockMhz = windowClock m c limit s.power.lowWins := by
    unfold s₂
    rw [setPowerClock_power, hr]
    refine ⟨rfl, ?_⟩
    simp only [windowClock, high, decide_eq_true_eq]
  have k₃ : s₃.power.pinW = w ∧ s₃.power.clockMhz = windowClock m c limit s.power.lowWins := by
    unfold s₃
    split
    · exact k₂
    · exact k₂
  refine ⟨_, rfl, ?_⟩
  split
  · rw [powerDown_clock.1, powerDown_clock.2]
    exact k₃
  · exact k₃

end Sys2Proof.Machine

namespace Sys2Proof

open Machine

/-- Settles O55. -/
theorem powerRuns : Obligations.PowerRuns := by
  refine ⟨?_, ?_, ?_, ?_, ?_, ?_, ?_, ?_, ?_, ?_, ?_, ?_, ?_, ?_, ?_, ?_, ?_, ?_, ?_⟩
  · intro split addr s hs
    exact ⟨_, if_neg (not_not.mpr hs), rfl, rfl, rfl, rfl⟩
  · intro s b hs hpuf hn hp h2 h3
    have e : execBootStage1 true s = next (stage1 s) := by
      rw [execBootStage1, if_neg (not_not.mpr hs), if_pos (by rw [hpuf]; rfl)]
    exact ⟨_, e.trans (congrArg next (stage1_of_verified hn hp h2 h3)), rfl, rfl, rfl, rfl, rfl⟩
  · intro ok s hs hbad
    have e : execBootStage1 ok s = next (failAtOnce 3 true s) := by
      rw [execBootStage1, if_neg (not_not.mpr hs), if_neg (by rcases hbad with h | h <;> simp [h])]
    obtain ⟨hst, hmr, hrec, hpuf⟩ := failAtOnce_power 3 true s
    refine ⟨_, e, hst, hmr, hrec, fun h => ⟨?_, ?_⟩⟩
    · exact deviceReset_stage (by rw [begun_s_power, hst]; decide)
    · rw [deviceReset_pufLost, begun_s_power, hpuf]
      rfl
  · intro low r s hs hb h1 h2 h3 hq ha
    obtain ⟨harr, hpow⟩ := stage3_of_good (s := updPower (fun w => { w with pwrEn := true }) s) rfl hb h1 h2 h3 hq ha
    refine ⟨_, execPwrEnAssert_of_waiting hs, ?_⟩
    rw [hpow, harr]
    exact ⟨rfl, rfl, rfl, rfl⟩
  · intro s hs
    refine ⟨_, if_neg (not_not.mpr hs), rfl, rfl, rfl, ?_⟩
    have h1 := s.power.runSvn.isLt
    have h2 := (Map.getD s.power.counters 1 0).isLt
    have e : Map.getD (Map.insert s.power.counters 1
        (BitVec.ofNat 16 (max s.power.runSvn.toNat (Map.getD s.power.counters 1 0).toNat))) 1 0 = _ :=
      Map.getD_insert_self ..
    refine (congrArg BitVec.toNat e).trans ?_
    rw [BitVec.toNat_ofNat]
    omega
  · intro r s hst h4 h11
    have e : execStartFailure r s = next (failStart r.toNat s) := by
      unfold execStartFailure
      extract_lets n
      rw [if_neg (by simp [n, hst]; omega), if_neg (by unfold n; omega)]
    refine ⟨_, e, ?_⟩
    rw [failStart_power]
    exact ⟨rfl, by simp, rfl, rfl⟩
  · intro r s hst h1 h3
    have e : execStartFailure r s = next (failAtOnce r.toNat (r.toNat ≠ 2) s) := by
      unfold execStartFailure
      extract_lets n
      rw [if_neg (by simp [n, hst]; omega), if_pos (by unfold n; omega)]
    obtain ⟨hsm, hmr, -⟩ := failAtOnce_power r.toNat (r.toNat ≠ 2) s
    exact ⟨_, e, hsm, hmr.trans (by simp)⟩
  · intro s hs
    refine ⟨_, congrArg next (if_pos hs), ?_⟩
    rw [failStart_power]
    exact ⟨rfl, rfl⟩
  · intro s hs
    exact ⟨_, congrArg next (if_pos hs), deviceReset_stage (by rw [hs]; decide), rfl, rfl, rfl, rfl⟩
  · intro s hm
    have h := on_of_mainOn hm
    have e : execPwrEnDeassert s = next (updPower (fun w => { w with
        pwrEn := false, tripPin := false, rearmed := decide (w.stage = .poweredDown) }) (powerDown none s)) := by
      rw [execPwrEnDeassert, if_pos hm]
    refine ⟨_, e, ?_, rfl, rfl, ?_, powerDown_crash_none h⟩
    · show (powerDown none s).power.stage = _
      rw [powerDown_power h]
    · show decide ((powerDown none s).power.stage = .poweredDown) = true
      rw [powerDown_power h]
      rfl
  · intro r s hs hr h2 h14 h5
    have hm : mainOn s = true := by rw [mainOn, hs]
    have e : execRailFault r s = next (faultRail r.val s) := by
      rw [execRailFault, if_pos (by rw [hm, hr]; rfl)]
    have h : (updPower (fun w => { w with railFaults := w.railFaults ||| BitVec.ofNat 24 (2 ^ r.val) }) s).power.stage ≠
        .unpowered ∧ (updPower (fun w => { w with railFaults := w.railFaults ||| BitVec.ofNat 24 (2 ^ r.val) }) s).power.stage ≠
        .poweredDown := on_of_mainOn hm
    refine ⟨_, e.trans (congrArg next (faultRail_of_main hs h2 h14 h5)), ?_⟩
    rw [powerDown_power h, powerDown_crash_some h]
    exact ⟨rfl, rfl, rfl, rfl, rfl⟩
  · intro mv s hb hm
    have h : (setInput mv s).power.stage ≠ .unpowered ∧ (setInput mv s).power.stage ≠ .poweredDown := on_of_mainOn hm
    have e : execInputVoltageFault mv s = next (powerDown (some (0x12, none)) (setInput mv s)) := by
      rw [execInputVoltageFault, if_neg (by simp; omega)]
      exact congrArg next (if_pos hm)
    refine ⟨_, e, ?_⟩
    rw [powerDown_power h, powerDown_crash_some h]
    exact ⟨rfl, rfl⟩
  · intro mv s
    have k : ∃ t, execInputVoltageBand mv s = next t ∧ t.power = (setInput mv s).power := by
      refine ⟨_, rfl, ?_⟩
      split
      · rw [raiseAlert_power, (noteAll_announces ..).power]
      · rfl
    obtain ⟨t, e, hp⟩ := k
    refine ⟨t, e, ?_⟩
    rw [hp]
    exact ⟨rfl, rfl, rfl, rfl⟩
  · intro w s
    refine ⟨_, rfl, ?_⟩
    split
    · rw [setPowerClock_power, setPowerClock_mem]
      exact ⟨rfl, rfl⟩
    · exact ⟨rfl, rfl⟩
  · intro w s
    exact execPowerWindow_clock w s
  · intro sensor reading s hl hm
    have h := on_of_mainOn hm
    obtain ⟨u, e, hst, h1, h2⟩ := trip_of_on (n := some sensor.val) h.1
    have hu : u.power.stage ≠ .unpowered ∧ u.power.stage ≠ .poweredDown := by rwa [hst]
    refine ⟨_, congrArg next ((if_pos hl).trans e), ?_⟩
    rw [powerDown_power hu, powerDown_crash_some hu]
    exact ⟨rfl, h1, h2, rfl, rfl⟩
  · intro s hm
    have h := on_of_mainOn hm
    refine ⟨?_, ⟨_, rfl, ?_, powerDown_crash_none h⟩, congrArg next (if_neg h.1)⟩
    · obtain ⟨u, e, hst, -, h2⟩ := trip_of_on (n := none) h.1
      have hu : u.power.stage ≠ .unpowered ∧ u.power.stage ≠ .poweredDown := by rwa [hst]
      refine ⟨_, congrArg next e, ?_⟩
      rw [powerDown_power hu, powerDown_crash_some hu]
      exact ⟨rfl, h2, rfl⟩
    · rw [powerDown_power h]
  · intro core s hs
    have h : s.power.stage ≠ .unpowered := by rw [hs]; decide
    have hc (c : Nat) : starting (crash c core.val none s) = false := by
      rw [show starting (crash c core.val none s) = starting s from rfl, starting, hs]
      rfl
    have hcore : (BitVec.ofNat 8 core.val).toNat = core.val := by
      rw [BitVec.toNat_ofNat]
      omega
    refine ⟨⟨crash 2 core.val none s, ?_, rfl, hcore, rfl, rfl⟩,
      ⟨crash 1 core.val none s, congrArg next (if_neg h), rfl, hcore, rfl⟩⟩
    show execWardenWatchdog core s = _
    rw [execWardenWatchdog, if_neg h]
    exact congrArg next (if_neg (by rw [hc]; decide))
  · intro s
    refine ⟨_, rfl, rfl, rfl, rfl, afterReset_regions _, rfl, rfl, rfl, rfl, fun p => ?_⟩
    obtain ⟨x, c, e, ho⟩ := reset_part p
    have k : (deviceReset 4 (loseOverlay s)).part p = _ := deviceReset_part 4 (loseOverlay s) p
    show ((deviceReset 4 (loseOverlay s)).part p).tier.objects = []
    rw [k, e]
    exact ho

end Sys2Proof
end

section
/-!
Checkpoints: slices, seals, mirrors and commits (R539 to R546, R550 to R554, R593).

An image is put into its slot by writes of flash, which change no partition (`put_parts`), and stands there afterwards
(`image_put`).
-/
namespace Sys2Proof.Machine

variable {p q : Part} {s t u : State} {c : CkptSet} {slot : Nat} {g : Image} {f : Firing}

/-! ### An image in its slot (R538, R539) -/

theorem programSheet_parts {i : Nat} : (c.programSheet slot i s).parts = s.parts :=
  (writeManaged_steady ..).parts

theorem programSheet_images {i : Nat} : (c.programSheet slot i s).images = s.images := by
  show (writeManaged _ _ s).images = s.images
  rw [writeManaged_onStore.eq_graft]
  rfl

theorem programSheet_vesin {i : Nat} : (c.programSheet slot i s).vesin = s.vesin := by
  show (writeManaged _ _ s).vesin = s.vesin
  rw [writeManaged_onStore.eq_graft]
  rfl

theorem program_keeps (c : CkptSet) (slot i n : Nat) (s : State) : (c.program slot i n s).parts = s.parts ∧
    (c.program slot i n s).images = s.images ∧ (c.program slot i n s).vesin = s.vesin :=
  List.foldlRecOn (motive := fun t : State => t.parts = s.parts ∧ t.images = s.images ∧ t.vesin = s.vesin) _ _
    ⟨rfl, rfl, rfl⟩ fun _ ⟨h1, h2, h3⟩ _ _ =>
      ⟨programSheet_parts.trans h1, programSheet_images.trans h2, programSheet_vesin.trans h3⟩

/-- The image as a set's slot holds it. -/
def CkptSet.held (c : CkptSet) (g : Image) : Image := { g with capacity := c.capacity, peer := c.peer, atMirror := c.atMirror }

theorem put_eq (c : CkptSet) (slot : Nat) (g : Image) (s : State) : c.put slot g s =
    putMem (frameKey .managed (c.key / 2 ^ 48) (c.frame slot 0)) (c.held g).headerBytes
      (c.program slot 0 1 { s with images := Map.insert s.images (c.key + slot) (c.held g) }) := rfl

theorem putMem_keeps (k : Nat) (b : List Byte) (s : State) : (putMem k b s).parts = s.parts ∧
    (putMem k b s).images = s.images ∧ (putMem k b s).vesin = s.vesin := ⟨rfl, rfl, rfl⟩

theorem put_parts (c : CkptSet) (slot : Nat) (g : Image) (s : State) : (c.put slot g s).parts = s.parts := by
  rw [put_eq, (putMem_keeps ..).1, (program_keeps ..).1]

theorem put_vesin (c : CkptSet) (slot : Nat) (g : Image) (s : State) : (c.put slot g s).vesin = s.vesin := by
  rw [put_eq, (putMem_keeps ..).2.2, (program_keeps ..).2.2]

theorem put_images (c : CkptSet) (slot : Nat) (g : Image) (s : State) :
    (c.put slot g s).images = Map.insert s.images (c.key + slot) (c.held g) := by
  rw [put_eq, (putMem_keeps ..).2.1, (program_keeps ..).2.1]

theorem put_part (c : CkptSet) (slot : Nat) (g : Image) (s : State) (q : Part) : (c.put slot g s).part q = s.part q :=
  congrArg (fun x => Quad.get x q) (put_parts c slot g s)

theorem image_of_images (h : t.images = s.images) : c.image t slot = c.image s slot := by
  rw [CkptSet.image, CkptSet.image, h]

/-- A slot holds the image that was put there. -/
theorem image_put (c : CkptSet) (slot : Nat) (g : Image) (s : State) : c.image (c.put slot g s) slot = c.held g := by
  rw [CkptSet.image, put_images, Map.getD_insert_self]

theorem imgNote_only {event cause : Nat} {st : B16} : HostOnly p s (imgNote p event st c g cause s) := resNote_only

/-! ### Seals and commits (R543, R554) -/

/-- The image as it seals. -/
def Image.asSealed (g : Image) : Image := { g with state := .sealed }

theorem image_updRes (h : Res → Res) : c.image (s.updRes p h) slot = c.image s slot :=
  image_of_images (State.updRes_images _ _ h)

theorem sealImage_eq (p : Part) (c : CkptSet) (slot : Nat) (g : Image) (s : State) :
    sealImage p c slot g s = imgNote p 1 stOk c g.asSealed 0
      ((c.put slot g.asSealed s).updRes p fun r => { r with seals := satAdd r.seals 1 }) := rfl

theorem image_sealImage (p : Part) (c : CkptSet) (slot : Nat) (g : Image) (s : State) :
    c.image (sealImage p c slot g s) slot = c.held g.asSealed := by
  rw [sealImage_eq, image_of_images imgNote_only.images, image_updRes, image_put]

theorem sealImage_res (p : Part) (c : CkptSet) (slot : Nat) (g : Image) (s : State) :
    ((sealImage p c slot g s).part p).res = { (s.part p).res with seals := satAdd (s.part p).res.seals 1 } := by
  rw [sealImage_eq, imgNote_only.res, State.updRes_part, put_part]

theorem image_commitImage (p : Part) (c : CkptSet) (slot : Nat) (s : State) :
    c.image (commitImage p c slot s) slot = c.held { c.image s slot with committed := true } := by
  rw [commitImage]
  dsimp only
  rw [image_of_images imgNote_only.images, image_put]

/-- The set's own image seals; where its images go to no mirror, nothing is sent. -/
theorem sealStep_of_final {set : Nat} (hc : setOf s p set = some c) (hm : c.atMirror = false) (hp : c.peer = 63)
    (hw : c.writing s = some slot) (hf : (c.image s slot).final = true) (hs : (s.part p).res.snap = none) :
    sealStep p set s = sealImage p c slot { c.image s slot with sealDig := (c.image s slot).digest } s := by
  unfold sealStep
  rw [hc]
  dsimp only
  rw [hw]
  dsimp only
  rw [hs, if_neg (by simp [hm, hf]), if_neg (by simp [mirrored, hp]), if_neg (by simp [hp])]

theorem commitStep_of_own {rest : List Firing} (hq : (s.part p).cad.commitQ = f :: rest)
    (hu : u = takenFiring p f (s.updCad p fun x => { x with commitQ := rest }))
    (hc : setOf u p f.entry.object.toNat = some c) (hp : c.peer = 63)
    (hn : c.newest u (fun g => g.state = .sealed && !g.committed) = some slot) :
    commitStep p s = doneFiring p f (commitImage p c slot u) := by
  unfold commitStep
  rw [hq]
  dsimp only
  rw [← hu, hc]
  dsimp only
  rw [hn]
  dsimp only
  rw [if_pos hp]

theorem commitTimeout_of_waiting {set : Nat} {w : CommitWait}
    (hw : ((s.part p).res.commits.find? fun x => x.set = set) = some w)
    (hu : u = s.updRes p fun r => { r with commits := r.commits.erase w }) (hc : setOf u p w.set = some c) :
    commitTimeout p set s = doneFiring p w.firing (imgNote p 4 stBusy c (c.image u w.slot) 0 u) := by
  unfold commitTimeout
  rw [hw]
  dsimp only
  rw [← hu, hc]

/-! ### Slices (R540, R541, R546) -/

theorem addMove_parts {v : Move} : (addMove v s).parts = s.parts := rfl

theorem touchSheet_res {n : Nat} : ((touchSheet p s n).part q).res = (s.part q).res := by
  have tier (f : TierRegs → TierRegs) (t : State) : ((t.updTier p f).part q).res = (t.part q).res := by
    by_cases e : q = p
    · subst e; rw [State.updTier_part]
    · rw [State.updTier_part_of_ne _ _ e]
  have h₁ : ((noteLookup p s).part q).res = (s.part q).res := tier _ s
  have h₂ (x : Sheet) : ((countRead x (noteLookup p s)).part q).res = (s.part q).res :=
    (congrArg (fun y => (Quad.get y q).res) countRead_parts).trans h₁
  have hm (x : Sheet) : ((((countRead x (noteLookup p s)).updTier p fun t =>
      { t with fetchMiss := satAdd t.fetchMiss 1 }).part q).res) = (s.part q).res := (tier _ _).trans (h₂ x)
  unfold touchSheet
  dsimp only
  split
  · exact h₁
  · split
    · exact h₁
    · split
      · exact h₁
      · split
        · split
          · exact hm _
          · exact hm _
        · exact h₂ _

theorem touchRead_res {a n : Nat} : ((touchRead p a n s).part q).res = (s.part q).res :=
  List.foldlRecOn (motive := fun t : State => (t.part q).res = (s.part q).res) _ _ rfl fun _ k _ _ => touchSheet_res.trans k

theorem touchRead_vesin {a n : Nat} : (touchRead p a n s).vesin = s.vesin := by
  rw [touchRead_onStore.eq_graft]
  rfl

/-- Whether images go to a mirror depends on the folio and the positions removed. -/
theorem mirrored_congr (hv : t.vesin = s.vesin) (hr : ∀ q, (t.part q).res.removed = (s.part q).res.removed) :
    mirrored t p c = mirrored s p c := by
  have hf : t.folioPart = s.folioPart := by rw [State.folioPart, State.folioPart, hv]
  unfold mirrored isRemoved
  rw [hf, hv]
  simp only [hr]

theorem openFor_of_writing {step : Nat} (hw : c.writing s = some slot) (hs : (c.image s slot).step = step) :
    openFor p c step s = (slot, s) := by
  unfold openFor
  rw [hw]
  dsimp only
  rw [if_neg (not_not.mpr hs), hw]

/-- The slice of an object, as the image records it. -/
def sliceOf (p : Part) (f : Firing) (h : Nat) (o : Obj) (data : Map (List Byte)) (s : State) : SliceRec :=
  { slice := (sliceArg f.entry).slice, exportId := (exportId s p h).getD 0xFFFF, object := h, sheets := o.sheets
    policy := o.policy, root := hallmarkRoot (Map.values (data.map fun e => (e.1, hallmark e.2) : Map B256))
    data, marks := data.map fun e => (e.1, hallmark e.2) }

/-- The image with a slice more. -/
def Image.withSlice (g : Image) (x : SliceRec) (punch : List PunchRec) : Image :=
  { g with slices := g.slices ++ [x], punch := joinPunch g.punch punch }

/-- The slice goes into the image in its slot. -/
def storeSlice (p : Part) (c : CkptSet) (slot : Nat) (o : Obj) (g : Image) (s : State) : State :=
  (c.put slot g (c.program slot (c.image s slot).used o.sheets (touchRead p o.base (o.sheets * sheetBytes) s))).updRes p
    fun r => { r with slices := satAdd r.slices 1 }

theorem storeSlice_vesin (o : Obj) : (storeSlice p c slot o g s).vesin = s.vesin := by
  rw [storeSlice, State.updRes_vesin, put_vesin, (program_keeps ..).2.2, touchRead_vesin]

theorem storeSlice_removed (o : Obj) : ((storeSlice p c slot o g s).part q).res.removed = (s.part q).res.removed := by
  have k (t : State) (n m : Nat) : ((c.put slot g (c.program slot n m t)).part q).res = (t.part q).res := by
    rw [put_part, State.part, State.part, (program_keeps ..).1]
  unfold storeSlice
  by_cases e : q = p
  · subst e; rw [State.updRes_part, k, touchRead_res]
  · rw [State.updRes_part_of_ne _ _ e, k, touchRead_res]

/-- A slice that is not its image's last goes into the image, and to no mirror where there is none. -/
theorem captureSlice_of_unmirrored {h : Nat} {o : Obj} {data : Map (List Byte)} {punch : List PunchRec}
    (hm : mirrored s p c = false) (hf : (sliceArg f.entry).final = false) :
    captureSlice p c slot f h o data punch s =
      doneFiring p f (storeSlice p c slot o ((c.image s slot).withSlice (sliceOf p f h o data s) punch) s) := by
  have hm' (g : Image) : mirrored (storeSlice p c slot o g s) p c = false := by
    rw [mirrored_congr (storeSlice_vesin o) fun _ => storeSlice_removed o, hm]
  have e : captureSlice p c slot f h o data punch s = endSlice p c slot f
      (let t := storeSlice p c slot o ((c.image s slot).withSlice (sliceOf p f h o data s) punch) s
      if mirrored t p c then
        data.foldl (fun t e => engineSend ckptMaster c.peer
          (.fill 1 (sliceArg f.entry).slice (c.image s slot).imgNo e.1 (e.2 ++ digestBytes (hallmark e.2))) t) t
      else t) := rfl
  rw [e]
  dsimp only
  rw [if_neg (by rw [hm']; decide), endSlice, hf]
  rfl

theorem startSlice_of_object {o : Obj} (h0 : f.entry.object.toNat ≠ 0) (ho : s.obj? p f.entry.object.toNat = some o)
    (hw : c.writing s = some slot) (hs : (c.image s slot).step = posStep f.pos)
    (hn : ((c.image s slot).slices.any fun x => x.slice = (sliceArg f.entry).slice) = false)
    (hu : (c.image s slot).used + o.sheets ≤ c.capacity)
    (hc : checkMem s p ckptMaster .r o.base (o.sheets * sheetBytes) = .ok) (hst : (sliceArg f.entry).staged = false)
    (hsig : (sliceArg f.entry).sig = false) :
    startSlice p c f s = captureSlice p c slot f f.entry.object.toNat o
      (numbered ((List.range o.sheets).map (objSheet s o))) (punchOf s p o) s := by
  unfold startSlice
  extract_lets a h
  rw [if_neg (by simp [h, ho])]
  rw [openFor_of_writing hw hs]
  dsimp only
  rw [if_neg h0, show s.obj? p h = some o from ho]
  dsimp only
  rw [if_neg (by rw [hn]; decide), if_neg (by omega), if_neg (not_not.mpr hc), if_neg (by simp [a, hst]),
    if_neg (by simp [a, hst]), sliceSignal, if_neg (by simp [a, hsig])]

theorem checkpointStep_of_firing {rest : List Firing} (hs : (s.part p).res.snap = none)
    (hq : (s.part p).cad.ckptQ = f :: rest) (hu : u = takenFiring p f (s.updCad p fun x => { x with ckptQ := rest }))
    (hc : setOf u p (sliceArg f.entry).set = some c) (hm : c.atMirror = false) :
    checkpointStep p s = startSlice p c f u := by
  unfold checkpointStep
  rw [hs, hq]
  dsimp only
  rw [← hu, hc]
  dsimp only
  rw [if_neg (by rw [hm]; decide)]

/-! ### Mirrors (R552) -/

theorem mirrorSlot_of_writing {src img : Nat} (hw : c.writing s = some slot) (hi : (c.image s slot).imgNo = img)
    (hs : ∀ j, (c.image s j).imgNo = img → (c.image s j).state ≠ .sealed) :
    mirrorSlot c src img s = some (slot, s) := by
  have h (j : Nat) : ((c.image s j).imgNo = img && (c.image s j).state = .sealed : Bool) = false := by
    rw [Bool.and_eq_false_iff, decide_eq_false_iff_not, decide_eq_false_iff_not]
    exact Classical.or_iff_not_imp_left.mpr fun k => hs j (not_not.mp k)
  unfold mirrorSlot
  rw [if_neg (by simp [h])]
  rw [hw]
  dsimp only
  rw [if_neg (not_not.mpr hi), hw]

/-- A part of an image arrives at its mirror. -/
theorem onMirror_of_writing {v : Port} {src img : Nat} {data head : Bool} {f : Image → Image} {o : Obj}
    (hm : mirrorFor s p src = some c) (hw : c.writing s = some slot) (hi : (c.image s slot).imgNo = img)
    (hs : ∀ j, (c.image s j).imgNo = img → (c.image s j).state ≠ .sealed) (ho : s.obj? p c.handle = some o)
    (hl : (landing p v .w (c.slotAddr o slot (if data then 1 + (c.image s slot).heldSheets else 0)) s).1 = true) :
    onMirror v p src img data head f s =
      let t := c.put slot (f (c.image s slot))
        (if data then c.program slot (if data then 1 + (c.image s slot).heldSheets else 0) 1 s else s)
      if head then tryMirrorSeal p c slot t else t := by
  unfold onMirror
  rw [hm]
  dsimp only
  rw [ho, mirrorSlot_of_writing hw hi hs]
  dsimp only
  cases hd : landing p v .w (c.slotAddr o slot (if data = true then 1 + (c.image s slot).heldSheets else 0)) s with
  | mk b t =>
    rw [hd] at hl
    cases hl
    dsimp only

theorem tryMirrorSeal_of_part (hw : (c.image s slot).whole = false) : tryMirrorSeal p c slot s = s := by
  unfold tryMirrorSeal
  exact if_pos (by simp [hw])

/-- A mirror's image seals once it is whole; no answer is owed where none was asked. -/
theorem tryMirrorSeal_of_whole (hst : (c.image s slot).state = .writing) (hw : (c.image s slot).whole = true)
    (hd : (c.image s slot).sealDig = (c.image s slot).digest) (hf : (s.part p).res.deferred = []) :
    tryMirrorSeal p c slot s = sealImage p c slot (c.image s slot) s := by
  have hk : ((sealImage p c slot (c.image s slot) s).part p).res.deferred = [] := by
    rw [sealImage_res]
    exact hf
  unfold tryMirrorSeal
  dsimp only
  rw [if_neg (by simp [hst, hw, hd]), hk]
  rfl

theorem onCommitImg_of_sealed {src step img : Nat} (hm : mirrorFor s p src = some c)
    (hn : c.newest s (fun g => g.state = .sealed && g.imgNo = img && g.step = step) = some slot) :
    onCommitImg src step img p s = commitMirror p c slot src s := by
  unfold onCommitImg
  rw [hm]
  dsimp only
  rw [hn]

end Sys2Proof.Machine

namespace Sys2Proof

open Machine

/-- Settles O48. -/
theorem checkpointEventsRun : Obligations.CheckpointEventsRun := by
  refine ⟨?_, ?_, ?_, ?_, ?_, ?_, ?_, ?_, ?_⟩
  · intro p s f rest c o slot a h u data marks hs hq hc hm h0 ho hw hst hn hu hacc hmir hstg hfin hsig
    refine congrArg next ((checkpointStep_of_firing hs hq rfl hc hm).trans ?_)
    rw [startSlice_of_object h0 ho hw hst hn hu hacc hstg hsig, captureSlice_of_unmirrored hmir hfin, storeSlice,
      Image.withSlice, sliceOf]
    congr 1
  · intro p set s c slot hc hm hp hw hf hs
    exact congrArg next (sealStep_of_final hc hm hp hw hf hs)
  · intro p s c slot g t
    have hi : c.image t slot = c.held g.asSealed := image_sealImage p c slot g s
    refine ⟨by rw [hi]; rfl, by rw [hi]; rfl, by rw [hi]; rfl, ?_⟩
    show ((sealImage p c slot g s).part p).res.seals = _
    rw [sealImage_res]
  · intro p s f rest c slot u hq hc hp hn
    exact congrArg next (commitStep_of_own hq rfl hc hp hn)
  · intro p s c slot
    rw [image_commitImage]
    exact ⟨rfl, rfl⟩
  · intro p set s w c u hw hc
    exact congrArg next (commitTimeout_of_waiting hw rfl hc)
  · intro m slice img sheet data s c i o g k ha hm hw hi hs ho hl
    refine delivers_of_accepted ha rfl ?_
    rw [if_pos rfl]
    exact onMirror_of_writing (data := true) (head := false) hm hw hi hs ho hl
  · intro m img k data s c i o g ha hm hw hi hs ho hl t g'
    have e (head : Bool) := onMirror_of_writing (head := head) (data := false)
      (f := fun g => if k = 0 then g.withHeader data else if k = 1 then g.withDir data
        else { g with partRec := some (PartRecord.ofBytes data) }) hm hw hi hs ho hl
    refine ⟨fun hk => delivers_of_accepted ha rfl ?_, fun hk hst hwh hdig hdef => delivers_of_accepted ha rfl ?_⟩
    · refine (e _).trans ?_
      show (if decide (k = 0) = true then tryMirrorSeal s.vesin.fpart c i t else t) = t
      split
      · next h0 => exact tryMirrorSeal_of_part (hk (of_decide_eq_true h0))
      · rfl
    · refine (e _).trans ?_
      show (if decide (k = 0) = true then tryMirrorSeal s.vesin.fpart c i t else t) = _
      rw [if_pos (decide_eq_true hk)]
      refine tryMirrorSeal_of_whole hst hwh hdig ?_
      show ((c.put i g s).part s.vesin.fpart).res.deferred = []
      rw [put_part]
      exact hdef
  · intro m step img s c slot ha hm hn
    exact delivers_of_accepted ha rfl (onCommitImg_of_sealed hm hn)

end Sys2Proof
end

section
/-!
Comparisons of replicas (R559 to R569, R585).

What a comparison's end, a signal and a write of memory leave of the resilience registers is said once, by `KeepsCounts`: all
but the comparisons and the capture in progress. A comparison that is changed is found again as changed (`assayOf_updAssay`).
-/
namespace Sys2Proof.Machine

variable {p q : Part} {s t u : State} {a : Assay} {ident step : Nat} {f : Firing}

/-! ### What stays of the resilience registers -/

/-- `t` has each partition's resilience registers of `s`, but for comparisons and the capture in progress. -/
def KeepsCounts (s t : State) : Prop := ∀ q, ∃ l x n,
  (t.part q).res = { (s.part q).res with assays := l, snap := x, snapHolds := n }

namespace KeepsCounts

theorem of_res (h : ∀ q, (t.part q).res = (s.part q).res) : KeepsCounts s t := fun q => ⟨_, _, _, h q⟩

theorem of_parts (h : t.parts = s.parts) : KeepsCounts s t :=
  of_res fun q => congrArg (fun x => (Quad.get x q).res) h

theorem refl (s : State) : KeepsCounts s s := of_parts rfl

theorem trans (h : KeepsCounts s t) (k : KeepsCounts t u) : KeepsCounts s u := fun q => by
  obtain ⟨_, _, _, e⟩ := h q
  obtain ⟨_, _, _, e'⟩ := k q
  exact ⟨_, _, _, by rw [e', e]⟩

theorem foldl {α : Type} {g : State → α → State} (h : ∀ s a, KeepsCounts s (g s a)) (l : List α) :
    KeepsCounts s (l.foldl g s) :=
  List.foldlRecOn (motive := KeepsCounts s) l g (.refl s) fun t k a _ => k.trans (h t a)

theorem of_upd {g : PartState → PartState} (h : ∀ x, (g x).res = x.res) : KeepsCounts s (s.upd p g) := by
  refine of_res fun q => ?_
  by_cases e : q = p
  · subst e; rw [State.upd_part, h]
  · rw [State.upd_part_of_ne _ _ e]

theorem of_updRes {g : Res → Res} (h : ∀ r, ∃ l x n, g r = { r with assays := l, snap := x, snapHolds := n }) :
    KeepsCounts s (s.updRes p g) := fun q => by
  by_cases e : q = p
  · subst e; rw [State.updRes_part]; exact h _
  · rw [State.updRes_part_of_ne _ _ e]; exact ⟨_, _, _, rfl⟩

theorem repairs (h : KeepsCounts s t) : (t.part p).res.repairs = (s.part p).res.repairs := by
  obtain ⟨_, _, _, e⟩ := h p
  rw [e]

theorem assayLast (h : KeepsCounts s t) : (t.part p).res.assayLast = (s.part p).res.assayLast := by
  obtain ⟨_, _, _, e⟩ := h p
  rw [e]

end KeepsCounts

/-! ### Reads and writes of memory -/

theorem writeStriped_parts {r n o : Nat} {b : List Byte} : (writeStriped r n o b s).parts = s.parts := by
  unfold writeStriped
  dsimp only
  split
  · rfl
  · split
    · rfl
    · exact dueFold_parts

theorem writeFrame_parts {n r o k : Nat} {c : Tier} {b : List Byte} : (writeFrame p n c r o b s k).parts = s.parts := by
  unfold writeFrame
  dsimp only
  split
  · exact writeStriped_parts
  · exact (writeManaged_steady ..).parts
  · rfl

theorem updSheet_keepsCounts {h i : Nat} {g : Sheet → Sheet} : KeepsCounts s (updSheet p h i g s) := .of_upd fun _ => rfl

theorem dirtyMoves_keepsCounts {h i : Nat} : KeepsCounts s (dirtyMoves p h i s) := .of_parts rfl

theorem stageSheet_keepsCounts {h i : Nat} {x : Sheet} : KeepsCounts s (stageSheet p h i x s) := by
  unfold stageSheet
  split
  · exact .refl s
  · split
    · exact .of_updRes fun _ => ⟨_, _, _, rfl⟩
    · exact .refl s

theorem writeSheet_keepsCounts {h i n o : Nat} {x : Sheet} {b : List Byte} :
    KeepsCounts s (writeSheet p h i n o x b s) := by
  have k : KeepsCounts s (x.alive.foldl (writeFrame p n x.tier x.region o b) s) :=
    .foldl (fun _ _ => .of_parts writeFrame_parts) _
  unfold writeSheet
  dsimp only
  refine KeepsCounts.trans ?_ (updSheet_keepsCounts.trans dirtyMoves_keepsCounts)
  split
  · exact k.trans (.of_parts rfl)
  · exact k

theorem putStake_keepsCounts {k : Nat} {b : List Byte} : KeepsCounts s (putStake k b s) := by
  unfold putStake
  dsimp only
  refine KeepsCounts.trans (.of_parts rfl) (.foldl (fun _ _ => ?_) _)
  exact updSheet_keepsCounts.trans dirtyMoves_keepsCounts

theorem writeRun_keepsCounts {e : Nat × List Byte} : KeepsCounts s (writeRun p s e) := by
  unfold writeRun
  dsimp only
  split
  · exact putStake_keepsCounts
  · split
    · exact .refl s
    · split
      · exact .of_parts rfl
      · split
        · exact .refl s
        · split
          · exact .refl s
          · split
            · exact .of_parts rfl
            · have look : KeepsCounts s (noteLookup p s) := .of_upd fun _ => rfl
              exact look.trans (stageSheet_keepsCounts.trans writeSheet_keepsCounts)

theorem writeMem_keepsCounts {k : Nat} {b : List Byte} : KeepsCounts s (writeMem p k b s) :=
  .foldl (fun _ _ => writeRun_keepsCounts) _

theorem touchRead_keepsCounts {k n : Nat} : KeepsCounts s (touchRead p k n s) := .of_res fun _ => touchRead_res

theorem noteDenied_keepsCounts {m : Nat} {g : Right} {r : Acc} : KeepsCounts s (noteDenied p m g r s) := by
  unfold noteDenied
  split
  · exact .of_upd fun _ => rfl
  · exact .refl s

/-! ### Signals of the engines (R444, R445, R448) -/

/-- `t` is `s` but for interrupts, stitches and the partitions' registers of them. -/
def Rings (s t : State) : Prop := Announces s t ∧ KeepsCounts s t

theorem Rings.refl (s : State) : Rings s s := ⟨.refl s, .refl s⟩

theorem Rings.trans (h : Rings s t) (k : Rings t u) : Rings s u := ⟨h.1.trans k.1, h.2.trans k.2⟩

theorem Rings.of_upd {g : PartState → PartState} (hh : ∀ x, (g x).host = x.host) (ht : ∀ x, (g x).tier = x.tier)
    (hr : ∀ x, (g x).res = x.res) : Rings s (s.upd p g) := ⟨.of_upd (fun x => hh x ▸ .refl _) ht, .of_upd hr⟩

theorem putStitch_rings {g : Nat} {x : Stitch} : Rings s (putStitch g x s) := ⟨.of_putStitch, .of_parts rfl⟩

theorem grantHead_rings {r : StReq} : Rings s (grantHead r s) := .of_upd (fun _ => rfl) (fun _ => rfl) fun _ => rfl

theorem checkWaits_rings {g : Nat} : Rings s (checkWaits g s) :=
  putStitch_rings.trans (List.foldlRecOn (motive := Rings _) _ _ (.refl _) fun _ k _ _ => k.trans grantHead_rings)

theorem signalStitch_rings {g v : Nat} : Rings s (signalStitch g v s) := by
  unfold signalStitch
  extract_lets x past t u
  have k : Rings t u := by
    unfold u
    split
    · exact .of_upd (fun _ => rfl) (fun _ => rfl) fun _ => rfl
    · exact .refl t
  exact putStitch_rings.trans (k.trans checkWaits_rings)

theorem denyStitch_rings {m i : Nat} {op : StOp} {b : Option Nat} : Rings s (denyStitch p m op i b s) := by
  unfold denyStitch
  split
  · exact .of_upd (fun _ => rfl) (fun _ => rfl) fun _ => rfl
  · exact .refl s

theorem engineSignal_rings {m i : Nat} : Rings s (engineSignal p m i s).2 := by
  unfold engineSignal
  split
  · exact signalStitch_rings
  · exact denyStitch_rings

/-! ### A comparison, changed, ended and decided (R568, R569) -/

/-- A comparison that is changed is found as changed. -/
theorem assayOf_updAssay {g : Assay → Assay} (hi : ∀ x, (g x).ident = x.ident) (hs : ∀ x, (g x).step = x.step) :
    assayOf (updAssay p ident step g s) p ident step = (assayOf s p ident step).map g := by
  rw [assayOf, assayOf, updAssay, State.updRes_part]
  dsimp only
  generalize (s.part p).res.assays = l
  induction l with
  | nil => rfl
  | cons x l ih =>
    rw [List.map_cons, List.find?_cons, List.find?_cons]
    by_cases h : (x.ident = ident && x.step = step : Bool) = true
    · rw [if_pos h]
      simp only [hi, hs, h]
      rfl
    · rw [if_neg h, Bool.eq_false_iff.mpr h]
      exact ih

theorem updAssay_keepsCounts {g : Assay → Assay} : KeepsCounts s (updAssay p ident step g s) :=
  .of_updRes fun _ => ⟨_, _, _, rfl⟩

theorem replicaMembers_updAssay {g : Assay → Assay} :
    replicaMembers (updAssay p ident step g s) p a = replicaMembers s p a := by
  obtain ⟨_, _, _, e⟩ := updAssay_keepsCounts (s := s) (p := p) (ident := ident) (step := step) (g := g) p
  unfold replicaMembers
  rw [e]

theorem endAssay_rings : Rings s (endAssay p ident step s) := by
  have drop (g : Res → Res) (h : ∀ r, ∃ l x n, g r = { r with assays := l, snap := x, snapHolds := n }) :
      Rings s (s.updRes p g) := ⟨.of_upd (fun _ => .refl _) fun _ => rfl, .of_updRes h⟩
  have done (f : Firing) (t : State) : Rings t (doneFiring p f t) := .of_upd (fun _ => rfl) (fun _ => rfl) fun _ => rfl
  unfold endAssay
  split
  · exact .refl s
  · split
    · exact .refl s
    · extract_lets t u
      have hs : Rings s t := drop _ fun _ => ⟨_, _, _, rfl⟩
      have hu : Rings t u := by
        unfold u
        split
        · exact engineSignal_rings
        · exact .refl t
      exact hs.trans (hu.trans (done _ u))

theorem noteResult_of_ne {handle result block : Nat} (h : result ≠ 2) : noteResult p ident step handle result block s =
    s.updRes p fun r => { r with
      assayLast := place 64 48 ident ||| place 64 40 result ||| BitVec.ofNat 64 (step % 2 ^ 40) } := by
  unfold noteResult
  exact if_pos h

/-- A result other than DIVERGED stands in RES_ASSAY_LAST. -/
theorem decideAssay_of_undecided {result block : Nat} (ha : assayOf s p ident step = some a) (hr : a.result = none)
    (h : result ≠ 2) : ((decideAssay p ident step result block s).part p).res.assayLast =
      place 64 48 ident ||| place 64 40 result ||| BitVec.ofNat 64 (step % 2 ^ 40) ∧
      (decideAssay p ident step result block s).mem = s.mem := by
  unfold decideAssay
  rw [ha]
  dsimp only
  rw [if_neg (by simp [hr]), noteResult_of_ne h]
  refine ⟨?_, endAssay_rings.1.mem⟩
  rw [endAssay_rings.2.assayLast, State.updRes_part]

/-! ### A comparison begins (R562 to R564) -/

theorem engineSend_flash {m d : Nat} {body : MsgBody} (hb : body.counted = false) :
    (engineSend m d body s).flash = s.flash := by
  unfold engineSend
  split
  · rfl
  · exact (sendMsgAs_linkOnly hb).flash

theorem startAssay_of_other {h d : Nat} {o : Obj} {key : B256}
    (hr : checkMem s p assayMaster .r o.base (o.sheets * sheetBytes) = .ok)
    (hw : checkMem s p assayMaster .w (dtabOf f) (treeBytes (assayTree s o (assayH key (posStep f.pos) ident))).length = .ok)
    (ht : t = writeMem p (dtabOf f) (treeBytes (assayTree s o (assayH key (posStep f.pos) ident)))
      (touchRead p o.base (o.sheets * sheetBytes) s))
    (hd : (((List.range 40).filter fun d => Nat.testBit f.entry.arg.toNat (88 + d)).find?
      fun x => (t.part p).res.members.getLsbD x) = some d) (hn : d ≠ ownPos t) (he : (t.part p).res.earlyRoots = []) :
    ∃ a : Assay, a.step = posStep f.pos ∧ a.ident = ident ∧
      a.tree = assayTree s o (assayH key (posStep f.pos) ident) ∧ a.referee = false ∧
      a.replicas = ((List.range 40).filter fun d => Nat.testBit f.entry.arg.toNat (88 + d)) ∧
      startAssay p f h ident o key s = engineSend assayMaster d (digestMsg 1 0 a 0 0
        [treeRoot (assayTree s o (assayH key (posStep f.pos) ident))])
        (t.updRes p fun r => { r with assays := r.assays ++ [a] }) := by
  unfold startAssay
  dsimp only
  rw [if_neg (not_not.mpr hr), if_neg (not_not.mpr hw), ← ht, hd, he]
  dsimp only
  rw [if_neg hn]
  refine ⟨_, rfl, rfl, rfl, ?_, rfl, congrArg _ (updRes_congr ?_)⟩
  · exact decide_eq_false fun e => hn (Option.some.inj e)
  · simp only [he, List.filter_nil]

theorem assayStep_of_firing {rest : List Firing} {o : Obj} {key : B256} (hq : (s.part p).cad.assayQ = f :: rest)
    (hu : u = takenFiring p f (s.updCad p fun x => { x with assayQ := rest })) (hp : u.folioPart = some p)
    (hb : Nat.testBit f.entry.arg.toNat (88 + ownPos u) = true) (ho : u.obj? p f.entry.object.toNat = some o)
    (hi : exportId u p f.entry.object.toNat = some ident) (hk : u.power.assayKey = some key) :
    assayStep p s = startAssay p f f.entry.object.toNat ident o key u := by
  unfold assayStep
  rw [hq]
  dsimp only
  rw [← hu, if_neg (by simp [hp, hb]), ho, hi, hk]

/-! ### Messages of a comparison (R564 to R568) -/

theorem tryCompare_of_missing {d : Nat} (ha : assayOf s p ident step = some a) (hd : d ∈ replicaMembers s p a)
    (hn : Map.find? a.roots d = none) : tryCompare p ident step s = s := by
  have h : ((replicaMembers s p a).all fun d => (Map.find? a.roots d).isSome) = false :=
    List.all_eq_false.mpr ⟨d, hd, by simp [hn]⟩
  unfold tryCompare
  rw [ha]
  dsimp only
  rw [h, Bool.and_false]
  exact if_neg (by decide)

/-- A root is kept while another member's is awaited. -/
theorem onRoot_of_missing {src d : Nat} {root : B128} (ha : assayOf s p ident step = some a) (hr : a.referee = true)
    (hs : a.descending = false) (hc : a.replicas.contains src = true) (hd : d ∈ replicaMembers s p a) (hne : d ≠ src)
    (hn : Map.find? a.roots d = none) : onRoot src ident step root p s =
      updAssay p ident step (fun a => { a with roots := Map.insert a.roots src root }) s := by
  unfold onRoot
  rw [ha]
  dsimp only
  rw [if_pos (by rw [hr, hs, hc]; rfl)]
  refine tryCompare_of_missing (a := { a with roots := Map.insert a.roots src root }) (d := d) ?_ ?_ ?_
  · refine (assayOf_updAssay (fun _ => ?_) fun _ => ?_).trans (congrArg (Option.map _) ha)
    · rfl
    · rfl
  · rw [replicaMembers_updAssay]
    exact hd
  · rw [Map.find?_insert_of_ne hne, hn]

theorem onDigests_of_missing {src level node d : Nat} {ds : List B128} {x : Nat × Nat × Map (List B128)}
    (ha : assayOf s p ident step = some a) (hx : (a.queries.find? fun q => q.1 = level && q.2.1 = node) = some x)
    (hd : d ∈ Map.keys a.roots) (hne : d ≠ src) (hn : Map.find? x.2.2 d = none) :
    onDigests src ident step level node ds p s = updAssay p ident step (fun a => { a with
      queries := a.queries.map fun y =>
        if y.1 = level && y.2.1 = node then (x.1, x.2.1, Map.insert x.2.2 src ds) else y }) s := by
  have h : ((Map.keys a.roots).all fun d => (Map.find? (Map.insert x.2.2 src ds) d).isSome) = false :=
    List.all_eq_false.mpr ⟨d, hd, by simp [Map.find?_insert_of_ne hne, hn]⟩
  unfold onDigests
  rw [ha]
  dsimp only
  rw [hx]
  dsimp only
  rw [h]
  exact if_neg (by decide)

theorem assayExpired_of_one (ha : assayOf s p ident step = some a) (hr : a.referee = true) (hn : a.result = none)
    (hs : a.descending = false) (h1 : a.roots.length < 2) : assayExpired p ident step s =
      decideAssay p ident step 3 0 (sendResult p a 3 0 (updAssay p ident step (fun a => { a with descending := true }) s)) := by
  unfold assayExpired
  rw [ha]
  dsimp only
  rw [if_neg (by simp [hr, hn]), if_pos (by simp [hs]), compareRoots, ha]
  exact if_pos h1

/-! ### Repairs (R567, R585) -/

theorem redigest_keepsCounts : KeepsCounts s (redigest p a s) := by
  unfold redigest
  split
  · extract_lets t tree bytes u
    have k : KeepsCounts s u := touchRead_keepsCounts.trans updAssay_keepsCounts
    split
    · exact k.trans writeMem_keepsCounts
    · exact k.trans noteDenied_keepsCounts
  · exact .refl s

/-- A repaired sheet as its digest says is written, the object digested anew, and one repair counted. -/
theorem onRepair_of_good {v : Port} {src sheet : Nat} {data : List Byte} {o : Obj}
    (ha : ((s.part p).res.assays.find? fun a => a.ident = ident &&
      a.repairs.any fun r => r.1 = sheet && r.2.1 = src) = some a) (ho : s.obj? p a.handle = some o)
    (hl : landing p v .w (o.base + sheet * sheetBytes) s = (true, s)) :
    ∃ t w, onRepair v src ident sheet data (hallmark data) p s = t ∧ Rings w t ∧
      w.mem = (redigest p a (writeMem p (o.base + sheet * sheetBytes) data s)).mem ∧
      w.flash = (redigest p a (writeMem p (o.base + sheet * sheetBytes) data s)).flash ∧
      (w.part p).res.repairs = satAdd (s.part p).res.repairs 1 := by
  have hk : KeepsCounts s (redigest p a (writeMem p (o.base + sheet * sheetBytes) data s)) :=
    writeMem_keepsCounts.trans redigest_keepsCounts
  unfold onRepair
  extract_lets mine
  rw [show (s.part p).res.assays.find? mine = some a from ha]
  dsimp only
  rw [ho]
  dsimp only
  rw [if_pos rfl, hl]
  refine ⟨_, _, rfl, endAssay_rings, ?_, ?_, ?_⟩
  · exact resNote_only.mem
  · exact resNote_only.flash
  · rw [resNote_only.res, State.updRes_part]
    exact congrArg (satAdd · 1) ((updAssay_keepsCounts).repairs.trans hk.repairs)

end Sys2Proof.Machine

namespace Sys2Proof

open Machine

/-- Settles O49. -/
theorem assayEventsRun : Obligations.AssayEventsRun := by
  refine ⟨?_, ?_, ?_, ?_, ?_, ?_, ?_, ?_, ?_⟩
  · intro p s f rest o ident d key u h v step dtab tree bytes t replicas hq hp hb ho hi hk hr hw hd hn he hh
    obtain ⟨a, h1, h2, h3, h4, h5, hact⟩ := startAssay_of_other (h := h) (key := key) hr hw rfl hd hn he
    refine ⟨a, h1, h2, h3, h4, h5, congrArg next ?_⟩
    rw [assayStep_of_firing hq rfl hp hb ho hi hk, show startAssay p f f.entry.object.toNat ident o key u = _ from hact]
    exact settle_of_not_heldBack ((heldBack_congr (engineSend_flash rfl)).trans hh)
  · intro ident step p s a hp ha hr hn hs hk
    have h1 : a.roots.length < 2 := by
      have := congrArg List.length hk
      simp [Map.keys] at this
      omega
    refine congrArg next ?_
    rw [hp]
    exact assayExpired_of_one ha hr hn hs h1
  · intro ident step p s a hp ha hr hn _ _
    obtain ⟨hlast, hmem⟩ := decideAssay_of_undecided (block := 0) ha hn (show 3 ≠ 2 by decide)
    refine ⟨decideAssay p ident.toNat step.toNat 3 0 s, ?_, hlast.trans ?_, hmem⟩
    · refine congrArg next ?_
      rw [hp]
      dsimp only
      rw [ha]
      exact if_neg (by simp [hr])
    · rw [Nat.mod_eq_of_lt step.isLt, BitVec.ofNat_toNat]
  · intro m ident step root s a d p ha hx hr hs hc hd hne hn
    exact delivers_of_accepted ha rfl (onRoot_of_missing hx hr hs hc hd hne hn)
  · intro m ident step level node s a ha hx
    refine delivers_of_accepted ha rfl ?_
    rw [hx]
  · intro m ident step level node d ds s a q ha hx hq hd hne hn
    exact delivers_of_accepted ha rfl (onDigests_of_missing hx hq hd hne hn)
  · intro m ident step code node s a ha hx
    refine delivers_of_accepted ha rfl ?_
    rw [onAssayResult, hx]
  · intro m ident step sheet source s a ha hx
    refine delivers_of_accepted ha rfl ?_
    rw [hx]
    rfl
  · intro m ident sheet data s a o p ha hx ho hal hw hc u hh
    obtain ⟨t, w, hact, hr, hm, hf, hn⟩ := onRepair_of_good (data := data) hx ho (landing_of_ok hal hw hc)
    refine ⟨t, delivers_of_settled ha rfl hact ?_, hr.1.mem.trans hm, hr.2.repairs.trans hn⟩
    rw [heldBack_congr (hr.1.flash.trans hf)]
    exact hh

end Sys2Proof
end

section
/-!
Ports: training, retrains, replays, keys and flits (R490 to R506, R526 to R534, R669).

A port that is not OFF reads back as put (`updPort_port`). A flit sent changes of its port the bits of the codeword data alone
(`putFlit_port`), a LINK flit also the request that is repeated (`sendLink_port`); so each event's port is read off its
changes in order. The bits of a flit are its bytes again (`cutBits_flitBits`).
-/
namespace Sys2Proof.Machine

variable {p : Part} {s t u : State} {v : Port} {bytes b : List Byte}

/-! ### Bits and bytes of a flit (R490, R491) -/

theorem length_lowBits (n k : Nat) : (lowBits n k).length = n := by simp [lowBits]

theorem lowBits_succ (n k : Nat) : lowBits (n + 1) k = k.testBit 0 :: lowBits n (k / 2) := by
  rw [lowBits, List.range_succ_eq_map, List.map_cons, List.map_map, lowBits]
  refine congrArg _ (List.map_congr_left fun i _ => ?_)
  exact Nat.testBit_succ k i

/-- The lowest bits of a value give it back, as far as they reach. -/
theorem lowNat_lowBits (n k : Nat) : lowNat (lowBits n k) = k % 2 ^ n := by
  induction n generalizing k with
  | zero => simp [lowBits, lowNat, Nat.mod_one]
  | succ n ih =>
    rw [lowBits_succ, lowNat, List.foldr_cons, ← lowNat, ih, Nat.pow_succ', Nat.mod_mul, Nat.testBit_zero]
    have : k % 2 < 2 := Nat.mod_lt _ (by decide)
    by_cases h : k % 2 = 1
    · rw [h]; simp; omega
    · rw [show k % 2 = 0 by omega]; simp

theorem lowNat_byte (x : Byte) : lowNat (lowBits 8 x.toNat) = x.toNat := by
  rw [lowNat_lowBits, Nat.mod_eq_of_lt x.isLt]

theorem flitBits_cons (x : Byte) (l : List Byte) : flitBits (x :: l) = lowBits 8 x.toNat ++ flitBits l := rfl

theorem length_flitBits (l : List Byte) : (flitBits l).length = 8 * l.length := by
  induction l with
  | nil => rfl
  | cons x l ih => rw [flitBits_cons, List.length_append, length_lowBits, ih, List.length_cons]; omega

theorem cutBits_flitBits (l : List Byte) (rest : List Bool) :
    cutBits 8 l.length (flitBits l ++ rest) = l.map BitVec.toNat := by
  induction l with
  | nil => rfl
  | cons x l ih =>
    rw [flitBits_cons, List.append_assoc, List.length_cons, cutBits, List.take_left' (length_lowBits ..),
      List.drop_left' (length_lowBits ..), lowNat_byte, ih, List.map_cons]

/-- The first flit in the codeword data is read as the bytes it was made of. -/
theorem readFlit (h : bytes.length = 256) (rest : List Bool) :
    (cutBits 8 256 (flitBits bytes ++ rest)).map (BitVec.ofNat 8) = bytes := by
  rw [← h, cutBits_flitBits, List.map_map]
  exact (List.map_congr_left (g := id) fun x _ => (BitVec.ofNat_toNat 8 x).trans (BitVec.setWidth_eq x)).trans (List.map_id _)

/-! ### Flits sent (R490, R500) -/

/-- The bits of the codeword data that a flit leaves at its port. -/
def bitsAfter (q : VPort) (bytes : List Byte) : List Bool :=
  let bits := q.txBits ++ flitBits bytes
  if bits.length < fecBits then bits else bits.drop fecBits

theorem putFlit_port_eq :
    (putFlit v bytes s).vesin.port v = (updPort v (fun q => { q with txBits := bitsAfter q bytes }) s).vesin.port v := by
  unfold putFlit updPort bitsAfter
  dsimp only
  split
  · rfl
  · rfl

theorem putFlit_port (h : (s.vesin.port v).state ≠ .off) :
    (putFlit v bytes s).vesin.port v = { s.vesin.port v with txBits := bitsAfter (s.vesin.port v) bytes } :=
  putFlit_port_eq.trans (updPort_port h)

theorem putFlit_wire : (putFlit v bytes s).vesin.wire = s.vesin.wire ++ [(v.val, bytes)] := by
  unfold putFlit
  extract_lets
  split
  · rfl
  · rfl

theorem sendLink_port (h : (s.vesin.port v).state ≠ .off) :
    ∃ x, (sendLink v b s).vesin.port v = { s.vesin.port v with linkReq := some b, txBits := x } := by
  have e : (updPort v (fun q => { q with linkReq := some b }) s).vesin.port v = { s.vesin.port v with linkReq := some b } :=
    updPort_port h
  have k := putFlit_port (bytes := flitBytes (s.vesin.port v) (2 * 2 ^ 60) b) (h := by rw [e]; exact h)
  rw [e] at k
  exact ⟨_, k⟩

theorem sendLink_wire : (sendLink v b s).vesin.wire.length = s.vesin.wire.length + 1 := by
  rw [sendLink, putFlit_wire, List.length_append]
  rfl

/-- A port whose registers are canonical reads back as put. -/
theorem updPort_port_of_sorted {f : VPort → VPort} (h : Map.sorted s.vesin.ports = true) :
    (updPort v f s).vesin.port v = f (s.vesin.port v) := Map.getD_setD_self h

/-- A flit's bits follow those before it, and are sent with the codeword that they fill. -/
theorem putFlit_of_sorted (h : Map.sorted s.vesin.ports = true) :
    let bits := (s.vesin.port v).txBits ++ flitBits bytes
    (bits.length < 5140 → ((putFlit v bytes s).vesin.port v).txBits = bits ∧
      (putFlit v bytes s).vesin.coded = s.vesin.coded) ∧
    (5140 ≤ bits.length → ((putFlit v bytes s).vesin.port v).txBits = bits.drop 5140 ∧
      (putFlit v bytes s).vesin.coded = s.vesin.coded ++
        [(v.val, dealLanes (lanesUsed (s.vesin.port v).lanes).length (rsEncode (cutBits 10 514 bits)))]) := by
  have hp := congrArg VPort.txBits ((putFlit_port_eq (bytes := bytes)).trans (updPort_port_of_sorted h (v := v)))
  intro bits
  refine ⟨fun hb => ⟨hp.trans (if_pos hb), ?_⟩, fun hb => ⟨hp.trans (if_neg (Nat.not_lt.mpr hb)), ?_⟩⟩
  · unfold putFlit
    exact (congrArg (fun x : State => x.vesin.coded) (if_pos hb)).trans rfl
  · unfold putFlit
    exact (congrArg (fun x : State => x.vesin.coded) (if_neg (Nat.not_lt.mpr hb))).trans rfl

/-! ### A port leaves its session (R533) -/

theorem carried_congr (hc : (t.vesin.port v).carrying = (s.vesin.port v).carrying) (ha : t.vesin.awaiting = s.vesin.awaiting) :
    carried t v = carried s v := by
  rw [carried, carried, hc, ha]

theorem carried_updPort {f : VPort → VPort} (h : (f (s.vesin.port v)).state ≠ .off)
    (hc : (f (s.vesin.port v)).carrying = (s.vesin.port v).carrying) : carried (updPort v f s) v = carried s v :=
  carried_congr (by rw [updPort_port h, hc]) rfl

theorem linkNote_vesin {cause old new lanes : Nat} : (linkNote cause v old new lanes s).vesin = s.vesin :=
  (note_only ..).vesin

theorem closePort_port {st : PortSt} (hst : st ≠ .off) (hc : carried s v = []) :
    (closePort v st s).vesin.port v = (s.vesin.port v).closed st := by
  rw [closePort_of_none_carried hc, updPort_port hst]

theorem portDown_state (h1 : (s.vesin.port v).state ≠ .down) (h2 : (s.vesin.port v).state ≠ .off) (hc : carried s v = []) :
    ((portDown v s).vesin.port v).state = .down := by
  unfold portDown
  dsimp only
  rw [if_neg (by simp [h1, h2]), linkNote_vesin, closePort_port (by decide) ((carried_updPort h2 rfl).trans hc)]
  rfl

theorem isolate_port {reason : Nat} (hc : carried s v = []) : (isolate v reason s).vesin.port v =
    { (s.vesin.port v).closed .isolated with
      isoReason := BitVec.ofNat 4 reason, width := (s.vesin.port v).width, lanes := (s.vesin.port v).lanes
      peerPos := (s.vesin.port v).peerPos } := by
  have e := closePort_port (st := .isolated) (by decide) hc
  unfold isolate
  dsimp only
  rw [updPort_port (by rw [e]; exact show PortSt.isolated ≠ .off by decide), e]

theorem failLaser_port (h : (s.vesin.port v).state ≠ .off) (hc : carried s v = []) :
    ((failLaser v s).vesin.port v).state = .down ∧ ((failLaser v s).vesin.port v).laserFail = true := by
  unfold failLaser
  extract_lets q t
  have ht : (t.vesin.port v).laserFail = true := by unfold t; rw [updPort_port h]
  rw [linkNote_vesin, if_neg h, closePort_port (by decide) ((carried_updPort h rfl).trans hc)]
  exact ⟨rfl, ht⟩

/-! ### Full training (R526 to R528, R534) -/

theorem two_le_widthOf {m : Nat} (h : 2 ≤ popcount m) : 2 ≤ widthOf m := by
  unfold widthOf
  dsimp only
  split_ifs <;> omega

theorem widthOf_of_lt {m : Nat} (h : popcount m < 2) : widthOf m = 0 := by
  unfold widthOf
  dsimp only
  rw [if_neg (by omega), if_neg (by omega), if_neg (by omega), if_neg (by omega)]

/-- TRAIN does not end before the neighbour's HELLO. -/
theorem endTrain_of_no_hello (h : (s.vesin.port v).helloIn = false) : endTrain v s = s := by
  unfold endTrain
  exact if_pos (by simp [h])

theorem trainPort_of_lanes {good peer : Byte} (hst : (s.vesin.port v).state = .train)
    (hh : (s.vesin.port v).helloIn = false) (h2 : 2 ≤ popcount (good &&& peer).toNat)
    (hu : u = (updPort v (fun q => { q with
      width := widthOf (good &&& peer).toNat
      lanes := BitVec.ofNat 8 (lowLanes (good &&& peer).toNat (widthOf (good &&& peer).toNat)), good, peerGood := peer
      nonce := Config.nonce s.freeCtr, trained := true }) s).tick) :
    trainPort v good peer s = sendLink v (helloBody u v (Config.nonce s.freeCtr)) u := by
  have hw := two_le_widthOf h2
  have hp : u.vesin.port v = { s.vesin.port v with
      width := widthOf (good &&& peer).toNat
      lanes := BitVec.ofNat 8 (lowLanes (good &&& peer).toNat (widthOf (good &&& peer).toNat)), good, peerGood := peer
      nonce := Config.nonce s.freeCtr, trained := true } := by
    rw [hu]
    exact updPort_port (v := v) (s := s) (f := fun q => { q with
      width := widthOf (good &&& peer).toNat
      lanes := BitVec.ofNat 8 (lowLanes (good &&& peer).toNat (widthOf (good &&& peer).toNat)), good, peerGood := peer
      nonce := Config.nonce s.freeCtr, trained := true }) (show (s.vesin.port v).state ≠ .off by rw [hst]; decide)
  obtain ⟨x, hx⟩ := sendLink_port (s := u) (v := v) (b := helloBody u v (Config.nonce s.freeCtr)) (by rw [hp, hst]; decide)
  unfold trainPort
  dsimp only
  rw [if_neg (not_not.mpr hst), if_neg (by omega)]
  refine Eq.trans ?_ (endTrain_of_no_hello (by rw [hx, hp, hh]))
  rw [hu]
  rfl

theorem trainPort_state_of_few {good peer : Byte} (hst : (s.vesin.port v).state = .train)
    (h2 : popcount (good &&& peer).toNat < 2) (hc : carried s v = []) :
    ((trainPort v good peer s).vesin.port v).state = .down := by
  have ho : (s.vesin.port v).state ≠ .off := by rw [hst]; decide
  unfold trainPort
  dsimp only
  rw [if_neg (not_not.mpr hst), if_pos (widthOf_of_lt h2)]
  refine portDown_state ?_ ?_ ((carried_updPort ho rfl).trans hc)
  · rw [updPort_port (by exact ho), hst]; decide
  · rw [updPort_port (by exact ho), hst]; decide

/-- A port goes UP where no message waits for one. -/
theorem portUp_of_none_waiting (hw : s.vesin.waiting = []) : portUp v s =
    updVesin (fun x => { x with expired := x.expired.filter fun d => !(x.mask d).getLsbD v.val })
      (updPort v (fun q => { q with state := .up, isoReason := 0, linkReq := none, peerMask := none }) s) := by
  unfold portUp
  exact retryWaiting_of_none hw

theorem portUp_port (hw : s.vesin.waiting = []) : (portUp v s).vesin.port v =
    { s.vesin.port v with state := .up, isoReason := 0, linkReq := none, peerMask := none } := by
  rw [portUp_of_none_waiting hw]
  exact updPort_port (f := fun q => { q with state := .up, isoReason := 0, linkReq := none, peerMask := none })
    (show PortSt.up ≠ .off by decide)

/-- What the neighbour says of itself. -/
def greeted (v : Port) (serial : B64) (folio : B32) (pos : BitVec 6) (ident : Byte) (nonce : B128) (s : State) : State :=
  updPort v (fun q => { q with
    peerSerial := serial, peerFolio := folio, peerPos := pos, peerKeyId := ident, peerNonce := nonce, helloIn := true }) s

theorem greeted_port {serial : B64} {folio : B32} {pos : BitVec 6} {ident : Byte} {nonce : B128}
    (h : (s.vesin.port v).state ≠ .off) : (greeted v serial folio pos ident nonce s).vesin.port v = { s.vesin.port v with
      peerSerial := serial, peerFolio := folio, peerPos := pos, peerKeyId := ident, peerNonce := nonce, helloIn := true } :=
  updPort_port h

theorem isoReasonOf_of_accepted {key : B256} {x : VPort} (hx : s.vesin.port v = x) (hf : x.peerFolio = s.vesin.folioId)
    (hk : folioKey s x.peerKeyId = some key) (hp : x.peerPos ≠ s.vesin.myPos)
    (hm : x.peerPos.toNat < 40 → (s.vesin.mask x.peerPos.toNat).getLsbD v.val = true) : isoReasonOf s v = none := by
  unfold isoReasonOf
  rw [hx]
  dsimp only
  rw [if_neg (not_not.mpr hf), if_neg (by rw [hk]; exact Bool.false_ne_true), if_neg hp, if_neg]
  intro h
  simp only [Bool.and_eq_true, decide_eq_true_eq, Bool.not_eq_true'] at h
  rw [hm h.1] at h
  exact absurd h.2 (by decide)

theorem isoReasonOf_of_folio (hf : (s.vesin.port v).peerFolio ≠ s.vesin.folioId) : isoReasonOf s v = some 1 := if_pos hf

/-- The end of training with a neighbour that is accepted and no key to switch to. -/
theorem endTrain_of_accepted {key : B256} {x : VPort} (hx : s.vesin.port v = x) (hst : x.state = .train)
    (htr : x.trained = true) (hin : x.helloIn = true) (hi : isoReasonOf s v = none) (hk : folioKey s x.peerKeyId = some key)
    (hn : s.vesin.nextKey = none) (hw : s.vesin.waiting = []) :
    (endTrain v s).vesin.port v = { x with
      keyTx := some (portKey s x key x.peerKeyId x.peerNonce), keyRx := some (portKey s x key x.peerKeyId x.peerNonce)
      state := .up, isoReason := 0, linkReq := none, peerMask := none } := by
  have ho : (s.vesin.port v).state ≠ .off := by rw [hx, hst]; decide
  unfold endTrain
  extract_lets q k u
  have hu : u.vesin.port v = { x with
      keyTx := some (portKey s x key x.peerKeyId x.peerNonce), keyRx := some (portKey s x key x.peerKeyId x.peerNonce)
      state := .up, isoReason := 0, linkReq := none, peerMask := none } := by
    unfold u
    rw [portUp_port (by exact hw), updPort_port ho]
    unfold k q
    rw [hx, hk]
    rfl
  have hnu : u.vesin.nextKey = none := by
    unfold u
    rw [portUp_of_none_waiting (by exact hw)]
    exact hn
  rw [if_neg (by simp [q, hx, hst, htr, hin]), hi]
  dsimp only
  rw [hnu]
  exact hu

theorem endTrain_of_refused {reason : Nat} (hst : (s.vesin.port v).state = .train) (htr : (s.vesin.port v).trained = true)
    (hin : (s.vesin.port v).helloIn = true) (hi : isoReasonOf s v = some reason) : endTrain v s = isolate v reason s := by
  unfold endTrain
  dsimp only
  rw [if_neg (by simp [hst, htr, hin]), hi]

/-! ### Fast retrain (R496, R529 to R531) -/

theorem startRetrain_port (hu : (s.vesin.port v).state = .up) : (∃ x y, (startRetrain v s).vesin.port v =
      { s.vesin.port v with
        state := .retrain, retrains := satAdd (s.vesin.port v).retrains 1, linkReq := x, txBits := y }) ∧
    (startRetrain v s).vesin.wire.length = s.vesin.wire.length + 1 := by
  have e : (updPort v (fun q => { q with state := .retrain, retrains := satAdd q.retrains 1 }) s).vesin.port v =
      { s.vesin.port v with state := .retrain, retrains := satAdd (s.vesin.port v).retrains 1 } :=
    updPort_port (show PortSt.retrain ≠ .off by decide)
  unfold startRetrain
  dsimp only
  rw [if_neg (not_not.mpr hu)]
  refine ⟨?_, sendLink_wire⟩
  obtain ⟨x, hx⟩ := sendLink_port (v := v) (b := linkBody 2 [(10, [(s.vesin.port v).good])])
    (s := updPort v (fun q => { q with state := .retrain, retrains := satAdd q.retrains 1 }) s)
    (by rw [e]; exact show PortSt.retrain ≠ .off by decide)
  exact ⟨_, x, hx.trans (by rw [e])⟩

theorem execLinkFlitRepeat_of_request (hb : (s.vesin.port v).linkReq = some b) :
    execLinkFlitRepeat v s = next (sendLink v b s) := by
  unfold execLinkFlitRepeat
  rw [hb]

theorem pump_of_empty {n : Nat} (h : (s.vesin.port v).txQueue = []) : pump v n s = s := by
  cases n with
  | zero => rfl
  | succ n => exact if_pos (by simp [h])

theorem raiseAlert_vesin : (raiseAlert s).vesin = s.vesin := by
  obtain ⟨_, _, _, _, e⟩ := (raiseAlert_announces s).form
  rw [e]

/-- A port UP again on `w` lanes of a mask: both directions begin a new codeword. -/
def upOn (v : Port) (both w : Nat) (s : State) : State :=
  portUp v (updPort v (fun q => { q with
    width := w, lanes := BitVec.ofNat 8 (lowLanes both w), txBits := [], rxBits := [] }) s)

theorem upOn_port {both w : Nat} (ho : (s.vesin.port v).state ≠ .off) (hw : s.vesin.waiting = []) :
    (upOn v both w s).vesin.port v = { s.vesin.port v with
      width := w, lanes := BitVec.ofNat 8 (lowLanes both w), txBits := [], rxBits := []
      state := .up, isoReason := 0, linkReq := none, peerMask := none } := by
  unfold upOn
  rw [portUp_port (by exact hw), updPort_port (by exact ho)]

/-- A fast retrain ends on enough lanes, with no flit kept and none waiting to be sent: fewer lanes than before are reported. -/
theorem endRetrain_of_lanes {m : Byte} {both w : Nat} (hst : (s.vesin.port v).state = .retrain)
    (hm : (s.vesin.port v).peerMask = some m) (hr : (s.vesin.port v).retry = []) (hq : (s.vesin.port v).txQueue = [])
    (hwait : s.vesin.waiting = []) (hb : both = ((s.vesin.port v).good &&& m).toNat)
    (hw : w = min (widthOf both) (s.vesin.port v).width) (h0 : w ≠ 0) : endRetrain v s =
      if w < (s.vesin.port v).width then
        raiseAlert (linkNote 1 v (s.vesin.port v).width w (lowLanes both w) (upOn v both w s))
      else upOn v both w s := by
  have hp : (upOn v both w s).vesin.port v = _ := upOn_port (by rw [hst]; decide) hwait
  unfold endRetrain
  dsimp only
  rw [hst, hm]
  dsimp only
  rw [← hb, ← hw, if_neg h0, hr]
  dsimp only
  rw [← upOn, pump_of_empty (by rw [hp]; exact hq)]

theorem endRetrain_state_of_few {m : Byte} (hst : (s.vesin.port v).state = .retrain) (hm : (s.vesin.port v).peerMask = some m)
    (h2 : popcount ((s.vesin.port v).good &&& m).toNat < 2) (hc : carried s v = []) :
    ((endRetrain v s).vesin.port v).state = .down := by
  unfold endRetrain
  dsimp only
  rw [hst, hm]
  dsimp only
  rw [if_pos (by rw [widthOf_of_lt h2]; exact Nat.zero_min _)]
  exact portDown_state (by rw [hst]; decide) (by rw [hst]; decide) hc

/-! ### Key switch (R506) -/

theorem onRekey_of_rekeying {ident : Byte} {nonce : B128} {key : B256} (hst : (s.vesin.port v).state = .up)
    (hk : folioKey s ident = some key) (hn : nonce ≠ (s.vesin.port v).peerNonce) (hr : (s.vesin.port v).rekeying = true)
    {x : VPort} (hx : x = { s.vesin.port v with peerNonce := nonce }) :
    (onRekey v ident nonce s).vesin.port v = { x with
      keyTx := some (portKey s x key ident nonce), ksel := !x.ksel, txRun := 0, keyRx := some (portKey s x key ident nonce)
      keyPrev := if x.keyPrev.isSome then x.keyPrev else x.keyRx
      rekeying := false, rekeyed := true, linkReq := none } := by
  have e : (updPort v (fun q => { q with peerNonce := nonce }) s).vesin.port v = x := by
    rw [hx]
    exact updPort_port (by rw [hst]; decide)
  unfold onRekey
  dsimp only
  rw [hk]
  dsimp only
  rw [if_neg (not_not.mpr hst), if_neg hn, if_pos hr, e, switchKey, updPort_port (by rw [e, hx, hst]; decide), e]
  rfl

/-! ### Flits received (R490 to R493) -/

theorem rsDecode_snd (w : List Nat) : (rsDecode w).2 = (rsErrors w).map List.length := by
  unfold rsDecode
  cases rsErrors w with
  | none => rfl
  | some es => rfl

theorem satAdd_bit {n : Nat} (c : BitVec n) (b : Bool) : satAdd c (bit b) = if b = true then satAdd c 1 else c := by
  cases b with
  | false => simp [satAdd, bit, c.isLt]
  | true => rfl

theorem hearWord_eq (w : List (List Nat)) : hearWord v s w = updPort v (fun q => { q with
      rxBits := q.rxBits ++ (rsDecode (gatherLanes w)).1.flatMap (lowBits 10)
      fecCorr := satAdd q.fecCorr ((rsDecode (gatherLanes w)).2.getD 0)
      fecUncorr := if rsErrors (gatherLanes w) = none then satAdd q.fecUncorr 1 else q.fecUncorr })
      (updVesin (fun x => { x with
        unsampled := if rsErrors (gatherLanes w) = none then satAdd x.unsampled 1 else x.unsampled }) s) := by
  have e : ((rsDecode (gatherLanes w)).2.isNone = true) = (rsErrors (gatherLanes w) = none) := by
    rw [rsDecode_snd, Option.isNone_map, Option.isNone_iff_eq_none]
  unfold hearWord
  simp only [satAdd_bit, e]

theorem hearWord_state {w : List (List Nat)} (h : Map.sorted s.vesin.ports = true) :
    ((hearWord v s w).vesin.port v).state = (s.vesin.port v).state := by
  obtain ⟨f, g, e, hf, hg⟩ : ∃ f g, hearWord v s w = updPort v f (updVesin g s) ∧ (∀ q, (f q).state = q.state) ∧
      ∀ x, (g x).ports = x.ports := ⟨_, _, hearWord_eq w, fun _ => rfl, fun _ => rfl⟩
  have hs : Map.sorted (updVesin g s).vesin.ports = true := by rw [updVesin, hg, h]
  rw [e, updPort_port_of_sorted hs, hf, Vesin.port, Vesin.port, updVesin, hg]

/-- A port that is training or trained hears. -/
theorem execFlit_of_up {ws : List (List (List Nat))} {n : Nat} (h : (s.vesin.port v).state = .up) :
    execFlit v ws n s = next (nextFlit v n (ws.foldl (hearWord v) s)) := by
  unfold execFlit
  rw [h]
  rfl

theorem execFlit_of_train {ws : List (List (List Nat))} {n : Nat} (h : (s.vesin.port v).state = .train) :
    execFlit v ws n s = next (nextFlit v n (ws.foldl (hearWord v) s)) := by
  unfold execFlit
  rw [h]
  rfl

/-- A whole flit in the codeword data is taken. -/
theorem nextFlit_of_flit {rest : List Bool} {n : Nat} (hl : bytes.length = 256)
    (hb : (s.vesin.port v).rxBits = flitBits bytes ++ rest)
    (hu : u = updPort v (fun q => { q with rxBits := rest }) s) : nextFlit v n s = takeFlit v bytes n u := by
  have hlen : (flitBits bytes).length = 2048 := by rw [length_flitBits, hl]
  have hdrop : updPort v (fun q => { q with rxBits := q.rxBits.drop 2048 }) s = u := by
    rw [hu, updPort, updPort, hb, List.drop_left' hlen]
  unfold nextFlit
  dsimp only
  rw [hdrop, hb, if_neg (by rw [List.length_append, hlen]; omega), readFlit hl]

theorem takeFlit_of_link {n : Nat} (hst : (s.vesin.port v).state = .train) (hl : bytes.length = 256)
    (hc : crc32c (bytes.take 252) = BitVec.ofNat 32 (leNat (bytes.drop 252)))
    (hk : field (leNat (bytes.take 8)) 63 60 = 2) :
    takeFlit v bytes n s = deliverInstr (linkInstr v ((bytes.drop 8).take 244)) s := by
  unfold takeFlit
  dsimp only
  rw [hst, if_neg (by decide), if_neg (by simp [hl, hc]), hk]
  rfl

theorem takeFlit_of_data {n : Nat} (hst : (s.vesin.port v).state = .up) (hl : bytes.length = 256)
    (hc : crc32c (bytes.take 252) = BitVec.ofNat 32 (leNat (bytes.drop 252)))
    (hk : field (leNat (bytes.take 8)) 63 60 = 1) :
    takeFlit v bytes n s = idleAfter v (takeAck v (leNat (bytes.take 8)) s)
      (takeData v bytes n (takeAck v (leNat (bytes.take 8)) s)) := by
  unfold takeFlit
  dsimp only
  rw [hst, if_neg (by decide), if_neg (by simp [hl, hc]), hk]
  simp only [decide_true, Bool.true_or, if_true]

theorem takeFlit_of_bad_crc {n : Nat} (hst : (s.vesin.port v).state = .up)
    (hc : crc32c (bytes.take 252) ≠ BitVec.ofNat 32 (leNat (bytes.drop 252))) : takeFlit v bytes n s = askReplay v s := by
  unfold takeFlit
  dsimp only
  rw [hst, if_neg (by decide), if_pos (by simp [hc])]
  rfl

end Sys2Proof.Machine

namespace Sys2Proof

open Machine

/-- Settles O52. -/
theorem portsRun : Obligations.PortsRun := by
  refine ⟨?_, ?_, ?_, ?_, ?_, ?_, ?_, ?_, ?_, ?_, ?_, ?_, ?_, ?_, ?_⟩
  · intro v lanes s hst
    exact ⟨fun h => congrArg next (if_pos (by simp [hst, h])), fun h => congrArg next (if_neg (by simp [hst]; omega))⟩
  · intro v good peer s both n u hst hh
    exact ⟨fun h2 => congrArg next (trainPort_of_lanes hst hh h2 rfl),
      fun h2 hc => ⟨_, rfl, trainPort_state_of_few hst h2 hc⟩⟩
  · intro v serial folio pos far ident nonce s key q hst htr hw hn
    have ho : (s.vesin.port v).state ≠ .off := fun e => PortSt.noConfusion (hst.symm.trans e)
    have he : execHello v serial folio pos far ident nonce s = next (endTrain v (greeted v serial folio pos ident nonce s)) :=
      if_neg (not_not.mpr hst)
    have hp := greeted_port (serial := serial) (folio := folio) (pos := pos) (ident := ident) (nonce := nonce) ho
    refine ⟨fun ⟨hf, hk, hpos, hmask⟩ => ⟨_, he, ?_⟩, fun hf hc => ⟨_, he, ?_⟩⟩
    · rw [endTrain_of_accepted hp hst htr rfl (isoReasonOf_of_accepted hp hf hk hpos hmask) hk hn hw]
      exact ⟨rfl, rfl, rfl, rfl⟩
    · rw [endTrain_of_refused (by rw [hp]; exact hst) (by rw [hp]; exact htr) (by rw [hp])
        (isoReasonOf_of_folio (by rw [hp]; exact hf)), isolate_port
        ((carried_congr (t := greeted v serial folio pos ident nonce s) (s := s) (by rw [hp]) rfl).trans hc)]
      exact ⟨rfl, rfl, rfl⟩
  · intro v seq s hu
    exact congrArg next (if_pos hu)
  · intro v mask s hu
    have ho : (s.vesin.port v).state ≠ .off := fun e => PortSt.noConfusion (hu.symm.trans e)
    have hp : (updPort v (fun q => { q with peerMask := some mask, peerGood := mask }) s).vesin.port v =
        { s.vesin.port v with peerMask := some mask, peerGood := mask } := updPort_port ho
    obtain ⟨⟨x, y, hr⟩, hwire⟩ := startRetrain_port (by rw [hp]; exact hu)
    refine ⟨_, if_neg (by simp [hu]), ?_, ?_, ?_, hwire⟩
    · rw [hr]
    · rw [hr, hp]
    · rw [hr, hp]
  · intro v ident nonce s key q hst hk hn hr
    have e := onRekey_of_rekeying hst hk hn hr rfl
    refine ⟨_, rfl, ?_, ?_, ?_, ?_, ?_⟩
    · rw [e]
    · rw [e]
    · rw [e]; rfl
    · rw [e]
    · rw [e]
  · intro v b s hb
    exact execLinkFlitRepeat_of_request hb
  · intro v s hu ⟨f, hf, h3⟩
    obtain ⟨⟨x, y, hr⟩, _⟩ := startRetrain_port hu
    have hany : ((s.vesin.port v).retry.any fun f => decide (f.2.2 ≥ 3)) = true :=
      List.any_eq_true.mpr ⟨f, hf, decide_eq_true h3⟩
    refine ⟨_, congrArg next (if_pos hany), ?_, ?_⟩
    · rw [hr]
    · rw [hr]
  · intro v lane s hu hl
    have ho : (s.vesin.port v).state ≠ .off := fun e => PortSt.noConfusion (hu.symm.trans e)
    have hp : (updPort v (fun q => { q with good := q.good &&& ~~~(1#8 <<< lane.val) }) s).vesin.port v =
        { s.vesin.port v with good := (s.vesin.port v).good &&& ~~~(1#8 <<< lane.val) } := updPort_port ho
    obtain ⟨⟨x, y, hr⟩, _⟩ := startRetrain_port (by rw [hp]; exact hu)
    refine ⟨_, (if_neg (by simp [hu, hl])).trans (if_pos hu), ?_, ?_⟩
    · rw [hr]
    · rw [hr, hp]
  · intro v m s q both hst hm hr hq hw
    refine ⟨fun h2 hwd => ⟨_, rfl, ?_⟩, fun h2 hc => ⟨_, rfl, endRetrain_state_of_few hst hm h2 hc⟩⟩
    have hwo : 2 ≤ min (widthOf both) (s.vesin.port v).width := le_min (two_le_widthOf h2) hwd
    have ho : (s.vesin.port v).state ≠ .off := fun e => PortSt.noConfusion (hst.symm.trans e)
    rw [endRetrain_of_lanes hst hm hr hq hw rfl rfl (Nat.ne_of_gt (Nat.lt_of_lt_of_le Nat.zero_lt_two hwo))]
    split
    · rw [raiseAlert_vesin, linkNote_vesin, upOn_port ho hw, raiseAlert_alertN]
      exact ⟨rfl, rfl, .inl rfl⟩
    · next hle =>
      rw [upOn_port ho hw]
      exact ⟨rfl, rfl, .inr ((Nat.le_of_not_lt hle).trans (min_le_left ..))⟩
  · intro v s hd he
    exact ⟨fun hl => congrArg next (if_pos (by simp [hd, hl]; exact he)), fun hl => congrArg next (if_neg (by simp [hl]))⟩
  · intro v s ho hc
    exact ⟨_, rfl, failLaser_port ho hc⟩
  · intro v bytes rest n s u hsort hl hb
    have hport : u.vesin.port v = { s.vesin.port v with rxBits := rest } := updPort_port_of_sorted hsort
    have hp : (u.vesin.port v).state = (s.vesin.port v).state := by rw [hport]
    have htake := nextFlit_of_flit (n := n) hl hb (u := u) rfl
    have hup (hs : (s.vesin.port v).state = .up) : exec (.flit v [] n) s = next (takeFlit v bytes n u) :=
      (execFlit_of_up hs).trans (congrArg next htake)
    refine ⟨fun hc => ⟨fun hs hk => ?_, fun hs hk => ?_⟩, fun hs hc => ?_⟩
    · refine (execFlit_of_train hs).trans (congrArg next ?_)
      rw [List.foldl_nil, htake, takeFlit_of_link (hp.trans hs) hl hc hk]
    · rw [hup hs, takeFlit_of_data (hp.trans hs) hl hc hk]
    · rw [hup hs, takeFlit_of_bad_crc (hp.trans hs) hc]
  · intro v w ws n s u hsort hu
    have hw : hearWord v s w = u := hearWord_eq w
    have hp : (u.vesin.port v).state = .up := by rw [← hw, hearWord_state hsort, hu]
    refine (execFlit_of_up hu).trans (Eq.trans ?_ (execFlit_of_up hp).symm)
    rw [List.foldl_cons, hw]
  · intro v bytes s hsort bits t
    exact ⟨putFlit_wire, putFlit_of_sorted hsort⟩

end Sys2Proof
end
